-- ==== Sys2Proof/Word.lean ====
section
/-! DEFINITION. The word types of the H40 and their plainest arithmetic (R2, R3). -/
namespace Sys2Proof

/-- A byte of memory. -/
abbrev Byte := BitVec 8
/-- A 16-bit half word. -/
abbrev Half := BitVec 16
/-- A 32-bit register or instruction word. -/
abbrev Word := BitVec 32
/-- A 64-bit value: an address, a seed, a register pair (R3). -/
abbrev DWord := BitVec 64
/-- A mask over the fibres of a gang: bit i stands for the fibre with FIX = i (R87). -/
abbrev Mask := BitVec 64

/-- A pair Vn:Vn+1 or Sn:Sn+1 is little-endian: the low register holds bits [31:0] (R3). -/
def pairOf (lo hi : Word) : DWord := hi ++ lo
/-- The low word of a pair (R3). -/
def loWord (x : DWord) : Word := x.setWidth 32
/-- The high word of a pair (R3). -/
def hiWord (x : DWord) : Word := (x >>> 32).setWidth 32

end Sys2Proof
end

