-- ==== Sys2Proof/Config.lean ====
section
/-! DEFINITION. What an implementation fixes and what the manual leaves open (free values): opaque constants, so
nothing can be proved of their values. -/
namespace Sys2Proof.Config

/-- The slot of a compute die that is disabled by fuses at manufacture (R7): any slot; the model reads it modulo 21. -/
opaque fusedSlotRaw : Nat → Nat

/-- What a tile element holds that nothing has written since the tile's allocation, the `n`-th of the device: what
the last holder left (R191, R264). Arguments: allocation serial number, element number. -/
opaque tileJunk : Nat → Nat → Word

/-- Whether firmware can migrate the host-owned page with this physical address to the device (R181). -/
opaque canMigrate : Nat → Bool

/-- The values that the management interface reports for power (W) and per-die temperatures (R332), by report number. -/
opaque sensorPower : Nat → Nat
opaque sensorTemp : Nat → Nat → Nat

/-- The location word that LOCQ gives on the management core, which has no core number (R22, R319). -/
opaque mgmtLoc : Word

/-- What a STREAM writes into an element of format RAW for an accumulator: the manual states no value (R283). -/
opaque rawElem : Word → Word

end Sys2Proof.Config
end

