-- ==== Sys2Proof/Machine/Arith.lean ====
section
/-! DEFINITION. Number formats and exact arithmetic (R24 to R54): decoding and rounding of every element format, the
floating-point operations as exact values rounded once, the matrix window, pmix, and the order of F32 patterns. -/
namespace Sys2Proof.Machine

/-- STAT bits SAT, INV, DZ, BRK, COVF, from bit 0 (R386). -/
abbrev Flags := BitVec 5
def fSAT : Flags := 1
def fINV : Flags := 2
def fDZ : Flags := 4
def fBRK : Flags := 8
def fCOVF : Flags := 16
/-- A flag under a condition. -/
def flagIf (c : Bool) (f : Flags) : Flags := if c then f else 0

/-- A floating-point format: exponent bits, mantissa bits, bias, and whether it has infinities (R26). -/
structure Fmt where
  ebits : Nat
  mbits : Nat
  bias : Int
  hasInf : Bool
  deriving DecidableEq, Repr

def f32 : Fmt := ⟨8, 23, 127, true⟩
def f16 : Fmt := ⟨5, 10, 15, true⟩
def bf16 : Fmt := ⟨8, 7, 127, true⟩
def f8a : Fmt := ⟨4, 3, 8, false⟩
def f8b : Fmt := ⟨5, 2, 16, true⟩

/-- The width of a format in bits. -/
def Fmt.width (f : Fmt) : Nat := 1 + f.ebits + f.mbits

/-- An exact value or a special one: nan carries whether an undefined operation made it (R36); val neg num den e is
(-1)^neg * num / den * 2^e with num and den positive. -/
inductive Ex where
  | nan (inv : Bool)
  | inf (neg : Bool)
  | zero (neg : Bool)
  | val (neg : Bool) (num den : Nat) (e : Int)
  deriving DecidableEq, Repr

/-- decode(fmt, bits) of R27; e of a finite value is the weight of its last mantissa place. -/
def Fmt.decode (f : Fmt) (b : Nat) : Ex :=
  let m := b % 2 ^ f.mbits
  let x := b / 2 ^ f.mbits % 2 ^ f.ebits
  let s := b / 2 ^ (f.mbits + f.ebits) % 2 == 1
  if x = 0 then
    if m = 0 then .zero s else .val s m 1 (1 - f.bias - f.mbits)
  else if x = 2 ^ f.ebits - 1 ∧ f.hasInf then
    if m = 0 then .inf s else .nan false
  else if x = 2 ^ f.ebits - 1 ∧ m = 2 ^ f.mbits - 1 then .nan false
  else .val s (2 ^ f.mbits + m) 1 ((x : Int) - f.bias - f.mbits)

/-- The canonical NaN of a format (R36). -/
def Fmt.nanBits (f : Fmt) : Nat :=
  if f.hasInf then (2 ^ f.ebits - 1) * 2 ^ f.mbits + 2 ^ (f.mbits - 1) else 2 ^ (f.ebits + f.mbits) - 1

/-- Sign bit of a pattern of the format. -/
def Fmt.sgn (f : Fmt) (neg : Bool) : Nat := if neg then 2 ^ (f.ebits + f.mbits) else 0

/-- The largest finite magnitude of a format as a pattern (R27). -/
def Fmt.maxBits (f : Fmt) : Nat :=
  if f.hasInf then (2 ^ f.ebits - 1) * 2 ^ f.mbits - 1 else 2 ^ (f.ebits + f.mbits) - 2

/-- Infinity as a pattern. -/
def Fmt.infBits (f : Fmt) : Nat := (2 ^ f.ebits - 1) * 2 ^ f.mbits

/-- The rounding modes of R30. -/
inductive RMode where
  | rn | rz | ru | rd | rs | rna
  deriving DecidableEq, Repr

/-- The mode a rounding code names (R30); 6 and 7 are refused before. -/
def rmode (n : Nat) : RMode :=
  if n = 1 then .rz else if n = 2 then .ru else if n = 3 then .rd else if n = 4 then .rs else if n = 5 then .rna else .rn

/-- Whether a magnitude n + r / d rounds up (R31, R32); dp is the count of discarded places. -/
def roundUp (mode : RMode) (neg : Bool) (n r d dp : Nat) (draw : Word) : Bool :=
  match mode with
  | .rz => false
  | .ru => r != 0 && !neg
  | .rd => r != 0 && neg
  | .rn => decide (2 * r > d) || (decide (2 * r = d) && n % 2 == 1)
  | .rna => decide (2 * r ≥ d)
  | .rs =>
    let w := min dp 32
    decide (r * 2 ^ w / d + draw.toNat % 2 ^ w ≥ 2 ^ w)

/-- floor(log2(num / den)). -/
def log2Q (num den : Nat) : Int :=
  let l : Int := (num.log2 : Int) - (den.log2 : Int)
  let below := if l ≥ 0 then num < den * 2 ^ l.toNat else num * 2 ^ (-l).toNat < den
  if below then l - 1 else l

/-- num / den * 2^e divided by 2^k, as a numerator and a denominator. -/
def scaleQ (num den : Nat) (e k : Int) : Nat × Nat :=
  if e ≥ k then (num * 2 ^ (e - k).toNat, den) else (num, den * 2 ^ (k - e).toNat)

/-- The places that rounding discards: 32 for an arithmetic result and in an engine (R259), or counted from the source's
last place (R32). -/
inductive Places where
  | arith
  | conv

/-- The count d of R32, where n places would be discarded. -/
def Places.count (pl : Places) (n : Int) : Nat := match pl with | .arith => 32 | .conv => n.toNat

/-- round(x, fmt, mode, draw) of a finite non-zero value (R31): the rounded significand and the weight of its place. -/
def Fmt.round (f : Fmt) (mode : RMode) (pl : Places) (draw : Word) (neg : Bool) (num den : Nat) (e : Int) : Nat × Int :=
  let k := max (log2Q num den + e - f.mbits) (1 - f.bias - f.mbits)
  let (a, d) := scaleQ num den e k
  let dp := pl.count (k - e)
  let n := a / d
  let n := if roundUp mode neg n (a % d) d dp draw then n + 1 else n
  if n = 2 ^ (f.mbits + 1) then (2 ^ f.mbits, k + 1) else (n, k)

/-- The pattern of a rounded magnitude n * 2^k, without sign; none when it exceeds the format's largest value. -/
def Fmt.pack (f : Fmt) (n : Nat) (k : Int) : Option Nat :=
  let b : Nat := if n < 2 ^ f.mbits then n else (k + f.mbits + f.bias).toNat * 2 ^ f.mbits + (n - 2 ^ f.mbits)
  if b > f.maxBits then none else some b

/-- An arithmetic overflow's result, without sign (R34). -/
def Fmt.overflow (f : Fmt) (mode : RMode) (neg : Bool) : Nat :=
  match mode with
  | .rn | .rna => f.infBits
  | .rz | .rs => f.maxBits
  | .ru => if neg then f.maxBits else f.infBits
  | .rd => if neg then f.infBits else f.maxBits

/-- An arithmetic result rounded into a format (R31, R34, R36). -/
def Fmt.arith (f : Fmt) (mode : RMode) (draw : Word) : Ex → Nat × Flags
  | .nan i => (f.nanBits, flagIf i fINV)
  | .inf s => (f.sgn s + f.infBits, 0)
  | .zero s => (f.sgn s, 0)
  | .val s n d e =>
    let (m, k) := f.round mode .arith draw s n d e
    (f.sgn s + (f.pack m k).getD (f.overflow mode s), 0)

/-- A narrowing conversion into a float format (R31, R35). -/
def Fmt.narrow (f : Fmt) (mode : RMode) (pl : Places) (draw : Word) : Ex → Nat × Flags
  | .nan i => (f.nanBits, flagIf i fINV)
  | .inf s => if f.hasInf then (f.sgn s + f.infBits, 0) else (f.sgn s + f.maxBits, fSAT)
  | .zero s => (f.sgn s, 0)
  | .val s n d e =>
    let (m, k) := f.round mode pl draw s n d e
    match f.pack m k with
    | some b => (f.sgn s + b, 0)
    | none => (f.sgn s + f.maxBits, fSAT)

/-- A finite value rounded to an integer (R31, with q = 1). -/
def roundInt (mode : RMode) (pl : Places) (draw : Word) (neg : Bool) (num den : Nat) (e : Int) : Int :=
  let (a, d) := scaleQ num den e 0
  let n := a / d
  let n := if roundUp mode neg n (a % d) d (pl.count (-e)) draw then n + 1 else n
  if neg then -(n : Int) else n

/-- Clamp to a range, with SAT when it clamps (R35). -/
def clampInt (lo hi x : Int) : Int × Flags :=
  if x < lo then (lo, fSAT) else if x > hi then (hi, fSAT) else (x, 0)

/-- A conversion to an integer format of the given range (R35). -/
def Ex.toInt (lo hi : Int) (mode : RMode) (pl : Places) (draw : Word) : Ex → Int × Flags
  | .nan _ => (0, fINV)
  | .inf s => (if s then lo else hi, fSAT)
  | .zero _ => (0, 0)
  | .val s n d e => clampInt lo hi (roundInt mode pl draw s n d e)

/-- An integer as an exact value; its last place is 1 (R32). -/
def Ex.ofInt (x : Int) : Ex := if x = 0 then .zero false else .val (x < 0) x.natAbs 1 0

def Ex.neg : Ex → Ex
  | .nan i => .nan i
  | .inf s => .inf (!s)
  | .zero s => .zero (!s)
  | .val s n d e => .val (!s) n d e

def Ex.abs : Ex → Ex
  | .nan i => .nan i
  | .inf _ => .inf false
  | .zero _ => .zero false
  | .val _ n d e => .val false n d e

def Ex.isNan : Ex → Bool
  | .nan _ => true
  | _ => false

/-- The sign of a value. -/
def Ex.sign : Ex → Bool
  | .nan _ => false
  | .inf s => s
  | .zero s => s
  | .val s _ _ _ => s

/-- A signed numerator at exponent e over denominator d. -/
def signedAt (s : Bool) (n : Nat) (sh : Nat) : Int := if s then -((n * 2 ^ sh : Nat) : Int) else ((n * 2 ^ sh : Nat) : Int)

/-- The exact sum (R36, R37); rd tells that the mode is RD, which makes an exact zero negative. -/
def Ex.add (rd : Bool) : Ex → Ex → Ex
  | .nan i, .nan j => .nan (i || j)
  | .nan i, _ => .nan i
  | _, .nan j => .nan j
  | .inf s, .inf t => if s = t then .inf s else .nan true
  | .inf s, _ => .inf s
  | _, .inf t => .inf t
  | .zero s, .zero t => if s = t then .zero s else .zero rd
  | .zero _, y => y
  | x, .zero _ => x
  | .val s n d e, .val t m c g =>
    let k := min e g
    let z := signedAt s (n * c) (e - k).toNat + signedAt t (m * d) (g - k).toNat
    if z = 0 then .zero rd else .val (z < 0) z.natAbs (d * c) k

/-- The exact product (R36, R37). -/
def Ex.mul : Ex → Ex → Ex
  | .nan i, .nan j => .nan (i || j)
  | .nan i, _ => .nan i
  | _, .nan j => .nan j
  | .inf _, .zero _ => .nan true
  | .zero _, .inf _ => .nan true
  | .inf s, y => .inf (s != y.sign)
  | x, .inf t => .inf (x.sign != t)
  | .zero s, y => .zero (s != y.sign)
  | x, .zero t => .zero (x.sign != t)
  | .val s n d e, .val t m c g => .val (s != t) (n * m) (d * c) (e + g)

/-- The exact quotient with its DZ flag (R36, R37, R126). -/
def Ex.div : Ex → Ex → Ex × Flags
  | .nan i, _ => (.nan i, 0)
  | _, .nan j => (.nan j, 0)
  | .inf _, .inf _ => (.nan true, 0)
  | .zero _, .zero _ => (.nan true, 0)
  | .inf s, y => (.inf (s != y.sign), 0)
  | x, .inf t => (.zero (x.sign != t), 0)
  | .zero s, y => (.zero (s != y.sign), 0)
  | x, .zero t => (.inf (x.sign != t), fDZ)
  | .val s n d e, .val t m c g => (.val (s != t) (n * c) (d * m) (e - g), 0)

/-- Integer square root by the bits of the result, from bit k down. -/
def isqrtGo (n : Nat) : Nat → Nat → Nat
  | 0, r => r
  | k + 1, r =>
    let t := r + 2 ^ k
    isqrtGo n k (if t * t ≤ n then t else r)

/-- floor(sqrt n). -/
def isqrt (n : Nat) : Nat := isqrtGo n (n.log2 / 2 + 1) 0

/-- The square root (R133): exact, or with a last place that only says that more follows, 64 places below the
significand, so that every mode of R31 and R32 rounds it as the exact root. -/
def Ex.sqrt : Ex → Ex
  | .nan i => .nan i
  | .zero s => .zero s
  | .inf s => if s then .nan true else .inf false
  | .val true _ _ _ => .nan true
  | .val false n d e =>
    let (n, e) := if e % 2 = 0 then (n, e) else (2 * n, e - 1)
    let a := n * d * 2 ^ 128
    let r := isqrt a
    let r := if r * r = a then 2 * r else 2 * r + 1
    .val false r (2 * d) (e / 2 - 64)

/-- The order of two values that are not NaN, with -0 below +0 when z is set: x < y. -/
def Ex.lt (z : Bool) : Ex → Ex → Bool
  | .nan _, _ => false
  | _, .nan _ => false
  | .inf s, .inf t => s && !t
  | .inf s, _ => s
  | _, .inf t => !t
  | .zero s, .zero t => z && s && !t
  | .zero _, .val t _ _ _ => !t
  | .val s _ _ _, .zero _ => s
  | .val s n d e, .val t m c g =>
    let k := min e g
    decide (signedAt s (n * c) (e - k).toNat < signedAt t (m * d) (g - k).toNat)

/-- Equality of two values that are not NaN, -0 equal to +0. -/
def Ex.eq (x y : Ex) : Bool := !x.isNan && !y.isNan && !x.lt false y && !y.lt false x

/-- Decode an F32 pattern. -/
def dec32 (a : Word) : Ex := f32.decode a.toNat
/-- The canonical F32 NaN (R36). -/
def nan32 : Word := 0x7FC00000
/-- A value as an F32 arithmetic result. -/
def enc32 (mode : RMode) (draw : Word) (x : Ex) : Word × Flags :=
  let (b, fl) := f32.arith mode draw x
  (BitVec.ofNat 32 b, fl)

/-- FADD, FSUB, FMUL and FDIV of the format as patterns (R126, R127). -/
def Fmt.fadd (f : Fmt) (mode : RMode) (draw : Word) (a b : Nat) : Nat × Flags :=
  f.arith mode draw ((f.decode a).add (mode = .rd) (f.decode b))
def Fmt.fsub (f : Fmt) (mode : RMode) (draw : Word) (a b : Nat) : Nat × Flags :=
  f.arith mode draw ((f.decode a).add (mode = .rd) (f.decode b).neg)
def Fmt.fmul (f : Fmt) (mode : RMode) (draw : Word) (a b : Nat) : Nat × Flags :=
  f.arith mode draw ((f.decode a).mul (f.decode b))
def Fmt.fdiv (f : Fmt) (mode : RMode) (draw : Word) (a b : Nat) : Nat × Flags :=
  let (q, dz) := (f.decode a).div (f.decode b)
  let (r, fl) := f.arith mode draw q
  (r, fl ||| dz)
/-- The least or greatest of two patterns (R38). -/
def Fmt.fminmax (f : Fmt) (mx : Bool) (a b : Nat) : Nat :=
  let x := f.decode a
  let y := f.decode b
  if x.isNan then (if y.isNan then f.nanBits else b)
  else if y.isNan then a
  else if (if mx then x.lt true y else y.lt true x) then b else a

/-- The F32 forms on words, rounding RN: what RDX, SCAN, ATOM, reducers and the fixed sequences use. -/
def fadd32 (a b : Word) : Word × Flags := let r := f32.fadd .rn 0 a.toNat b.toNat; (BitVec.ofNat 32 r.1, r.2)
def fmin32 (a b : Word) : Word := BitVec.ofNat 32 (f32.fminmax false a.toNat b.toNat)
def fmax32 (a b : Word) : Word := BitVec.ofNat 32 (f32.fminmax true a.toNat b.toNat)
def fsub32 (a b : Word) : Word := BitVec.ofNat 32 (f32.fsub .rn 0 a.toNat b.toNat).1
def fmul32 (a b : Word) : Word := BitVec.ofNat 32 (f32.fmul .rn 0 a.toNat b.toNat).1
def fdiv32 (a b : Word) : Word := BitVec.ofNat 32 (f32.fdiv .rn 0 a.toNat b.toNat).1
/-- fma(x, y, z) of R137. -/
def fma32 (x y z : Word) : Word := (enc32 .rn 0 (((dec32 x).mul (dec32 y)).add false (dec32 z))).1
/-- ldexp(x, n) of R137. -/
def ldexp32 (x : Word) (n : Int) : Word :=
  match dec32 x with
  | .val s m d e => (enc32 .rn 0 (.val s m d (e + n))).1
  | .nan _ => nan32
  | _ => x
def neg32 (x : Word) : Word := x ^^^ 0x80000000
def abs32 (x : Word) : Word := x &&& 0x7FFFFFFF

/-- Round an F32 to an integral value in a mode (R134). -/
def frnd32 (mode : RMode) (a : Word) : Word :=
  match dec32 a with
  | .nan _ => nan32
  | .val s n d e =>
    let i := roundInt mode .conv 0 s n d e
    if i = 0 then BitVec.ofNat 32 (f32.sgn s) else (enc32 .rn 0 (.ofInt i)).1
  | _ => a

/-- The integer value of an F32 that is integral. -/
def intOf32 (a : Word) : Int :=
  match dec32 a with
  | .val s n d e => roundInt .rz .conv 0 s n d e
  | _ => 0

/-- split(x) of R137 for a finite non-zero x: m with 1 <= m < 2 as an F32 pattern with the sign of x, and e. -/
def split32 (x : Word) : Word × Int :=
  match dec32 x with
  | .val s n _ e =>
    let l := n.log2
    ((enc32 .rn 0 (.val s n 1 (-(l : Int)))).1, e + l)
  | _ => (x, 0)

/-- tkey(b) of R39. -/
def tkey (b : Word) : Word := if b.msb then ~~~b else b ^^^ 0x80000000

/-- Copy the sign of a onto d. -/
def withSign (d a : Word) : Word := (d &&& 0x7FFFFFFF) ||| (a &&& 0x80000000)

/-- FRCP (R138, R144). -/
def frcp32 (a : Word) : Word × Flags :=
  match dec32 a with
  | .nan _ => (nan32, 0)
  | .inf s => (BitVec.ofNat 32 (f32.sgn s), 0)
  | .zero s => (BitVec.ofNat 32 (f32.sgn s + f32.infBits), fDZ)
  | .val _ _ _ _ =>
    let (m, e) := split32 (abs32 a)
    let y := fma32 0xBEF0F0F1 m 0x3FB4B4B5
    let it := fun (y : Word) => fma32 y (fma32 (neg32 m) y 0x3F800000) y
    (withSign (ldexp32 (it (it (it y))) (-e)) a, 0)

/-- FRSQ (R139, R144). -/
def frsq32 (a : Word) : Word × Flags :=
  match dec32 a with
  | .nan _ => (nan32, 0)
  | .inf s => if s then (nan32, fINV) else (0, 0)
  | .zero _ => (if a.msb then 0xFF800000 else 0x7F800000, fDZ)
  | .val s _ _ _ =>
    if s then (nan32, fINV)
    else
      let (m, e) := split32 a
      let (m, e) := if e % 2 = 0 then (m, e) else (ldexp32 m 1, e - 1)
      let h := fmul32 0x3F000000 m
      let y := fma32 0xBE2AAAAB m 0x3F8D0000
      let it := fun (y : Word) => fma32 y (fma32 (neg32 h) (fmul32 y y) 0x3F000000) y
      (ldexp32 (it (it (it (it y)))) (-(e / 2)), 0)

/-- A polynomial by fused steps: fold of fma(p, x, c). -/
def poly32 (x p : Word) (cs : List Word) : Word := cs.foldl (fun p c => fma32 p x c) p

/-- The FEX2 sequence (R140). -/
def fex2Seq (a : Word) : Word :=
  let n := frnd32 .rn a
  let f := fsub32 a n
  let p := poly32 f 0x37FFE49B [0x39218489, 0x3AAEC3FF, 0x3C1D955C, 0x3D63584A, 0x3E75FDF0, 0x3F317218, 0x3F800000]
  ldexp32 p (intOf32 n)

/-- FEX2 (R140, R144). -/
def fex232 (a : Word) : Word × Flags :=
  match dec32 a with
  | .nan _ => (nan32, 0)
  | .inf s => (if s then 0 else 0x7F800000, 0)
  | .zero _ => (fex2Seq a, 0)
  | .val s n d e =>
    if (Ex.val s n d e).lt false (.val true 160 1 0) then (0, 0)
    else if (Ex.val s n d e).lt false (.val false 128 1 0) then (fex2Seq a, 0)
    else (0x7F800000, 0)

/-- FLG2 (R141, R144). -/
def flg232 (a : Word) : Word × Flags :=
  match dec32 a with
  | .nan _ => (nan32, 0)
  | .inf s => if s then (nan32, fINV) else (0x7F800000, 0)
  | .zero _ => (0xFF800000, fDZ)
  | .val s _ _ _ =>
    if s then (nan32, fINV)
    else
      let (m, e) := split32 a
      let (m, e) := if 0x3FB504F3 < m.toNat then (fmul32 m 0x3F000000, e + 1) else (m, e)
      let s := fdiv32 (fsub32 m 0x3F800000) (fadd32 m 0x3F800000).1
      let z := fmul32 s s
      let q := fmul32 (poly32 z 0x3EA4258A [0x3ED30BB2, 0x3F13BB63, 0x3F76384F, 0x4038AA3B]) s
      (if e = 0 then q else (fadd32 (enc32 .rn 0 (.ofInt e)).1 q).1, 0)

/-- FSIN and FCOS of pi times a (R142). -/
def sincosSeq (cos : Bool) (a : Word) : Word :=
  let big := decide (0x4B000000 ≤ (abs32 a).toNat)
  let n : Int := if big then 2 * intOf32 a else intOf32 (frnd32 .rn (fmul32 a 0x40000000))
  let w : Word := if big then 0 else fma32 (frnd32 .rn (fmul32 a 0x40000000)) 0xBF000000 a
  let q : Int := (if cos then n + 1 else n) % 4
  let z := fmul32 w w
  let p := if q % 2 = 0 then
      fmul32 (poly32 z 0x3DA83C1A [0xBF196967, 0x402335E3, 0xC0A55DE7, 0x40490FDB]) w
    else poly32 z 0xBCD368F4 [0x3E70FA83, 0xBFAAE9E4, 0x4081E0F8, 0xC09DE9E6, 0x3F800000]
  if abs32 p = 0 then 0 else if q ≥ 2 then neg32 p else p

/-- FSIN (R142, R144). -/
def fsin32 (a : Word) : Word × Flags :=
  match dec32 a with
  | .nan _ => (nan32, 0)
  | .inf _ => (nan32, fINV)
  | .zero _ => (a, 0)
  | .val _ _ _ _ => (sincosSeq false a, 0)

/-- FCOS (R142, R144). -/
def fcos32 (a : Word) : Word × Flags :=
  match dec32 a with
  | .nan _ => (nan32, 0)
  | .inf _ => (nan32, fINV)
  | _ => (sincosSeq true a, 0)

/-- FTANH (R143, R144). -/
def ftanh32 (a : Word) : Word × Flags :=
  match dec32 a with
  | .nan _ => (nan32, 0)
  | .inf s => (if s then 0xBF800000 else 0x3F800000, 0)
  | .zero _ => (a, 0)
  | .val s n d e =>
    if !(Ex.val false n d e).lt false (.val false 10 1 0) then (if s then 0xBF800000 else 0x3F800000, 0)
    else if (abs32 a).toNat < 0x3E800000 then
      let z := fmul32 a a
      let p := poly32 z 0xBC11371B [0x3CB327A4, 0xBD5D0DD1, 0x3E088889, 0xBEAAAAAB]
      (fma32 a (fmul32 z p) a, 0)
    else
      let u := fex2Seq (fmul32 (abs32 a) 0x4038AA3B)
      let t := fdiv32 0x40000000 (fadd32 u 0x3F800000).1
      (withSign (fsub32 0x3F800000 t) a, 0)

/-- FSQRT (R133). -/
def fsqrt32 (mode : RMode) (draw : Word) (a : Word) : Word × Flags := enc32 mode draw (dec32 a).sqrt

/-- FCLASS (R135). -/
def fclass32 (a : Word) : Word :=
  match dec32 a with
  | .nan _ => if a.getLsbD 22 then 0x200 else 0x100
  | .inf s => if s then 0x1 else 0x80
  | .zero s => if s then 0x8 else 0x10
  | .val s n _ _ => if n < 2 ^ 23 then (if s then 0x4 else 0x20) else (if s then 0x2 else 0x40)

/-- The width in bits of an element format code (R24); 0 for codes that are no element format. -/
def elemBits (code : Nat) : Nat :=
  match code with
  | 0 => 8 | 1 => 32 | 2 => 16 | 3 => 16 | 4 => 8 | 5 => 8 | 6 => 32 | 7 => 32 | 8 => 16 | 9 => 16
  | 10 => 8 | 11 => 8 | 12 => 2 | 13 => 4 | _ => 0

/-- The float format a code names, if it names one (R24). -/
def floatFmt (code : Nat) : Option Fmt :=
  match code with
  | 1 => some f32 | 2 => some f16 | 3 => some bf16 | 4 => some f8a | 5 => some f8b | _ => none

/-- A w-bit two's complement number. -/
def sInt (w x : Nat) : Int := if 2 * (x % 2 ^ w) ≥ 2 ^ w then ((x % 2 ^ w : Nat) : Int) - ((2 ^ w : Nat) : Int) else ((x % 2 ^ w : Nat) : Int)

/-- The value of a T2 code: 0b10 reads as 0 and sets INV (R28). -/
def t2Val (x : Nat) : Int × Flags :=
  match x % 4 with | 0 => (0, 0) | 1 => (1, 0) | 3 => (-1, 0) | _ => (0, fINV)

/-- The low 32 bits of an integer. -/
def wordOfInt (x : Int) : Word := BitVec.ofInt 32 x

/-- A typed decode, widened exactly (R29); RAW widens as unsigned. -/
def widen (code x : Nat) : Word × Flags :=
  match code with
  | 1 => (BitVec.ofNat 32 x, 0)
  | 2 => enc32 .rn 0 (f16.decode x)
  | 3 => enc32 .rn 0 (bf16.decode x)
  | 4 => enc32 .rn 0 (f8a.decode x)
  | 5 => enc32 .rn 0 (f8b.decode x)
  | 6 => (BitVec.ofNat 32 x, 0)
  | 8 => (wordOfInt (sInt 16 x), 0)
  | 10 => (wordOfInt (sInt 8 x), 0)
  | 12 => let (v, fl) := t2Val x; (wordOfInt v, fl)
  | 13 => (wordOfInt (sInt 4 x), 0)
  | _ => (BitVec.ofNat 32 (x % 2 ^ elemBits code), 0)

/-- The element a typed store writes from a register (R183). -/
def storeElem (code : Nat) (d : Word) : Nat × Flags :=
  match code with
  | 1 => (d.toNat, 0)
  | 2 => f16.narrow .rn .conv 0 (dec32 d)
  | 3 => bf16.narrow .rn .conv 0 (dec32 d)
  | 4 => f8a.narrow .rn .conv 0 (dec32 d)
  | 5 => f8b.narrow .rn .conv 0 (dec32 d)
  | 12 => (if d.toInt > 0 then 1 else if d.toInt < 0 then 3 else 0, flagIf (d.toInt.natAbs > 1) fSAT)
  | 6 => (d.toNat, 0)
  | 7 => (d.toNat, 0)
  | 8 => let r := clampInt (-32768) 32767 d.toInt; ((BitVec.ofInt 16 r.1).toNat, r.2)
  | 9 => let r := clampInt 0 65535 d.toNat; (r.1.toNat, r.2)
  | 10 => let r := clampInt (-128) 127 d.toInt; ((BitVec.ofInt 8 r.1).toNat, r.2)
  | 11 => let r := clampInt 0 255 d.toNat; (r.1.toNat, r.2)
  | 13 => let r := clampInt (-8) 7 d.toInt; ((BitVec.ofInt 4 r.1).toNat, r.2)
  | _ => (d.toNat % 256, 0)

/-- The exact value of an element of a matrix input or conversion (R27, R28). -/
def elemEx (code x : Nat) : Ex × Flags :=
  match floatFmt code with
  | some f => (f.decode x, 0)
  | none =>
    if code = 12 then let (v, fl) := t2Val x; (.ofInt v, fl)
    else if code = 6 ∨ code = 8 ∨ code = 10 ∨ code = 13 then (.ofInt (sInt (elemBits code) x), 0)
    else (.ofInt ((x % 2 ^ elemBits code : Nat) : Int), 0)

/-- An exact value rounded by an engine into any element format but RAW (R31, R35), with d = 32 under RS (R259). -/
def convElem (code : Nat) (mode : RMode) (draw : Word) (x : Ex) : Nat × Flags :=
  match floatFmt code with
  | some f => if code = 1 then f.arith mode draw x else f.narrow mode .arith draw x
  | none =>
    let (lo, hi) : Int × Int := match code with
      | 6 => (-2147483648, 2147483647) | 7 => (0, 4294967295) | 8 => (-32768, 32767) | 9 => (0, 65535)
      | 10 => (-128, 127) | 11 => (0, 255) | 12 => (-1, 1) | _ => (-8, 7)
    let r := x.toInt lo hi mode .arith draw
    ((BitVec.ofInt (elemBits code) r.1).toNat, r.2)

/-- The exponent floor(log2 |p|) of a finite non-zero product. -/
def Ex.expo : Ex → Option Int
  | .val _ n d e => some (log2Q n d + e)
  | _ => none

/-- The greatest exponent of a list of products. -/
def maxExpo : List Ex → Option Int
  | [] => none
  | x :: xs =>
    match x.expo, maxExpo xs with
    | some a, some b => some (max a b)
    | some a, none => some a
    | none, b => b

/-- A product truncated toward zero to a multiple of 2^k, in those units (R41). -/
def truncAt (k : Int) : Ex → Int
  | .val s n d e => let (a, c) := scaleQ n d e k; if s then -((a / c : Nat) : Int) else ((a / c : Nat) : Int)
  | _ => 0

/-- The window sum of exact products added to an F32 accumulator (R41, R42). A product that is a NaN from a NaN input
gives the canonical NaN; inf times 0 gives it with INV; infinities of both signs too. -/
def windowAdd (acc : Word) (ps : List Ex) : Word × Flags :=
  if ps.any Ex.isNan then (nan32, flagIf (ps.any (fun p => p == .nan true)) fINV)
  else if ps.any (· == .inf false) then
    if ps.any (· == .inf true) then (nan32, fINV)
    else enc32 .rn 0 ((dec32 acc).add false (.inf false))
  else if ps.any (· == .inf true) then enc32 .rn 0 ((dec32 acc).add false (.inf true))
  else
    match maxExpo ps with
    | none => (acc, 0)
    | some E =>
      let W := ps.foldl (fun s p => s + truncAt (E - 69) p) 0
      let w : Ex := if W = 0 then .zero false else .val (W < 0) W.natAbs 1 (E - 69)
      enc32 .rn 0 ((dec32 acc).add false w)

/-- pmix(k, a, b) of R50: one round. -/
def pmixRound (h a b : DWord) : DWord :=
  let h := (h ^^^ a) * 0x9E3779B97F4A7C15
  let h := h ^^^ (h >>> 29)
  let h := (h ^^^ b) * 0xBF58476D1CE4E5B9
  h ^^^ (h >>> 32)

/-- pmix(k, a, b) (R50). -/
def pmix (k a b : DWord) : DWord :=
  let h := k ^^^ 0x6A09E667F3BCC909
  pmixRound (pmixRound (pmixRound (pmixRound h a b) a b) a b) a b

/-- ph of the levels of a pedigree (R51). -/
def phLevels (ls : List (Word × Word)) : DWord :=
  ls.foldl (fun h l => pmix h (l.1.setWidth 64) (l.2.setWidth 64)) (pmix (BitVec.ofNat 64 ls.length) 0 0)

/-- precedes(X, Y) of R52 on the levels of two strands, once the equal case is excluded. -/
def precGo : List (Word × Word) → List (Word × Word) → Bool
  | [], [] => false
  | [], _ :: _ => true
  | _ :: _, [] => false
  | x :: xs, y :: ys =>
    if x.1 = y.1 then precGo xs ys
    else if x.1.toNat > y.1.toNat then false
    else if xs.isEmpty then true
    else decide (y.2.toNat > x.1.toNat)

/-- precedes(X, Y) (R52). -/
def precedes (x y : List (Word × Word)) : Bool := precGo x y

/-- draw() of R53 for a strand's seed and levels, a FIX and a draw counter. -/
def drawVal (seed : DWord) (ls : List (Word × Word)) (fix : Nat) (drw : Word) : Word :=
  (pmix seed (phLevels ls) (BitVec.ofNat 64 (fix * 2 ^ 32 + drw.toNat))).setWidth 32

/-- edraw(salt, e) of R259. -/
def edraw (seed : DWord) (ls : List (Word × Word)) (salt : Word) (e : Nat) : Word :=
  (pmix seed (phLevels ls) (BitVec.ofNat 64 ((salt ||| 0x80000000).toNat * 2 ^ 32 + e))).setWidth 32

end Sys2Proof.Machine
end

