-- ==== Sys2Proof/Syntax.lean ====
section
/-! DEFINITION. The instructions of the H40: one constructor per row of spec/opcode_table.json. The first 304 are
instruction words, with the fields of the table (a field of a pair or quad operand holds the register number without
its zero low bits, R58). The other 46 are the table's event rows: what the hardware, its firmware, the host or the
links do on their own; their arguments say on what the event acts (log 2). -/
namespace Sys2Proof

/-- An instruction word or event of the H40. Each docstring gives the rule of its home chapter. -/
inductive Instr where
  /-- NOP (R160). -/
  | nop
  /-- EXIT (R161). -/
  | exit
  /-- YIELD (R160). -/
  | yield
  /-- WAITB (R162). -/
  | waitb (m : BitVec 3)
  /-- BKPT (R164). -/
  | bkpt (c : BitVec 16)
  /-- TRAP (R164). -/
  | trap (c : BitVec 16)
  /-- TRET (R165). -/
  | tret (a : BitVec 2)
  /-- IADD (R103). -/
  | iadd (g : BitVec 4) (d : BitVec 6) (a : BitVec 6) (b : BitVec 6)
  /-- ISUB (R103). -/
  | isub (g : BitVec 4) (d : BitVec 6) (a : BitVec 6) (b : BitVec 6)
  /-- IMUL (R103). -/
  | imul (g : BitVec 4) (d : BitVec 6) (a : BitVec 6) (b : BitVec 6)
  /-- IMULH.S (R103). -/
  | imulhS (g : BitVec 4) (d : BitVec 6) (a : BitVec 6) (b : BitVec 6)
  /-- IMULH.N (R103). -/
  | imulhN (g : BitVec 4) (d : BitVec 6) (a : BitVec 6) (b : BitVec 6)
  /-- IAND (R103). -/
  | iand (g : BitVec 4) (d : BitVec 6) (a : BitVec 6) (b : BitVec 6)
  /-- IOR (R103). -/
  | ior (g : BitVec 4) (d : BitVec 6) (a : BitVec 6) (b : BitVec 6)
  /-- IXOR (R103). -/
  | ixor (g : BitVec 4) (d : BitVec 6) (a : BitVec 6) (b : BitVec 6)
  /-- IANDN (R103). -/
  | iandn (g : BitVec 4) (d : BitVec 6) (a : BitVec 6) (b : BitVec 6)
  /-- SHL (R102). -/
  | shl (g : BitVec 4) (d : BitVec 6) (a : BitVec 6) (b : BitVec 6)
  /-- SHR (R102). -/
  | shr (g : BitVec 4) (d : BitVec 6) (a : BitVec 6) (b : BitVec 6)
  /-- SHA (R102). -/
  | sha (g : BitVec 4) (d : BitVec 6) (a : BitVec 6) (b : BitVec 6)
  /-- IMIN.S (R103). -/
  | iminS (g : BitVec 4) (d : BitVec 6) (a : BitVec 6) (b : BitVec 6)
  /-- IMIN.N (R103). -/
  | iminN (g : BitVec 4) (d : BitVec 6) (a : BitVec 6) (b : BitVec 6)
  /-- IMAX.S (R103). -/
  | imaxS (g : BitVec 4) (d : BitVec 6) (a : BitVec 6) (b : BitVec 6)
  /-- IMAX.N (R103). -/
  | imaxN (g : BitVec 4) (d : BitVec 6) (a : BitVec 6) (b : BitVec 6)
  /-- IADD.64 (R104). -/
  | iadd64 (g : BitVec 4) (d : BitVec 5) (a : BitVec 5) (b : BitVec 5)
  /-- ISUB.64 (R104). -/
  | isub64 (g : BitVec 4) (d : BitVec 5) (a : BitVec 5) (b : BitVec 5)
  /-- SHL.64 (R104). -/
  | shl64 (g : BitVec 4) (d : BitVec 5) (a : BitVec 5) (b : BitVec 6)
  /-- SHR.64 (R104). -/
  | shr64 (g : BitVec 4) (d : BitVec 5) (a : BitVec 5) (b : BitVec 6)
  /-- SHA.64 (R104). -/
  | sha64 (g : BitVec 4) (d : BitVec 5) (a : BitVec 5) (b : BitVec 6)
  /-- IABS (R104). -/
  | iabs (g : BitVec 4) (d : BitVec 6) (a : BitVec 6)
  /-- INEG (R104). -/
  | ineg (g : BitVec 4) (d : BitVec 6) (a : BitVec 6)
  /-- POPC (R104). -/
  | popc (g : BitVec 4) (d : BitVec 6) (a : BitVec 6)
  /-- CLZ (R104). -/
  | clz (g : BitVec 4) (d : BitVec 6) (a : BitVec 6)
  /-- BREV (R104). -/
  | brev (g : BitVec 4) (d : BitVec 6) (a : BitVec 6)
  /-- BFX.N (R105). -/
  | bfxN (g : BitVec 4) (d : BitVec 6) (a : BitVec 6) (b : BitVec 6)
  /-- BFX.S (R105). -/
  | bfxS (g : BitVec 4) (d : BitVec 6) (a : BitVec 6) (b : BitVec 6)
  /-- PRMT (R106). -/
  | prmt (g : BitVec 4) (d : BitVec 6) (a : BitVec 6) (b : BitVec 6)
  /-- ISAD (R104). -/
  | isad (g : BitVec 4) (d : BitVec 6) (a : BitVec 6) (b : BitVec 6)
  /-- MOV (R104). -/
  | mov (g : BitVec 4) (d : BitVec 6) (a : BitVec 6)
  /-- SEL (R104). -/
  | sel (g : BitVec 4) (d : BitVec 6) (a : BitVec 6) (b : BitVec 6)
  /-- IADDI (R107). -/
  | iaddi (g : BitVec 4) (d : BitVec 6) (a : BitVec 6) (i : BitVec 10)
  /-- IANDI (R107). -/
  | iandi (g : BitVec 4) (d : BitVec 6) (a : BitVec 6) (i : BitVec 10)
  /-- IORI (R107). -/
  | iori (g : BitVec 4) (d : BitVec 6) (a : BitVec 6) (i : BitVec 10)
  /-- IXORI (R107). -/
  | ixori (g : BitVec 4) (d : BitVec 6) (a : BitVec 6) (i : BitVec 10)
  /-- ISHI.SHL (R108). -/
  | ishiShl (g : BitVec 4) (d : BitVec 6) (a : BitVec 6) (i : BitVec 6)
  /-- ISHI.SHR (R108). -/
  | ishiShr (g : BitVec 4) (d : BitVec 6) (a : BitVec 6) (i : BitVec 6)
  /-- ISHI.SHA (R108). -/
  | ishiSha (g : BitVec 4) (d : BitVec 6) (a : BitVec 6) (i : BitVec 6)
  /-- ISHI.ROT (R108). -/
  | ishiRot (g : BitVec 4) (d : BitVec 6) (a : BitVec 6) (i : BitVec 6)
  /-- IMOVI (R109). -/
  | imovi (g : BitVec 4) (d : BitVec 6) (i : BitVec 16)
  /-- ICMP.cc (R110). -/
  | icmp (c : BitVec 4) (p : BitVec 3) (q : BitVec 3) (a : BitVec 6) (b : BitVec 6)
  /-- IMAD (R111). -/
  | imad (d : BitVec 6) (a : BitVec 6) (b : BitVec 6) (c : BitVec 6)
  /-- IMADH.S (R111). -/
  | imadhS (d : BitVec 6) (a : BitVec 6) (b : BitVec 6) (c : BitVec 6)
  /-- IMADH.N (R111). -/
  | imadhN (d : BitVec 6) (a : BitVec 6) (b : BitVec 6) (c : BitVec 6)
  /-- IMAD.W (R111). -/
  | imadW (d : BitVec 5) (a : BitVec 6) (b : BitVec 6) (c : BitVec 5)
  /-- BFI (R112). -/
  | bfi (d : BitVec 6) (a : BitVec 6) (b : BitVec 6) (c : BitVec 6)
  /-- DP4.S8 (R113). -/
  | dp4S8 (d : BitVec 6) (a : BitVec 6) (b : BitVec 6) (c : BitVec 6)
  /-- DP4.N8 (R113). -/
  | dp4N8 (d : BitVec 6) (a : BitVec 6) (b : BitVec 6) (c : BitVec 6)
  /-- DP2.S16 (R113). -/
  | dp2S16 (d : BitVec 6) (a : BitVec 6) (b : BitVec 6) (c : BitVec 6)
  /-- FADD (R126). -/
  | fadd (g : BitVec 4) (d : BitVec 6) (a : BitVec 6) (b : BitVec 6)
  /-- FSUB (R126). -/
  | fsub (g : BitVec 4) (d : BitVec 6) (a : BitVec 6) (b : BitVec 6)
  /-- FMUL (R126). -/
  | fmul (g : BitVec 4) (d : BitVec 6) (a : BitVec 6) (b : BitVec 6)
  /-- FDIV (R126). -/
  | fdiv (g : BitVec 4) (d : BitVec 6) (a : BitVec 6) (b : BitVec 6)
  /-- FMIN (R126). -/
  | fmin (g : BitVec 4) (d : BitVec 6) (a : BitVec 6) (b : BitVec 6)
  /-- FMAX (R126). -/
  | fmax (g : BitVec 4) (d : BitVec 6) (a : BitVec 6) (b : BitVec 6)
  /-- FCSGN (R126). -/
  | fcsgn (g : BitVec 4) (d : BitVec 6) (a : BitVec 6) (b : BitVec 6)
  /-- FABD (R126). -/
  | fabd (g : BitVec 4) (d : BitVec 6) (a : BitVec 6) (b : BitVec 6)
  /-- HADD2 (R127). -/
  | hadd2 (g : BitVec 4) (d : BitVec 6) (a : BitVec 6) (b : BitVec 6)
  /-- HSUB2 (R127). -/
  | hsub2 (g : BitVec 4) (d : BitVec 6) (a : BitVec 6) (b : BitVec 6)
  /-- HMUL2 (R127). -/
  | hmul2 (g : BitVec 4) (d : BitVec 6) (a : BitVec 6) (b : BitVec 6)
  /-- HMIN2 (R127). -/
  | hmin2 (g : BitVec 4) (d : BitVec 6) (a : BitVec 6) (b : BitVec 6)
  /-- HMAX2 (R127). -/
  | hmax2 (g : BitVec 4) (d : BitVec 6) (a : BitVec 6) (b : BitVec 6)
  /-- BADD2 (R127). -/
  | badd2 (g : BitVec 4) (d : BitVec 6) (a : BitVec 6) (b : BitVec 6)
  /-- BSUB2 (R127). -/
  | bsub2 (g : BitVec 4) (d : BitVec 6) (a : BitVec 6) (b : BitVec 6)
  /-- BMUL2 (R127). -/
  | bmul2 (g : BitVec 4) (d : BitVec 6) (a : BitVec 6) (b : BitVec 6)
  /-- BMIN2 (R127). -/
  | bmin2 (g : BitVec 4) (d : BitVec 6) (a : BitVec 6) (b : BitVec 6)
  /-- BMAX2 (R127). -/
  | bmax2 (g : BitVec 4) (d : BitVec 6) (a : BitVec 6) (b : BitVec 6)
  /-- FFMA (R128). -/
  | ffma (d : BitVec 6) (a : BitVec 6) (b : BitVec 6) (c : BitVec 6)
  /-- FFMS (R128). -/
  | ffms (d : BitVec 6) (a : BitVec 6) (b : BitVec 6) (c : BitVec 6)
  /-- FFNMA (R128). -/
  | ffnma (d : BitVec 6) (a : BitVec 6) (b : BitVec 6) (c : BitVec 6)
  /-- FFNMS (R128). -/
  | ffnms (d : BitVec 6) (a : BitVec 6) (b : BitVec 6) (c : BitVec 6)
  /-- HFMA2 (R129). -/
  | hfma2 (d : BitVec 6) (a : BitVec 6) (b : BitVec 6) (c : BitVec 6)
  /-- BFMA2 (R129). -/
  | bfma2 (d : BitVec 6) (a : BitVec 6) (b : BitVec 6) (c : BitVec 6)
  /-- HFMA2.F32 (R129). -/
  | hfma2F32 (d : BitVec 6) (a : BitVec 6) (b : BitVec 6) (c : BitVec 6)
  /-- BFMA2.F32 (R129). -/
  | bfma2F32 (d : BitVec 6) (a : BitVec 6) (b : BitVec 6) (c : BitVec 6)
  /-- FCMP.cc (R131). -/
  | fcmp (c : BitVec 4) (p : BitVec 3) (q : BitVec 3) (a : BitVec 6) (b : BitVec 6)
  /-- FRCP (R138). -/
  | frcp (g : BitVec 4) (d : BitVec 6) (a : BitVec 6)
  /-- FRSQ (R139). -/
  | frsq (g : BitVec 4) (d : BitVec 6) (a : BitVec 6)
  /-- FSQRT (R133). -/
  | fsqrt (g : BitVec 4) (d : BitVec 6) (a : BitVec 6)
  /-- FEX2 (R140). -/
  | fex2 (g : BitVec 4) (d : BitVec 6) (a : BitVec 6)
  /-- FLG2 (R141). -/
  | flg2 (g : BitVec 4) (d : BitVec 6) (a : BitVec 6)
  /-- FSIN (R142). -/
  | fsin (g : BitVec 4) (d : BitVec 6) (a : BitVec 6)
  /-- FCOS (R142). -/
  | fcos (g : BitVec 4) (d : BitVec 6) (a : BitVec 6)
  /-- FTANH (R143). -/
  | ftanh (g : BitVec 4) (d : BitVec 6) (a : BitVec 6)
  /-- FRND.RN (R134). -/
  | frndRn (g : BitVec 4) (d : BitVec 6) (a : BitVec 6)
  /-- FRND.RZ (R134). -/
  | frndRz (g : BitVec 4) (d : BitVec 6) (a : BitVec 6)
  /-- FRND.RU (R134). -/
  | frndRu (g : BitVec 4) (d : BitVec 6) (a : BitVec 6)
  /-- FRND.RD (R134). -/
  | frndRd (g : BitVec 4) (d : BitVec 6) (a : BitVec 6)
  /-- FCLASS (R135). -/
  | fclass (g : BitVec 4) (d : BitVec 6) (a : BitVec 6)
  /-- FLDEXP (R136). -/
  | fldexp (g : BitVec 4) (d : BitVec 6) (a : BitVec 6) (b : BitVec 6)
  /-- FFREXP.M (R136). -/
  | ffrexpM (g : BitVec 4) (d : BitVec 6) (a : BitVec 6)
  /-- FFREXP.E (R136). -/
  | ffrexpE (g : BitVec 4) (d : BitVec 6) (a : BitVec 6)
  /-- CVT.mode.code (R147). -/
  | cvt (g : BitVec 4) (d : BitVec 6) (a : BitVec 6) (b : BitVec 6) (r : BitVec 4)
  /-- FADD.S (R130). -/
  | faddS (g : BitVec 4) (d : BitVec 6) (a : BitVec 6) (s : BitVec 8)
  /-- FMUL.S (R130). -/
  | fmulS (g : BitVec 4) (d : BitVec 6) (a : BitVec 6) (s : BitVec 8)
  /-- FMAX.S (R130). -/
  | fmaxS (g : BitVec 4) (d : BitVec 6) (a : BitVec 6) (s : BitVec 8)
  /-- FMIN.S (R130). -/
  | fminS (g : BitVec 4) (d : BitVec 6) (a : BitVec 6) (s : BitVec 8)
  /-- IADD.S (R114). -/
  | iaddS (g : BitVec 4) (d : BitVec 6) (a : BitVec 6) (s : BitVec 8)
  /-- IMUL.S (R114). -/
  | imulS (g : BitVec 4) (d : BitVec 6) (a : BitVec 6) (s : BitVec 8)
  /-- IAND.S (R114). -/
  | iandS (g : BitVec 4) (d : BitVec 6) (a : BitVec 6) (s : BitVec 8)
  /-- MOV.S (R114). -/
  | movS (g : BitVec 4) (d : BitVec 6) (s : BitVec 8)
  /-- PAND (R115). -/
  | pand (d : BitVec 3) (a : BitVec 3) (b : BitVec 3) (n : BitVec 1) (m : BitVec 1)
  /-- POR (R115). -/
  | por (d : BitVec 3) (a : BitVec 3) (b : BitVec 3) (n : BitVec 1) (m : BitVec 1)
  /-- PXOR (R115). -/
  | pxor (d : BitVec 3) (a : BitVec 3) (b : BitVec 3) (n : BitVec 1) (m : BitVec 1)
  /-- PMOV (R115). -/
  | pmov (d : BitVec 3) (a : BitVec 3) (n : BitVec 1)
  /-- SHFL (R169). -/
  | shfl (m : BitVec 3) (d : BitVec 6) (a : BitVec 6) (b : BitVec 6)
  /-- SHFLX (R169). -/
  | shflx (m : BitVec 3) (d : BitVec 6) (a : BitVec 6) (i : BitVec 6)
  /-- SHFLU (R169). -/
  | shflu (m : BitVec 3) (d : BitVec 6) (a : BitVec 6) (b : BitVec 6)
  /-- SHFLD (R169). -/
  | shfld (m : BitVec 3) (d : BitVec 6) (a : BitVec 6) (b : BitVec 6)
  /-- RDX.IADD (R170). -/
  | rdxIadd (m : BitVec 3) (d : BitVec 6) (a : BitVec 6)
  /-- RDX.IMIN.S (R170). -/
  | rdxIminS (m : BitVec 3) (d : BitVec 6) (a : BitVec 6)
  /-- RDX.IMAX.S (R170). -/
  | rdxImaxS (m : BitVec 3) (d : BitVec 6) (a : BitVec 6)
  /-- RDX.FADD (R170). -/
  | rdxFadd (m : BitVec 3) (d : BitVec 6) (a : BitVec 6)
  /-- RDX.FMIN (R170). -/
  | rdxFmin (m : BitVec 3) (d : BitVec 6) (a : BitVec 6)
  /-- RDX.FMAX (R170). -/
  | rdxFmax (m : BitVec 3) (d : BitVec 6) (a : BitVec 6)
  /-- SCAN.IADD (R170). -/
  | scanIadd (m : BitVec 3) (d : BitVec 6) (a : BitVec 6)
  /-- SCAN.IADDX (R170). -/
  | scanIaddx (m : BitVec 3) (d : BitVec 6) (a : BitVec 6)
  /-- SCAN.FADD (R170). -/
  | scanFadd (m : BitVec 3) (d : BitVec 6) (a : BitVec 6)
  /-- SCAN.FADDX (R170). -/
  | scanFaddx (m : BitVec 3) (d : BitVec 6) (a : BitVec 6)
  /-- MATCH (R171). -/
  | xmatch (m : BitVec 3) (d : BitVec 5) (a : BitVec 6)
  /-- XSHF (R172). -/
  | xshf (m : BitVec 3) (d : BitVec 6) (a : BitVec 6) (b : BitVec 6)
  /-- VOTE.ANY (R173). -/
  | voteAny (m : BitVec 3) (q : BitVec 3) (a : BitVec 4)
  /-- VOTE.ALL (R173). -/
  | voteAll (m : BitVec 3) (q : BitVec 3) (a : BitVec 4)
  /-- VOTE.EQ (R173). -/
  | voteEq (m : BitVec 3) (q : BitVec 3) (a : BitVec 4)
  /-- VOTE.BAL (R173). -/
  | voteBal (m : BitVec 3) (d : BitVec 3) (a : BitVec 4)
  /-- BCAST (R174). -/
  | bcast (m : BitVec 3) (d : BitVec 6) (a : BitVec 6)
  /-- RBAL (R175). -/
  | rbal (m : BitVec 3) (d : BitVec 5) (a : BitVec 6) (b : BitVec 6)
  /-- FIDX (R176). -/
  | fidx (d : BitVec 6)
  /-- SADD (R117). -/
  | sadd (d : BitVec 8) (a : BitVec 8) (b : BitVec 8)
  /-- SSUB (R117). -/
  | ssub (d : BitVec 8) (a : BitVec 8) (b : BitVec 8)
  /-- SMUL (R117). -/
  | smul (d : BitVec 8) (a : BitVec 8) (b : BitVec 8)
  /-- SMULH.N (R117). -/
  | smulhN (d : BitVec 8) (a : BitVec 8) (b : BitVec 8)
  /-- SAND (R117). -/
  | sand (d : BitVec 8) (a : BitVec 8) (b : BitVec 8)
  /-- SOR (R117). -/
  | sor (d : BitVec 8) (a : BitVec 8) (b : BitVec 8)
  /-- SXOR (R117). -/
  | sxor (d : BitVec 8) (a : BitVec 8) (b : BitVec 8)
  /-- SANDN (R117). -/
  | sandn (d : BitVec 8) (a : BitVec 8) (b : BitVec 8)
  /-- SSHL (R117). -/
  | sshl (d : BitVec 8) (a : BitVec 8) (b : BitVec 8)
  /-- SSHR (R117). -/
  | sshr (d : BitVec 8) (a : BitVec 8) (b : BitVec 8)
  /-- SSHA (R117). -/
  | ssha (d : BitVec 8) (a : BitVec 8) (b : BitVec 8)
  /-- SROT (R117). -/
  | srot (d : BitVec 8) (a : BitVec 8) (b : BitVec 8)
  /-- SMIN.S (R117). -/
  | sminS (d : BitVec 8) (a : BitVec 8) (b : BitVec 8)
  /-- SMIN.N (R117). -/
  | sminN (d : BitVec 8) (a : BitVec 8) (b : BitVec 8)
  /-- SMAX.S (R117). -/
  | smaxS (d : BitVec 8) (a : BitVec 8) (b : BitVec 8)
  /-- SMAX.N (R117). -/
  | smaxN (d : BitVec 8) (a : BitVec 8) (b : BitVec 8)
  /-- SADD.64 (R118). -/
  | sadd64 (d : BitVec 7) (a : BitVec 7) (b : BitVec 7)
  /-- SSUB.64 (R118). -/
  | ssub64 (d : BitVec 7) (a : BitVec 7) (b : BitVec 7)
  /-- SMOV (R118). -/
  | smov (d : BitVec 8) (a : BitVec 8)
  /-- SSEL (R118). -/
  | ssel (d : BitVec 8) (a : BitVec 8) (b : BitVec 8)
  /-- SCMP.cc (R119). -/
  | scmp (c : BitVec 4) (p : BitVec 3) (q : BitVec 3) (a : BitVec 8) (b : BitVec 8)
  /-- SADDI (R120). -/
  | saddi (d : BitVec 8) (a : BitVec 8) (i : BitVec 10)
  /-- SMOVI (R120). -/
  | smovi (d : BitVec 8) (i : BitVec 18)
  /-- SMOVH (R120). -/
  | smovh (d : BitVec 8) (i : BitVec 18)
  /-- MAND (R121). -/
  | mand (d : BitVec 3) (a : BitVec 3) (b : BitVec 3)
  /-- MOR (R121). -/
  | mor (d : BitVec 3) (a : BitVec 3) (b : BitVec 3)
  /-- MXOR (R121). -/
  | mxor (d : BitVec 3) (a : BitVec 3) (b : BitVec 3)
  /-- MANDN (R121). -/
  | mandn (d : BitVec 3) (a : BitVec 3) (b : BitVec 3)
  /-- MNOT (R121). -/
  | mnot (d : BitVec 3) (a : BitVec 3)
  /-- MPOPC (R121). -/
  | mpopc (a : BitVec 3) (s : BitVec 8)
  /-- MFFS (R121). -/
  | mffs (a : BitVec 3) (s : BitVec 8)
  /-- MTOS (R121). -/
  | mtos (a : BitVec 3) (s : BitVec 7)
  /-- STOM (R121). -/
  | stom (d : BitVec 3) (s : BitVec 7)
  /-- MQ (R121). -/
  | mq (d : BitVec 3) (a : BitVec 3) (b : BitVec 3)
  /-- QAND (R121). -/
  | qand (d : BitVec 3) (a : BitVec 3) (b : BitVec 3)
  /-- QOR (R121). -/
  | qor (d : BitVec 3) (a : BitVec 3) (b : BitVec 3)
  /-- QNOT (R121). -/
  | qnot (d : BitVec 3) (a : BitVec 3)
  /-- BRA (R151). -/
  | bra (g : BitVec 4) (o : BitVec 22)
  /-- BRU (R152). -/
  | bru (g : BitVec 4) (o : BitVec 22)
  /-- BRM (R153). -/
  | brm (n : BitVec 2) (a : BitVec 4) (b : BitVec 4) (c : BitVec 4) (d : BitVec 4)
  /-- CALL (R154). -/
  | call (g : BitVec 4) (o : BitVec 22)
  /-- BRX (R156). -/
  | brx (g : BitVec 4) (a : BitVec 6)
  /-- RET (R156). -/
  | ret (g : BitVec 4)
  /-- CALLX (R156). -/
  | callx (g : BitVec 4) (a : BitVec 6)
  /-- WINSET (R157). -/
  | winset (g : BitVec 4) (i : BitVec 5)
  /-- WINADD (R157). -/
  | winadd (g : BitVec 4) (i : BitVec 5)
  /-- LD (R230). -/
  | ld (g : BitVec 4) (d : BitVec 6) (a : BitVec 6) (p : BitVec 7) (z : BitVec 3)
  /-- LDV (R230). -/
  | ldv (g : BitVec 4) (d : BitVec 6) (a : BitVec 5) (z : BitVec 3)
  /-- ST (R230). -/
  | st (g : BitVec 4) (d : BitVec 6) (a : BitVec 6) (p : BitVec 7) (z : BitVec 3)
  /-- STV (R230). -/
  | stv (g : BitVec 4) (d : BitVec 6) (a : BitVec 5) (z : BitVec 3)
  /-- LDS (R232). -/
  | lds (d : BitVec 8) (p : BitVec 7) (z : BitVec 3) (o : BitVec 8)
  /-- STS (R232). -/
  | sts (d : BitVec 8) (p : BitVec 7) (z : BitVec 3) (o : BitVec 8)
  /-- ATOM.IADD (R234). -/
  | atomIadd (d : BitVec 6) (a : BitVec 6) (p : BitVec 7) (k : BitVec 3)
  /-- ATOM.IMIN.S (R234). -/
  | atomIminS (d : BitVec 6) (a : BitVec 6) (p : BitVec 7) (k : BitVec 3)
  /-- ATOM.IMIN.N (R234). -/
  | atomIminN (d : BitVec 6) (a : BitVec 6) (p : BitVec 7) (k : BitVec 3)
  /-- ATOM.IMAX.S (R234). -/
  | atomImaxS (d : BitVec 6) (a : BitVec 6) (p : BitVec 7) (k : BitVec 3)
  /-- ATOM.IMAX.N (R234). -/
  | atomImaxN (d : BitVec 6) (a : BitVec 6) (p : BitVec 7) (k : BitVec 3)
  /-- ATOM.AND (R234). -/
  | atomAnd (d : BitVec 6) (a : BitVec 6) (p : BitVec 7) (k : BitVec 3)
  /-- ATOM.OR (R234). -/
  | atomOr (d : BitVec 6) (a : BitVec 6) (p : BitVec 7) (k : BitVec 3)
  /-- ATOM.XOR (R234). -/
  | atomXor (d : BitVec 6) (a : BitVec 6) (p : BitVec 7) (k : BitVec 3)
  /-- ATOM.EXCH (R234). -/
  | atomExch (d : BitVec 6) (a : BitVec 6) (p : BitVec 7) (k : BitVec 3)
  /-- ATOM.CAS (R234). -/
  | atomCas (d : BitVec 5) (a : BitVec 6) (p : BitVec 7) (k : BitVec 3)
  /-- ATOM.IADD.64 (R234). -/
  | atomIadd64 (d : BitVec 5) (a : BitVec 6) (p : BitVec 7) (k : BitVec 3)
  /-- ATOM.CAS.64 (R234). -/
  | atomCas64 (d : BitVec 4) (a : BitVec 6) (p : BitVec 7) (k : BitVec 3)
  /-- ATOM.FADD (R234). -/
  | atomFadd (d : BitVec 6) (a : BitVec 6) (p : BitVec 7) (k : BitVec 3)
  /-- ATOM.FMIN (R234). -/
  | atomFmin (d : BitVec 6) (a : BitVec 6) (p : BitVec 7) (k : BitVec 3)
  /-- ATOM.FMAX (R234). -/
  | atomFmax (d : BitVec 6) (a : BitVec 6) (p : BitVec 7) (k : BitVec 3)
  /-- ATOM.op.ORD (R237). -/
  | atomOrd (f : BitVec 4) (d : BitVec 6) (a : BitVec 6) (p : BitVec 7)
  /-- RED.IADD (R234). -/
  | redIadd (d : BitVec 6) (a : BitVec 6) (p : BitVec 7) (k : BitVec 3)
  /-- RED.IMIN.S (R234). -/
  | redIminS (d : BitVec 6) (a : BitVec 6) (p : BitVec 7) (k : BitVec 3)
  /-- RED.IMIN.N (R234). -/
  | redIminN (d : BitVec 6) (a : BitVec 6) (p : BitVec 7) (k : BitVec 3)
  /-- RED.IMAX.S (R234). -/
  | redImaxS (d : BitVec 6) (a : BitVec 6) (p : BitVec 7) (k : BitVec 3)
  /-- RED.IMAX.N (R234). -/
  | redImaxN (d : BitVec 6) (a : BitVec 6) (p : BitVec 7) (k : BitVec 3)
  /-- RED.AND (R234). -/
  | redAnd (d : BitVec 6) (a : BitVec 6) (p : BitVec 7) (k : BitVec 3)
  /-- RED.OR (R234). -/
  | redOr (d : BitVec 6) (a : BitVec 6) (p : BitVec 7) (k : BitVec 3)
  /-- RED.XOR (R234). -/
  | redXor (d : BitVec 6) (a : BitVec 6) (p : BitVec 7) (k : BitVec 3)
  /-- RED.EXCH (R234). -/
  | redExch (d : BitVec 6) (a : BitVec 6) (p : BitVec 7) (k : BitVec 3)
  /-- RED.CAS (R234). -/
  | redCas (d : BitVec 5) (a : BitVec 6) (p : BitVec 7) (k : BitVec 3)
  /-- RED.IADD.64 (R234). -/
  | redIadd64 (d : BitVec 5) (a : BitVec 6) (p : BitVec 7) (k : BitVec 3)
  /-- RED.CAS.64 (R234). -/
  | redCas64 (d : BitVec 4) (a : BitVec 6) (p : BitVec 7) (k : BitVec 3)
  /-- RED.FADD (R234). -/
  | redFadd (d : BitVec 6) (a : BitVec 6) (p : BitVec 7) (k : BitVec 3)
  /-- RED.FMIN (R234). -/
  | redFmin (d : BitVec 6) (a : BitVec 6) (p : BitVec 7) (k : BitVec 3)
  /-- RED.FMAX (R234). -/
  | redFmax (d : BitVec 6) (a : BitVec 6) (p : BitVec 7) (k : BitVec 3)
  /-- RED.op.ORD (R237). -/
  | redOrd (f : BitVec 4) (d : BitVec 6) (a : BitVec 6) (p : BitVec 7)
  /-- FENCE.REL (R239). -/
  | fenceRel (k : BitVec 3)
  /-- FENCE.ACQ (R239). -/
  | fenceAcq (k : BitVec 3)
  /-- FENCE.AR (R239). -/
  | fenceAr (k : BitVec 3)
  /-- FENCE.SC (R214). -/
  | fenceSc (k : BitVec 3)
  /-- FENCE.PKG (R213). -/
  | fencePkg
  /-- WAITA.cnd (R241). -/
  | waita (c : BitVec 4) (s : BitVec 7) (v : BitVec 8) (z : BitVec 3) (k : BitVec 3)
  /-- LJOIN (R245). -/
  | ljoin (d : BitVec 6) (a : BitVec 6) (p : BitVec 7) (x : BitVec 1)
  /-- LSTC (R246). -/
  | lstc (d : BitVec 6) (a : BitVec 6) (p : BitVec 7) (x : BitVec 1)
  /-- LLD (R247). -/
  | lld (d : BitVec 6) (a : BitVec 6) (p : BitVec 7)
  /-- LWAIT (R248). -/
  | lwait (d : BitVec 6) (a : BitVec 6) (p : BitVec 7) (x : BitVec 1)
  /-- LSYNC (R249). -/
  | lsync
  /-- TALLOC (R265). -/
  | talloc (s : BitVec 8)
  /-- TFREE (R266). -/
  | tfree (s : BitVec 8)
  /-- TTAG (R267). -/
  | ttag (s : BitVec 8)
  /-- TWAIT (R267). -/
  | twait (s : BitVec 8)
  /-- TLD (R268). -/
  | tld (s : BitVec 8) (t : BitVec 7) (e : BitVec 1)
  /-- TST (R268). -/
  | tst (s : BitVec 8) (t : BitVec 7) (e : BitVec 1)
  /-- TLDT (R268). -/
  | tldt (s : BitVec 8) (t : BitVec 7) (e : BitVec 1)
  /-- TCOPY (R269). -/
  | tcopy (s : BitVec 8) (t : BitVec 7) (e : BitVec 1) (x : BitVec 1)
  /-- TFILL (R269). -/
  | tfill (s : BitVec 8) (t : BitVec 7) (e : BitVec 1)
  /-- TSTC (R271). -/
  | tstc (s : BitVec 8) (t : BitVec 7) (e : BitVec 1)
  /-- TLDC (R272). -/
  | tldc (s : BitVec 8) (t : BitVec 7) (e : BitVec 1)
  /-- TCVT (R270). -/
  | tcvt (s : BitVec 8) (t : BitVec 7) (e : BitVec 1)
  /-- TRD (R274). -/
  | trd (d : BitVec 6) (a : BitVec 6) (s : BitVec 8) (z : BitVec 1)
  /-- TWR (R274). -/
  | twr (d : BitVec 6) (a : BitVec 6) (s : BitVec 8) (z : BitVec 1)
  /-- TRDT (R274). -/
  | trdt (d : BitVec 6) (a : BitVec 6) (s : BitVec 8) (z : BitVec 1)
  /-- TATOM.op (R275). -/
  | tatom (d : BitVec 6) (a : BitVec 6) (s : BitVec 8) (o : BitVec 4)
  /-- OCLAIM (R277). -/
  | oclaim (s : BitVec 8)
  /-- OREL (R277). -/
  | orel (s : BitVec 8)
  /-- OFILL (R278). -/
  | ofill (s : BitVec 8) (t : BitVec 7) (e : BitVec 1)
  /-- OFILL.S24 (R279). -/
  | ofillS24 (s : BitVec 8) (t : BitVec 7) (e : BitVec 1)
  /-- OFILL.G (R350). -/
  | ofillG (s : BitVec 8) (t : BitVec 7) (e : BitVec 1)
  /-- OWAIT (R277). -/
  | owait (s : BitVec 8)
  /-- MMA (R281). -/
  | mma (s : BitVec 8) (t : BitVec 7) (e : BitVec 1)
  /-- MMAS (R281). -/
  | mmas (s : BitVec 8) (t : BitVec 7) (e : BitVec 1)
  /-- MMAT (R281). -/
  | mmat (s : BitVec 8) (t : BitVec 7) (e : BitVec 1)
  /-- SPMM (R352). -/
  | spmm (s : BitVec 8) (t : BitVec 7) (e : BitVec 1)
  /-- PGEN (R347). -/
  | pgen (s : BitVec 8) (t : BitVec 7) (e : BitVec 1) (v : BitVec 1)
  /-- PGEN (R348). -/
  | pgenMat (s : BitVec 8) (t : BitVec 7) (e : BitVec 1)
  /-- PMERGE (R349). -/
  | pmerge (s : BitVec 8) (t : BitVec 7) (e : BitVec 1) (k : BitVec 1) (n : BitVec 1)
  /-- PLOAD (R336). -/
  | pload (s : BitVec 8)
  /-- PFREE (R336). -/
  | pfree (s : BitVec 8)
  /-- STREAM (R283). -/
  | stream (s : BitVec 8) (t : BitVec 7) (e : BitVec 1) (m : BitVec 1)
  /-- HCOPY (R327). -/
  | hcopy (s : BitVec 7) (t : BitVec 7) (e : BitVec 1) (b : BitVec 1)
  /-- SNAP (R329). -/
  | snap (s : BitVec 7) (t : BitVec 7) (e : BitVec 1)
  /-- CWAIT (R284). -/
  | cwait (s : BitVec 8)
  /-- EVPOP (R310). -/
  | evpop (s : BitVec 6) (n : BitVec 1)
  /-- SHDEF (R262). -/
  | shdef (s : BitVec 8)
  /-- SHFREE (R263). -/
  | shfree (s : BitVec 8)
  /-- SPAWN (R288). -/
  | spawn (s : BitVec 7)
  /-- SPAWNN (R289). -/
  | spawnn (s : BitVec 7)
  /-- SPAWNA (R290). -/
  | spawna (s : BitVec 7) (t : BitVec 7)
  /-- SYNC (R295). -/
  | sync
  /-- LAUNCH (R300). -/
  | launch (s : BitVec 7)
  /-- BARF (R297). -/
  | barf (d : BitVec 3)
  /-- PEDRD (R368). -/
  | pedrd (s : BitVec 8)
  /-- PEDCMP (R369). -/
  | pedcmp (s : BitVec 7)
  /-- PALLOC (R364). -/
  | palloc (s : BitVec 7)
  /-- RVIEW (R360). -/
  | rview (s : BitVec 8) (m : BitVec 1)
  /-- OSKIP (R367). -/
  | oskip (s : BitVec 8)
  /-- PRIO (R311). -/
  | prio (s : BitVec 8)
  /-- PRAND (R392). -/
  | prand (g : BitVec 4) (d : BitVec 6)
  /-- PRANDF (R392). -/
  | prandf (g : BitVec 4) (d : BitVec 6)
  /-- RUPD (R359). -/
  | rupd (g : BitVec 4) (d : BitVec 6) (a : BitVec 6) (b : BitVec 6)
  /-- CSRR (R98). -/
  | csrr (s : BitVec 8) (c : BitVec 12)
  /-- CSRW (R98). -/
  | csrw (s : BitVec 8) (c : BitVec 12)
  /-- CSRW (R386). -/
  | csrwStat (s : BitVec 8)
  /-- CSRW (R393). -/
  | csrwSeed (s : BitVec 7)
  /-- CSRW (R198). -/
  | csrwLxs (s : BitVec 8)
  /-- CSRW (R198). -/
  | csrwLxp (s : BitVec 8)
  /-- CSRW (R328). -/
  | csrwCpyshare (s : BitVec 8)
  /-- CSRW (R395). -/
  | csrwPerfsel (s : BitVec 8) (k : BitVec 4)
  /-- CSRW (R198). -/
  | csrwLxt (s : BitVec 8) (k : BitVec 3)
  /-- CLOCK (R394). -/
  | clock (s : BitVec 7)
  /-- LOCQ (R22). -/
  | locq (s : BitVec 8)
  /-- PERFRD (R396). -/
  | perfrd (s : BitVec 8) (k : BitVec 4)
  /-- TLBINV (R384). -/
  | tlbinv (s : BitVec 7)
  /-- CTXSV (R410). -/
  | ctxsv (s : BitVec 7)
  /-- CTXLD (R412). -/
  | ctxld (s : BitVec 7)
  /-- HIMM (R69). -/
  | himm (h : BitVec 22)
  /-- HMOD (R70). -/
  | hmod (n : BitVec 1) (t : BitVec 1) (v : BitVec 1) (k : BitVec 3) (c : BitVec 2) (o : BitVec 2) (r : BitVec 1) (m : BitVec 3)
  /-- HGRD (R72). -/
  | hgrd (g : BitVec 4)
  /-- HTGT (R73). -/
  | htgt (h : BitVec 22)
  /-- HSEQ (R68). -/
  | hseq (s : BitVec 6)
  /-- Event POWER_ON_BOOT (R331). -/
  | powerOnBoot (strap0 strap1 : Bool)
  /-- Event CONTEXT_CREATE (R319). -/
  | contextCreate (num : Nat) (sup : Bool) (ptroot seed : DWord) (ringPA : Nat) (latOff : Nat)
  /-- Event MGMT_SET_POWER_CAP (R332). -/
  | mgmtSetPowerCap (watts : Nat)
  /-- Event MGMT_REPORT_STATUS (R332). -/
  | mgmtReportStatus
  /-- Event MGMT_REPLACE_FRONT_PROGRAM (R319). -/
  | mgmtReplaceFrontProgram (num : Nat) (text : DWord) (textsz entry : Word) (args : DWord)
  /-- Event MGMT_TRAIN_PORT (R332). -/
  | mgmtTrainPort (iod port : Nat) (ok : Bool)
  /-- Event MGMT_FIRMWARE_UPDATE (R332). -/
  | mgmtFirmwareUpdate (sigOk : Bool)
  /-- Event THERMAL_THROTTLE (R332). -/
  | thermalThrottle (die celsius : Nat)
  /-- Event THERMAL_SHUTDOWN (R332). -/
  | thermalShutdown (die celsius : Nat)
  /-- Event HOST_WRITE (R181). -/
  | hostWrite (port : Nat) (pa : Nat) (bytes : List Byte) (rid : Half)
  /-- Event HOST_READ (R223). -/
  | hostRead (port : Nat) (pa n : Nat)
  /-- Event ERRCLR (R321). -/
  | errclr (iod : Nat) (val : DWord)
  /-- Event WIN_ENTRY_WRITE (R321). -/
  | winEntryWrite (iod w : Nat) (hi : Bool) (val : DWord)
  /-- Event LATTICE_BROADCAST_WRITE (R322). -/
  | latticeBroadcastWrite (port iod : Nat) (off : Nat) (bytes : List Byte) (rid : Half)
  /-- Event MMIO_REGISTER_WRITE (R321). -/
  | mmioRegisterWrite (port iod : Nat) (off : Nat) (bytes : List Byte) (rid : Half)
  /-- Event CLOLY_FLIT_RECEIVE (R324). -/
  | clolyFlitReceive (iod port : Nat) (crcOk : Bool) (payload : List Byte)
  /-- Event CLOLY_LINK_DOWN (R324). -/
  | clolyLinkDown (iod port : Nat)
  /-- Event REMOTE_WINDOW_ACCESS (R325). -/
  | remoteWindowAccess (pa : Nat) (wr : Option (List Byte)) (n : Nat)
  /-- Event LATTICE_EXCHANGE_ROUND (R198). -/
  | latticeExchangeRound
  /-- Event FELDSPAR_JOIN_ARRIVAL (R198). -/
  | feldsparJoinArrival
  /-- Event LSYNC_COMPLETE (R249). -/
  | lsyncComplete (gid : Nat)
  /-- Event MONITOR_REREAD (R241). -/
  | monitorReread (gid : Nat) (pc : DWord)
  /-- Event WAIT_POLL (R242). -/
  | waitPoll (gid : Nat) (pc : DWord)
  /-- Event WAIT_FOR_WALK (R380). -/
  | waitForWalk
  /-- Event AGING_PROMOTION (R313). -/
  | agingPromotion (gid : Nat)
  /-- Event TASK_START (R294). -/
  | taskStart (core part : Nat)
  /-- Event GANG_DRAIN (R308). -/
  | gangDrain (gid : Nat)
  /-- Event SYNC_COMPLETE (R295). -/
  | syncComplete (gid : Nat)
  /-- Event BARF_PHASE_COMPLETE (R297). -/
  | barfPhaseComplete (tkey : Nat)
  /-- Event LAUNCH_START (R303). -/
  | launchStart (lkey : Nat)
  /-- Event TEAM_PLACEMENT (R306). -/
  | teamPlacement (lkey : Nat)
  /-- Event LAUNCH_COMPLETE (R309). -/
  | launchComplete (lkey : Nat)
  /-- Event ENGINE_COMMAND_START (R254). -/
  | engineCommandStart (cid : Nat)
  /-- Event ENGINE_COMMAND_COMPLETION (R255). -/
  | engineCommandCompletion (cid : Nat)
  /-- Event SNAP_CUT (R330). -/
  | snapCut
  /-- Event SNAP_BLOCK_COPY (R330). -/
  | snapBlockCopy
  /-- Event RACE_CHECK (R372). -/
  | raceCheck (gid : Nat) (pa : Nat) (mask : Half) (rd : Bool)
  /-- Event FILTER_SPILL (R374). -/
  | filterSpill (sect : Nat)
  /-- Event MIGRATE_SERVICE (R181). -/
  | migrateService (num : Nat) (va : DWord)
  /-- Event ARENA_ZERO_FILL (R365). -/
  | arenaZeroFill (num : Nat) (va : DWord)
  /-- Event PAGE_WALK (R383). -/
  | pageWalk (num core : Nat) (va : DWord)
  /-- Event VIEW_SPILL (R361). -/
  | viewSpill (gid red : Nat) (out : Bool)
  /-- Event CONTEXT_RESTORE_PLACEMENT (R412). -/
  | contextRestorePlacement (num : Nat)
  /-- Event ILLEGAL_WORD (R75). -/
  | illegalWord (w : Word)
  /-- Event POWER_CAP_CLOCK_STEP (R332). -/
  | powerCapClockStep (down : Bool)
  /-- Event HOST_CONFIGURATION_REQUEST (R331). -/
  | hostConfigurationRequest (port : Nat)
  deriving DecidableEq, Repr

end Sys2Proof
end

