-- ==== Sys2Proof/Machine/State.lean ====
section
/-! DEFINITION. The state of the H40: everything spec/ gives the machine, as plain data. INVENTORY.md lists each item
with its rule and its reset value. -/
namespace Sys2Proof.Machine

/-- Why a step can stop. -/
inductive Fault where
  /-- A main word was executed while no unit is being issued. Raised by a meaning applied outside a step; never by
  step itself, which issues a batch first. Safe: the manual has no such case. -/
  | noBatch
  deriving DecidableEq, Repr

/-- Why a step can be refused. -/
inductive Refusal where
  /-- An instruction without a meaning, by its mnemonic. Raised by Dispatch only. Safe. -/
  | notModelled (mnemonic : String)
  deriving DecidableEq, Repr

/-- One fibre (R85). P7 is constant and not stored; FIX is the place in the gang's list. -/
structure Fibre where
  /-- The allocation, A registers (R86). -/
  regs : List Word
  /-- Window base WB. -/
  wb : Nat
  /-- P0 to P6. -/
  p : BitVec 7
  /-- Draw counter DRW. -/
  drw : Word
  /-- Allocation registers that hold poison (R406). -/
  bad : List Nat
  deriving DecidableEq, Repr

/-- One element of a reducer view: a word or double word, or an XSUM32 element (R49, R196). -/
inductive VElem where
  | w (x : DWord)
  | x (sum : BitVec 320) (nan pos neg : Bool)
  deriving DecidableEq, Repr

/-- A view with storage (R358): where it lies, in 16-byte units of the view store of a core or of the launch's backing
area, and its elements. A spilled view's elements stand in memory and elems is empty. bad lists the elements that hold
poison (R406). IDENT bindings are none. -/
structure View where
  spill : Bool
  core : Nat
  loc : Nat
  elems : List VElem
  bad : List Nat
  deriving DecidableEq, Repr

/-- A pedigree (R88). levels lists (RANK, FLOOR) of level 1 upward; DEPTH is its length. -/
structure Ped where
  mode : Nat
  root : Bool
  devl : Bool
  lid : Word
  levels : List (Word × Word)
  deriving DecidableEq, Repr

/-- The ST field of a batch-table entry in use (R90). -/
inductive BatchSt where
  | ready
  | waiting (wk : Nat)
  | trapped
  deriving DecidableEq, Repr

/-- A batch-table entry in use (R90), with its pass count (R93) and what a waiting instruction captured at issue: the
compare value of a WAITA (R241), the member set of a cross-fibre wait, the operands a re-read needs. -/
structure Batch where
  memb : Mask
  pc : DWord
  st : BatchSt
  passed : Nat
  cap : List DWord
  /-- While it waits: the address after its unit. -/
  next : DWord
  /-- This wait has been counted as one that found no monitor entry or watch (R242, R248). -/
  polled : Bool
  deriving DecidableEq, Repr

/-- What a held engine fault belongs to (R258, R389): a command, or a counter increment of a completed command. -/
inductive Held where
  | cmd (cid : Nat)
  | incr (cid : Nat)
  deriving DecidableEq, Repr

/-- A trap, active or pending (R399, R400): the values of the fault CSRs and what TRET needs. -/
structure Trap where
  cause : Word
  tepc : Word
  /-- The fault mask F. -/
  tmask : Mask
  taddr : DWord
  tinfo : Word
  /-- The fibres of the trap batch B. -/
  bmask : Mask
  /-- Where the fibres of B outside F stand: they completed the unit (R165). -/
  good : List (DWord × Mask)
  /-- The unit after the faulting one, for TRET skip. -/
  skip : DWord
  held : Option Held
  deriving DecidableEq, Repr

/-- What a drained child or root gang leaves for its parent's SYNC (R295): its rank, final views and final STAT. -/
structure Final where
  rank : Word
  views : List (Option View)
  stat : BitVec 5
  deriving DecidableEq, Repr

/-- Issue selection state of a gang (R93, R312 to R314). None of it has an architectural effect. -/
structure Sched where
  /-- Issue stamp of the last issue in any class. -/
  last : Nat
  /-- Clock of the last issue or of becoming eligible (R313). -/
  since : Nat
  /-- Levels raised by aging (R313). -/
  raised : Nat
  /-- In class D by spin demotion (R314). -/
  demoted : Bool
  /-- The last 64 units taken, newest first, with whether a register write changed a value at or after each. -/
  hist : List (DWord × Bool)
  /-- Sectors read since the branch of a demotion (R314). -/
  reads : List Nat
  /-- The batch issued last stood at this PC. -/
  lastPc : Option DWord
  deriving DecidableEq, Repr

/-- A task entry (R292), with the copies a child takes from its parent at the spawn (R291). -/
structure TaskEntry where
  /-- A unique number. -/
  key : Nat
  lkey : Nat
  parent : Nat
  entry : Word
  args : DWord
  wcode : Nat
  vregs : Nat
  fan : Bool
  pend : Bool
  rank0 : Word
  flr : Word
  count : Nat
  stride : Word
  /-- The parent's levels 1 to D - 1 at the spawn, reached by FRAME. -/
  base : List (Word × Word)
  caddr : DWord
  cval : DWord
  cscope : Nat
  /-- Copies for the child: STATARM, TVEC, SEED, GANGID, TEAMID, priority, MODE, DEVL. -/
  statarm : BitVec 5
  tvec : DWord
  seed : DWord
  gangId : Word
  teamId : Word
  prio : Nat
  pmode : Nat
  devl : Bool
  /-- Its record's place in the backing store (R292). -/
  place : Nat
  /-- As a pending entry it has been counted as one that found no monitor entry (R242). -/
  polled : Bool
  deriving DecidableEq, Repr

/-- A gang (R87): a unit of issue with its fibres. -/
structure Gang where
  /-- Device-wide gang slot: a unique number. -/
  gid : Nat
  /-- The launch it belongs to. -/
  lkey : Nat
  /-- Context number. -/
  ctx : Nat
  /-- The team of a root gang. -/
  team : Option Nat
  /-- The parent of a spawned gang. -/
  parent : Option Nat
  /-- Rank among the frame's children, or linear index among root gangs. -/
  rank : Word
  core : Nat
  part : Nat
  width : Nat
  vregs : Nat
  sregs : List Word
  q : BitVec 7
  m : List Mask
  /-- M7. -/
  live : Mask
  ped : Ped
  arena : List Word
  views : List (Option View)
  stat : BitVec 5
  statarm : BitVec 5
  seed : DWord
  tvec : DWord
  gangId : Word
  teamId : Word
  prio : Nat
  tcause : Word
  tepc : Word
  tmask : Word
  tmaskh : Word
  taddr : Word
  taddrh : Word
  tinfo : Word
  batches : List Batch
  trap : Option Trap
  pending : List Trap
  fibres : List Fibre
  /-- Turns complete on the 64 ordered sequences (R366). -/
  turns : BitVec 64
  /-- A turn held open by a faulted .ORD unit: the sequence and the unit's address (R237). -/
  openTurn : Option (Nat × DWord)
  /-- Children of the frame and nested launches not yet drained or complete (R295). -/
  outstanding : Nat
  finals : List Final
  /-- A fibre was killed in the current barrier phase; this gang has arrived (R297). -/
  arrived : Bool
  /-- Next issue sequence number of an engine command (R417). -/
  cmdSeq : Nat
  /-- Lattice sectors (die, sector, cell type) joined since the last LSYNC (R249). -/
  joined : List (Nat × Nat × Nat)
  /-- 64-byte block in the instruction buffer (R93). -/
  ibuf : Option DWord
  sched : Sched
  /-- The last live fibre's EXIT or a kill has ended the gang; it drains (R308). -/
  exited : Bool
  /-- The gang's state lies in an inline record while a child runs in its place (R293). -/
  inlined : Option Nat
  /-- The rest of a fan whose children run inline one after another (R293). -/
  inlineFan : Option TaskEntry
  /-- S registers that hold poison (R406). -/
  poisonS : List Nat
  /-- A restored gang on another die waits until the die's replica holds these lattice sectors, by offset (R216). -/
  behind : List (Nat × List Byte)
  /-- A FENCE.AR or FENCE.REL makes each later store a release at this level (R208): 0 none, 1 as DIE, 2 as DEV. -/
  owed : Nat
  deriving DecidableEq, Repr

/-- A tile-table entry that is LIVE (R192) with its contents. -/
structure Tile where
  hnd : Nat
  /-- 0 L, 1 Q, 2 A. -/
  lvl : Nat
  /-- The core that allocated it (levels L and A). -/
  core : Nat
  fmt : Nat
  rows : Nat
  cols : Nat
  v : Bool
  c : Bool
  fresh : Bool
  /-- Allocation serial: an element not listed holds what the last holder left (Config.tileJunk). -/
  serial : Nat
  /-- Elements written since allocation, by r * cols + c. -/
  data : List (Nat × Word)
  /-- Elements that hold poison (R406). -/
  poison : List Nat
  /-- The scope of the completion that a wait on the tile observes (R218): 0 TEAM, 1 DIE, 2 DEV, 3 SYS. -/
  scope : Nat
  deriving DecidableEq, Repr

/-- A placed team (R304, R415). -/
structure Team where
  tkey : Nat
  lkey : Nat
  teamId : Word
  /-- Its cores, by place. -/
  cores : List Nat
  /-- Its core-local team slot on each of them (R194). -/
  tslots : List Nat
  granules : Nat
  /-- Barrier phase (R297). -/
  phase : Nat
  broken : Bool
  tiles : List Tile
  /-- Event queue, oldest first: record and completion scope (R256, R310). -/
  evq : List (BitVec 128 × Nat)
  deriving DecidableEq, Repr

/-- An operand slot that is not free (R194). -/
structure Slot where
  core : Nat
  tkey : Nat
  /-- TEAM: the core-local team slot of the holder. -/
  tslot : Nat
  hnd : Nat
  /-- 1 claimed, 2 filling, 3 full, 4 consumed. -/
  st : Nat
  kind : Nat
  fmt : Nat
  bmp : BitVec 24
  data : List Byte
  /-- Bytes that hold poison (R406). -/
  bad : List Nat
  /-- The scope of the completion that a wait on the slot observes (R218). -/
  scope : Nat
  deriving DecidableEq, Repr

/-- A generator context in use (R344): the run of a section, the outer index and the progress of its command. out, row,
bases and acc are what the engine holds of its output beside the context's 96 words; they follow from those words and the
pattern. -/
structure GenCtx where
  pc : Nat
  sec : Nat
  mode : Nat
  phase : Bool
  outer : Word
  steps : Nat
  last : Word
  g : List Word
  /-- Open loops, innermost first: count, index, start word. -/
  loops : List (Word × Word × Nat)
  sbuf : List Nat
  /-- Emitted by the run, newest first: value, ordinal given by EMITP, emitting word. -/
  out : List (Nat × Nat × Nat)
  /-- The emits of the outer index once its FWD or INV run has ended, oldest first. -/
  row : List (Nat × Nat × Nat)
  /-- Value-index bases found so far for that row. -/
  bases : List Nat
  /-- Writing pass of MAT: entries so far, sorted (column, row, value index). -/
  acc : List (Nat × Nat × Nat)
  prog0 : Nat
  prog1 : Nat
  deriving DecidableEq, Repr

/-- Where an engine command stands (R254 to R258, R271, R389, R411). heldFault: stopped; heldDone: its completion waits
for event-queue space; heldIncr: complete but for its counter increment, which failed; heldNote: complete, with a
COMPRESS_OVF to deliver. -/
inductive CmdSt where
  | queued
  | started
  | performed
  | heldFault
  | heldDone
  | heldIncr
  | heldNote
  deriving DecidableEq, Repr

/-- An accepted engine command with what it captured at issue (R251, R257, R417). -/
structure Command where
  cid : Nat
  gid : Nat
  core : Nat
  tkey : Option Nat
  lkey : Nat
  opc : Nat
  fn : Nat
  x : Nat
  params : List Word
  hmod : BitVec 22
  /-- Whether SB names a counter, and its address. -/
  hasCnt : Bool
  cnt : DWord
  /-- An operand fill that has taken its slot (R195). -/
  owns : Bool
  /-- An operand fill issued while its slot was filling: it follows once the slot is full (R195). -/
  after : Bool
  unitOff : Word
  seq : Nat
  ped : Ped
  shape : List Byte
  pattern : List Byte
  st : CmdSt
  gen : Option GenCtx
  status : Nat
  count : Nat
  aux : Word
  cval : Word
  flags : BitVec 5
  /-- It has completed with a COMPRESS_OVF to deliver (R271), beside a failed increment. -/
  note : Bool
  fcause : Word
  faddr : DWord
  finfo : Word
  deriving DecidableEq, Repr

/-- An entry of a partition's deque. The list of all entries keeps each deque's order, oldest first. -/
structure DequeEnt where
  core : Nat
  part : Nat
  task : TaskEntry
  deriving DecidableEq, Repr

/-- A reducer descriptor (R357). -/
structure Reducer where
  type : Nat
  count : Nat
  result : DWord
  deriving DecidableEq, Repr

/-- An arena descriptor (R363); terms are (LEV, WID). -/
structure Arena where
  base : DWord
  slog2 : Nat
  cbits : Nat
  terms : List (Nat × Nat)
  deriving DecidableEq, Repr

/-- The fields of a launch record (R298). -/
structure LRec where
  text : DWord
  textsz : Word
  entry : Word
  args : DWord
  nteams : Word
  wcode : Nat
  gangs : Nat
  vregs : Nat
  mode : Nat
  scatter : Bool
  prio : Nat
  front : Bool
  seedsrc : Bool
  queue : Nat
  tiles : Nat
  seed : DWord
  cmask : BitVec 160
  depaddr : DWord
  depval : DWord
  cpladdr : DWord
  crecaddr : DWord
  cplscope : Nat
  ev : Bool
  tvec : DWord
  bsbase : DWord
  bscap : Nat
  inlcap : Nat
  inlbase : DWord
  redtab : DWord
  nred : Nat
  narena : Nat
  arenatab : DWord
  viewbase : DWord
  viewcap : Nat
  filtcap : Nat
  filtbase : DWord
  flogbase : DWord
  flogcap : Nat
  deriving DecidableEq, Repr

/-- Where a launch stands; posting: complete, but its record waits for event-queue space (R309). -/
inductive LaunchSt where
  | queued
  | started
  | posting (rec : BitVec 128) (inv : BitVec 5)
  deriving DecidableEq, Repr

/-- A record of a launch's inline area (R293): whose, at which offset, its size, and whether every write of it was made. -/
structure InlineRec where
  gid : Nat
  off : Nat
  size : Nat
  whole : Bool
  deriving DecidableEq, Repr

/-- An accepted launch that has not completed (R300 to R309). -/
structure Launch where
  lkey : Nat
  lid : Word
  ctx : Nat
  host : Bool
  /-- The root launch whose filter it shares (R370). -/
  root : Nat
  /-- The launch that issued a device launch. -/
  up : Option Nat
  r : LRec
  /-- The record's bytes, SEED captured (R414). -/
  raw : List Byte
  seed : DWord
  mode : Nat
  issuer : Option Nat
  issuerTeam : Option Nat
  /-- The issuer's levels 1 to D for a device launch (R301). -/
  base : List (Word × Word)
  st : LaunchSt
  nextTeam : Nat
  cursor : Nat
  freed : Nat
  trapped : Bool
  reds : List Reducer
  arenas : List Arena
  finals : List Final
  /-- Cursors of the 64 ordered sequences (R366). -/
  cursors : List Nat
  /-- Turn masks of exited root gangs, by linear index (R366). -/
  turnMasks : List (Nat × BitVec 64)
  backing : List TaskEntry
  /-- Records of the inline area in use (R293). -/
  inlines : List InlineRec
  flogUsed : Nat
  deriving DecidableEq, Repr

/-- The front program of a context (R319). -/
structure Front where
  k : Nat
  /-- The context seed, at which SEED starts. -/
  seed : DWord
  /-- The gang of a replacement program, on the management core. -/
  gid : Option Nat
  deriving DecidableEq, Repr

/-- A context (R398). -/
structure Context where
  num : Nat
  supervisor : Bool
  ptroot : DWord
  running : Bool
  /-- PA of the ring of command blocks (R317). -/
  ring : Nat
  /-- Lattice offset of the POSTED and DONE page (R317). -/
  lat : Nat
  lidCtr : Word
  /-- Shape slots that were ever live: slot, GEN, LIVE, record (R356). -/
  shapes : List (Nat × Nat × Bool × List Byte)
  /-- Pattern slots that were ever live (R335). -/
  patterns : List (Nat × Nat × Bool × List Byte)
  front : Front
  deriving DecidableEq, Repr

/-- A monitor entry in use (R377). -/
structure Monitor where
  core : Nat
  place : Nat
  sect : Nat
  kind : Nat
  gid : Nat
  pc : DWord
  /-- The members of the batch that waits: a gang may have two waiting batches at one PC (R92). -/
  memb : Mask
  deriving DecidableEq, Repr

/-- A watch of a die's LXE (R248). -/
structure Watch where
  die : Nat
  sect : Nat
  gid : Nat
  pc : DWord
  memb : Mask
  deriving DecidableEq, Repr

/-- The dirty count of a lattice sector in a die's LXE (R198), with the cell type by which it was joined. -/
structure LatDirty where
  die : Nat
  /-- Sector number within the lattice partition. -/
  sect : Nat
  pfmt : Nat
  cnt : Nat
  deriving DecidableEq, Repr

/-- A direct send of a lattice sector, of a Feldspar join or of a gang's LSYNC (R198, R249). -/
structure LatSend where
  src : Nat
  sect : Nat
  pfmt : Nat
  dst : Nat
  gang : Option Nat
  deriving DecidableEq, Repr

/-- A cached 16-byte sector: of a core's L1, of a quad unit, or a remote copy in a die's L2 (R184, R185, R215). -/
structure Sector where
  /-- Core number (L1), quad number (core / 4) or die number (L2). -/
  own : Nat
  /-- PA / 16. -/
  sect : Nat
  data : List Byte
  valid : Half
  dirty : Half
  /-- The gang whose stores the dirty bytes of an L1 sector are; another agent reads them only at the L2 (R211). -/
  by_ : Nat
  /-- Poison, with the store in which the error arose (R406). -/
  bad : Option Nat
  deriving DecidableEq, Repr

/-- A die that still sees a home sector as it stood before a store that no release covers yet: stores become visible to
other dies at different times (R212). -/
structure Late where
  /-- The die that still sees the old bytes. -/
  die : Nat
  /-- The die of the store. -/
  src : Nat
  sect : Nat
  data : List Byte
  deriving DecidableEq, Repr

/-- A line of a core's instruction cache (R188): 128 bytes at a physical address. -/
structure ILine where
  core : Nat
  line : Nat
  data : List Byte
  bad : Bool
  deriving DecidableEq, Repr

/-- A TLB entry (R383): the page of a context that a core, or a die (number 256 upward), translates without a walk. -/
structure TlbEnt where
  core : Nat
  ctx : Nat
  base : Nat
  size : Nat
  pte : DWord
  deriving DecidableEq, Repr

/-- A race-filter entry (R372), at its home slice or, with spilled, in the launch's filter spill region at that place
(R374). -/
structure FEntry where
  root : Nat
  sect : Nat
  bmask : Half
  sid : Nat
  rd : Bool
  spilled : Option Nat
  deriving DecidableEq, Repr

/-- A strand-table entry (R371): the copy of the pedigree, the filter entries that name it, and whether it has ended. -/
structure Strand where
  root : Nat
  sid : Nat
  gid : Nat
  ped : Ped
  entries : Nat
  ended : Bool
  deriving DecidableEq, Repr

/-- A block of the range of a SNAP (R330): source and destination PA of 64 KiB, and whether it is copied. -/
structure SnapBlock where
  src : Nat
  dst : Nat
  copied : Bool
  deriving DecidableEq, Repr

/-- The snapshot in progress (R330). -/
structure Snap where
  cid : Nat
  cut : Bool
  blocks : List SnapBlock
  deriving DecidableEq, Repr

/-- An I/O die (R321, R323, R324, R328). -/
structure IoDie where
  errIdx : Nat
  errCount : Word
  discard : DWord
  log : List (BitVec 128)
  win : List (BitVec 128)
  portUp : List Bool
  cxl : Bool
  cpyshare : BitVec 8
  /-- Flits received in order by port, and replays asked for. -/
  rx : List (Nat × List Byte)
  replays : Nat
  deriving DecidableEq, Repr

/-- What the device answers to the outside: host reads, configuration requests, AER signals, reports, remote
accesses, link replays, and the places of submission areas (R317). -/
inductive OutMsg where
  | readData (port pa : Nat) (bytes : List Byte)
  | configRetry (port : Nat)
  | configOk (port : Nat)
  | aer (port : Nat)
  | status (watts : Nat) (temps : List Nat) (eccCorrected : Nat)
  | replay (iod port : Nat)
  | windowData (pa : Nat) (bytes : List Byte)
  | windowFail (pa : Nat)
  | submission (ctx ring lat : Nat)
  deriving DecidableEq, Repr

/-- The hint words and the batch of the unit that is being executed (R67, R74). -/
structure Cur where
  gid : Nat
  /-- Address of the unit's first word. -/
  base : DWord
  /-- Address of the main word. -/
  word : DWord
  /-- Address of the word after the unit. -/
  next : DWord
  /-- The main word. -/
  main : Word
  memb : Mask
  himm : Option (BitVec 22)
  hmod : Option (BitVec 22)
  hgrd : Option (BitVec 4)
  hseq : Option (BitVec 6)
  tgts : List (BitVec 22)
  /-- Sectors that the unit has read so far (R314). -/
  reads : List Nat
  /-- A race record of the unit has been written (R376). -/
  raced : Bool
  deriving DecidableEq, Repr

/-- Something that can move next: a batch's unit, an event of the opcode table, a count of the clock, the front
program of a context, a cache or TLB eviction, a write-back that some dies see later (R212), the placement of a restored
team on a named core (R412), a soft error. With a unit come the home slices that have no room for
another filter entry at that moment: the manual gives no capacity (R374). -/
inductive Act where
  | unit (gid : Nat) (pc : DWord) (full : List Nat)
  | event (i : Instr)
  | tick (n : Nat)
  | front (num : Nat)
  | evictL1 (core sect : Nat)
  | evictQuad (quad sect : Nat)
  | evictL2 (die sect : Nat)
  | evictLate (die sect : Nat) (dies : List Nat)
  | restoreAt (num core : Nat)
  | evictI (core line : Nat)
  | evictTlb (core ctx base : Nat)
  | eccSingle
  | eccMem (sect : Nat)
  | eccL1 (core sect : Nat)
  | eccL2 (die sect : Nat)
  | eccInstr (core line : Nat)
  | eccReg (gid fibre reg : Nat)
  | eccScalar (gid reg : Nat)
  | eccTile (tkey hnd elem : Nat)
  | eccSlot (core hnd byte : Nat)
  | eccView (gid red elem : Nat)
  | eccTable (lkey : Nat)
  deriving DecidableEq, Repr

/-- What the H40 keeps of a saved context beside its image in memory: the records as they stood (R410, R414). -/
structure SavedCtx where
  num : Nat
  gangs : List Gang
  teams : List Team
  launches : List Launch
  deques : List DequeEnt
  cmds : List Command
  slots : List Slot
  /-- Lattice sectors of the replicas at the save, by PA (R216). -/
  lat : List (Nat × List Byte)
  /-- Restored: teams and gangs are queued for placement (R412). -/
  pending : Bool
  deriving DecidableEq, Repr

/-- An object of a wait (R378). -/
inductive WaitObj where
  | address (va : DWord)
  | tile (hnd : Nat)
  | slot (hnd : Nat)
  | barrier (team : Nat)
  | frame (gid : Nat)
  | queue (team : Nat)
  | cursor (seq : Nat)
  | none
  deriving DecidableEq, Repr

/-- Who waits (R378, R379): a batch's gang, an engine command, or a launch whose record a full event queue holds. -/
inductive WNode where
  | gang (gid : Nat)
  | cmd (cid : Nat)
  | launch (lkey : Nat)
  deriving DecidableEq, Repr

/-- An entry of a die's wait-for table (R378). -/
structure WaitEnt where
  die : Nat
  who : WNode
  lid : Word
  /-- Device-wide gang slot of the waiter. -/
  gslot : Nat
  wk : Nat
  /-- 0 known gangs, 1 known engines, 2 unknown. -/
  sig : Nat
  obj : WaitObj
  deriving DecidableEq, Repr

/-- The whole H40. -/
structure State where
  /-- Device clock (R394). -/
  clock : Nat
  /-- Issue stamp (R312). -/
  stamp : Nat
  booted : Bool
  recovery : Bool
  shutdown : Bool
  sigOk : Bool
  mhz : Nat
  powerCap : Nat
  throttled : Bool
  eccCorrected : Nat
  mem : List Host.Cell
  remote : List Host.Cell
  l1 : List Sector
  /-- Copies of the quad units (R215, R241). -/
  quads : List Sector
  l2 : List Sector
  /-- Stores at home that some dies do not see yet (R212). -/
  late : List Late
  icache : List ILine
  tlb : List TlbEnt
  /-- Poisoned sectors at home, PA / 16, with the store in which the error arose (R406). -/
  poison : List (Nat × Nat)
  lxs : Nat
  lxp : Word
  lxt : List Word
  /-- Preset in force since the last boundary (R198). -/
  preset : Nat
  /-- Number of the next exchange round, and the clock of its boundary. -/
  round : Nat
  boundary : Nat
  /-- LXE dirty counts that are not zero. -/
  dirtyCnt : List LatDirty
  /-- Direct sends in flight (R198, R249). -/
  latSends : List LatSend
  perfsel : List (Nat × Nat × Nat)
  perf : List (Nat × Nat × Word)
  /-- The gang that issued last in a class: (core, partition, class, gang) (R312). -/
  lastIn : List (Nat × Nat × Nat × Nat)
  /-- Steal searches of each core at step 2 of R294. -/
  searches : List (Nat × Nat)
  io : List IoDie
  out : List OutMsg
  contexts : List Context
  saved : List SavedCtx
  launches : List Launch
  teams : List Team
  gangs : List Gang
  deques : List DequeEnt
  slots : List Slot
  cmds : List Command
  monitors : List Monitor
  watches : List Watch
  filter : List FEntry
  strands : List Strand
  /-- The wait-for tables of the dies (R378). -/
  waits : List WaitEnt
  snap : Option Snap
  colours : BitVec 8
  /-- Firmware's next free 64 KiB page for zero-fill and migration (R365). -/
  freePage : Nat
  /-- Counter for new gangs, teams, launches, commands, strands and tile serials. -/
  fresh : Nat
  /-- Sectors that a store, atomic or join has reached in this step (R314). -/
  wrote : List Nat
  agenda : List Act
  cur : Option Cur
  deriving DecidableEq, Repr

/-- An I/O die at reset (R321, R328). -/
def IoDie.reset : IoDie :=
  { errIdx := 0, errCount := 0, discard := 0, log := List.replicate 16 0, win := List.replicate 64 0,
    portUp := List.replicate 12 false, cxl := false, cpyshare := 0x20, rx := [], replays := 0 }

/-- The machine right after reset: no context, no launch, memory with nothing listed (R97, R198, R321, R331). -/
def State.reset : State :=
  { clock := 0, stamp := 0, booted := false, recovery := false, shutdown := false, sigOk := true,
    mhz := 1900, powerCap := 2600, throttled := false, eccCorrected := 0,
    mem := [], remote := [], l1 := [], quads := [], l2 := [], late := [], icache := [], tlb := [], poison := [],
    lxs := 0, lxp := 1024,
    lxt := [0x67452301, 0x54761032, 0x32107654, 0x67452301, 0x54761032, 0x32107654, 0x67452301, 0x54761032],
    preset := 0, round := 0, boundary := 1024, dirtyCnt := [], latSends := [],
    perfsel := [], perf := [], lastIn := [], searches := [],
    io := [IoDie.reset, IoDie.reset], out := [],
    contexts := [], saved := [], launches := [], teams := [], gangs := [], deques := [], slots := [], cmds := [],
    monitors := [], watches := [], filter := [], strands := [], waits := [], snap := none, colours := 0,
    freePage := 0x1000000000, fresh := 1, wrote := [], agenda := [], cur := none }

end Sys2Proof.Machine
end

