-- ==== Sys2Proof/Machine/Ops.lean ====
section
/-! DEFINITION. The shared operations over gangs, batches and registers: finding and changing a gang, finishing a unit,
placing and merging batches, waiting, killing, and taking a trap. -/
namespace Sys2Proof.Machine

/-- What a meaning answers. -/
abbrev Out := Host.Outcome State Fault Refusal

/-- The fault causes of R405, in the order of their codes. -/
inductive Cause where
  | illegal | regRange | align | page | prot | migrate | race | det | latticePlain | nonmono | shapeStale
  | patternStale | patternOrder | patternRange | patternNoinv | patternLimit | tileNospace | tileBad | opndState
  | pedDepth | pedRank | allocRange | ordNotRoot | xfibreDeadlock | deadlock | flagArmed | compressOvf | spawnWidth
  | software | bkpt | eccUncorr
  deriving DecidableEq, Repr

/-- The code of a cause in TCAUSE (R405). -/
def Cause.code : Cause → Nat
  | .illegal => 0x01 | .regRange => 0x02 | .align => 0x03 | .page => 0x04 | .prot => 0x05 | .migrate => 0x06
  | .race => 0x07 | .det => 0x08 | .latticePlain => 0x09 | .nonmono => 0x0A | .shapeStale => 0x0B
  | .patternStale => 0x0C | .patternOrder => 0x0D | .patternRange => 0x0E | .patternNoinv => 0x0F
  | .patternLimit => 0x10 | .tileNospace => 0x11 | .tileBad => 0x12 | .opndState => 0x13 | .pedDepth => 0x14
  | .pedRank => 0x15 | .allocRange => 0x16 | .ordNotRoot => 0x17 | .xfibreDeadlock => 0x18 | .deadlock => 0x19
  | .flagArmed => 0x1A | .compressOvf => 0x1B | .spawnWidth => 0x1C | .software => 0x1D | .bkpt => 0x1E
  | .eccUncorr => 0x1F

/-- TCAUSE for a cause. -/
def Cause.word (c : Cause) : Word := BitVec.ofNat 32 c.code

/-- The order in which the causes of one access prevail (R227). MIGRATE, which is never written to TCAUSE (R405), yields
to every other cause of the mask; its fibres stand in the mask and are migrated when they are replayed (R228, log 71). -/
def Cause.rank : Cause → Nat
  | .regRange => 1 | .align => 2 | .page => 3 | .prot => 4 | .latticePlain => 6 | .nonmono => 7
  | .race => 8 | .eccUncorr => 9 | .migrate => 10 | _ => 0

/-! ## Finding and changing the parts of the state -/

def State.gang? (s : State) (gid : Nat) : Option Gang := s.gangs.find? (·.gid == gid)
def State.team? (s : State) (k : Nat) : Option Team := s.teams.find? (·.tkey == k)
def State.launch? (s : State) (k : Nat) : Option Launch := s.launches.find? (·.lkey == k)
def State.ctx? (s : State) (n : Nat) : Option Context := s.contexts.find? (·.num == n)
def State.cmd? (s : State) (n : Nat) : Option Command := s.cmds.find? (·.cid == n)

def State.modGang (s : State) (gid : Nat) (f : Gang → Gang) : State :=
  { s with gangs := s.gangs.map fun g => if g.gid == gid then f g else g }
def State.modTeam (s : State) (k : Nat) (f : Team → Team) : State :=
  { s with teams := s.teams.map fun t => if t.tkey == k then f t else t }
def State.modLaunch (s : State) (k : Nat) (f : Launch → Launch) : State :=
  { s with launches := s.launches.map fun l => if l.lkey == k then f l else l }
def State.modCtx (s : State) (n : Nat) (f : Context → Context) : State :=
  { s with contexts := s.contexts.map fun c => if c.num == n then f c else c }
def State.modCmd (s : State) (n : Nat) (f : Command → Command) : State :=
  { s with cmds := s.cmds.map fun c => if c.cid == n then f c else c }

/-- The die of a core (R7); the management core of CD0 that runs a replaced front program is core 160 (R319). -/
def dieOf (core : Nat) : Nat := if core ≥ 160 then 0 else core / 20

/-- Whether bit i of a mask is set. -/
def bit {n : Nat} (m : BitVec n) (i : Nat) : Bool := m.getLsbD i
/-- The mask of one fibre. -/
def maskOf (i : Nat) : Mask := BitVec.ofNat 64 (2 ^ i)
/-- The mask of the fibres below w. -/
def maskLow (w : Nat) : Mask := BitVec.ofNat 64 (2 ^ w - 1)
/-- The fibres of a mask, ascending, below w. -/
def fibresOf (w : Nat) (m : Mask) : List Nat := (List.range w).filter (bit m ·)
/-- The mask of a list of fibres. -/
def maskOfList (l : List Nat) : Mask := l.foldl (fun m i => m ||| maskOf i) 0

/-- A gang is in supervisor state when its context is a supervisor context (R398). -/
def State.sup (s : State) (g : Gang) : Bool :=
  match s.ctx? g.ctx with
  | some c => c.supervisor
  | none => false

/-- The bits of TVEC that hold a field; [1:0] and [63:57] read zero (R97). -/
def tvecBits : DWord := 0x01FFFFFFFFFFFFFC

/-! ## Registers -/

/-- A scalar register (R87). -/
def Gang.s (g : Gang) (n : Nat) : Word := g.sregs.getD n 0
/-- A scalar pair, the low word first (R3). -/
def Gang.s2 (g : Gang) (n : Nat) : DWord := pairOf (g.s n) (g.s (n + 1))
/-- Writing a scalar register; the write replaces poison. -/
def Gang.setS (g : Gang) (n : Nat) (v : Word) : Gang :=
  { g with sregs := g.sregs.set n v, poisonS := g.poisonS.filter (· != n) }
def Gang.setS2 (g : Gang) (n : Nat) (v : DWord) : Gang := (g.setS n (loWord v)).setS (n + 1) (hiWord v)
/-- Writing consecutive scalar registers. -/
def Gang.setSs (g : Gang) (n : Nat) : List Word → Gang
  | [] => g
  | v :: vs => (g.setS n v).setSs (n + 1) vs

/-- Q0 to Q6; Q7 reads 1 (R87). -/
def Gang.qget (g : Gang) (n : Nat) : Bool := if n = 7 then true else bit g.q n
/-- A write of Q7 is discarded (R61). -/
def Gang.qset (g : Gang) (n : Nat) (v : Bool) : Gang :=
  if n = 7 then g else { g with q := if v then g.q ||| BitVec.ofNat 7 (2 ^ n) else g.q &&& ~~~BitVec.ofNat 7 (2 ^ n) }
/-- M0 to M6, and M7 the live mask (R87). -/
def Gang.mget (g : Gang) (n : Nat) : Mask := if n = 7 then g.live else g.m.getD n 0
/-- A write of M7 is discarded; bits at and above the width are cleared (R121). -/
def Gang.mset (g : Gang) (n : Nat) (v : Mask) : Gang :=
  if n = 7 then g else { g with m := g.m.set n (v &&& maskLow g.width) }

/-- P0 to P6; P7 reads 1 (R85). -/
def Fibre.pget (f : Fibre) (n : Nat) : Bool := if n = 7 then true else bit f.p n
/-- A write of P7 is discarded (R61). -/
def Fibre.pset (f : Fibre) (n : Nat) (v : Bool) : Fibre :=
  if n = 7 then f else { f with p := if v then f.p ||| BitVec.ofNat 7 (2 ^ n) else f.p &&& ~~~BitVec.ofNat 7 (2 ^ n) }

/-- A fault of one fibre: its cause, its address and the bits [31:9] of TINFO (R228). -/
structure FFault where
  fix : Nat
  cause : Cause
  addr : DWord
  info : Nat
  deriving DecidableEq, Repr

/-- What a fibre's part of an instruction answers: a value, or a cause with the high bits of TINFO. -/
abbrev FRes := Except (Cause × Nat)

/-- A group of cnt V registers from n, counted from WB: beyond the allocation is REG_RANGE (R58, R86), poison is
ECC_UNCORR with the register that holds it (R406). -/
def Fibre.chk (f : Fibre) (n cnt : Nat) : FRes Unit :=
  if f.wb + n + cnt > f.regs.length then .error (.regRange, 0)
  else match f.bad.find? (fun r => f.wb + n ≤ r && r < f.wb + n + cnt) with
    | some r => .error (.eccUncorr, 3 * 2 ^ 28 + ((r - f.wb) % 256) * 2 ^ 20)
    | none => .ok ()

/-- The destination test: only the range (R86). -/
def Fibre.chkD (f : Fibre) (n cnt : Nat) : FRes Unit :=
  if f.wb + n + cnt > f.regs.length then .error (.regRange, 0) else .ok ()

/-- V register n of the window, its place already tested. -/
def Fibre.v (f : Fibre) (n : Nat) : Word := f.regs.getD (f.wb + n) 0
/-- A V pair (R3). -/
def Fibre.v2 (f : Fibre) (n : Nat) : DWord := pairOf (f.v n) (f.v (n + 1))
/-- Writing V register n of the window; the write replaces poison. -/
def Fibre.setV (f : Fibre) (n : Nat) (x : Word) : Fibre :=
  { f with regs := f.regs.set (f.wb + n) x, bad := f.bad.filter (· != f.wb + n) }
def Fibre.setV2 (f : Fibre) (n : Nat) (x : DWord) : Fibre := (f.setV n (loWord x)).setV (n + 1) (hiWord x)
/-- Writing consecutive V registers. -/
def Fibre.setVs (f : Fibre) (n : Nat) : List Word → Fibre
  | [] => f
  | x :: xs => (f.setV n x).setVs (n + 1) xs

/-- A fibre of a gang. -/
def Gang.fibre (g : Gang) (i : Nat) : Fibre :=
  g.fibres.getD i { regs := [], wb := 0, p := 0, drw := 0, bad := [] }
/-- Replacing a fibre. -/
def Gang.setFibre (g : Gang) (i : Nat) (f : Fibre) : Gang := { g with fibres := g.fibres.set i f }

/-- The guard of a GD field in one fibre (R59). -/
def guardOf (gd : BitVec 4) (f : Fibre) : Bool := f.pget (gd.toNat % 8) != bit gd 3

/-- The launch of a gang is deterministic (R14). -/
def Gang.det (g : Gang) : Bool := g.ped.mode ≤ 1

/-- The depth of a pedigree (R88). -/
def Ped.depth (p : Ped) : Nat := p.levels.length
/-- The last level (r, f). -/
def Ped.last (p : Ped) : Word × Word := p.levels.getLastD (0, 0)
/-- Replacing the last level. -/
def Ped.setLast (p : Ped) (l : Word × Word) : Ped := { p with levels := p.levels.dropLast ++ [l] }
/-- Word 0 of PED (R88). -/
def Ped.header (p : Ped) : Word :=
  BitVec.ofNat 32 (p.depth + p.mode * 256 + (if p.root then 1024 else 0) + (if p.devl then 2048 else 0))
/-- The 34 words of PED (R88). -/
def Ped.words (p : Ped) : List Word :=
  let ls := p.levels.flatMap fun l => [l.1, l.2]
  (p.header :: p.lid :: ls) ++ List.replicate (32 - ls.length) 0

/-! ## Event counters -/

/-- The event that counter k of a core selects (R395). -/
def State.perfSel (s : State) (core k : Nat) : Nat :=
  match s.perfsel.find? (fun e => e.1 == core && e.2.1 == k) with
  | some e => e.2.2
  | none => 0
/-- Counter k of a core. -/
def State.perfGet (s : State) (core k : Nat) : Word :=
  match s.perf.find? (fun e => e.1 == core && e.2.1 == k) with
  | some e => e.2.2
  | none => 0
/-- Setting counter k of a core; a zero counter is not listed. -/
def State.perfSet (s : State) (core k : Nat) (v : Word) : State :=
  let r := s.perf.filter (fun e => !(e.1 == core && e.2.1 == k))
  { s with perf := if v = 0 then r else (core, k, v) :: r }
/-- n events of a code at a core (R395). -/
def State.bump (s : State) (core ev n : Nat) : State :=
  (s.perfsel.filter (fun e => e.1 == core && e.2.2 == ev)).foldl
    (fun s e => s.perfSet core e.2.1 (s.perfGet core e.2.1 + BitVec.ofNat 32 n)) s
/-- n events of a code at every core of a die (R395). -/
def State.bumpDie (s : State) (die ev n : Nat) : State :=
  (s.perfsel.filter (fun e => dieOf e.1 == die && e.2.2 == ev)).foldl
    (fun s e => s.perfSet e.1 e.2.1 (s.perfGet e.1 e.2.1 + BitVec.ofNat 32 n)) s

/-! ## The unit being executed -/

/-- The unit being issued and its gang; outside an issue there is none. -/
def withCur (s : State) (k : Cur → Gang → Out) : Out :=
  match s.cur with
  | none => .fault .noBatch
  | some c =>
    match s.gang? c.gid with
    | none => .fault .noBatch
    | some g => k c g

/-- The text base of a gang's launch (R155). -/
def State.textOf (s : State) (g : Gang) : DWord :=
  match s.launch? g.lkey with
  | some l => l.r.text
  | none => 0
def State.textSz (s : State) (g : Gang) : Nat :=
  match s.launch? g.lkey with
  | some l => l.r.textsz.toNat
  | none => 0

/-- The batch belongs to the active trap (R399, class T). -/
def Gang.inTrap (g : Gang) (m : Mask) : Bool :=
  match g.trap with
  | some t => m &&& t.bmask == m && m != 0
  | none => false

/-- Placing fibres at a PC (R91, R92): they join a batch of their own class that is ready there, or one that waits
there with WK 0 or 11; otherwise they are a batch of their own. -/
def placeIn (inTrap : Mask → Bool) (pc : DWord) (m : Mask) (st : BatchSt) : List Batch → List Batch
  | [] => [{ memb := m, pc := pc, st := st, passed := 0, cap := [], next := 0, polled := false }]
  | b :: bs =>
    if b.pc = pc && inTrap b.memb == inTrap m && (b.st == st || b.st == .waiting 0 || b.st == .waiting 11) then
      { b with memb := b.memb ||| m } :: bs
    else b :: placeIn inTrap pc m st bs

/-- Placing fibres of a gang at a PC; no fibre is no batch. -/
def Gang.place (g : Gang) (pc : DWord) (m : Mask) : Gang :=
  if m = 0 then g
  else { g with batches := placeIn g.inTrap pc m (if g.inTrap m then .trapped else .ready) g.batches }

/-- Taking the fibres of m out of every batch; an empty batch is freed (R90). -/
def Gang.unbatch (g : Gang) (m : Mask) : Gang :=
  { g with batches := (g.batches.map fun b => { b with memb := b.memb &&& ~~~m }).filter (·.memb != 0) }

/-- The batch that holds exactly these fibres takes a wait (R92). -/
def Gang.waitBatch (g : Gang) (m : Mask) (wk : Nat) (cap : List DWord) (next : DWord) : Gang :=
  { g with batches := g.batches.map fun b =>
      if b.memb == m then
        { b with st := .waiting wk, cap := cap, next := next }
      else b }

/-- Adding the STAT flags that an instruction sets (R40). -/
def Gang.flags (g : Gang) (f : Flags) : Gang := { g with stat := g.stat ||| f }

/-! ## Ordered sequences (R236, R366) -/

/-- The linear index of a root gang. -/
def linIndex (l : Launch) (g : Gang) : Nat := g.teamId.toNat * l.r.gangs + g.gangId.toNat

/-- Whether the turn of the root gang with this index on a sequence is complete. -/
def turnDone (s : State) (l : Launch) (seq idx : Nat) : Bool :=
  s.gangs.any (fun g => g.lkey == l.lkey && g.ped.root && linIndex l g == idx && (bit g.turns seq || g.exited)) ||
  l.turnMasks.any (fun e => e.1 == idx && bit e.2 seq)

/-- A cursor moves past every gang whose turn is complete; n bounds the moves. -/
def moveCursor (s : State) (l : Launch) (seq : Nat) : Nat → Nat → Nat
  | 0, c => c
  | n + 1, c => if c < l.r.nteams.toNat * l.r.gangs && turnDone s l seq c then moveCursor s l seq n (c + 1) else c

/-- All cursors of a launch move on (R236). -/
def State.moveCursors (s : State) (lkey : Nat) : State :=
  match s.launch? lkey with
  | none => s
  | some l =>
    let n := s.gangs.length + l.turnMasks.length + 1
    let cs := (List.range 64).map fun q => moveCursor s l q n (l.cursors.getD q 0)
    s.modLaunch lkey fun l =>
      { l with cursors := cs,
               turnMasks := l.turnMasks.filter fun e => cs.any fun c => decide (c ≤ e.1) }

/-! ## Ending gangs -/

/-- The monitor entries and LXE watches of a gang are freed (R377). -/
def State.freeMonitors (s : State) (gid : Nat) : State :=
  { s with monitors := s.monitors.filter (·.gid != gid), watches := s.watches.filter (·.gid != gid) }

/-- A gang whose last fibre has gone exits (R161): its remaining turns are skipped, its views become final. -/
def State.exitGang (s : State) (gid : Nat) : State :=
  match s.gang? gid with
  | none => s
  | some g =>
    let s := s.modGang gid fun g =>
      { g with exited := true, batches := [], trap := none, pending := [], turns := BitVec.allOnes 64, openTurn := none }
    (s.freeMonitors gid).moveCursors g.lkey

/-- Ending fibres by EXIT or a kill: their bits leave M7 and the batch table, and the gang exits when none is left. -/
def State.endFibres (s : State) (gid : Nat) (m : Mask) : State :=
  let s := s.modGang gid fun g => { (g.unbatch m) with live := g.live &&& ~~~m }
  match s.gang? gid with
  | some g => if g.live = 0 && !g.exited then s.exitGang gid else s
  | none => s

/-- The commands of a gang that hold a fault complete with STATUS 2 (R258). -/
def State.dropHeld (s : State) (gid : Nat) : State :=
  { s with cmds := s.cmds.filterMap fun c =>
      if c.gid == gid && c.st == .heldFault then some { c with st := .performed, status := 2 }
      else if c.gid == gid && (c.st == .heldIncr || c.st == .heldNote) then none else some c }

/-- Killing fibres (R165): STAT.BRK is set and the team's barrier phase is broken (R297). -/
def State.killFibres (s : State) (gid : Nat) (m : Mask) : State :=
  match s.gang? gid with
  | none => s
  | some g =>
    let s := s.modGang gid (·.flags fBRK)
    let s := match g.team with
      | some t => s.modTeam t fun t => { t with broken := true }
      | none => s
    s.endFibres gid m

/-- Killing a whole gang, as TRET action 3 (R165, R399, R401). -/
def State.killGang (s : State) (gid : Nat) : State :=
  match s.gang? gid with
  | none => s
  | some g => (s.killFibres gid g.live).dropHeld gid

/-! ## Traps (R399 to R401) -/

/-- The fault CSRs take a trap's values (R405). -/
def Gang.setCsrs (g : Gang) (t : Trap) : Gang :=
  { g with tcause := t.cause, tepc := t.tepc, tmask := t.tmask.setWidth 32, tmaskh := hiWord t.tmask,
           taddr := loWord t.taddr, taddrh := hiWord t.taddr &&& 0x01FFFFFF, tinfo := t.tinfo }

/-- A trap becomes active: the CSRs are written and its fibres are one batch with ST = 3 at TVEC. -/
def Gang.activate (g : Gang) (t : Trap) : Gang :=
  let g := (g.setCsrs t).unbatch t.bmask
  { g with trap := some t,
           batches := g.batches ++ [{ memb := t.bmask, pc := g.tvec, st := .trapped, passed := 0, cap := [], next := 0, polled := false }] }

/-- A trap joins the pending list: its fibres take ST = 3 and issue nothing (R400). -/
def Gang.pend (g : Gang) (t : Trap) (pc : DWord) : Gang :=
  let g := g.unbatch t.bmask
  { g with pending := g.pending ++ [t],
           batches := g.batches ++ [{ memb := t.bmask, pc := pc, st := .trapped, passed := 0, cap := [], next := 0, polled := false }] }

/-- Taking a trap: one shared operation. The launch counts as trapped (R309). With TVEC 0, or from the active trap's own
batch, the gang is killed; while another trap is active the new one is pending; otherwise it becomes active. -/
def State.takeTrap (s : State) (gid : Nat) (pc : DWord) (t : Trap) : State :=
  match s.gang? gid with
  | none => s
  | some g =>
    let s := s.modLaunch g.lkey fun l => { l with trapped := true }
    let s := { s with monitors := s.monitors.filter fun m => !(m.gid == gid && m.pc == pc && m.memb == t.bmask),
                      watches := s.watches.filter fun m => !(m.gid == gid && m.pc == pc && m.memb == t.bmask) }
    if g.inTrap t.bmask then s.killGang gid
    else if g.tvec = 0 then (s.modGang gid (·.setCsrs t)).killGang gid
    else match g.trap with
      | some _ => s.modGang gid (·.pend t pc)
      | none => s.modGang gid (·.activate t)

/-! ## Waits within a gang (R162, R166, R168) -/

/-- The fibres a waiting batch needs: cap = [k] with k < 7 names M[k] and M7, 7 every live fibre, 8 the trap batch. -/
def Gang.needs (g : Gang) (k : Nat) : Mask :=
  if k < 7 then g.mget k &&& g.live
  else if k = 7 then g.live
  else match g.trap with
    | some t => t.bmask &&& g.live
    | none => 0

/-- The fibres that stand at a WAITB of payload m. -/
def Gang.atBarrier (g : Gang) (m : Nat) : Mask :=
  g.batches.foldl (fun a b => if b.st == .waiting 1 && b.cap == [BitVec.ofNat 64 m] then a ||| b.memb else a) 0

/-- The barrier of payload m is complete (R162). -/
def Gang.barrierDone (g : Gang) (m : Nat) : Bool :=
  let k := if m = 7 then g.live else g.mget m &&& g.live
  g.atBarrier m != 0 && k &&& g.atBarrier m == k

/-- A wait with WK 0 or 11 whose fibres have all arrived. -/
def Gang.gathered (g : Gang) (b : Batch) : Bool :=
  match b.st, b.cap with
  | .waiting 0, k :: _ => g.needs k.toNat &&& b.memb == g.needs k.toNat
  | .waiting 11, _ => g.live &&& b.memb == g.live
  | _, _ => false

/-- Gathered batches become ready and will execute; the class of a trap batch is kept. -/
def Gang.wake (g : Gang) : Gang :=
  { g with batches := g.batches.map fun b =>
      if g.gathered b then { b with st := if g.inTrap b.memb then .trapped else .ready, polled := false } else b }

/-- STAT and STATARM (R388). -/
def Gang.armed (g : Gang) : Flags := g.stat &&& g.statarm

/-- The FLAG_ARMED trap of a batch at a PC (R163, R388). -/
def flagTrap (text : DWord) (g : Gang) (m : Mask) (pc : DWord) : Trap :=
  { cause := Cause.word .flagArmed, tepc := loWord (pc - text), tmask := m, taddr := 0,
    tinfo := (g.armed).setWidth 32, bmask := m, good := [], skip := pc + 4, held := none }

/-- A command whose fault, or whose counter increment's fault, or whose COMPRESS_OVF is held (R258, R271, R389). -/
def Command.isHeld (c : Command) : Bool := c.st == .heldFault || c.st == .heldIncr || c.st == .heldNote

/-- A held fault that a trap of the gang already carries. -/
def Gang.carries (g : Gang) (cid : Nat) : Bool :=
  (g.trap.toList ++ g.pending).any fun t => t.held == some (.cmd cid) || t.held == some (.incr cid)

/-- The held fault of a gang that is delivered next, among those that p admits: that of the command issued first (R258). -/
def State.heldOf (s : State) (g : Gang) (p : Command → Bool) : Option Command :=
  (s.cmds.filter fun c => c.gid == g.gid && c.isHeld && !g.carries c.cid && p c).foldl
    (fun r c => match r with
      | none => some c
      | some a => if c.seq < a.seq then some c else some a) none

/-- The trap that delivers a held fault to a batch at a unit (R258). The lowest FIX stands in TINFO[5:0] unless the
cause's own contents are given (R271, R343). -/
def heldTrap (g : Gang) (m : Command) (memb : Mask) (pc : DWord) : Trap :=
  let own := m.fcause == Cause.word .patternOrder || m.fcause == Cause.word .patternRange ||
    m.fcause == Cause.word .patternLimit || m.fcause == Cause.word .compressOvf
  let low := (fibresOf g.width memb).headD 0
  { cause := m.fcause, tepc := m.unitOff, tmask := memb, taddr := m.faddr,
    tinfo := if own then m.finfo else m.finfo + BitVec.ofNat 32 low, bmask := memb, good := [], skip := pc,
    held := some (if m.st == .heldFault then .cmd m.cid else .incr m.cid) }

/-- The batches waiting at a complete barrier go on, or take FLAG_ARMED in turn (R162, R163). A held engine fault is
delivered first, and the barrier is then not complete (R388). -/
def State.releaseBarrier (s : State) (gid m : Nat) : State :=
  match s.gang? gid with
  | none => s
  | some g =>
    let bs := g.batches.filter fun b => b.st == .waiting 1 && b.cap == [BitVec.ofNat 64 m]
    match bs, s.heldOf g (fun _ => true) with
    | b :: _, some h => s.takeTrap gid b.pc (heldTrap g h b.memb b.pc)
    | _, _ =>
      bs.foldl (fun s b =>
        match s.gang? gid with
        | none => s
        | some g =>
          if g.armed != 0 then s.takeTrap gid b.pc (flagTrap (s.textOf g) g b.memb b.pc)
          else s.modGang gid fun g => (g.unbatch b.memb).place (b.pc + 4) b.memb) s

/-- The cross-fibre deadlock of R168: when every batch waits with WK 0, 1 or 11 and none of the waits is complete, the
waiting batch with the lowest PC. While a trap is handled this concerns its own gathering at TRET (R403). -/
def Gang.stuck (g : Gang) : Option Batch :=
  let cand : List Batch := match g.trap with
    | none => g.batches
    | some _ => g.batches.filter fun b => g.inTrap b.memb && b.st == .waiting 0 && b.cap.headD 0 == 8
  if g.exited then none
  else if g.batches.all (fun b => (b.st == .waiting 0 || b.st == .waiting 1 || b.st == .waiting 11) && !g.gathered b) &&
      (List.range 8).all (fun m => !g.barrierDone m) then
    cand.foldl (fun r b => match r with
      | none => some b
      | some a => if b.pc.toNat < a.pc.toNat then some b else some a) none
  else none

/-- The XFIBRE_DEADLOCK trap of a batch (R168). -/
def deadlockTrap (text : DWord) (b : Batch) : Trap :=
  let wk := match b.st with | .waiting w => w | _ => 0
  let k := match b.cap with | k :: _ => min k.toNat 7 | [] => 7
  { cause := Cause.word .xfibreDeadlock, tepc := loWord (b.pc - text), tmask := b.memb, taddr := 0,
    tinfo := BitVec.ofNat 32 (k + 16 * wk), bmask := b.memb, good := [], skip := b.next, held := none }

/-- After any change of a gang's masks or batches its waits are evaluated again (R162, R166): gathered batches become
ready, complete barriers release, which may gather further batches, and a deadlock is raised. -/
def State.settle (s : State) (gid : Nat) : State :=
  let s := s.modGang gid Gang.wake
  let s := (List.range 8).foldl (fun s m =>
    match s.gang? gid with
    | some g => if g.barrierDone m then s.releaseBarrier gid m else s
    | none => s) s
  let s := s.modGang gid Gang.wake
  match s.gang? gid with
  | none => s
  | some g =>
    match g.stuck with
    | some b => s.takeTrap gid b.pc (deadlockTrap (s.textOf g) b)
    | none => s

/-! ## Ending a unit -/

/-- The batch leaves its PC for the given groups (R91). -/
def State.goGroups (s : State) (c : Cur) (groups : List (DWord × Mask)) : State :=
  (s.modGang c.gid fun g => groups.foldl (fun g e => g.place e.1 e.2) (g.unbatch c.memb)).settle c.gid

/-- The unit completes and the whole batch stands at the next unit (R91). -/
def advance (c : Cur) (s : State) : State := s.goGroups c [(c.next, c.memb)]

/-- A completed unit. -/
def done (c : Cur) (s : State) : Out := .next (advance c s)

/-- The batch waits (R92). -/
def waitFor (c : Cur) (wk : Nat) (cap : List DWord) (s : State) : Out :=
  .next ((s.modGang c.gid (·.waitBatch c.memb wk cap c.next)).settle c.gid)

/-- The length of the unit's text: where TRET skip goes on. -/
def Cur.skip (c : Cur) : DWord := c.next

/-- A delivery point (R258): a held fault that p admits traps the batch at its unit; otherwise k. -/
def deliver (c : Cur) (g : Gang) (s : State) (p : Command → Bool) (k : Out) : Out :=
  match s.heldOf g p with
  | some m => .next ((s.takeTrap c.gid c.base (heldTrap g m c.memb c.base)).settle c.gid)
  | none => k

/-- A trap of the issuing batch with fault mask F: the fibres outside F have completed the unit and stand at groups. -/
def mkTrap (s : State) (c : Cur) (g : Gang) (cause : Cause) (F : Mask) (addr : DWord) (info : Nat)
    (groups : List (DWord × Mask)) : Trap :=
  { cause := cause.word, tepc := loWord (c.base - s.textOf g), tmask := F, taddr := addr,
    tinfo := BitVec.ofNat 32 info, bmask := c.memb, good := groups, skip := c.skip, held := none }

/-- The whole batch faults (a batch cause of R405): nothing else happens. -/
def trapBatch (c : Cur) (g : Gang) (cause : Cause) (addr : DWord) (info : Nat) (s : State) : Out :=
  .next ((s.takeTrap c.gid c.base (mkTrap s c g cause c.memb addr info [])).settle c.gid)

/-- The lowest FIX of a mask. -/
def lowFix (w : Nat) (m : Mask) : Nat := (fibresOf w m).headD 0

/-- The default contents of TINFO: the lowest FIX of the fault mask (R405). -/
def trapDefault (c : Cur) (g : Gang) (cause : Cause) (s : State) : Out :=
  trapBatch c g cause 0 (lowFix g.width c.memb) s

/-- ILLEGAL over the batch, with the offending word (R76). -/
def trapIllegal (c : Cur) (g : Gang) (w : Word) (s : State) : Out := trapBatch c g .illegal 0 w.toNat s

/-- The earliest cause of a list of fibre faults in the order of R227, of the lowest FIX (R228); the rank puts MIGRATE,
which is never reported, after the others. -/
def worstFault (rank : Cause → Nat) : List FFault → Option FFault
  | [] => none
  | f :: fs =>
    match worstFault rank fs with
    | none => some f
    | some g => if rank g.cause < rank f.cause then some g else some f

/-- The end of a vector instruction whose faulted fibres are fs (ascending FIX) and whose other fibres completed and
stand at groups: no fault, and the unit is complete; otherwise the batch traps (R228). kind is TINFO[8:6]. -/
def finishWith (rank : Cause → Nat) (c : Cur) (kind : Nat) (fs : List FFault) (groups : List (DWord × Mask))
    (s : State) : Out :=
  match worstFault rank fs with
  | none => .next (s.goGroups c groups)
  | some f =>
    match s.gang? c.gid with
    | none => .fault .noBatch
    | some g =>
      let F := maskOfList (fs.map (·.fix))
      let groups := groups.map fun e => (e.1, e.2 &&& ~~~F)
      .next ((s.takeTrap c.gid c.base
        (mkTrap s c g f.cause F f.addr (f.fix + 64 * kind + f.info) groups)).settle c.gid)

/-- The end of a vector instruction that advances (R228). -/
def finishFibres (c : Cur) (kind : Nat) (fs : List FFault) (s : State) : Out :=
  finishWith Cause.rank c kind fs [(c.next, c.memb)] s

/-- The batch gathers every live fibre of the gang, as a cross-fibre instruction with member set M7 (R286, R237, R367);
once gathered, k runs over the merged batch. -/
def gatherAll (c : Cur) (g : Gang) (s : State) (wk : Nat) (k : Out) : Out :=
  if g.live &&& c.memb = g.live then k
  else waitFor c wk [7] s

end Sys2Proof.Machine
end

