-- ==== Sys2Proof/Machine/Memory.lean ====
section
/-! DEFINITION. Memory: bytes by physical address, the home slices, the L1 and L2 copies (R178 to R188), and the cache
actions of releases and acquires (R212). -/
namespace Sys2Proof.Machine

/-! ## Bytes by address -/

/-- What a byte that nothing has written reads as (log 3). -/
def Memory.blank : Byte := 0

/-- Reading one byte. -/
def Memory.read : List Host.Cell → Nat → Byte
  | [], _ => Memory.blank
  | x :: xs, a => if x.1 = a then x.2 else Memory.read xs a

/-- Writing one byte; the form stays canonical: addresses rise and no listed byte is blank. -/
def Memory.write : List Host.Cell → Nat → Byte → List Host.Cell
  | [], a, b => if b = Memory.blank then [] else [(a, b)]
  | x :: xs, a, b =>
    if x.1 < a then x :: Memory.write xs a b
    else
      let r := if x.1 = a then xs else x :: xs
      if b = Memory.blank then r else (a, b) :: r

/-- The canonical form of memory: strictly rising addresses, no blank byte listed. -/
def Memory.wf : List Host.Cell → Bool
  | [] => true
  | [x] => x.2 != Memory.blank
  | x :: y :: r => x.2 != Memory.blank && decide (x.1 < y.1) && Memory.wf (y :: r)

/-- Reading n bytes upward. -/
def Memory.reads (m : List Host.Cell) (a n : Nat) : List Byte := (List.range n).map fun i => Memory.read m (a + i)
/-- Writing bytes upward. -/
def Memory.writes (m : List Host.Cell) (a : Nat) : List Byte → List Host.Cell
  | [] => m
  | b :: bs => Memory.writes (Memory.write m a b) (a + 1) bs
/-- Writing the bytes whose bit in the mask is set; bit 0 stands for the first. -/
def Memory.writeMask (m : List Host.Cell) (a mask : Nat) : List Byte → List Host.Cell
  | [] => m
  | b :: bs => Memory.writeMask (if mask % 2 = 1 then Memory.write m a b else m) (a + 1) (mask / 2) bs
/-- Blanking a range. -/
def Memory.clear (m : List Host.Cell) (a n : Nat) : List Host.Cell := m.filter fun x => x.1 < a || a + n ≤ x.1
/-- Copying a range of n bytes from src to dst. -/
def Memory.copy (m : List Host.Cell) (src dst n : Nat) : List Host.Cell :=
  (m.filter fun x => src ≤ x.1 && x.1 < src + n).foldl (fun r x => Memory.write r (x.1 - src + dst) x.2)
    (Memory.clear m dst n)

/-- The number that bytes hold, little-endian (R2). -/
def numOf : List Byte → Nat
  | [] => 0
  | b :: bs => b.toNat + 256 * numOf bs
/-- n bytes of a number, little-endian (R2). -/
def bytesOf (n x : Nat) : List Byte := (List.range n).map fun i => BitVec.ofNat 8 (x / 256 ^ i)

/-! ## Physical addresses (R179, R180) -/

/-- The region of a physical address. -/
def regionOf (pa : Nat) : Nat := pa / 2 ^ 48
/-- HBM: regions 0 to 7. -/
def isHbm (pa : Nat) : Bool := regionOf pa < 8
/-- The lattice partition of a die starts at this offset. -/
def latBase : Nat := 0x1700000000
/-- Whether a physical address lies in a lattice partition. -/
def isLat (pa : Nat) : Bool := isHbm pa && pa % 2 ^ 48 ≥ latBase
/-- The home die of a line. -/
def homeDie (pa : Nat) : Nat := regionOf pa
/-- The address of lattice offset off in the replica of a die (R197). -/
def latPa (die off : Nat) : Nat := die * 2 ^ 48 + latBase + off
/-- The mask of n bytes at a physical address within its sector. -/
def sectMask (pa n : Nat) : Nat := (2 ^ n - 1) * 2 ^ (pa % 16)

/-! ## The home slices -/

/-- Reading at home. -/
def State.homeRd (s : State) (pa n : Nat) : List Byte := Memory.reads s.mem pa n
/-- The poison of a sector at home (R406). -/
def State.poisonAt (s : State) (sect : Nat) : Option Nat := (s.poison.find? (·.1 == sect)).map (·.2)

/-- Copying one block of the snapshot (R330): bytes, and the poison that travels with them. -/
def State.copyBlock (s : State) (b : SnapBlock) : State :=
  { s with mem := Memory.copy s.mem b.src b.dst 65536,
           poison := (s.poison.filter fun e => e.1 < b.dst / 16 || b.dst / 16 + 4096 ≤ e.1) ++
             (s.poison.filter fun e => b.src / 16 ≤ e.1 && e.1 < b.src / 16 + 4096).map
               fun e => (e.1 - b.src / 16 + b.dst / 16, e.2),
           snap := s.snap.map fun n => { n with blocks := n.blocks.map fun x => if x == b then { x with copied := true } else x } }

/-- A new-colour store to a block not yet copied waits until it is (R330): the block is copied first. -/
def State.snapBefore (s : State) (pa n : Nat) : State :=
  match s.snap with
  | none => s
  | some sn =>
    if sn.cut then
      (sn.blocks.filter fun b => !b.copied && pa < b.src + 65536 && b.src < pa + n).foldl State.copyBlock s
    else s

/-- The 16-byte sectors of n bytes from pa. -/
def sectorsOf (pa n : Nat) : List Nat :=
  (List.range ((pa % 16 + n + 15) / 16)).map fun k => pa / 16 + k

/-- A masked write at home; bits of mask stand for the bytes from pa upward. Overwriting a whole sector clears its
poison (R406). -/
def State.homeWrMask (s : State) (pa mask : Nat) (bs : List Byte) : State :=
  let s := s.snapBefore pa bs.length
  { s with mem := Memory.writeMask s.mem pa mask bs,
           wrote := sectorsOf pa bs.length ++ s.wrote,
           poison := s.poison.filter fun e =>
             !(pa ≤ 16 * e.1 && 16 * e.1 + 16 ≤ pa + bs.length &&
               mask / 2 ^ (16 * e.1 - pa) % 65536 == 65535) }
/-- A write at home. -/
def State.homeWr (s : State) (pa : Nat) (bs : List Byte) : State := s.homeWrMask pa (2 ^ bs.length - 1) bs
/-- Marking a sector at home as poisoned. -/
def State.poisonHome (s : State) (sect : Nat) : Option Nat → State
  | none => s
  | some k => { s with poison := (sect, k) :: s.poison.filter (·.1 != sect) }

/-! ## Cached sectors (R184, R185) -/

/-- The bytes of new where the mask is set, else of old. -/
def mixBytes (mask : Nat) : List Byte → List Byte → List Byte
  | o :: os, n :: ns => (if mask % 2 = 1 then n else o) :: mixBytes (mask / 2) os ns
  | os, [] => os
  | [], _ => []

/-- A sector of a list of copies. -/
def findSector (l : List Sector) (own sect : Nat) : Option Sector := l.find? fun x => x.own == own && x.sect == sect
/-- Replacing a sector; one with no valid byte is dropped. -/
def putSector (l : List Sector) (x : Sector) : List Sector :=
  let r := l.filter fun y => !(y.own == x.own && y.sect == x.sect)
  if x.valid = 0 then r else x :: r
/-- Dropping a sector. -/
def dropSector (l : List Sector) (own sect : Nat) : List Sector := l.filter fun y => !(y.own == own && y.sect == sect)
/-- Storing bytes into a copy by an agent: they become valid and dirty; a whole sector stored clears poison. -/
def storeInto (l : List Sector) (own sect mask who : Nat) (bs : List Byte) (bad : Option Nat) : List Sector :=
  let m : Half := BitVec.ofNat 16 mask
  match findSector l own sect with
  | some x =>
    putSector l { x with data := mixBytes mask x.data bs, valid := x.valid ||| m, dirty := x.dirty ||| m, by_ := who,
                         bad := if m = BitVec.allOnes 16 then bad else (match bad with | some k => some k | none => x.bad) }
  | none => putSector l { own := own, sect := sect, data := mixBytes mask (List.replicate 16 0) bs, valid := m, dirty := m,
                          by_ := who, bad := bad }
/-- Filling a copy: the bytes not valid come from below. -/
def fillInto (l : List Sector) (own sect : Nat) (bs : List Byte) (bad : Option Nat) : List Sector :=
  match findSector l own sect with
  | some x =>
    putSector l { x with data := mixBytes x.valid.toNat bs x.data, valid := BitVec.allOnes 16,
                         bad := match bad with | some k => some k | none => x.bad }
  | none => putSector l { own := own, sect := sect, data := bs, valid := BitVec.allOnes 16, dirty := 0, by_ := 0, bad := bad }
/-- A sector that has been written back: whole, it stays as a clean copy; with some bytes only, it is dropped, so that no
later fill puts its bytes beside newer ones (R206). -/
def Sector.settled (x : Sector) : Sector :=
  { x with dirty := 0, valid := if x.valid = BitVec.allOnes 16 then x.valid else 0 }

/-- The line that leaves a cache of cap lines when line comes in: none while there is room, otherwise the oldest
(associativity and replacement are not architectural, R184). -/
def victim (l : List Sector) (own line cap : Nat) : Option Nat :=
  let mine := l.filter (·.own == own)
  if mine.length < cap || mine.any (fun x => x.sect / 8 == line) then none
  else
    let ls := (mine.map (·.sect / 8)).eraseDups
    if ls.length < cap then none else ls.getLast?

/-- The lines of a 256 KiB L1, and of the 40 slices of 2.4 MiB of a die's L2 (R184). -/
def l1Lines : Nat := 2048
def l2Lines : Nat := 786432

/-! ### The L2 of a die -/

/-- A home sector as a die sees it: a store that no release covers yet may be hidden from it (R212). -/
def State.homeSeen (s : State) (die sect : Nat) : List Byte :=
  match s.late.find? fun e => e.die == die && e.sect == sect with
  | some e => e.data
  | none => s.homeRd (16 * sect) 16

/-- A die has accessed a sector at home: from then on it sees every store there (R205). -/
def State.seen (s : State) (die sect : Nat) : State :=
  { s with late := s.late.filter fun e => !(e.die == die && e.sect == sect) }

/-- Writing the dirty bytes of a remote copy back to its home slice. -/
def State.wbL2 (s : State) (x : Sector) : State :=
  if x.dirty = 0 then s
  else
    let s := (s.homeWrMask (16 * x.sect) x.dirty.toNat x.data).poisonHome x.sect x.bad
    { s with l2 := putSector s.l2 x.settled }

/-- A remote copy leaves the die's L2. -/
def State.evictL2 (s : State) (die sect : Nat) : State :=
  match findSector s.l2 die sect with
  | none => s
  | some x =>
    let s := s.wbL2 x
    { s with l2 := dropSector s.l2 die sect }

/-- A remote copy leaves the die's L2, and the given other dies see the stores it brings home only after a release at DEV
scope that covers them (R212). -/
def State.evictLate (s : State) (die sect : Nat) (dies : List Nat) : State :=
  match findSector s.l2 die sect with
  | none => s
  | some x =>
    let old := dies.filter fun d => d != die && d != homeDie (16 * sect) && x.dirty != 0 &&
      !(s.late.any fun e => e.die == d && e.sect == sect)
    let ls := old.map fun d => ({ die := d, src := die, sect := sect, data := s.homeRd (16 * sect) 16 } : Late)
    let s := s.evictL2 die sect
    { s with late := ls ++ s.late }

/-- Room for a line in the L2 of a die. -/
def State.l2Room (s : State) (die sect : Nat) : State :=
  match victim s.l2 die (sect / 8) l2Lines with
  | none => s
  | some v => (List.range 8).foldl (fun s k => s.evictL2 die (8 * v + k)) s

/-- Lines of which a die's L2 holds a copy. -/
def State.l2Line (s : State) (die sect : Nat) : Bool := s.l2.any fun x => x.own == die && x.sect / 8 == sect / 8

/-- A sector as the L2 of a die sees it: the home slice, or the die's copy of a remote line, filled on a miss; a line that
comes in counts as event 7 (R395). -/
def State.l2Fetch (s : State) (die sect : Nat) : Sector × State :=
  let home : Sector := { own := die, sect := sect, data := s.homeRd (16 * sect) 16, valid := BitVec.allOnes 16, dirty := 0,
                         by_ := 0, bad := s.poisonAt sect }
  if homeDie (16 * sect) = die then (home, s)
  else
    let home := { home with data := s.homeSeen die sect }
    match findSector s.l2 die sect with
    | some x =>
      if x.valid = BitVec.allOnes 16 then (x, s)
      else
        let l := fillInto s.l2 die sect home.data home.bad
        ((findSector l die sect).getD home, { s with l2 := l })
    | none =>
      let n := if s.l2Line die sect then 0 else 1
      let s := s.l2Room die sect
      (home, ({ s with l2 := fillInto s.l2 die sect home.data home.bad } : State).bumpDie die 7 n)

/-- Writing bytes of a sector into the L2 of a die (R185). -/
def State.l2Store (s : State) (die sect mask : Nat) (bs : List Byte) (bad : Option Nat) : State :=
  if homeDie (16 * sect) = die then (s.homeWrMask (16 * sect) mask bs).poisonHome sect bad
  else
    let s := (s.l2Room die sect).seen die sect
    { s with l2 := storeInto s.l2 die sect mask 0 bs bad, wrote := sect :: s.wrote }

/-! ### The quad units -/

/-- The quad of a core (R7). -/
def quadOf (core : Nat) : Nat := core / 4

/-- Writing the dirty bytes of a quad unit's copy back to the L2. -/
def State.wbQuad (s : State) (x : Sector) : State :=
  if x.dirty = 0 then s
  else
    let s := s.l2Store (dieOf (4 * x.own)) x.sect x.dirty.toNat x.data x.bad
    { s with quads := putSector s.quads x.settled }

/-- A quad unit's copy is written back and dropped. -/
def State.evictQuad (s : State) (quad sect : Nat) : State :=
  match findSector s.quads quad sect with
  | none => s
  | some x =>
    let s := s.wbQuad x
    { s with quads := dropSector s.quads quad sect }

/-- A sector as the quad unit of a core sees it, filled on a miss: the place of TEAM scope for a spread team (R215,
R241). -/
def State.quadFetch (s : State) (core sect : Nat) : Sector × State :=
  match findSector s.quads (quadOf core) sect with
  | some x =>
    if x.valid = BitVec.allOnes 16 then (x, s)
    else
      let r := s.l2Fetch (dieOf core) sect
      let l := fillInto s.quads (quadOf core) sect r.1.data r.1.bad
      ((findSector l (quadOf core) sect).getD r.1, { r.2 with quads := l })
  | none =>
    let r := s.l2Fetch (dieOf core) sect
    (r.1, { r.2 with quads := fillInto r.2.quads (quadOf core) sect r.1.data r.1.bad })

/-- A sector below the L1 of a core: the quad unit's copy where it holds one, otherwise the die's L2. -/
def State.lowFetch (s : State) (core sect : Nat) : Sector × State :=
  match findSector s.quads (quadOf core) sect with
  | some _ => s.quadFetch core sect
  | none => s.l2Fetch (dieOf core) sect

/-- Writing bytes below the L1 of a core. -/
def State.lowStore (s : State) (core sect mask : Nat) (bs : List Byte) (bad : Option Nat) : State :=
  match findSector s.quads (quadOf core) sect with
  | some _ => { s with quads := storeInto s.quads (quadOf core) sect mask 0 bs bad, wrote := sect :: s.wrote }
  | none => s.l2Store (dieOf core) sect mask bs bad

/-! ### The L1 of a core -/

/-- Writing the dirty bytes of an L1 sector back. -/
def State.wbL1 (s : State) (x : Sector) : State :=
  if x.dirty = 0 then s
  else
    let s := s.lowStore x.own x.sect x.dirty.toNat x.data x.bad
    { s with l1 := putSector s.l1 x.settled }

/-- An L1 sector leaves the core: written back and dropped. -/
def State.evictL1 (s : State) (core sect : Nat) : State :=
  match findSector s.l1 core sect with
  | none => s
  | some x =>
    let s := s.wbL1 x
    { s with l1 := dropSector s.l1 core sect }

/-- Room for a line in a core's L1. -/
def State.l1Room (s : State) (core sect : Nat) : State :=
  match victim s.l1 core (sect / 8) l1Lines with
  | none => s
  | some v => (List.range 8).foldl (fun s k => s.evictL1 core (8 * v + k)) s

/-- The gang whose unit is being executed; 0 for an engine, the host or firmware. -/
def State.actor (s : State) : Nat :=
  match s.cur with
  | some c => c.gid
  | none => 0

/-- A sector whose dirty bytes are another agent's is written back before it is read or written, so that no agent of the
die sees a store before the others can (R211). -/
def State.l1Share (s : State) (core sect : Nat) : State :=
  match findSector s.l1 core sect with
  | some x => if x.by_ = s.actor then s else s.wbL1 x
  | none => s

/-- A sector as a core's L1 sees it, filled on a miss. -/
def State.l1Fetch (s : State) (core sect : Nat) : Sector × State :=
  let s := s.l1Share core sect
  match findSector s.l1 core sect with
  | some x =>
    if x.valid = BitVec.allOnes 16 then (x, s)
    else
      let r := s.lowFetch core sect
      let l := fillInto s.l1 core sect r.1.data r.1.bad
      ((findSector l core sect).getD r.1, { r.2 with l1 := l })
  | none =>
    let r := (s.l1Room core sect).lowFetch core sect
    ({ r.1 with own := core, dirty := 0 },
      ({ r.2 with l1 := fillInto r.2.l1 core sect r.1.data r.1.bad } : State).bump core 6 1)

/-- Writing bytes of a sector into a core's L1. -/
def State.l1Store (s : State) (core sect mask : Nat) (bs : List Byte) : State :=
  let s := (s.l1Share core sect).l1Room core sect
  { s with l1 := storeInto s.l1 core sect mask s.actor bs none, wrote := sect :: s.wrote }

/-! ## Releases and acquires (R212) -/

/-- The cache level a scope acts on: 0 none, 1 as DIE, 2 as DEV. A TEAM of one core acts on none. -/
def scopeLevel (scope : Nat) (spread : Bool) : Nat :=
  match scope with
  | 0 => if spread then 1 else 0
  | 1 => 1
  | 2 => 2
  | 3 => 2
  | _ => 0

/-- The write-back of a level by a core: dirty L1 sectors and those of the quad unit go to the L2, and for DEV the die's
dirty remote lines to their homes. Writes to regions 0x8 and 0xA are always acknowledged already. -/
def State.writeBack (s : State) (core lv : Nat) : State :=
  let s := if lv ≥ 1 then
      let s := (s.l1.filter fun x => x.own == core && x.dirty != 0).foldl State.wbL1 s
      (s.quads.filter fun x => x.own == quadOf core && x.dirty != 0).foldl State.wbQuad s
    else s
  if lv ≥ 2 then
    let xs := s.l2.filter fun x => x.own == dieOf core && x.dirty != 0
    (xs.foldl State.wbL2 s).bumpDie (dieOf core) 8 (xs.map (·.sect / 8)).eraseDups.length
  else s

/-- The release actions of a level by a core: its write-back. At DEV every store at home that the releasing agent may have
observed becomes visible to all dies (R208). -/
def State.releaseLv (s : State) (core lv : Nat) : State :=
  let s := s.writeBack core lv
  if lv ≥ 2 then { s with late := [] } else s

/-- Dropping the bytes of a copy that are not dirty. -/
def Sector.clean (x : Sector) : Sector := { x with valid := x.dirty, bad := if x.dirty = 0 then none else x.bad }
/-- Dropping the clean bytes of the copies of one owner. -/
def dropClean (own : Nat) (l : List Sector) : List Sector :=
  (l.map fun x => if x.own == own then x.clean else x).filter (·.valid != 0)
/-- The acquire actions of a level by a core: clean sectors of the L1 and of the quad unit are invalidated, and for DEV the
die's copies of remote lines. -/
def State.acquireLv (s : State) (core lv : Nat) : State :=
  let s := if lv ≥ 1 then { s with l1 := dropClean core s.l1, quads := dropClean (quadOf core) s.quads } else s
  if lv ≥ 2 then { s with l2 := dropClean (dieOf core) s.l2 } else s

/-- The release that an earlier FENCE.AR, FENCE.REL or FENCE.SC makes of a later store of the gang (R208). -/
def State.payOwed (s : State) (gid : Nat) : State :=
  match s.gang? gid with
  | none => s
  | some g => if g.owed = 0 then s else (s.releaseLv g.core g.owed).modGang gid fun g => { g with owed := 0 }

/-! ## Places of access (R215, R241) -/

/-- The core's own copies of a sector above a place are written back and dropped, so that its later reads are never
older (R205). Places: 0 the L1, 1 the quad unit, 2 the die's L2, 3 the home slice. -/
def State.syncDown (s : State) (core place sect : Nat) : State :=
  let s := if place ≥ 1 then s.evictL1 core sect else s
  let s := if place ≥ 2 then s.evictQuad (quadOf core) sect else s
  if place ≥ 3 then (s.evictL2 (dieOf core) sect).seen (dieOf core) sect else s

/-- Reading HBM bytes within one sector at a place, with the sector's poison. -/
def State.placeRd (s : State) (core place pa n : Nat) : (List Byte × Option Nat) × State :=
  let sect := pa / 16
  let s := s.syncDown core place sect
  if place = 0 then
    let r := s.l1Fetch core sect
    ((((r.1.data.drop (pa % 16)).take n), r.1.bad), r.2)
  else if place = 1 then
    let r := s.quadFetch core sect
    ((((r.1.data.drop (pa % 16)).take n), r.1.bad), r.2)
  else if place = 2 then
    let r := s.l2Fetch (dieOf core) sect
    ((((r.1.data.drop (pa % 16)).take n), r.1.bad), r.2)
  else ((s.homeRd pa n, s.poisonAt sect), s)

/-- Bytes of a sector from a position on. -/
def inSector (pa : Nat) (bs : List Byte) : List Byte := List.replicate (pa % 16) 0 ++ bs

/-- Writing HBM bytes within one sector at a place. -/
def State.placeWr (s : State) (core place pa : Nat) (bs : List Byte) : State :=
  let s := s.syncDown core place (pa / 16)
  if place = 0 then s.l1Store core (pa / 16) (sectMask pa bs.length) (inSector pa bs)
  else if place = 1 then
    let s := (s.quadFetch core (pa / 16)).2
    { s with quads := storeInto s.quads (quadOf core) (pa / 16) (sectMask pa bs.length) 0 (inSector pa bs) none,
             wrote := pa / 16 :: s.wrote }
  else if place = 2 then s.l2Store (dieOf core) (pa / 16) (sectMask pa bs.length) (inSector pa bs) none
  else s.homeWr pa bs

/-- Recording a sector that the unit has read (R314). -/
def State.noteRead (s : State) (sect : Nat) : State :=
  { s with cur := s.cur.map fun c => { c with reads := if c.reads.contains sect then c.reads else sect :: c.reads } }

end Sys2Proof.Machine
end

