-- ==== Sys2Proof/Machine/Translate.lean ====
section
/-! DEFINITION. Address translation (R178, R381 to R383), and what firmware does to the tables: migration (R181) and the
zero-fill of arena pages (R365). -/
namespace Sys2Proof.Machine

/-- A page that a walk or a TLB gives: its base in virtual memory, its size, its PTE and where the PTE lies (0 when the
translation came from a TLB). -/
structure Leaf where
  base : Nat
  size : Nat
  pte : DWord
  addr : Nat
  deriving DecidableEq, Repr

/-- PFMT of a PTE (R381). -/
def ptePfmt (p : DWord) : Nat := p.toNat / 64 % 32
/-- The physical address of a leaf's first byte. -/
def Leaf.phys (l : Leaf) : Nat := l.pte.toNat / 65536 % 2 ^ 36 * 65536
/-- Whether a page format is a lattice type (R182). -/
def latFmt (f : Nat) : Bool := 16 ≤ f && f ≤ 26
/-- The page is a lattice page. -/
def Leaf.lattice (l : Leaf) : Bool := latFmt (ptePfmt l.pte)
/-- The physical address of a virtual address on a page for an agent of a die: a lattice page is the die's own replica
(R197). -/
def Leaf.paOf (l : Leaf) (die va : Nat) : Nat :=
  let pa := l.phys + (va - l.base)
  if l.lattice then die * 2 ^ 48 + pa % 2 ^ 48 else pa

/-- The size a leaf of a level maps (R382). -/
def levelSize (lv : Nat) : Nat := if lv = 0 then 65536 else if lv = 1 then 2 ^ 21 else 2 ^ 30

/-- The tests of a leaf PTE (R179, R181, R182, R381, R382). -/
def leafOk (lv : Nat) (p : DWord) : Bool :=
  let pa := p.toNat / 65536 % 2 ^ 36 * 65536
  let f := ptePfmt p
  let off := pa % 2 ^ 48
  bit p 0 && bit p 3 && !bit p 5 && p.toNat / 2 ^ 11 % 32 == 0 && p.toNat / 2 ^ 52 == 0 &&
  lv ≤ 2 && pa % levelSize lv == 0 &&
  f ≤ 26 && f != 14 && f != 15 && !(latFmt f && bit p 4) &&
  (if latFmt f then isHbm pa && latBase ≤ off && off + levelSize lv ≤ 0x1800000000
   else (isHbm pa && off + levelSize lv ≤ latBase) || regionOf pa == 8 || regionOf pa == 10)

/-- A well-formed table pointer (R381). -/
def ptrOk (p : DWord) : Bool :=
  bit p 0 && p.toNat / 2 % 2048 == 0 && p.toNat / 2 ^ 52 == 0 && isHbm (p.toNat / 4096 * 4096)

/-- The index of a virtual address at a level (R382). -/
def levelIdx (lv va : Nat) : Nat := if lv = 0 then va / 65536 % 32 else va / 2 ^ (12 + 9 * lv) % 512

/-- The entry of a table. -/
def State.pteAt (s : State) (a : Nat) : DWord := BitVec.ofNat 64 (numOf (s.homeRd a 8))

/-- The page walk from a level down (R382): PAGE is none. -/
def walk (s : State) (va : Nat) : Nat → Nat → Option Leaf
  | 0, t =>
    let a := t + 8 * levelIdx 0 va
    let p := s.pteAt a
    if leafOk 0 p then some { base := va / 65536 * 65536, size := 65536, pte := p, addr := a } else none
  | lv + 1, t =>
    let a := t + 8 * levelIdx (lv + 1) va
    let p := s.pteAt a
    if bit p 3 then
      if leafOk (lv + 1) p then
        some { base := va / levelSize (lv + 1) * levelSize (lv + 1), size := levelSize (lv + 1), pte := p, addr := a }
      else none
    else if ptrOk p then walk s va lv (p.toNat / 4096 * 4096)
    else none

/-- Whether a walk from a level down reads an entry that holds poison (R406). -/
def State.walkBad (s : State) (va : Nat) : Nat → Nat → Bool
  | 0, t => (s.poisonAt ((t + 8 * levelIdx 0 va) / 16)).isSome
  | lv + 1, t =>
    let a := t + 8 * levelIdx (lv + 1) va
    let p := s.pteAt a
    (s.poisonAt (a / 16)).isSome || (!bit p 3 && ptrOk p && s.walkBad va lv (p.toNat / 4096 * 4096))

/-- The root table of a context (R382). -/
def State.rootOf (s : State) (num : Nat) : Nat :=
  match s.ctx? num with
  | some c => c.ptroot.toNat
  | none => 0

/-- The number under which the entries of a core's die stand among those of the cores (R383). -/
def dieTlb (core : Nat) : Nat := 256 + dieOf core

/-- An entry of a core, or of a die by its number, for an address of a context. -/
def State.tlbAt (s : State) (own num va : Nat) : Option Leaf :=
  (s.tlb.find? fun e => e.core == own && e.ctx == num && e.base ≤ va && va < e.base + e.size).map
    fun e => { base := e.base, size := e.size, pte := e.pte, addr := 0 }

/-- The translation that a core has without a walk: its own entry, or its die's (R383). -/
def State.tlbFind (s : State) (core num va : Nat) : Option Leaf :=
  (s.tlbAt core num va).orElse fun _ => s.tlbAt (dieTlb core) num va

/-- Keeping a translation as one of at most cap entries, the oldest leaving first. -/
def tlbKeep (own cap num : Nat) (l : Leaf) (es : List TlbEnt) : List TlbEnt :=
  ({ core := own, ctx := num, base := l.base, size := l.size, pte := l.pte } :: es.filter (·.core == own)).take cap ++
    es.filter (·.core != own)

/-- A core and its die keep the result of a walk (R383): at most 512 and 8,192. -/
def State.tlbFill (s : State) (core num : Nat) (l : Leaf) : State :=
  { s with tlb := tlbKeep core 512 num l (tlbKeep (dieTlb core) 8192 num l s.tlb) }

/-- Dropping the translations of a page of a context in every core (R384). -/
def State.tlbDropPage (s : State) (num va : Nat) : State :=
  { s with tlb := s.tlb.filter fun e => !(e.ctx == num && e.base ≤ va && va < e.base + e.size) }

/-! ## Firmware's changes of the tables -/

/-- Bytes of the range of an arena (R365). -/
def Arena.bytes (a : Arena) : Nat := 2 ^ ((a.terms.map (·.2)).foldl (· + ·) 0 + a.cbits + a.slog2)

/-- Whether an address lies in an arena of a launch of a context: whoever of the context accesses it first (R365). -/
def State.inArena (s : State) (num va : Nat) : Bool :=
  s.launches.any fun l => l.ctx == num && l.arenas.any fun a => a.base.toNat ≤ va && va < a.base.toNat + a.bytes

/-- Writing a PTE at home. -/
def State.setPte (s : State) (a : Nat) (p : DWord) : State := s.homeWr a (bytesOf 8 p.toNat)

/-- A zeroed 64 KiB page of firmware's own. -/
def State.takePage (s : State) : Option (Nat × State) :=
  if s.freePage % 2 ^ 48 + 65536 ≤ latBase then
    some (s.freePage, { s with freePage := s.freePage + 65536, mem := Memory.clear s.mem s.freePage 65536,
                               poison := s.poison.filter fun e => e.1 < s.freePage / 16 || s.freePage / 16 + 4096 ≤ e.1 })
  else none

/-- Mapping a 64 KiB page at an unmapped address, with new tables where they are missing. -/
def mapPage (va : Nat) (pte : DWord) : Nat → Nat → State → Option State
  | 0, t, s =>
    let a := t + 8 * levelIdx 0 va
    if bit (s.pteAt a) 0 then none else some (s.setPte a pte)
  | lv + 1, t, s =>
    let a := t + 8 * levelIdx (lv + 1) va
    let p := s.pteAt a
    if bit p 0 then (if ptrOk p && !bit p 3 then mapPage va pte lv (p.toNat / 4096 * 4096) s else none)
    else s.takePage.bind fun x => mapPage va pte lv x.1 (x.2.setPte a (BitVec.ofNat 64 (x.1 + 1)))

/-- The zero-filled, device-owned page of an arena's first access (R365). -/
def State.zeroFill (s : State) (num va : Nat) : Option State :=
  match s.takePage with
  | none => none
  | some (pg, s) => mapPage (va / 65536 * 65536) (BitVec.ofNat 64 (pg + 15)) 4 (s.rootOf num) s

/-- Dropping the clean copies of a physical range everywhere: the device's side of a SYS acquire. -/
def State.dropRange (s : State) (pa n : Nat) : State :=
  let f := fun x : Sector => if pa ≤ 16 * x.sect && 16 * x.sect < pa + n then x.clean else x
  { s with l1 := (s.l1.map f).filter (·.valid != 0), quads := (s.quads.map f).filter (·.valid != 0),
           l2 := (s.l2.map f).filter (·.valid != 0) }

/-- The MIGRATE service (R181): the page becomes the device's. -/
def State.migrate (s : State) (num va : Nat) : State :=
  match walk s va 4 (s.rootOf num) with
  | none => s
  | some l =>
    if bit l.pte 4 then
      ((s.setPte l.addr (l.pte &&& ~~~16)).tlbDropPage num va).dropRange l.phys l.size
    else s

/-- The service on behalf of a core, which counts it (R181, R395). -/
def State.migrateBy (s : State) (core num va : Nat) : State :=
  match walk s va 4 (s.rootOf num) with
  | some l => if bit l.pte 4 then (s.migrate num va).bump core 16 1 else s
  | none => s

/-! ## Translation -/

/-- Translating an address for a core: a TLB hit, or a walk whose result the core keeps; an unmapped page of an arena
of the context is first zero-filled. -/
def State.xlate (s : State) (core num va : Nat) : Option Leaf × State :=
  match s.tlbFind core num va with
  | some l => (some l, s)
  | none =>
    match walk s va 4 (s.rootOf num) with
    | some l => (some l, s.tlbFill core num l)
    | none =>
      if s.inArena num va then
        match s.zeroFill num va with
        | some s' =>
          match walk s' va 4 (s'.rootOf num) with
          | some l => (some l, s'.tlbFill core num l)
          | none => (none, s)
        | none => (none, s)
      else (none, s)

/-- Whether translating an address takes a walk that meets poison: the access consumes it (R406). -/
def State.xlateBad (s : State) (core num va : Nat) : Bool :=
  !s.poison.isEmpty && (s.tlbFind core num va).isNone && s.walkBad va 4 (s.rootOf num)

/-! ## Which pages exist -/

/-- The entries of a table that are not zero, by index. -/
def State.tableIdx (s : State) (t cnt : Nat) : List Nat :=
  ((s.mem.filter fun x => t ≤ x.1 && x.1 < t + 8 * cnt).map fun x => (x.1 - t) / 8).eraseDups

/-- The leaves below a table. -/
def leaves (s : State) : Nat → Nat → Nat → List Leaf
  | 0, t, va =>
    (s.tableIdx t 32).filterMap fun i =>
      let p := s.pteAt (t + 8 * i)
      if leafOk 0 p then some { base := va + 65536 * i, size := 65536, pte := p, addr := t + 8 * i } else none
  | lv + 1, t, va =>
    (s.tableIdx t 512).flatMap fun i =>
      let p := s.pteAt (t + 8 * i)
      let b := va + 2 ^ (12 + 9 * (lv + 1)) * i
      if bit p 3 then (if leafOk (lv + 1) p then [{ base := b, size := levelSize (lv + 1), pte := p, addr := t + 8 * i }] else [])
      else if ptrOk p then leaves s lv (p.toNat / 4096 * 4096) b
      else []

/-- Every page that a context maps. -/
def State.pages (s : State) : List Leaf := s.contexts.flatMap fun c => leaves s 4 c.ptroot.toNat 0

/-- A page that maps a physical address; the die of a lattice page does not matter (R197). -/
def State.pageAt (s : State) (pa : Nat) : Option Leaf :=
  s.pages.find? fun l =>
    if l.lattice then isLat pa && l.phys % 2 ^ 48 ≤ pa % 2 ^ 48 && pa % 2 ^ 48 < l.phys % 2 ^ 48 + l.size
    else l.phys ≤ pa && pa < l.phys + l.size

end Sys2Proof.Machine
end

