-- ==== Sys2Proof/Machine/Io.lean ====
section
/-! DEFINITION. The I/O dies as memory: the MMIO registers, the error log, remote windows and the host window
(R179, R320 to R322, R325). -/
namespace Sys2Proof.Machine

/-- Changing an I/O die. -/
def State.modIo (s : State) (i : Nat) (f : IoDie → IoDie) : State := { s with io := s.io.modify i f }
/-- An I/O die. -/
def State.iod (s : State) (i : Nat) : IoDie := s.io.getD i IoDie.reset

/-- Logging a discarded write (R320, R321). -/
def State.logDiscard (s : State) (i pa kind : Nat) (rid : Half) (len : Nat) : State :=
  let e : BitVec 128 := BitVec.ofNat 128 (pa + kind * 2 ^ 52 + rid.toNat * 2 ^ 64 + len % 65536 * 2 ^ 80)
  let s := s.modIo i fun d =>
    { d with log := d.log.set d.errIdx e, errIdx := (d.errIdx + 1) % 16, errCount := d.errCount + 1, discard := d.discard + 1 }
  { s with out := s.out ++ [.aer i] }

/-- The MMIO register at an offset that is a multiple of 8, where the map assigns one (R321). -/
def mmioReg (d : IoDie) (i off : Nat) : Option DWord :=
  if off = 0 then some (BitVec.ofNat 64 (0x40 + 0xB1 * 65536 + i * 2 ^ 24))
  else if off = 0x100 then some (BitVec.ofNat 64 (d.errIdx + d.errCount.toNat * 2 ^ 32))
  else if off = 0x108 then some d.discard
  else if off = 0x110 then some 0
  else if 0x1000 ≤ off ∧ off < 0x1100 then
    some (((d.log.getD ((off - 0x1000) / 16) 0) >>> (64 * ((off - 0x1000) / 8 % 2))).setWidth 64)
  else if 0x10000 ≤ off ∧ off < 0x10400 then
    some (((d.win.getD ((off - 0x10000) / 16) 0) >>> (64 * ((off - 0x10000) / 8 % 2))).setWidth 64)
  else if 0x20000 ≤ off ∧ off < 0x20060 then
    some (if d.portUp.getD ((off - 0x20000) / 8) false then 0x11 else 0)
  else none

/-- The bits of a WIN entry's halves that hold a field (R321). -/
def winMask (hi : Bool) : DWord := if hi then 0xFFF else 0xFFFF001F

/-- Writing half of a WIN entry. -/
def winWrite (e : BitVec 128) (hi : Bool) (v : DWord) : BitVec 128 :=
  let v := v &&& winMask hi
  if hi then v ++ e.setWidth 64 else (e >>> 64).setWidth 64 ++ v

/-- ERRCLR (R321): bit 0 zeroes DISCARD, ERRHEAD and the log. -/
def IoDie.errclr (d : IoDie) (v : DWord) : IoDie :=
  if bit v 0 then { d with errIdx := 0, errCount := 0, discard := 0, log := List.replicate 16 0 } else d

/-- An aligned 8-byte write of a register; read-only registers ignore it. -/
def mmioSet (d : IoDie) (off : Nat) (v : DWord) : IoDie :=
  if off = 0x110 then d.errclr v
  else if 0x10000 ≤ off ∧ off < 0x10400 then
    let w := (off - 0x10000) / 16
    { d with win := d.win.modify w fun e => winWrite e ((off / 8) % 2 == 1) v }
  else d

/-- Whether a range touches an assigned register. -/
def mmioHits (d : IoDie) (i off n : Nat) : Bool :=
  (List.range n).any fun k => (mmioReg d i ((off + k) / 8 * 8)).isSome

/-- Reading MMIO: an aligned 8-byte read gives the register, any other access zero (R321). -/
def State.mmioRd (s : State) (pa n : Nat) : List Byte :=
  let i := pa / 2 ^ 40 % 2
  let off := pa % 2 ^ 40
  if n = 8 ∧ off % 8 = 0 then
    match mmioReg (s.iod i) i off with
    | some v => bytesOf 8 v.toNat
    | none => bytesOf 8 0
  else bytesOf n 0

/-- A write through the lattice broadcast window (R322): into all eight replicas, but not where a lattice page is
mapped. -/
def State.broadcast (s : State) (i pa off : Nat) (bs : List Byte) (rid : Half) : State :=
  let lat := s.pages.filter Leaf.lattice
  let mapped := fun o => lat.any fun l => l.phys % 2 ^ 48 ≤ latBase + o && latBase + o < l.phys % 2 ^ 48 + l.size
  let ks := List.range bs.length
  let free := (ks.filter fun k => !mapped (off + k)).foldl (fun m k => m + 2 ^ k) 0
  let s := if free = 0 then s else (List.range 8).foldl (fun s d => s.homeWrMask (latPa d off) free bs) s
  match ks.find? fun k => mapped (off + k) with
  | some k => s.logDiscard i (pa + k) 2 rid bs.length
  | none => s

/-- Writing MMIO (R321, R322); a discard is logged by the I/O die whose port carried the write (R320). -/
def State.mmioWr (s : State) (log pa : Nat) (bs : List Byte) (rid : Half) : State :=
  let i := pa / 2 ^ 40 % 2
  let off := pa % 2 ^ 40
  if 0x1000000000 ≤ off ∧ off ≤ 0x10FFFFFFFF then s.broadcast log pa (off - 0x1000000000) bs rid
  else if bs.length = 8 ∧ off % 8 = 0 then s.modIo i fun d => mmioSet d off (BitVec.ofNat 64 (numOf bs))
  else if mmioHits (s.iod i) i off bs.length then s.logDiscard log pa 3 rid bs.length
  else s

/-- Where an access through a remote window goes (R325): the module's byte address in State.remote, if the window is
valid and its port is up. -/
def State.window (s : State) (pa : Nat) : Option Nat :=
  let d := s.iod (pa / 2 ^ 40 % 2)
  let e := (d.win.getD (pa / 2 ^ 41 % 64) 0).toNat
  let port := e / 2 % 16
  if e % 2 = 1 ∧ port < 12 ∧ d.portUp.getD port false = true then
    some (e / 2 ^ 16 % 65536 * 2 ^ 52 + (e / 2 ^ 64 % 4096 * 2 ^ 40 + pa % 2 ^ 40))
  else none

/-- Whether an address of region 0xA falls in a remote window. -/
def inWindow (pa : Nat) : Bool := regionOf pa == 10 && pa / 2 ^ 47 % 2 == 1

/-- Whether a window lets an access through. -/
def State.windowOk (s : State) (pa : Nat) : Bool := !inWindow pa || (s.window pa).isSome

/-- Reading regions 0x8 and 0xA. -/
def State.ioRd (s : State) (pa n : Nat) : List Byte :=
  if regionOf pa = 8 then s.mmioRd pa n
  else if inWindow pa then
    match s.window pa with
    | some a => Memory.reads s.remote a n
    | none => bytesOf n 0
  else s.homeRd pa n

/-- Writing regions 0x8 and 0xA. -/
def State.ioWr (s : State) (pa : Nat) (bs : List Byte) : State :=
  if regionOf pa = 8 then s.mmioWr (pa / 2 ^ 40 % 2) pa bs 0
  else if inWindow pa then
    match s.window pa with
    | some a => { s with remote := Memory.writes s.remote a bs }
    | none => s
  else s.homeWr pa bs

end Sys2Proof.Machine
end

