-- ==== Sys2Proof/Machine/Access.lean ====
section
/-! DEFINITION. Checked accesses: the checks of R227 on an address, the race filter (R370 to R376), and loads and
stores of one fibre, one uniform instruction or one engine sector. -/
namespace Sys2Proof.Machine

/-- Who makes an access: where it runs, its context and launch, its gang and pedigree (the strand). -/
structure Agent where
  core : Nat
  ctx : Nat
  lkey : Nat
  gid : Nat
  ped : Ped
  /-- The unit's byte offset from the text base, for race records. -/
  epc : Word
  deriving DecidableEq, Repr

/-- The context of a launch, and 0 for none. -/
def State.ctxOf (s : State) (lkey : Nat) : Nat :=
  match s.launch? lkey with
  | some l => l.ctx
  | none => 0

/-- A gang as an agent. -/
def agentOf (s : State) (c : Cur) (g : Gang) : Agent :=
  { core := g.core, ctx := g.ctx, lkey := g.lkey, gid := g.gid, ped := g.ped, epc := loWord (c.base - s.textOf g) }

/-- Whether a gang's team is spread over several cores (R305). -/
def State.spread (s : State) (g : Gang) : Bool :=
  match g.team with
  | some t =>
    match s.team? t with
    | some t => decide (t.cores.length > 1)
    | none => false
  | none => false

/-- A translated access: the physical address and the page. -/
structure Tr where
  pa : Nat
  leaf : Leaf
  deriving DecidableEq, Repr

/-- The format of the page. -/
def Tr.pfmt (t : Tr) : Nat := ptePfmt t.leaf.pte
/-- The page is a lattice page. -/
def Tr.lattice (t : Tr) : Bool := t.leaf.lattice

/-- Steps 3 and 4 of R227 for one address: PAGE and PROT, and ECC_UNCORR where the walk meets poison (R406). ok is what
the page must satisfy beyond its permissions. -/
def State.checkPage (s : State) (ag : Agent) (va : DWord) (wr : Bool) (ok : Tr → Bool) : Except Cause Tr × State :=
  if va.toNat ≥ 2 ^ 57 then (.error .page, s)
  else if s.xlateBad ag.core ag.ctx va.toNat then (.error .eccUncorr, s)
  else
    match s.xlate ag.core ag.ctx va.toNat with
    | (none, s) => (.error .page, s)
    | (some l, s) =>
      let t : Tr := { pa := l.paOf (dieOf ag.core) va.toNat, leaf := l }
      if !(if wr then bit l.pte 2 else bit l.pte 1) || !ok t || !s.windowOk t.pa then (.error .prot, s)
      else (.ok t, s)

/-- Steps 3 to 5 of R227: PAGE, PROT and MIGRATE. -/
def State.checkVa (s : State) (ag : Agent) (va : DWord) (wr : Bool) (ok : Tr → Bool) : Except Cause Tr × State :=
  match s.checkPage ag va wr ok with
  | (.error e, s) => (.error e, s)
  | (.ok t, s) =>
    if bit t.leaf.pte 4 then (.error (if Config.canMigrate t.pa then .migrate else .page), s) else (.ok t, s)

/-! ## The race filter -/

/-- The root launch whose filter a launch shares (R370). -/
def State.rootLaunch (s : State) (lkey : Nat) : Nat :=
  match s.launch? lkey with
  | some l => l.root
  | none => lkey

/-- Whether the strand of a gang with a pedigree has ended: the gang's PED has changed, or it has drained (R371). -/
def State.strandOver (s : State) (gid : Nat) (p : Ped) : Bool :=
  match s.gang? gid with
  | some g => g.ped != p
  | none => true

/-- The strand id of an agent, taken the first time one of its accesses is recorded (R371). -/
def State.strandOf (s : State) (ag : Agent) : Nat × State :=
  let root := s.rootLaunch ag.lkey
  match s.strands.find? fun e => e.root == root && e.gid == ag.gid && e.ped == ag.ped with
  | some e => (e.sid, s)
  | none =>
    (s.fresh, { s with fresh := s.fresh + 1,
                       strands := { root := root, sid := s.fresh, gid := ag.gid, ped := ag.ped, entries := 0,
                                    ended := s.strandOver ag.gid ag.ped } :: s.strands })

/-- The strand table after a change of the filter: each entry counts the filter entries that name it, and one that has
ended is freed when the count is zero (R371). -/
def State.recount (s : State) : State :=
  let n := fun (x : Strand) => (s.filter.filter fun e => e.root == x.root && e.sid == x.sid).length
  let xs := s.strands.map fun x => { x with entries := n x }
  { s with strands := xs.filter fun x => !x.ended || x.entries != 0 }

/-- The pedigree levels of a strand. -/
def State.strandPed (s : State) (root sid : Nat) : List (Word × Word) :=
  match s.strands.find? fun e => e.root == root && e.sid == sid with
  | some e => e.ped.levels
  | none => []

/-- Whether an access of strand Y conflicts with an entry (R370, R372, R375). -/
def conflicts (s : State) (root sect : Nat) (m : Half) (rd : Bool) (y : List (Word × Word)) (e : FEntry) : Bool :=
  let x := s.strandPed root e.sid
  e.root == root && e.sect == sect && e.bmask &&& m != 0 && !(rd && e.rd) && x != y && !precedes x y

/-- Merging bytes into a strand's entry. -/
def mergeEntry (root sect sid : Nat) (m : Half) (rd : Bool) : List FEntry → List FEntry
  | [] => [{ root := root, sect := sect, bmask := m, sid := sid, rd := rd, spilled := none }]
  | e :: es =>
    if e.root == root && e.sect == sect && e.sid == sid && e.rd == rd then { e with bmask := e.bmask ||| m } :: es
    else e :: mergeEntry root sect sid m rd es

/-- The 16 bytes of a filter entry (R372). -/
def FEntry.bytes (e : FEntry) : List Byte :=
  bytesOf 16 (e.sect % 2 ^ 48 + e.bmask.toNat * 2 ^ 48 + e.sid % 2 ^ 32 * 2 ^ 64 + (if e.rd then 2 ^ 96 else 0))

/-- A write of the management core to a context's memory, where the page takes it (R374). -/
def State.firmWr (s : State) (num va : Nat) (bs : List Byte) : State :=
  match walk s va 4 (s.rootOf num) with
  | some l => if bit l.pte 2 && !l.lattice && isHbm (l.paOf 0 va) then s.homeWr (l.paOf 0 va) bs else s
  | none => s

/-- The management core writes bytes to a context's memory, at most n pieces that each lie in one sector. -/
def State.firmWrs (s : State) (num va : Nat) : Nat → List Byte → State
  | 0, _ => s
  | n + 1, bs =>
    let k := 16 - va % 16
    if bs.isEmpty then s else (s.firmWr num va (bs.take k)).firmWrs num (va + k) n (bs.drop k)
/-- The management core reads a byte of a context's memory. -/
def State.firmRd (s : State) (num va : Nat) : Byte :=
  match walk s va 4 (s.rootOf num) with
  | some l => Memory.read s.mem (l.paOf 0 va)
  | none => 0
/-- Whether n bytes of a context's memory take such writes. -/
def State.firmOk (s : State) (num va n : Nat) : Bool :=
  (List.range (n / 65536 + 2)).all fun k =>
    let a := min (va + 65536 * k) (va + n - 1)
    match walk s a 4 (s.rootOf num) with
    | some l => bit l.pte 2 && !l.lattice && isHbm (l.paOf 0 a)
    | none => false

/-- A spilled entry's record in the spill region of its launch (R374). -/
def State.putSpilled (s : State) (e : FEntry) : State :=
  match e.spilled, s.launch? e.root with
  | some k, some l => s.firmWr l.ctx (l.r.filtbase.toNat + 16 * k) e.bytes
  | _, _ => s

/-- The filter takes new entries; a spilled one that has changed is written again, since it is consulted where it lies
(R374). -/
def State.setFilter (s : State) (es : List FEntry) : State :=
  ((es.filter fun e => e.spilled.isSome && !s.filter.contains e).foldl State.putSpilled { s with filter := es }).recount

/-- The check of one access by the filter: the first conflicting entry, or the entries brought up to date. -/
def State.filterCheck (s : State) (ag : Agent) (sect : Nat) (m : Half) (rd : Bool) : Option FEntry × State :=
  if ag.ped.mode ≥ 2 ∨ (rd = true ∧ ag.ped.mode ≠ 1) then (none, s)
  else
    let root := s.rootLaunch ag.lkey
    match s.filter.find? (conflicts s root sect m rd ag.ped.levels) with
    | some e => (some e, s)
    | none =>
      let (y, s) := s.strandOf ag
      let passed := if rd then s.filter else
        s.filter.map fun e =>
          if e.root == root && e.sect == sect && e.sid != y && !e.rd && precedes (s.strandPed root e.sid) ag.ped.levels
          then { e with bmask := e.bmask &&& ~~~m } else e
      (none, s.setFilter ((mergeEntry root sect y m rd passed).filter (·.bmask != 0)))

/-- The filter forgets what has happened to some sectors since s₀: the accesses there have not taken place. -/
def State.unrecord (s s₀ : State) (sects : List Nat) : State :=
  s.setFilter (s₀.filter.filter (fun e => sects.contains e.sect) ++ s.filter.filter fun e => !sects.contains e.sect)

/-- The first level of R52 at which two strands differ, counted from 1. -/
def diffLevel : List (Word × Word) → List (Word × Word) → Nat
  | x :: xs, y :: ys => if x.1 = y.1 then 1 + diffLevel xs ys else 1
  | _, _ => 1

/-- The race record of R376. -/
def raceRecord (s : State) (ag : Agent) (va : DWord) (sect : Nat) (m : Half) (rd : Bool) (e : FEntry) : List Byte :=
  let x := s.strandPed (s.rootLaunch ag.lkey) e.sid
  let y := ag.ped.levels
  let k := diffLevel x y
  let words := (x ++ y.drop (k - 1)).flatMap fun l => [l.1, l.2]
  let trunc := words.length > 56
  bytesOf 8 (16 * sect) ++ bytesOf 8 (va.toNat / 16 * 16) ++ bytesOf 2 e.bmask.toNat ++ bytesOf 2 m.toNat ++
  [if rd then 2 else if e.rd then 1 else 0, BitVec.ofNat 8 x.length, BitVec.ofNat 8 y.length,
   BitVec.ofNat 8 (k % 32 + if trunc then 128 else 0)] ++
  bytesOf 4 ag.ped.lid.toNat ++ bytesOf 4 ag.epc.toNat ++
  ((words ++ List.replicate 56 0).take 56).flatMap fun (w : Word) => bytesOf 4 w.toNat

/-- The checks of a store of the H40's own, made again after a MIGRATE has been served (R257). -/
def State.checkOwn (s : State) (ag : Agent) (va : DWord) : Except Cause Tr × State :=
  let k := s.checkVa ag va true (fun t => !t.lattice)
  match k.1 with
  | .error .migrate => (k.2.migrateBy ag.core ag.ctx va.toNat).checkVa ag va true (fun t => !t.lattice)
  | _ => k

/-- The physical addresses of n sectors from an address, checked as an engine's stores (R257, R376): MIGRATE is served, and
none where a check fails. -/
def State.recordAddrs (s : State) (ag : Agent) (va : DWord) : Nat → Option (List Nat) × State
  | 0 => (some [], s)
  | n + 1 =>
    match s.checkOwn ag va with
    | (.error _, s) => (none, s)
    | (.ok t, s) =>
      match (if isHbm t.pa then s.filterCheck ag (t.pa / 16) (BitVec.allOnes 16) false else (none, s)) with
      | (some _, s) => (none, s)
      | (none, s) =>
        let r := s.recordAddrs ag (va + 16) n
        (r.1.map (t.pa :: ·), r.2)

/-- Writing 16-byte pieces at physical addresses. -/
def State.wrPieces (s : State) : List Nat → List Byte → State
  | [], _ => s
  | pa :: pas, bs =>
    (if isHbm pa then s.homeWr pa (bs.take 16) else s.ioWr pa (bs.take 16)).wrPieces pas (bs.drop 16)

/-- Writing the race record of a trapping access as the next of the fault log (R376): of its lowest-FIX fibre, so one for
a unit. A record whose write fails a check is not made and counts as used. -/
def State.logRace (s : State) (ag : Agent) (va : DWord) (sect : Nat) (m : Half) (rd : Bool) (e : FEntry) : State :=
  if s.cur.any (·.raced) then s
  else
    let s : State := { s with cur := s.cur.map fun (c : Cur) => { c with raced := true } }
    match s.launch? ag.lkey with
    | none => s
    | some l =>
      if l.flogUsed ≥ l.r.flogcap then s
      else
        let a := l.r.flogbase + BitVec.ofNat 64 (256 * l.flogUsed)
        let rec_ := raceRecord s ag va sect m rd e
        let s := s.modLaunch ag.lkey fun l => { l with flogUsed := l.flogUsed + 1 }
        match s.recordAddrs ag a 16 with
        | (some pas, t) => t.wrPieces pas rec_
        | (none, t) => { t with filter := s.filter, strands := s.strands }

/-! ## Loads and stores within one sector -/

/-- Reading a translated address by a core: lattice replicas and the I/O regions directly, ordinary HBM through the L1,
or, with .L2, at the die's L2 (R184, R197, R205). -/
def State.load (s : State) (core : Nat) (t : Tr) (n : Nat) (l2 : Bool) : (List Byte × Option Nat) × State :=
  let s := s.noteRead (t.pa / 16)
  if !isHbm t.pa then ((s.ioRd t.pa n, none), s)
  else if t.lattice then ((s.homeRd t.pa n, s.poisonAt (t.pa / 16)), s)
  else s.placeRd core (if l2 then 2 else 0) t.pa n

/-- Writing a translated address by a core. -/
def State.store (s : State) (core : Nat) (t : Tr) (bs : List Byte) (l2 : Bool) : State :=
  if !isHbm t.pa then s.ioWr t.pa bs
  else s.placeWr core (if l2 then 2 else 0) t.pa bs

/-- TINFO[31:20] of ECC_UNCORR for a store that holds poison (R406). -/
def eccInfo (k : Nat) : Nat := k * 2 ^ 28

/-- A fault of an access: its cause and the high bits of TINFO. -/
abbrev AFault := Cause × Nat

/-- A checked load of n aligned bytes: R227 in order, the filter's reader check included. -/
def State.loadVa (s : State) (ag : Agent) (va : DWord) (n : Nat) (l2 : Bool) (ok : Tr → Bool) :
    Except AFault (List Byte × Tr) × State :=
  if va.toNat % n ≠ 0 then (.error (.align, 0), s)
  else
    match s.checkVa ag va false ok with
    | (.error e, s) => (.error (e, 0), s)
    | (.ok t, s) =>
      let m : Half := BitVec.ofNat 16 (sectMask t.pa n)
      match (if isHbm t.pa && !t.lattice then s.filterCheck ag (t.pa / 16) m true else (none, s)) with
      | (some e, s) => (.error (.race, 0), s.logRace ag va (t.pa / 16) m true e)
      | (none, s) =>
        let r := s.load ag.core t n l2
        match r.1.2 with
        | some k => (.error (.eccUncorr, eccInfo k), r.2)
        | none => (.ok (r.1.1, t), r.2)

/-- The checks of a store of n aligned bytes: R227 in order, LATTICE_PLAIN and the filter included. -/
def State.storeCheck (s : State) (ag : Agent) (va : DWord) (n : Nat) (ok : Tr → Bool) : Except AFault Tr × State :=
  if va.toNat % n ≠ 0 then (.error (.align, 0), s)
  else
    match s.checkVa ag va true ok with
    | (.error e, s) => (.error (e, 0), s)
    | (.ok t, s) =>
      if t.lattice then (.error (.latticePlain, 0), s)
      else
        let m : Half := BitVec.ofNat 16 (sectMask t.pa n)
        match (if isHbm t.pa then s.filterCheck ag (t.pa / 16) m false else (none, s)) with
        | (some e, s) => (.error (.race, 0), s.logRace ag va (t.pa / 16) m false e)
        | (none, s) => (.ok t, s)

/-- A checked store of aligned bytes. -/
def State.storeVa (s : State) (ag : Agent) (va : DWord) (bs : List Byte) (l2 : Bool) : Except AFault Unit × State :=
  match s.storeCheck ag va bs.length (fun _ => true) with
  | (.error e, s) => (.error e, s)
  | (.ok t, s) => (.ok (), s.store ag.core t bs l2)

/-- Reading a record as a uniform load, a sector at a time (R228 kind 5): the first fault with its address. -/
def State.loadBlock (s : State) (ag : Agent) (va : DWord) : Nat → Except (AFault × DWord) (List Byte) × State
  | 0 => (.ok [], s)
  | n + 1 =>
    match s.loadVa ag va 16 false (fun _ => true) with
    | (.error e, s) => (.error (e, va), s)
    | (.ok (bs, tr), t) =>
      match t.loadBlock ag (va + 16) n with
      | (.error e, t) => (.error e, t.unrecord s [tr.pa / 16])
      | (.ok r, s) => (.ok (bs ++ r), s)

/-! ## Vector accesses (R228) -/

/-- What one fibre of an access does: its new registers and flags, or its fault, and the new state. -/
abbrev MBody := State → Gang → Nat → Fibre → Except FFault (Fibre × Flags) × State

/-- ECC_UNCORR is the last check of an access (R227): a fibre with a poisoned operand register answers another cause where
the access fails one. -/
def eccLast {α : Type} (run : Fibre → Except FFault α × State) (f : Fibre) : Except FFault α × State :=
  match run f with
  | (.error e, s) =>
    if e.cause = .eccUncorr && !f.bad.isEmpty then
      match run { f with bad := [] } with
      | (.error e', s') => (.error e', s')
      | (.ok _, _) => (.error e, s)
    else (.error e, s)
  | r => r

/-- The fibres of a list act in ascending FIX. -/
def runMem (body : MBody) (g0 : Gang) : List Nat → State → List FFault × State
  | [], s => ([], s)
  | i :: is, s =>
    match eccLast (body s g0 i) (g0.fibre i) with
    | (.ok (f, fl), s) => runMem body g0 is (s.modGang g0.gid fun g => (g.setFibre i f).flags fl)
    | (.error e, s) =>
      let r := runMem body g0 is s
      (e :: r.1, r.2)

/-- When every cause is MIGRATE, firmware serves the pages and the unit is replayed in those fibres alone (R181, R228);
n bounds the replays. -/
def runReplay (body : MBody) (g0 : Gang) : Nat → List Nat → State → List FFault × State
  | 0, is, s => runMem body g0 is s
  | n + 1, is, s =>
    let r := runMem body g0 is s
    if r.1.isEmpty || !r.1.all (·.cause == .migrate) then r
    else runReplay body g0 n (r.1.map (·.fix)) (r.1.foldl (fun s f => s.migrateBy g0.core g0.ctx f.addr.toNat) r.2)

/-- A vector access over fibres, with the release before it and the acquire after it (R207, R212, R228); an access that
stores first pays the release that an earlier fence makes of it (R208). -/
def memOver (s : State) (c : Cur) (g : Gang) (act : List Nat) (kind rel acq : Nat) (body : MBody) : Out :=
  let s := (if kind = 0 then s else s.payOwed g.gid).releaseLv g.core rel
  let r := runReplay body g 65 act s
  finishFibres c kind r.1 (r.2.acquireLv g.core acq)

/-- A fibre check as an access fault without an address. -/
def noAddr {α : Type} (i : Nat) : FRes α → Except FFault α
  | .ok x => .ok x
  | .error (cause, info) => .error { fix := i, cause := cause, addr := 0, info := info }

/-- An access fault of a fibre at an address. -/
def atAddr (i : Nat) (va : DWord) (e : AFault) : FFault := { fix := i, cause := e.1, addr := va, info := e.2 }

/-- The end of a uniform access that failed: the whole batch faults; for MIGRATE firmware serves the page and the
batch, still at its unit, executes it again (R228). -/
def uniFault (c : Cur) (g : Gang) (kind : Nat) (va : DWord) (e : AFault) (s : State) : Out :=
  if e.1 = .migrate then .next (s.migrateBy g.core g.ctx va.toNat)
  else trapBatch c g e.1 va (lowFix g.width c.memb + 64 * kind + e.2) s

/-- Whether an outcome takes a trap of the gang. -/
def Out.traps (g : Gang) : Out → Bool
  | .next t =>
    match t.gang? g.gid with
    | some h => h.exited || h.trap != g.trap || h.pending != g.pending
    | none => true
  | _ => true

/-- A word that reads S registers: poison in one of them faults the batch (R406), after every other check (R227). -/
def sGuard (c : Cur) (g : Gang) (s : State) (srcs : List (Nat × Nat)) (k : Out) : Out :=
  match g.poisonS.find? (fun r => srcs.any fun e => decide (e.1 ≤ r ∧ r < e.1 + e.2)) with
  | some r =>
    if Out.traps g k then k
    else trapBatch c g .eccUncorr 0 (3 * 2 ^ 28 + r % 256 * 2 ^ 20 + lowFix g.width c.memb) s
  | none => k

end Sys2Proof.Machine
end

