-- ==== Sys2Proof/Machine/Flags.lean ====
section
/-! DEFINITION. The flag registers STAT and STATARM (R386 to R388) and the flag computations shared by instructions. -/
namespace Sys2Proof.Machine

/-- STAT as CSRR reads it (R386). -/
def Gang.statWord (g : Gang) : Word := g.stat.setWidth 32
/-- STATARM as CSRR reads it. -/
def Gang.armWord (g : Gang) : Word := g.statarm.setWidth 32
/-- A CSRW of STAT clears the flags written as 1 and sets none (R98, R386). -/
def Gang.statW1C (g : Gang) (v : Word) : Gang := { g with stat := g.stat &&& ~~~v.setWidth 5 }
/-- A CSRW of STATARM writes its five bits. -/
def Gang.armWrite (g : Gang) (v : Word) : Gang := { g with statarm := v.setWidth 5 }

/-- A comparison of two values of ICMP and SCMP codes 0 to 9, TST and TSTZ (R110). -/
def cmpWord (cc : Nat) (a b : Word) : Bool :=
  match cc with
  | 0 => a == b
  | 1 => a != b
  | 2 => a.slt b
  | 3 => a.sle b
  | 4 => b.slt a
  | 5 => b.sle a
  | 6 => a.ult b
  | 7 => a.ule b
  | 8 => b.ult a
  | 9 => b.ule a
  | 14 => a &&& b != 0
  | _ => a &&& b == 0

/-- The 64-bit conditions of ICMP, codes 10 to 13 (R110). -/
def cmpDWord (cc : Nat) (a b : DWord) : Bool :=
  match cc with
  | 10 => a == b
  | 11 => a != b
  | 12 => a.slt b
  | _ => a.ult b

/-- The conditions of FCMP (R131). -/
def cmpFloat (cc : Nat) (a b : Word) : Bool :=
  let x := dec32 a
  let y := dec32 b
  let un := x.isNan || y.isNan
  let base : Nat → Bool := fun k =>
    match k with
    | 0 => x.eq y
    | 1 => !un && !x.eq y
    | 2 => x.lt false y
    | 3 => x.lt false y || x.eq y
    | 4 => y.lt false x
    | _ => y.lt false x || x.eq y
  if cc = 14 then (tkey a).ult (tkey b)
  else if cc = 15 then a == b
  else if cc = 6 then !un
  else if cc = 7 then un
  else if cc ≥ 8 then un || base (cc - 8)
  else base cc

end Sys2Proof.Machine
end

