-- ==== Sys2Proof/Machine/Operands.lean ====
section
/-! DEFINITION. The operand forms: guards (R59, R72), the B operand and its HIMM replacement (R69), immediates (R66),
rounding overrides and draws (R33, R70, R125), and the drivers that run an instruction over the fibres of a batch. -/
namespace Sys2Proof.Machine

/-! ## Hint fields -/

/-- HV sign-extended to 32 bits (R69). -/
def himm32 (h : BitVec 22) : Word := h.signExtend 32
/-- HV sign-extended to 64 bits (R69). -/
def himm64 (h : BitVec 22) : DWord := h.signExtend 64
/-- A field of the HMOD value (R70). -/
def hmodFld (c : Cur) (lo len : Nat) : Nat :=
  match c.hmod with
  | some h => h.toNat / 2 ^ lo % 2 ^ len
  | none => 0
/-- The rounding mode of a unit: HMOD RND when RV = 1, RN otherwise (R30, R125). -/
def modeOf (c : Cur) : RMode := if hmodFld c 3 1 = 1 then rmode (hmodFld c 0 3) else .rn
/-- ORDER of HMOD: acquire bit, release bit (R70). -/
def hasAcq (c : Cur) : Bool := hmodFld c 4 2 % 2 == 1
def hasRel (c : Cur) : Bool := hmodFld c 4 2 / 2 == 1
/-- SCOPE of HMOD when given (R64, R70). -/
def hmodScope (c : Cur) (dflt : Nat) : Nat := if hmodFld c 11 1 = 1 then hmodFld c 8 3 else dflt
/-- CACHE = .L2 (R184). -/
def bypassL1 (c : Cur) : Bool := hmodFld c 6 2 == 2
/-- The T and CON bits of HMOD. -/
def hmodT (c : Cur) : Bool := hmodFld c 12 1 == 1
def hmodCon (c : Cur) : Bool := hmodFld c 13 1 == 1

/-- The immediate of a VI or SI word: I10 extended, or HV << 10 | I10 under HIMM (R66, R69). -/
def immVI (c : Cur) (signed : Bool) (i : BitVec 10) : Word :=
  match c.himm with
  | some h => h ++ i
  | none => if signed then i.signExtend 32 else i.setWidth 32

/-- A 7-bit scalar-pair field names S(2n) (R57). -/
def pairNo {n : Nat} (p : BitVec n) : Nat := 2 * p.toNat

/-! ## V operands -/

/-- Testing the B operand: nothing to test when HIMM replaces it (R69). -/
def bChk (c : Cur) (f : Fibre) (b cnt : Nat) : FRes Unit :=
  match c.himm with
  | some _ => .ok ()
  | none => f.chk b cnt
/-- The B operand, or HV sign-extended (R69). -/
def bVal (c : Cur) (f : Fibre) (b : Nat) : Word :=
  match c.himm with
  | some h => himm32 h
  | none => f.v b
/-- The B pair, or HV sign-extended to 64 bits (R69). -/
def bVal2 (c : Cur) (f : Fibre) (b : Nat) : DWord :=
  match c.himm with
  | some h => himm64 h
  | none => f.v2 b

/-- The captured seed of a gang's launch, which keys its streams (R53, R302). -/
def State.seedOf (s : State) (g : Gang) : DWord :=
  match s.launch? g.lkey with
  | some l => l.seed
  | none => g.seed

/-- The draw of a fibre (R53). -/
def drawOf (s : State) (g : Gang) (i : Nat) (f : Fibre) : Word := drawVal (s.seedOf g) g.ped.levels i f.drw
/-- n draws taken (R53). -/
def Fibre.drew (f : Fibre) (n : Nat) : Fibre := { f with drw := f.drw + BitVec.ofNat 32 n }
/-- n draws under RS, none in another mode (R33). -/
def Fibre.drewIf (f : Fibre) (m : RMode) (n : Nat) : Fibre := if m = .rs then f.drew n else f
/-- The k-th draw of the unit, counting from 0. -/
def drawK (s : State) (g : Gang) (i : Nat) (f : Fibre) (k : Nat) : Word := drawOf s g i (f.drew k)

/-! ## Running over fibres -/

/-- What one fibre does: its new registers and the flags it sets, or its fault. -/
abbrev Body := Gang → Nat → Fibre → FRes (Fibre × Flags)

/-- The fibres of a list run in ascending FIX; each reads the gang as it stood before the instruction. -/
def runFibres (body : Body) (g0 : Gang) : List Nat → Gang → Gang × List FFault
  | [], g => (g, [])
  | i :: is, g =>
    match body g0 i (g0.fibre i) with
    | .ok (f, fl) => runFibres body g0 is ((g.setFibre i f).flags fl)
    | .error (cause, info) =>
      let r := runFibres body g0 is g
      (r.1, { fix := i, cause := cause, addr := 0, info := info } :: r.2)

/-- The guard of an unguarded format: HGRD, or always (R72). -/
def hgrdOf (c : Cur) (f : Fibre) : Bool :=
  match c.hgrd with
  | some gd => guardOf gd f
  | none => true

/-- The executing fibres of a word with a GD field (R59, R101). -/
def actGd (c : Cur) (g : Gang) (gd : BitVec 4) : List Nat :=
  (fibresOf g.width c.memb).filter fun i => guardOf gd (g.fibre i)
/-- The executing fibres of a word without one (R72). -/
def actHg (c : Cur) (g : Gang) : List Nat :=
  (fibresOf g.width c.memb).filter fun i => hgrdOf c (g.fibre i)

/-- A vector instruction over given fibres: the others keep everything, faulted fibres change nothing (R99, R228). -/
def vecOver (s : State) (c : Cur) (g : Gang) (act : List Nat) (body : Body) : Out :=
  let r := runFibres body g act g
  finishFibres c 0 r.2 (s.modGang c.gid fun _ => r.1)

/-- A vector word with a GD guard. -/
def vecGd (s : State) (gd : BitVec 4) (body : Cur → Body) : Out :=
  withCur s fun c g => vecOver s c g (actGd c g gd) (body c)
/-- A vector word guarded by HGRD only (formats V4, CP). -/
def vecHg (s : State) (body : Cur → Body) : Out :=
  withCur s fun c g => vecOver s c g (actHg c g) (body c)
/-- A vector word without guard, in every active fibre. -/
def vecAll (s : State) (body : Cur → Body) : Out :=
  withCur s fun c g => vecOver s c g (fibresOf g.width c.memb) (body c)

/-- D := op(a, b), format VR with 32-bit operands. -/
def vr (s : State) (gd : BitVec 4) (d a b : BitVec 6) (op : Word → Word → Word) : Out :=
  vecGd s gd fun c _ _ f => do
    f.chkD d.toNat 1; f.chk a.toNat 1; bChk c f b.toNat 1
    return (f.setV d.toNat (op (f.v a.toNat) (bVal c f b.toNat)), 0)

/-- D := op(a) with flags, the unary forms of format VR. -/
def vu (s : State) (gd : BitVec 4) (d a : BitVec 6) (op : Word → Word × Flags) : Out :=
  vecGd s gd fun _ _ _ f => do
    f.chkD d.toNat 1; f.chk a.toNat 1
    let r := op (f.v a.toNat)
    return (f.setV d.toNat r.1, r.2)

/-- D := op(a, b) on pairs, format VR; the fields hold register numbers halved (R58). -/
def vr64 (s : State) (gd : BitVec 4) (d a b : BitVec 5) (op : DWord → DWord → DWord) : Out :=
  vecGd s gd fun c _ _ f => do
    f.chkD (pairNo d) 2; f.chk (pairNo a) 2; bChk c f (pairNo b) 2
    return (f.setV2 (pairNo d) (op (f.v2 (pairNo a)) (bVal2 c f (pairNo b))), 0)

/-- The 64-bit shifts: D and A pairs, B single (R104). -/
def vrShift64 (s : State) (gd : BitVec 4) (d a : BitVec 5) (b : BitVec 6) (op : DWord → Nat → DWord) : Out :=
  vecGd s gd fun c _ _ f => do
    f.chkD (pairNo d) 2; f.chk (pairNo a) 2; bChk c f b.toNat 1
    return (f.setV2 (pairNo d) (op (f.v2 (pairNo a)) (bVal c f b.toNat).toNat), 0)

/-- D := op(a, imm), format VI. -/
def vi (s : State) (gd : BitVec 4) (d a : BitVec 6) (imm : Cur → Word) (op : Word → Word → Word) : Out :=
  vecGd s gd fun c _ _ f => do
    f.chkD d.toNat 1; f.chk a.toNat 1
    return (f.setV d.toNat (op (f.v a.toNat) (imm c)), 0)

/-- D := op(a, b, c) on single registers, format V4. -/
def v4 (s : State) (d a b k : BitVec 6) (op : Word → Word → Word → Word) : Out :=
  vecHg s fun c _ _ f => do
    f.chkD d.toNat 1; f.chk a.toNat 1; bChk c f b.toNat 1; f.chk k.toNat 1
    return (f.setV d.toNat (op (f.v a.toNat) (bVal c f b.toNat) (f.v k.toNat)), 0)

/-- A vector word that also reads S[n], format VS: a poisoned S[n] faults the batch (R114, R406). -/
def vecSc (s : State) (gd : BitVec 4) (n : BitVec 8) (body : Cur → Body) : Out :=
  withCur s fun c g =>
    if g.poisonS.contains n.toNat then
      trapBatch c g .eccUncorr 0 (3 * 2 ^ 28 + n.toNat * 2 ^ 20 + lowFix g.width c.memb) s
    else vecOver s c g (actGd c g gd) (body c)

/-- D := op(a, S[n]), format VS. -/
def vs (s : State) (gd : BitVec 4) (d a : BitVec 6) (n : BitVec 8) (op : Word → Word → Word) : Out :=
  vecSc s gd n fun _ g _ f => do
    f.chkD d.toNat 1; f.chk a.toNat 1
    return (f.setV d.toNat (op (f.v a.toNat) (g.s n.toNat)), 0)

/-- A rounded operation of two operands, one draw under RS (R125, R126). -/
def vrRound (s : State) (gd : BitVec 4) (d a b : BitVec 6) (op : RMode → Word → Word → Word → Word × Flags) : Out :=
  vecGd s gd fun c g i f => do
    f.chkD d.toNat 1; f.chk a.toNat 1; bChk c f b.toNat 1
    let m := modeOf c
    let r := op m (drawOf s g i f) (f.v a.toNat) (bVal c f b.toNat)
    return ((f.drewIf m 1).setV d.toNat r.1, r.2)

/-- Pd receives a condition and Pc its complement, format CP (R61). -/
def Fibre.setPP (f : Fibre) (p q : BitVec 3) (x : Bool) : Fibre := (f.pset p.toNat x).pset q.toNat (!x)

/-! ## Uniform instructions -/

/-- A uniform instruction over the gang's scalar state; reading a poisoned S register faults the batch (R406). -/
def uni (s : State) (srcs : Cur → List (Nat × Nat)) (f : Cur → Gang → Gang) : Out :=
  withCur s fun c g =>
    match g.poisonS.find? (fun r => (srcs c).any fun e => decide (e.1 ≤ r ∧ r < e.1 + e.2)) with
    | some r => trapBatch c g .eccUncorr 0 (3 * 2 ^ 28 + r % 256 * 2 ^ 20 + lowFix g.width c.memb) s
    | none => done c (s.modGang c.gid fun _ => f c g)

/-- The S operand B, or HV sign-extended (R116). -/
def sB (c : Cur) (g : Gang) (b : Nat) : Word :=
  match c.himm with
  | some h => himm32 h
  | none => g.s b
def sB2 (c : Cur) (g : Gang) (b : Nat) : DWord :=
  match c.himm with
  | some h => himm64 h
  | none => g.s2 b
/-- The register that B reads, if it reads one. -/
def sBsrc (c : Cur) (b n : Nat) : List (Nat × Nat) :=
  match c.himm with
  | some _ => []
  | none => [(b, n)]

/-- D := op(a, b), format SR. -/
def sr (s : State) (d a b : BitVec 8) (op : Word → Word → Word) : Out :=
  uni s (fun c => (a.toNat, 1) :: sBsrc c b.toNat 1) fun c g => g.setS d.toNat (op (g.s a.toNat) (sB c g b.toNat))
/-- D := op(a, b) on scalar pairs. -/
def sr64 (s : State) (d a b : BitVec 7) (op : DWord → DWord → DWord) : Out :=
  uni s (fun c => (pairNo a, 2) :: sBsrc c (pairNo b) 2) fun c g =>
    g.setS2 (pairNo d) (op (g.s2 (pairNo a)) (sB2 c g (pairNo b)))

end Sys2Proof.Machine
end

