-- ==== Sys2Proof/Machine/Load.lean ====
section
/-! DEFINITION. Loads and stores (R225 to R232), typed accesses included (R183). -/
namespace Sys2Proof.Machine

/-- Bytes of an access by its size code (R63, R230). -/
def szBytes (z : Nat) : Nat := match z with | 0 => 1 | 1 => 1 | 2 => 2 | 3 => 2 | 4 => 4 | 5 => 8 | _ => 16
/-- Registers of an access by its size code. -/
def szRegs (z : Nat) : Nat := match z with | 5 => 2 | 6 => 4 | _ => 1

/-- Word i of bytes. -/
def wordAt (bs : List Byte) (i : Nat) : Word := BitVec.ofNat 32 (numOf ((bs.drop (4 * i)).take 4))
/-- The register values a load gives (R230). -/
def loadWords (z : Nat) (bs : List Byte) : List Word :=
  match z with
  | 0 => [BitVec.ofNat 32 (numOf bs)]
  | 1 => [wordOfInt (sInt 8 (numOf bs))]
  | 2 => [BitVec.ofNat 32 (numOf bs)]
  | 3 => [wordOfInt (sInt 16 (numOf bs))]
  | 4 => [wordAt bs 0]
  | 5 => [wordAt bs 0, wordAt bs 1]
  | _ => [wordAt bs 0, wordAt bs 1, wordAt bs 2, wordAt bs 3]
/-- The bytes a store takes from registers (R230). -/
def storeBytes (z : Nat) (ws : List Word) : List Byte :=
  (ws.flatMap fun (w : Word) => bytesOf 4 w.toNat).take (szBytes z)

/-- The displacement of HIMM before a memory word (R225). -/
def dispOf (c : Cur) : DWord := match c.himm with | some h => himm64 h | none => 0
/-- The effective address of LD, ST, ATOM, RED and LAT (R225). -/
def vecEa (c : Cur) (g : Gang) (f : Fibre) (p : BitVec 7) (a : BitVec 6) : DWord :=
  g.s2 (pairNo p) + (f.v a.toNat).setWidth 64 + dispOf c
/-- The effective address of LDV and STV (R225). -/
def pairEa (c : Cur) (f : Fibre) (a : BitVec 5) : DWord := f.v2 (pairNo a) + dispOf c

/-- The cache levels of a word's ORDER and SCOPE: release and acquire (R231). -/
def relLevel (s : State) (c : Cur) (g : Gang) (dflt : Nat) : Nat :=
  if hasRel c then scopeLevel (hmodScope c dflt) (s.spread g) else 0
def acqLevel (s : State) (c : Cur) (g : Gang) (dflt : Nat) : Nat :=
  if hasAcq c then scopeLevel (hmodScope c dflt) (s.spread g) else 0

/-- An access result as a fibre result. -/
def memRes {α : Type} (i : Nat) (va : DWord) (r : Except AFault α × State) (k : α → Fibre × Flags) :
    Except FFault (Fibre × Flags) × State :=
  match r with
  | (.ok x, s) => (.ok (k x), s)
  | (.error e, s) => (.error (atAddr i va e), s)

/-- An acquire load of a lattice cell acquires at SYS scope, whatever scope it names (R221, R247). -/
def latAcq (c : Cur) (g : Gang) (t : Tr) (s : State) : State :=
  if t.lattice && hasAcq c then s.acquireLv g.core 2 else s

/-- A fibre's load of a plain size (R230). -/
def loadFibre (c : Cur) (d z : Nat) (s : State) (g : Gang) (i : Nat) (f : Fibre) (ea : DWord) :
    Except FFault (Fibre × Flags) × State :=
  match f.chkD d (szRegs z) with
  | .error e => (.error (atAddr i ea e), s)
  | .ok _ =>
    match s.loadVa (agentOf s c g) ea (szBytes z) (bypassL1 c) (fun _ => true) with
    | (.error e, s) => (.error (atAddr i ea e), s)
    | (.ok r, s) => (.ok (f.setVs d (loadWords z r.1), 0), latAcq c g r.2 s)

/-- A fibre's store of a plain size (R230). -/
def storeFibre (c : Cur) (d z : Nat) (s : State) (g : Gang) (i : Nat) (f : Fibre) (ea : DWord) :
    Except FFault (Fibre × Flags) × State :=
  match f.chk d (szRegs z) with
  | .error e => (.error (atAddr i ea e), s)
  | .ok _ =>
    memRes i ea (s.storeVa (agentOf s c g) ea (storeBytes z ((List.range (szRegs z)).map fun k => f.v (d + k)))
      (bypassL1 c)) fun _ => (f, 0)

/-- The element of a typed access (R183): its address, bit, width and the page of the base; PAGE and PROT of the base
page come before ALIGN. A fault comes with its address: the element's once the width is known. -/
def typedElem (s : State) (ag : Agent) (base : DWord) (idx : Nat) (wr : Bool) :
    Except (DWord × AFault) (DWord × Nat × Nat × Nat) × State :=
  match s.checkPage ag base wr (fun t => 1 ≤ t.pfmt && t.pfmt ≤ 13) with
  | (.error e, s) => (.error (base, e, 0), s)
  | (.ok t, s) =>
    let w := elemBits t.pfmt
    let ea := base + BitVec.ofNat 64 (idx * w / 8)
    if w ≥ 8 ∧ ea.toNat % (w / 8) ≠ 0 then (.error (ea, .align, 0), s)
    else (.ok (ea, idx * w % 8, w, t.pfmt), s)

/-- A fibre's typed load (R183). -/
def typedLoad (c : Cur) (d : Nat) (s : State) (g : Gang) (i : Nat) (f : Fibre) (base : DWord) (idx : Nat) :
    Except FFault (Fibre × Flags) × State :=
  match f.chkD d 1 with
  | .error e => (.error (atAddr i base e), s)
  | .ok _ =>
    match typedElem s (agentOf s c g) base idx false with
    | (.error e, s) => (.error (atAddr i e.1 e.2), s)
    | (.ok (ea, b, w, fmt), s) =>
      memRes i ea (s.loadVa (agentOf s c g) ea ((w + 7) / 8) (bypassL1 c) (fun t => t.pfmt == fmt)) fun r =>
        let x := widen fmt (numOf r.1 / 2 ^ b % 2 ^ w)
        (f.setV d x.1, x.2)

/-- Writing the bits of an element narrower than a byte: at the home slice, so that its neighbours keep their values
(R183). -/
def storeBits (s : State) (core : Nat) (t : Tr) (b w x : Nat) : State :=
  let put := fun (old : Nat) => (old / 2 ^ (b + w) * 2 ^ w + x % 2 ^ w) * 2 ^ b + old % 2 ^ b
  if isHbm t.pa then
    let r := s.placeRd core 3 t.pa 1
    r.2.placeWr core 3 t.pa (bytesOf 1 (put (numOf r.1.1)))
  else s.ioWr t.pa (bytesOf 1 (put (numOf (s.ioRd t.pa 1))))

/-- A fibre's typed store (R183). -/
def typedStore (c : Cur) (d : Nat) (s : State) (g : Gang) (i : Nat) (f : Fibre) (base : DWord) (idx : Nat) :
    Except FFault (Fibre × Flags) × State :=
  match f.chk d 1 with
  | .error e => (.error (atAddr i base e), s)
  | .ok _ =>
    match typedElem s (agentOf s c g) base idx true with
    | (.error e, s) => (.error (atAddr i e.1 e.2), s)
    | (.ok (ea, b, w, fmt), s) =>
      match s.storeCheck (agentOf s c g) ea ((w + 7) / 8) (fun t => t.pfmt == fmt) with
      | (.error e, s) => (.error (atAddr i ea e), s)
      | (.ok t, s) =>
        let x := storeElem fmt (f.v d)
        (.ok (f, x.2),
          if w < 8 then storeBits s g.core t b w x.1 else s.store g.core t (bytesOf (w / 8) x.1) (bypassL1 c))

/-- A load or store word over fibres: the address register is tested, then each fibre acts. -/
def memWord (s : State) (gd : BitVec 4) (srcs : List (Nat × Nat)) (kind : Nat) (areg : Nat × Nat)
    (body : Cur → State → Gang → Nat → Fibre → Except FFault (Fibre × Flags) × State) : Out :=
  withCur s fun c g =>
    sGuard c g s srcs
      (memOver s c g (actGd c g gd) kind (relLevel s c g 2) (acqLevel s c g 2) fun s g i f =>
        match f.chk areg.1 areg.2 with
        | .error e => (.error (atAddr i 0 e), s)
        | .ok _ => body c s g i f)

/-- LD (R225, R230, R231). -/
def execLd (gd : BitVec 4) (d a : BitVec 6) (p : BitVec 7) (z : BitVec 3) (s : State) : Out :=
  memWord s gd [(pairNo p, 2)] 0 (a.toNat, 1) fun c s g i f =>
    if z = 7 then typedLoad c d.toNat s g i f (g.s2 (pairNo p) + dispOf c) (f.v a.toNat).toNat
    else loadFibre c d.toNat z.toNat s g i f (vecEa c g f p a)

/-- LDV (R225, R230). -/
def execLdv (gd : BitVec 4) (d : BitVec 6) (a : BitVec 5) (z : BitVec 3) (s : State) : Out :=
  memWord s gd [] 0 (pairNo a, 2) fun c s g i f => loadFibre c d.toNat z.toNat s g i f (pairEa c f a)

/-- ST (R225, R230). -/
def execSt (gd : BitVec 4) (d a : BitVec 6) (p : BitVec 7) (z : BitVec 3) (s : State) : Out :=
  memWord s gd [(pairNo p, 2)] 1 (a.toNat, 1) fun c s g i f =>
    if z = 7 then typedStore c d.toNat s g i f (g.s2 (pairNo p) + dispOf c) (f.v a.toNat).toNat
    else storeFibre c d.toNat z.toNat s g i f (vecEa c g f p a)

/-- STV (R225, R230). -/
def execStv (gd : BitVec 4) (d : BitVec 6) (a : BitVec 5) (z : BitVec 3) (s : State) : Out :=
  memWord s gd [] 1 (pairNo a, 2) fun c s g i f => storeFibre c d.toNat z.toNat s g i f (pairEa c f a)

/-- The size code of LDS and STS as one of R230: 7 is 128 bits (R232). -/
def smSize (z : BitVec 3) : Nat := if z = 7 then 6 else z.toNat
/-- The address of LDS and STS (R63, R69, R232). -/
def smEa (c : Cur) (g : Gang) (p : BitVec 7) (z : BitVec 3) (o : BitVec 8) : DWord :=
  g.s2 (pairNo p) + (match c.himm with | some h => himm64 h | none => BitVec.ofNat 64 (o.toNat * szBytes (smSize z)))

/-- LDS (R232): one event of the batch. -/
def execLds (d : BitVec 8) (p : BitVec 7) (z : BitVec 3) (o : BitVec 8) (s : State) : Out :=
  withCur s fun c g =>
    sGuard c g s [(pairNo p, 2)]
      (let ea := smEa c g p z o
       let acq := acqLevel s c g 2
       let s := s.releaseLv g.core (relLevel s c g 2)
       match s.loadVa (agentOf s c g) ea (szBytes (smSize z)) (bypassL1 c) (fun _ => true) with
       | (.error e, s) => uniFault c g 5 ea e s
       | (.ok r, s) =>
         let s := latAcq c g r.2 (s.acquireLv g.core acq)
         done c (s.modGang c.gid (·.setSs d.toNat (loadWords (smSize z) r.1))))

/-- STS (R232): one event of the batch. -/
def execSts (d : BitVec 8) (p : BitVec 7) (z : BitVec 3) (o : BitVec 8) (s : State) : Out :=
  withCur s fun c g =>
    let n := szRegs (smSize z)
    sGuard c g s [(pairNo p, 2), (d.toNat, n)]
      (let ea := smEa c g p z o
       let s := (s.payOwed g.gid).releaseLv g.core (relLevel s c g 2)
       match s.storeVa (agentOf s c g) ea (storeBytes (smSize z) ((List.range n).map fun k => g.s (d.toNat + k)))
           (bypassL1 c) with
       | (.error e, s) => uniFault c g 5 ea e s
       | (.ok _, s) => done c s)

end Sys2Proof.Machine
end

