-- ==== Sys2Proof/Machine/Atomic.lean ====
section
/-! DEFINITION. Atomics, ordered sequences, fences and WAITA (R233 to R242). -/
namespace Sys2Proof.Machine

/-- Registers that an atomic's D operand takes (R234). -/
def atomRegs (fn : Nat) : Nat := match fn with | 9 => 2 | 10 => 2 | 11 => 4 | _ => 1
/-- Bytes of an atomic's location. -/
def atomBytes (fn : Nat) : Nat := if fn = 10 ∨ fn = 11 then 8 else 4
/-- Registers of an atomic's result. -/
def atomRes (fn : Nat) : Nat := if fn = 10 ∨ fn = 11 then 2 else 1

/-- A 32-bit operation as one on values of either width. -/
def on32 (f : Word → Word → Word) (m v : DWord) : DWord × Flags := ((f (loWord m) (loWord v)).setWidth 64, 0)

/-- The new value of an atomic (R234). v is d, or d64; w the new value of the compare-and-swap forms. -/
def atomNew (fn : Nat) (m v w : DWord) : DWord × Flags :=
  match fn with
  | 0 => on32 (· + ·) m v
  | 1 => on32 (fun a b => if a.sle b then a else b) m v
  | 2 => on32 (fun a b => if a.ule b then a else b) m v
  | 3 => on32 (fun a b => if a.sle b then b else a) m v
  | 4 => on32 (fun a b => if a.ule b then b else a) m v
  | 5 => on32 (· &&& ·) m v
  | 6 => on32 (· ||| ·) m v
  | 7 => on32 (· ^^^ ·) m v
  | 8 => (v, 0)
  | 9 => (if m = v then w else m, 0)
  | 10 => (m + v, 0)
  | 11 => (if m = v then w else m, 0)
  | 12 => let r := fadd32 (loWord m) (loWord v); (r.1.setWidth 64, r.2)
  | 13 => on32 fmin32 m v
  | _ => on32 fmax32 m v

/-- The identities of R237. -/
def atomIdent (fn : Nat) : DWord :=
  match fn with
  | 1 => 0x7FFFFFFF | 2 => 0xFFFFFFFF | 3 => 0x80000000 | 5 => 0xFFFFFFFF | 12 => 0x80000000
  | 13 => 0x7FC00000 | 14 => 0x7FC00000 | _ => 0

/-- The operand of a fibre: v, and w for the compare-and-swap forms. -/
def atomArgs (fn d : Nat) (f : Fibre) : DWord × DWord :=
  match fn with
  | 9 => ((f.v d).setWidth 64, (f.v (d + 1)).setWidth 64)
  | 10 => (f.v2 d, 0)
  | 11 => (f.v2 d, f.v2 (d + 2))
  | _ => ((f.v d).setWidth 64, 0)

/-- Writing an atomic's result. -/
def Fibre.setAtom (f : Fibre) (fn d : Nat) (m : DWord) : Fibre :=
  if atomRes fn = 2 then f.setV2 d m else f.setV d (loWord m)

/-- Whether an atomic without .ORD raises DET in a deterministic launch (R18, R234). -/
def atomDet (red : Bool) (fn : Nat) : Bool := !red || fn == 8 || fn == 9 || fn ≥ 11

/-- The place of a scope (R215, R241), as PLACE of a monitor entry (R377): 0 the L1, 1 the quad unit, 2 the die's L2, 3 the
home slice or the I/O die. -/
def scopePlace (scope : Nat) (spread : Bool) : Nat :=
  match scope with
  | 0 => if spread then 1 else 0
  | 1 => 2
  | _ => 3

/-- The checks of one fibre's atomic: R227, with reads and writes both permitted (R226, R235). -/
def atomCheck (s : State) (ag : Agent) (va : DWord) (n : Nat) (sys : Bool) : Except AFault Tr × State :=
  if va.toNat % n ≠ 0 then (.error (.align, 0), s)
  else
    match s.checkVa ag va true (fun t => bit t.leaf.pte 1 && (isHbm t.pa || sys)) with
    | (.error e, s) => (.error (e, 0), s)
    | (.ok t, s) => if t.lattice then (.error (.latticePlain, 0), s) else (.ok t, s)

/-- Reading a location at a place. -/
def State.locRd (s : State) (core place : Nat) (t : Tr) (n : Nat) : (DWord × Option Nat) × State :=
  if isHbm t.pa then
    let r := (s.noteRead (t.pa / 16)).placeRd core place t.pa n
    ((BitVec.ofNat 64 (numOf r.1.1), r.1.2), r.2)
  else ((BitVec.ofNat 64 (numOf (s.ioRd t.pa n)), none), s)
/-- Writing a location at a place. -/
def State.locWr (s : State) (core place : Nat) (t : Tr) (n : Nat) (v : DWord) : State :=
  if isHbm t.pa then s.placeWr core place t.pa (bytesOf n v.toNat) else s.ioWr t.pa (bytesOf n v.toNat)

/-- One fibre's atomic (R234, R235). -/
def atomFibre (c : Cur) (red : Bool) (fn d sc place : Nat) (ea : Gang → Fibre → DWord) (s : State) (g : Gang) (i : Nat)
    (f : Fibre) : Except FFault (Fibre × Flags) × State :=
  match f.chk d (atomRegs fn) with
  | .error e => (.error (atAddr i (ea g f) e), s)
  | .ok _ =>
    match atomCheck s (agentOf s c g) (ea g f) (atomBytes fn) (sc == 3) with
    | (.error e, s) => (.error (atAddr i (ea g f) e), s)
    | (.ok t, s) =>
      let r := s.locRd g.core place t (atomBytes fn)
      match r.1.2 with
      | some k => (.error (atAddr i (ea g f) (.eccUncorr, eccInfo k)), r.2)
      | none =>
        let a := atomArgs fn d f
        let x := atomNew fn r.1.1 a.1 a.2
        (.ok (if red then f else f.setAtom fn d r.1.1, x.2), r.2.locWr g.core place t (atomBytes fn) x.1)

/-- An ATOM or RED with scope TEAM, DIE, DEV or SYS (R233 to R235). -/
def atomWord (s : State) (red : Bool) (fn d : Nat) (a : BitVec 6) (p : BitVec 7) (k : BitVec 3) : Out :=
  withCur s fun c g =>
    if g.det && atomDet red fn then trapBatch c g .det 0 c.main.toNat s
    else
      let sc := k.toNat
      let place := if red && g.det then 3 else scopePlace sc (s.spread g)
      let all := if sc = 3 then 2 else 0
      sGuard c g s [(pairNo p, 2)]
        (memOver s c g (actHg c g) 2 (max all (relLevel s c g sc)) (max all (acqLevel s c g sc)) fun s g i f =>
          match f.chk a.toNat 1 with
          | .error e => (.error (atAddr i 0 e), s)
          | .ok _ => atomFibre c red fn d sc place (fun g f => vecEa c g f p a) s g i f)

/-! ## Ordered sequences -/

/-- A fibre of an ordered operation that has passed its checks. -/
structure OrdItem where
  fix : Nat
  va : DWord
  t : Tr
  v : DWord
  w : DWord
  deriving DecidableEq, Repr

/-- The checks of a fibre of an ordered operation; the core's own copies go home first, with the poison they hold (R205,
R406). -/
def ordCheck (c : Cur) (g : Gang) (fn d : Nat) (a : BitVec 6) (p : BitVec 7) (i : Nat) (s : State) (f : Fibre) :
    Except FFault OrdItem × State :=
  match f.chk a.toNat 1 with
  | .error e => (.error (atAddr i 0 e), s)
  | .ok _ =>
    let va := vecEa c g f p a
    match f.chk d (atomRegs fn) with
    | .error e => (.error (atAddr i va e), s)
    | .ok _ =>
      match atomCheck s (agentOf s c g) va (atomBytes fn) false with
      | (.error e, s) => (.error (atAddr i va e), s)
      | (.ok t, s) =>
        let s := s.syncDown g.core 3 (t.pa / 16)
        match (if isHbm t.pa then s.poisonAt (t.pa / 16) else none) with
        | some k => (.error (atAddr i va (.eccUncorr, eccInfo k)), s)
        | none => let x := atomArgs fn d f; (.ok { fix := i, va := va, t := t, v := x.1, w := x.2 }, s)

/-- The checks of the fibres of an ordered operation. -/
def ordChecks (c : Cur) (g : Gang) (fn d : Nat) (a : BitVec 6) (p : BitVec 7) :
    List Nat → State → (List OrdItem × List FFault) × State
  | [], s => (([], []), s)
  | i :: is, s =>
    let one := eccLast (ordCheck c g fn d a p i s) (g.fibre i)
    let r := ordChecks c g fn d a p is one.2
    match one.1 with
    | .ok x => ((x :: r.1.1, r.1.2), r.2)
    | .error e => ((r.1.1, e :: r.1.2), r.2)

/-- Folding operands in ascending FIX: what each fibre sees before it, and the total. -/
def ordFold (fn : Nat) (acc : DWord) : List OrdItem → List (Nat × DWord) × DWord × Flags
  | [] => ([], acc, 0)
  | x :: xs =>
    let n := atomNew fn acc x.v x.w
    let r := ordFold fn n.1 xs
    ((x.fix, acc) :: r.1, r.2.1, n.2 ||| r.2.2)

/-- The applications at one address (R237): the results of its fibres. -/
def ordAddr (core fn : Nat) (xs : List OrdItem) (s : State) : (List (Nat × DWord) × Flags) × State :=
  match xs with
  | [] => (([], 0), s)
  | x :: _ =>
    let r := s.locRd core 3 x.t (atomBytes fn)
    let m := r.1.1
    if fn = 8 ∨ fn = 9 ∨ fn = 11 then
      let f := ordFold fn m xs
      ((f.1, f.2.2), r.2.locWr core 3 x.t (atomBytes fn) f.2.1)
    else
      let f := ordFold fn (atomIdent fn) xs
      let n := atomNew fn m f.2.1 0
      let pre := f.1.map fun e => (e.1, atomNew fn m e.2 0)
      ((pre.map (fun e => (e.1, e.2.1)), pre.foldl (fun a e => a ||| e.2.2) (f.2.2 ||| n.2)),
        r.2.locWr core 3 x.t (atomBytes fn) n.1)

/-- Inserting a number into an ascending list without repeats. -/
def insertNat (x : Nat) : List Nat → List Nat
  | [] => [x]
  | y :: ys => if x < y then x :: y :: ys else if x = y then y :: ys else y :: insertNat x ys

/-- The distinct addresses of the items, ascending. -/
def ordAddrs (xs : List OrdItem) : List Nat := xs.foldl (fun l x => insertNat x.va.toNat l) []

/-- All applications of a turn, address by address. -/
def ordApply (core fn : Nat) (xs : List OrdItem) : List Nat → State → (List (Nat × DWord) × Flags) × State
  | [], s => (([], 0), s)
  | a :: as, s =>
    let r := ordAddr core fn (xs.filter (·.va.toNat == a)) s
    let t := ordApply core fn xs as r.2
    ((r.1.1 ++ t.1.1, r.1.2 ||| t.1.2), t.2)

/-- Writing the results of an ordered ATOM. -/
def Gang.setAtoms (g : Gang) (fn d : Nat) : List (Nat × DWord) → Gang
  | [] => g
  | e :: es => (g.setFibre e.1 ((g.fibre e.1).setAtom fn d e.2)).setAtoms fn d es

/-- The turn over some fibres; fibres that need migration are replayed within it (R228, R237). -/
def ordTurn (c : Cur) (red : Bool) (fn d : Nat) (a : BitVec 6) (p : BitVec 7) : Nat → List Nat → State → List FFault × State
  | 0, _, s => ([], s)
  | n + 1, act, s =>
    match s.gang? c.gid with
    | none => ([], s)
    | some g =>
      let k := ordChecks c g fn d a p act s
      let r := ordApply g.core fn k.1.1 (ordAddrs k.1.1) k.2
      let s := r.2.modGang c.gid fun g => ((if red then g else g.setAtoms fn d r.1.1).flags r.1.2)
      if k.1.2.isEmpty || !k.1.2.all (·.cause == .migrate) then (k.1.2, s)
      else ordTurn c red fn d a p n (k.1.2.map (·.fix)) (k.1.2.foldl (fun s f => s.migrateBy g.core g.ctx f.addr.toNat) s)

/-- A gang's turn on a sequence is complete, and the cursors move (R236). A turn held open on another sequence stays. -/
def State.takeTurn (s : State) (g : Gang) (q : Nat) : State :=
  (s.modGang g.gid fun g =>
    { g with turns := g.turns ||| BitVec.ofNat 64 (2 ^ q),
             openTurn := g.openTurn.filter (·.1 != q) }).moveCursors g.lkey

/-- Whether a gang has taken its turn on a sequence: it is complete, or held open by a faulted unit (R236, R237). -/
def Gang.turnTaken (g : Gang) (q : Nat) : Bool := bit g.turns q || g.openTurn.any (·.1 == q)

/-- An ATOM or RED with SC = 4 (R233, R236, R237). -/
def ordWord (s : State) (red : Bool) (fn d : Nat) (a : BitVec 6) (p : BitVec 7) : Out :=
  withCur s fun c g =>
    let q := match c.hseq with | some q => q.toNat | none => 0
    let open_ := g.openTurn == some (q, c.base) && !g.inTrap c.memb
    let run : Out :=
      if !g.ped.root then trapBatch c g .ordNotRoot 0 0 s
      else if !open_ && g.turnTaken q then trapBatch c g .ordNotRoot 0 256 s
      else
        match s.launch? g.lkey with
        | none => done c s
        | some l =>
          if !open_ && l.cursors.getD q 0 != linIndex l g then waitFor c 10 [BitVec.ofNat 64 q] s
          else
            sGuard c g s [(pairNo p, 2)]
              (let s := (s.payOwed g.gid).releaseLv g.core (relLevel s c g 2)
               let r := ordTurn c red fn d a p 65 (actHg c g) s
               let s := r.2.acquireLv g.core (acqLevel s c g 2)
               let s := if r.1.isEmpty then s.takeTurn g q
                        else s.modGang c.gid fun g => { g with openTurn := some (q, c.base) }
               finishFibres c 2 r.1 s)
    if open_ then run else gatherAll c g s 0 run

/-- ATOM.IADD (R234). -/
def execAtomIadd (d a : BitVec 6) (p : BitVec 7) (k : BitVec 3) (s : State) : Out := atomWord s false 0 d.toNat a p k
/-- ATOM.IMIN.S (R234). -/
def execAtomIminS (d a : BitVec 6) (p : BitVec 7) (k : BitVec 3) (s : State) : Out := atomWord s false 1 d.toNat a p k
/-- ATOM.IMIN.N (R234). -/
def execAtomIminN (d a : BitVec 6) (p : BitVec 7) (k : BitVec 3) (s : State) : Out := atomWord s false 2 d.toNat a p k
/-- ATOM.IMAX.S (R234). -/
def execAtomImaxS (d a : BitVec 6) (p : BitVec 7) (k : BitVec 3) (s : State) : Out := atomWord s false 3 d.toNat a p k
/-- ATOM.IMAX.N (R234). -/
def execAtomImaxN (d a : BitVec 6) (p : BitVec 7) (k : BitVec 3) (s : State) : Out := atomWord s false 4 d.toNat a p k
/-- ATOM.AND (R234). -/
def execAtomAnd (d a : BitVec 6) (p : BitVec 7) (k : BitVec 3) (s : State) : Out := atomWord s false 5 d.toNat a p k
/-- ATOM.OR (R234). -/
def execAtomOr (d a : BitVec 6) (p : BitVec 7) (k : BitVec 3) (s : State) : Out := atomWord s false 6 d.toNat a p k
/-- ATOM.XOR (R234). -/
def execAtomXor (d a : BitVec 6) (p : BitVec 7) (k : BitVec 3) (s : State) : Out := atomWord s false 7 d.toNat a p k
/-- ATOM.EXCH (R234). -/
def execAtomExch (d a : BitVec 6) (p : BitVec 7) (k : BitVec 3) (s : State) : Out := atomWord s false 8 d.toNat a p k
/-- ATOM.CAS (R234). -/
def execAtomCas (d : BitVec 5) (a : BitVec 6) (p : BitVec 7) (k : BitVec 3) (s : State) : Out := atomWord s false 9 (2 * d.toNat) a p k
/-- ATOM.IADD.64 (R234). -/
def execAtomIadd64 (d : BitVec 5) (a : BitVec 6) (p : BitVec 7) (k : BitVec 3) (s : State) : Out := atomWord s false 10 (2 * d.toNat) a p k
/-- ATOM.CAS.64 (R234). -/
def execAtomCas64 (d : BitVec 4) (a : BitVec 6) (p : BitVec 7) (k : BitVec 3) (s : State) : Out := atomWord s false 11 (4 * d.toNat) a p k
/-- ATOM.FADD (R234). -/
def execAtomFadd (d a : BitVec 6) (p : BitVec 7) (k : BitVec 3) (s : State) : Out := atomWord s false 12 d.toNat a p k
/-- ATOM.FMIN (R234). -/
def execAtomFmin (d a : BitVec 6) (p : BitVec 7) (k : BitVec 3) (s : State) : Out := atomWord s false 13 d.toNat a p k
/-- ATOM.FMAX (R234). -/
def execAtomFmax (d a : BitVec 6) (p : BitVec 7) (k : BitVec 3) (s : State) : Out := atomWord s false 14 d.toNat a p k
/-- ATOM.op.ORD (R237). -/
def execAtomOrd (fn : BitVec 4) (d a : BitVec 6) (p : BitVec 7) (s : State) : Out := ordWord s false fn.toNat d.toNat a p
/-- RED.IADD (R234). -/
def execRedIadd (d a : BitVec 6) (p : BitVec 7) (k : BitVec 3) (s : State) : Out := atomWord s true 0 d.toNat a p k
/-- RED.IMIN.S (R234). -/
def execRedIminS (d a : BitVec 6) (p : BitVec 7) (k : BitVec 3) (s : State) : Out := atomWord s true 1 d.toNat a p k
/-- RED.IMIN.N (R234). -/
def execRedIminN (d a : BitVec 6) (p : BitVec 7) (k : BitVec 3) (s : State) : Out := atomWord s true 2 d.toNat a p k
/-- RED.IMAX.S (R234). -/
def execRedImaxS (d a : BitVec 6) (p : BitVec 7) (k : BitVec 3) (s : State) : Out := atomWord s true 3 d.toNat a p k
/-- RED.IMAX.N (R234). -/
def execRedImaxN (d a : BitVec 6) (p : BitVec 7) (k : BitVec 3) (s : State) : Out := atomWord s true 4 d.toNat a p k
/-- RED.AND (R234). -/
def execRedAnd (d a : BitVec 6) (p : BitVec 7) (k : BitVec 3) (s : State) : Out := atomWord s true 5 d.toNat a p k
/-- RED.OR (R234). -/
def execRedOr (d a : BitVec 6) (p : BitVec 7) (k : BitVec 3) (s : State) : Out := atomWord s true 6 d.toNat a p k
/-- RED.XOR (R234). -/
def execRedXor (d a : BitVec 6) (p : BitVec 7) (k : BitVec 3) (s : State) : Out := atomWord s true 7 d.toNat a p k
/-- RED.EXCH (R234). -/
def execRedExch (d a : BitVec 6) (p : BitVec 7) (k : BitVec 3) (s : State) : Out := atomWord s true 8 d.toNat a p k
/-- RED.CAS (R234). -/
def execRedCas (d : BitVec 5) (a : BitVec 6) (p : BitVec 7) (k : BitVec 3) (s : State) : Out := atomWord s true 9 (2 * d.toNat) a p k
/-- RED.IADD.64 (R234). -/
def execRedIadd64 (d : BitVec 5) (a : BitVec 6) (p : BitVec 7) (k : BitVec 3) (s : State) : Out := atomWord s true 10 (2 * d.toNat) a p k
/-- RED.CAS.64 (R234). -/
def execRedCas64 (d : BitVec 4) (a : BitVec 6) (p : BitVec 7) (k : BitVec 3) (s : State) : Out := atomWord s true 11 (4 * d.toNat) a p k
/-- RED.FADD (R234). -/
def execRedFadd (d a : BitVec 6) (p : BitVec 7) (k : BitVec 3) (s : State) : Out := atomWord s true 12 d.toNat a p k
/-- RED.FMIN (R234). -/
def execRedFmin (d a : BitVec 6) (p : BitVec 7) (k : BitVec 3) (s : State) : Out := atomWord s true 13 d.toNat a p k
/-- RED.FMAX (R234). -/
def execRedFmax (d a : BitVec 6) (p : BitVec 7) (k : BitVec 3) (s : State) : Out := atomWord s true 14 d.toNat a p k
/-- RED.op.ORD (R237). -/
def execRedOrd (fn : BitVec 4) (d a : BitVec 6) (p : BitVec 7) (s : State) : Out := ordWord s true fn.toNat d.toNat a p

/-! ## Fences (R213, R214, R239) -/

/-- A fence with a release part makes each later store of the gang a release at its level (R208, R239): the write-back takes
place when the next store is made. -/
def State.oweRelease (s : State) (gid lv : Nat) : State := s.modGang gid fun g => { g with owed := max g.owed lv }

/-- A fence at a scope: what its release part does, then its acquire actions. -/
def fence (s : State) (k : BitVec 3) (acq : Bool) (rel : State → Gang → Nat → State) : Out :=
  withCur s fun c g =>
    let lv := scopeLevel k.toNat (s.spread g)
    let s := rel s g lv
    done c (if acq then s.acquireLv g.core lv else s)

/-- FENCE.REL (R239). -/
def execFenceRel (k : BitVec 3) (s : State) : Out := fence s k false fun s g lv => s.oweRelease g.gid lv
/-- FENCE.ACQ (R239). -/
def execFenceAcq (k : BitVec 3) (s : State) : Out := fence s k true fun s _ _ => s
/-- FENCE.AR (R239). -/
def execFenceAr (k : BitVec 3) (s : State) : Out := fence s k true fun s g lv => s.oweRelease g.gid lv
/-- FENCE.SC (R214, R239): a FENCE.AR that first brings the fibre's own earlier stores to the place of its scope, for DEV
to their homes in every die's view. Steps happen one after another, which gives R214. It makes no cumulative
write-back of others' stores. -/
def execFenceSc (k : BitVec 3) (s : State) : Out := fence s k true fun s g lv =>
  let s := s.writeBack g.core lv
  let s := if lv ≥ 2 then { s with late := s.late.filter (·.src != dieOf g.core) } else s
  s.oweRelease g.gid lv
/-- FENCE.PKG (R213): a FENCE.AR at DEV scope whose release is complete: every store that the fibre has written or
observed is at home in every die's view. -/
def execFencePkg (s : State) : Out := fence s 2 true fun s g _ => s.releaseLv g.core 2

/-! ## WAITA (R240 to R242) -/

/-- The conditions of WAITA (R240), on values of the access size. -/
def waitCond (cnd : Nat) (wide : Bool) (m v : DWord) : Bool :=
  let slt := fun (a b : DWord) => if wide then a.slt b else (loWord a).slt (loWord b)
  match cnd with
  | 0 => m == v
  | 1 => m != v
  | 2 => slt m v
  | 3 => !slt v m
  | 4 => slt v m
  | 5 => !slt m v
  | 6 => m.ult v
  | 7 => m.ule v
  | 8 => v.ult m
  | 9 => v.ule m
  | 10 => m &&& v != 0
  | _ => m &&& v == 0

/-- A wait that finds no monitor entry or watch counts as event 11, once (R242, R248, R395). -/
def State.countPoll (s : State) (g : Gang) (memb : Mask) : State :=
  if g.batches.any (fun b => b.memb == memb && b.polled) then s
  else (s.bumpDie (dieOf g.core) 11 1).modGang g.gid fun g =>
    { g with batches := g.batches.map fun b => if b.memb == memb then { b with polled := true } else b }

/-- A wait of a batch takes a monitor entry of the core for its sector, or polls and counts once as one that does (R241,
R242, R377). -/
def State.takeMonitor (s : State) (g : Gang) (pc : DWord) (memb : Mask) (place sect kind : Nat) : State :=
  if s.monitors.any (fun m => m.gid == g.gid && m.pc == pc && m.memb == memb) then s
  else if (s.monitors.filter (·.core == g.core)).length < 256 then
    { s with monitors := { core := g.core, place := place, sect := sect, kind := kind, gid := g.gid, pc := pc, memb := memb } :: s.monitors }
  else s.countPoll g memb

/-- Freeing the monitor entry of a batch. -/
def State.dropMonitor (s : State) (gid : Nat) (pc : DWord) (memb : Mask) : State :=
  { s with monitors := s.monitors.filter fun m => !(m.gid == gid && m.pc == pc && m.memb == memb) }

/-- A read of a waited-for location (R241): it completes the wait as an acquire, or the batch waits on. -/
def waitRead (c : Cur) (g : Gang) (s : State) (cnd : Nat) (va v : DWord) (wide : Bool) (scope : Nat) : Out :=
  let n := if wide then 8 else 4
  if va.toNat % n ≠ 0 then uniFault c g 4 va (.align, 0) s
  else
    match s.checkVa (agentOf s c g) va false (fun t => isHbm t.pa || scope == 3) with
    | (.error e, s) => uniFault c g 4 va (e, 0) s
    | (.ok t, s) =>
      if t.lattice then uniFault c g 4 va (.latticePlain, 0) s
      else
        let r := s.locRd g.core (scopePlace scope (s.spread g)) t n
        match r.1.2 with
        | some k => uniFault c g 4 va (.eccUncorr, eccInfo k) r.2
        | none =>
          if waitCond cnd wide r.1.1 v then
            done c ((r.2.dropMonitor g.gid c.base c.memb).acquireLv g.core (scopeLevel scope (s.spread g)))
          else
            waitFor c 8 [BitVec.ofNat 64 cnd, va, v, if wide then 1 else 0, BitVec.ofNat 64 scope]
              (r.2.takeMonitor g c.base c.memb (scopePlace scope (s.spread g)) (t.pa / 16) 0)

/-- WAITA (R240): SV is read once, at issue. -/
def execWaita (cnd : BitVec 4) (a : BitVec 7) (v : BitVec 8) (z k : BitVec 3) (s : State) : Out :=
  withCur s fun c g =>
    let wide := z == 5
    sGuard c g s [(pairNo a, 2), (v.toNat, if wide then 2 else 1)]
      (waitRead c g s cnd.toNat (g.s2 (pairNo a)) (if wide then g.s2 v.toNat else (g.s v.toNat).setWidth 64) wide k.toNat)

end Sys2Proof.Machine
end

