-- ==== Sys2Proof/Machine/Lattice.lean ====
section
/-! DEFINITION. Lattice cells, joins and exchange (R197 to R199, R220, R243 to R249). -/
namespace Sys2Proof.Machine

/-! ## Cells (R197, R244) -/

/-- Bytes of a cell (R197). -/
def cellBytes (pf : Nat) : Nat :=
  if pf = 24 then 64 else if pf = 16 ∨ pf = 18 ∨ pf = 19 ∨ pf = 21 ∨ pf = 22 then 4 else 8
/-- Whether D is a pair for a type (R243). -/
def cellPair (pf : Nat) : Bool := cellBytes pf != 4

/-- Whether x is at or above y (R244). -/
def cellGe (pf : Nat) (x y : DWord) : Bool :=
  match pf with
  | 18 => (loWord y).sle (loWord x)
  | 19 => x.ule y
  | 20 => x.ule y
  | 21 => (tkey (loWord y)).ule (tkey (loWord x))
  | 22 => (tkey (loWord x)).ule (tkey (loWord y))
  | 23 => x ||| y == x
  | 26 => x &&& y == x
  | _ => y.ule x

/-- The join of two cells, of two GCNT slots for type 24 (R197). -/
def cellJoin (pf : Nat) (x y : DWord) : DWord :=
  match pf with
  | 23 => x ||| y
  | 26 => x &&& y
  | _ => if cellGe pf x y then x else y

/-- The unit by which a type is joined: the cell, or a GCNT slot. -/
def joinBytes (pf : Nat) : Nat := if pf = 24 then 8 else cellBytes pf

/-! ## Replicas -/

/-- Reading a number at home. -/
def State.homeNum (s : State) (pa n : Nat) : DWord := BitVec.ofNat 64 (numOf (s.homeRd pa n))

/-- Setting a sector's dirty count after a change (R198): N of the preset in force; under Feldspar the change is sent to
every other die at once. -/
def State.latDirty (s : State) (die sect pf : Nat) : State :=
  if s.preset = 2 then
    { s with latSends := s.latSends ++ (((List.range 8).filter (· != die)).map
        fun d => ({ src := die, sect := sect, pfmt := pf, dst := d, gang := none } : LatSend)) }
  else
    let n := if s.preset = 0 then 3 else if s.preset = 1 then 2 else 8
    { s with dirtyCnt := { die := die, sect := sect, pfmt := pf, cnt := n } ::
               s.dirtyCnt.filter fun e => !(e.die == die && e.sect == sect) }

/-- Writing a cell of a die's replica; a change makes its sector dirty. -/
def State.latWrite (s : State) (die off pf : Nat) (old new : DWord) : State :=
  if old = new then s
  else (s.homeWr (latPa die off) (bytesOf (joinBytes pf) new.toNat)).latDirty die (off / 16) pf

/-- Joining a value into a cell, or a GCNT slot, of a die's replica (R197). -/
def State.latJoin (s : State) (die off pf : Nat) (v : DWord) : State :=
  let old := s.homeNum (latPa die off) (joinBytes pf)
  s.latWrite die off pf old (cellJoin pf old v)

/-- A sector arrives at a die (R198): every cell of it is joined into the replica. A poisoned sector is not joined
(R406). -/
def State.latArrive (s : State) (src sect pf dst : Nat) : State :=
  if (s.poisonAt (latPa src (16 * sect) / 16)).isSome then s
  else
    (List.range (16 / joinBytes pf)).foldl (fun s k =>
      let off := 16 * sect + joinBytes pf * k
      s.latJoin dst off pf (s.homeNum (latPa src off) (joinBytes pf))) s

/-! ## Exchange rounds (R198) -/

/-- The partner of die d in round k under a preset (R198). -/
def latPartner (preset : Nat) (lxt : List Word) (k d : Nat) : Nat :=
  match preset with
  | 0 => d ^^^ 2 ^ (k % 3)
  | 1 => if k % 2 = 0 then d ^^^ 1 else if d % 2 = 1 then (d + 1) % 8 else (d + 7) % 8
  | 2 => d
  | _ => (lxt.getD (k % 8) 0).toNat / 2 ^ (4 * d) % 8

/-- What the dirty sectors deliver in a round, read before any is joined: from, sector, type, to, bytes. -/
def latDeliveries (s : State) : List (LatDirty × Nat × List Byte) :=
  s.dirtyCnt.filterMap fun e =>
    let p := latPartner s.preset s.lxt s.round e.die
    if p = e.die || (s.poisonAt (latPa e.die (16 * e.sect) / 16)).isSome then none
    else some (e, p, s.homeRd (latPa e.die (16 * e.sect)) 16)

/-- Joining delivered bytes into a replica, cell by cell. -/
def State.latDeliver (s : State) (sect pf dst : Nat) (bs : List Byte) : State :=
  (List.range (16 / joinBytes pf)).foldl (fun s k =>
    s.latJoin dst (16 * sect + joinBytes pf * k) pf
      (BitVec.ofNat 64 (numOf ((bs.drop (joinBytes pf * k)).take (joinBytes pf))))) s

/-- A round (R198): the preset takes effect, each dirty sector is sent to its die's partner and its count falls, and
the receivers join. Sectors dirty at a change of preset take the new N. -/
def State.latRound (s : State) : State :=
  let n := if s.lxs = 0 then 3 else if s.lxs = 1 then 2 else 8
  let s := if s.preset = s.lxs then s
    else if s.lxs = 2 then
      s.dirtyCnt.foldl (fun s e => ({ s with preset := 2 } : State).latDirty e.die e.sect e.pfmt) { s with preset := 2, dirtyCnt := [] }
    else { s with preset := s.lxs, dirtyCnt := s.dirtyCnt.map fun e => { e with cnt := n } }
  let ds := latDeliveries s
  let idle := fun (e : LatDirty) => latPartner s.preset s.lxt s.round e.die == e.die
  let s := { s with dirtyCnt := (s.dirtyCnt.map fun e => if idle e then e else { e with cnt := e.cnt - 1 }).filter (·.cnt != 0) }
  let s := ds.foldl (fun s d => s.latDeliver d.1.sect d.1.pfmt d.2.1 d.2.2) s
  let s := (List.range 8).foldl (fun s d => s.bumpDie d 10 1) s
  { s with round := s.round + 1, boundary := s.boundary + s.lxp.toNat }

/-! ## The lattice instructions -/

/-- A fibre's lattice cell. -/
structure LatRef where
  va : DWord
  tr : Tr
  deriving DecidableEq, Repr

/-- The offset of a cell in the lattice partition. -/
def LatRef.off (r : LatRef) : Nat := r.tr.pa % 2 ^ 48 - latBase

/-- The order of causes of a lattice instruction (R243). The second ALIGN and REG_RANGE of the list are told apart by
the high bits of the fault's info, which latFault removes. -/
def latRank : Cause → Nat
  | .regRange => 1 | .align => 2 | .page => 3 | .prot => 4 | .illegal => 6 | .latticePlain => 8 | .nonmono => 9
  | .eccUncorr => 10 | _ => 0

/-- The step of R243 at which a cause ranks: poison ranks last wherever it is met. -/
def latStep (e : Cause) (n : Nat) : Nat := if e = .eccUncorr then 10 else n

/-- The address of a lattice word, which takes no displacement (R225). -/
def latEa (base : DWord) (f : Fibre) (a : BitVec 6) : DWord := base + (f.v a.toNat).setWidth 64

/-- The checks 1 to 6 of R243 for one fibre, with the step that fails; poison counts as step 10. dst says whether D is only
written. LJOIN and LSTC also read the cell; the spec does not say whether they need read permission too, and the model
tests write permission alone (log 73). -/
def latCheck (c : Cur) (d : Nat) (a : BitVec 6) (base : DWord) (wr dst : Bool) (s : State) (g : Gang) (i : Nat) (f : Fibre) :
    Except (FFault × Nat) LatRef × State :=
  let dchk := fun n => if dst then f.chkD d n else f.chk d n
  match f.chk a.toNat 1, dchk 1 with
  | .error e, _ => (.error (atAddr i 0 e, latStep e.1 1), s)
  | .ok _, .error e => (.error (atAddr i (latEa base f a) e, latStep e.1 1), s)
  | .ok _, .ok _ =>
    let va := latEa base f a
    if va.toNat % 4 ≠ 0 then (.error (atAddr i va (.align, 0), 2), s)
    else
      match s.checkVa (agentOf s c g) va wr Tr.lattice with
      | (.error e, s) => (.error (atAddr i va (e, 0), latStep e (if e = .page then 3 else 4)), s)
      | (.ok t, s) =>
        if va.toNat % cellBytes t.pfmt ≠ 0 then (.error (atAddr i va (.align, 0), 5), s)
        else if cellPair t.pfmt && d % 2 == 1 then (.error (atAddr i va (.illegal, 0), 6), s)
        else if cellPair t.pfmt then
          match dchk 2 with
          | .error e => (.error (atAddr i va e, latStep e.1 7), s)
          | .ok _ => (.ok { va := va, tr := t }, s)
        else (.ok { va := va, tr := t }, s)

/-- A fibre's part of a lattice instruction, with ECC_UNCORR last (R243): a poisoned register gives way to another cause. -/
def latLast {α : Type} (run : Fibre → Except (FFault × Nat) α × State) (f : Fibre) : Except (FFault × Nat) α × State :=
  match run f with
  | (.error e, s) =>
    if e.1.cause = .eccUncorr && !f.bad.isEmpty then
      match run { f with bad := [] } with
      | (.error e', s') => (.error e', s')
      | (.ok _, _) => (.error e, s)
    else (.error e, s)
  | r => r

/-- The fault that a list of ranked faults gives: the earliest rank, of the lowest FIX (R228, R243). -/
def latWorst : List (FFault × Nat) → Option (FFault × Nat)
  | [] => none
  | e :: es =>
    match latWorst es with
    | none => some e
    | some w => if w.2 < e.2 then some w else some e

/-- The end of a lattice instruction (R228, R243). -/
def finishLat (c : Cur) (fs : List (FFault × Nat)) (s : State) : Out :=
  match latWorst fs with
  | none => done c s
  | some w =>
    match s.gang? c.gid with
    | none => .fault .noBatch
    | some g =>
      let F := maskOfList (fs.map (·.1.fix))
      .next ((s.takeTrap c.gid c.base
        (mkTrap s c g w.1.cause F w.1.addr (w.1.fix + 64 * 3 + w.1.info) [(c.next, c.memb &&& ~~~F)])).settle c.gid)

/-- D as a value of the cell's width. -/
def latVal (f : Fibre) (d pf : Nat) : DWord := if cellPair pf then f.v2 d else (f.v d).setWidth 64
/-- Writing a cell's value to D. -/
def Fibre.setLat (f : Fibre) (d pf : Nat) (v : DWord) : Fibre := if cellPair pf then f.setV2 d v else f.setV d (loWord v)

/-- The value of a cell in the local replica (R247): the bits, or the sum of a GCNT's slots. -/
def State.cellRead (s : State) (r : LatRef) : DWord :=
  let pf := r.tr.pfmt
  if pf = 24 then (List.range 8).foldl (fun v k => v + s.homeNum (r.tr.pa + 8 * k) 8) 0
  else s.homeNum r.tr.pa (cellBytes pf)

/-- The sectors of a cell: one, or four for a GCNT cell. -/
def cellSects (r : LatRef) : List Nat := (List.range ((cellBytes r.tr.pfmt + 15) / 16)).map fun k => r.tr.pa / 16 + k

/-- Poison in a cell. -/
def State.cellBad (s : State) (r : LatRef) : Option Nat :=
  (cellSects r).findSome? fun k => s.poisonAt k

/-- A gang remembers the sectors it has joined, for LSYNC (R249). -/
def Gang.join (g : Gang) (die sect pf : Nat) : Gang :=
  if g.joined.contains (die, sect, pf) then g else { g with joined := g.joined ++ [(die, sect, pf)] }

/-- What one fibre of LJOIN or LSTC does once its cell is known. -/
abbrev LatAct := State → Gang → Nat → Fibre → LatRef → Except (FFault × Nat) State

/-- One fibre of a storing lattice instruction. -/
def latFibre (c : Cur) (d : Nat) (a : BitVec 6) (base : DWord) (act : LatAct) (s : State) (g : Gang) (i : Nat) (f : Fibre) :
    Except (FFault × Nat) Unit × State :=
  match latCheck c d a base true false s g i f with
  | (.error e, s) => (.error e, s)
  | (.ok r, s) =>
    match act s g i f r with
    | .error e => (.error e, s)
    | .ok s => (.ok (), s)

/-- The fibres of a storing lattice instruction, in ascending FIX. -/
def runLat (c : Cur) (d : Nat) (a : BitVec 6) (base : DWord) (act : LatAct) (g0 : Gang) :
    List Nat → State → List (FFault × Nat) × State
  | [], s => ([], s)
  | i :: is, s =>
    let one := latLast (latFibre c d a base act s g0 i) (g0.fibre i)
    let r := runLat c d a base act g0 is one.2
    ((match one.1 with | .error e => e :: r.1 | .ok _ => r.1), r.2)

/-- LJOIN and LSTC (R245, R246): the release comes first, then every active fibre acts. -/
def latStore (s : State) (d : Nat) (a : BitVec 6) (p : BitVec 7) (x : BitVec 1) (act : LatAct) : Out :=
  withCur s fun c g =>
    sGuard c g s [(pairNo p, 2)]
      (let s := if x = 1 then s.releaseLv g.core 2 else s
       let r := runLat c d a (g.s2 (pairNo p)) act g (fibresOf g.width c.memb) s
       finishLat c r.1 r.2)

/-- A join by a core at its die's replica (R245): GCNT adds to the die's slot. -/
def joinAct (d : Nat) : LatAct := fun s g i f r =>
  let pf := r.tr.pfmt
  let die := dieOf g.core
  match s.cellBad r with
  | some k => .error (atAddr i r.va (.eccUncorr, eccInfo k), 10)
  | none =>
    let v := latVal f d pf
    if pf = 24 then
      let off := r.off + 8 * die
      let old := s.homeNum (latPa die off) 8
      .ok ((s.latWrite die off pf old (old + v)).modGang g.gid (·.join die (off / 16) pf))
    else .ok ((s.latJoin die r.off pf v).modGang g.gid (·.join die (r.off / 16) pf))

/-- LSTC's store (R246): the cell takes v when v is at or above it. -/
def stcAct (d : Nat) : LatAct := fun s g i f r =>
  let pf := r.tr.pfmt
  let die := dieOf g.core
  if pf = 24 then .error (atAddr i r.va (.latticePlain, 0), 8)
  else
    let old := s.homeNum r.tr.pa (cellBytes pf)
    let v := latVal f d pf
    if !cellGe pf v old then .error (atAddr i r.va (.nonmono, 0), 9)
    else
      match s.cellBad r with
      | some k => .error (atAddr i r.va (.eccUncorr, eccInfo k), 10)
      | none => .ok ((s.latWrite die r.off pf old v).modGang g.gid (·.join die (r.off / 16) pf))

/-- LJOIN (R245). -/
def execLjoin (d a : BitVec 6) (p : BitVec 7) (x : BitVec 1) (s : State) : Out := latStore s d.toNat a p x (joinAct d.toNat)
/-- LSTC (R246). -/
def execLstc (d a : BitVec 6) (p : BitVec 7) (x : BitVec 1) (s : State) : Out := latStore s d.toNat a p x (stcAct d.toNat)

/-- One fibre of a reading lattice instruction: its cell. -/
def latRef (c : Cur) (d : Nat) (a : BitVec 6) (base : DWord) (dst : Bool) (g : Gang) (s : State) (i : Nat) (f : Fibre) :
    Except (FFault × Nat) LatRef × State :=
  match latCheck c d a base false dst s g i f with
  | (.error e, s) => (.error e, s)
  | (.ok x, s) =>
    let s' := (cellSects x).foldl State.noteRead s
    match s.cellBad x with
    | some k => (.error (atAddr i x.va (.eccUncorr, eccInfo k), 10), s')
    | none => (.ok x, s')

/-- The cells of the fibres of a reading lattice instruction. -/
def latRefs (c : Cur) (d : Nat) (a : BitVec 6) (base : DWord) (dst : Bool) (g : Gang) :
    List Nat → State → (List (Nat × LatRef) × List (FFault × Nat)) × State
  | [], s => (([], []), s)
  | i :: is, s =>
    let one := latLast (latRef c d a base dst g s i) (g.fibre i)
    let r := latRefs c d a base dst g is one.2
    match one.1 with
    | .error e => ((r.1.1, e :: r.1.2), r.2)
    | .ok x => (((i, x) :: r.1.1, r.1.2), r.2)

/-- Writing the cells read to D of their fibres. -/
def latWriteBack (s : State) (gid d : Nat) (xs : List (Nat × LatRef)) : State :=
  xs.foldl (fun s e => s.modGang gid fun g => g.setFibre e.1 ((g.fibre e.1).setLat d e.2.tr.pfmt (s.cellRead e.2))) s

/-- LLD (R247). -/
def execLld (d a : BitVec 6) (p : BitVec 7) (s : State) : Out :=
  withCur s fun c g =>
    sGuard c g s [(pairNo p, 2)]
      (let r := latRefs c d.toNat a (g.s2 (pairNo p)) true g (fibresOf g.width c.memb) s
       finishLat c r.1.2 (latWriteBack r.2 c.gid d.toNat r.1.1))

/-- Freeing the watches of a batch. -/
def State.dropWatches (s : State) (gid : Nat) (pc : DWord) (memb : Mask) : State :=
  { s with watches := s.watches.filter fun w => !(w.gid == gid && w.pc == pc && w.memb == memb) }

/-- The waiting batch takes a watch of its die's LXE for each sector it names, or polls and counts once (R248). -/
def State.takeWatches (s : State) (g : Gang) (pc : DWord) (memb : Mask) (sects : List Nat) : State :=
  let die := dieOf g.core
  let mine := fun (w : Watch) => w.gid == g.gid && w.pc == pc && w.memb == memb
  let want := sects.eraseDups.filter fun x => !s.watches.any (fun w => w.die == die && w.sect == x && mine w)
  let used := ((s.watches.filter (·.die == die)).map (·.sect)).eraseDups
  let more := want.filter fun x => !used.contains x
  if want.isEmpty then s
  else if used.length + more.length ≤ 512 then
    { s with watches := want.map (fun x => { die := die, sect := x, gid := g.gid, pc := pc, memb := memb }) ++ s.watches }
  else (s.dropWatches g.gid pc memb).countPoll g memb

/-- LWAIT (R248): once every threshold is met, D receives the cells; the fibres that failed a check then trap. While it
waits the batch keeps what a re-read needs: D, A, SBP and X. -/
def lwaitOver (c : Cur) (g : Gang) (s : State) (d : Nat) (a : BitVec 6) (base : DWord) (x : BitVec 1) : Out :=
  let r := latRefs c d a base false g (fibresOf g.width c.memb) s
  let s := r.2
  let met := r.1.1.all fun e => cellGe e.2.tr.pfmt (s.cellRead e.2) (latVal (g.fibre e.1) d e.2.tr.pfmt)
  if met then
    let s := latWriteBack (s.dropWatches g.gid c.base c.memb) c.gid d r.1.1
    finishLat c r.1.2 (s.acquireLv g.core (if x = 1 then 2 else 0))
  else
    waitFor c 9 [1, BitVec.ofNat 64 d, a.setWidth 64, base, x.setWidth 64]
      (s.takeWatches g c.base c.memb (r.1.1.flatMap fun e => cellSects e.2))

/-- LWAIT (R248). -/
def execLwait (d a : BitVec 6) (p : BitVec 7) (x : BitVec 1) (s : State) : Out :=
  withCur s fun c g => sGuard c g s [(pairNo p, 2)] (lwaitOver c g s d.toNat a (g.s2 (pairNo p)) x)

/-- LSYNC (R249): every sector the gang has joined is sent to all other dies, and the batch waits for them. -/
def execLsync (s : State) : Out :=
  withCur s fun c g =>
    if g.joined.isEmpty then
      if s.latSends.any (fun e => e.gang == some g.gid) then waitFor c 9 [0] s else done c s
    else
      let sends := g.joined.flatMap fun e => ((List.range 8).filter (· != e.1)).map
        fun d => ({ src := e.1, sect := e.2.1, pfmt := e.2.2, dst := d, gang := some g.gid } : LatSend)
      waitFor c 9 [0] (({ s with latSends := s.latSends ++ sends } : State).modGang c.gid fun g => { g with joined := [] })

end Sys2Proof.Machine
end

