-- ==== Sys2Proof/WellFormed.lean ====
section
/-! DEFINITION. What makes an instruction legal beyond its place in the opcode table (R58, R59, R61 to R66, R70, R75,
R78, R79, R97): the register constraints, the guards, the condition, conversion, scope and CSR codes. Events are always
well formed. -/
namespace Sys2Proof

/-- An even register number, for a pair (R58). -/
def even {n : Nat} (r : BitVec n) : Bool := r.toNat % 2 == 0
/-- A register number that is a multiple of 4, for a quad (R58). -/
def quad {n : Nat} (r : BitVec n) : Bool := r.toNat % 4 == 0
/-- Pd and Pc differ unless both are P7 or Q7 (R61). -/
def destsOk (p q : BitVec 3) : Bool := p != q || p == 7
/-- The register operand of an access of size code z is aligned for its width (R58, R63). -/
def accessRegOk (z : BitVec 3) (d : BitVec 6) : Bool := (z != 5 || even d) && (z != 6 || quad d)
/-- A CVT conversion code is assigned, its rounding mode too, and its register groups are aligned (R79, R147, R148). -/
def cvtOk (d a b : BitVec 6) (r : BitVec 4) : Bool :=
  decide (r.toNat ≤ 5) && decide (1 ≤ b.toNat ∧ b.toNat ≤ 0x21) &&
  (!([0x09, 0x0A, 0x16, 0x1D].contains b.toNat) || even a) &&
  (!([0x0B, 0x0C, 0x1A, 0x1B, 0x1E].contains b.toNat) || quad a) &&
  (!([0x0D, 0x0E, 0x15].contains b.toNat) || even d) &&
  (!([0x0F, 0x10, 0x1C, 0x1F].contains b.toNat) || quad d)
/-- BRM: an active BP is not 0b1111 and an unused BP is zero (R73). -/
def brmOk (n : BitVec 2) (a b c d : BitVec 4) : Bool :=
  a != 15 &&
  (if n.toNat ≥ 1 then b != 15 else b == 0) &&
  (if n.toNat ≥ 2 then c != 15 else c == 0) &&
  (if n.toNat ≥ 3 then d != 15 else d == 0)
/-- The user CSR numbers that the map assigns (R97). -/
def userCsr (c : Nat) : Bool := c ≤ 0x00A || (0x010 ≤ c && c ≤ 0x012) || (0x020 ≤ c && c ≤ 0x027) || (0x030 ≤ c && c ≤ 0x03F)
/-- The supervisor CSR numbers that the manual assigns: LXT0 to LXT7 (R198) and PTROOT (R382). -/
def supCsr (c : Nat) : Bool := (0x810 ≤ c && c ≤ 0x817) || c == 0x820
/-- The 64-bit CSRs: SEED, TVEC, PTROOT. -/
def wideCsr (c : Nat) : Bool := c == 0x002 || c == 0x020 || c == 0x820
/-- CSRR: below 0x800 the number is assigned, and a 64-bit CSR names an even register. At and above 0x800 the tests wait
for the supervisor test, which comes first (R76, R98). -/
def csrRdOk (s : BitVec 8) (c : BitVec 12) : Bool :=
  decide (0x800 ≤ c.toNat) || (userCsr c.toNat && (!wideCsr c.toNat || even s))
/-- The CSR numbers whose CSRW has a row of its own in the opcode table. -/
def csrwOwnRow (s : BitVec 8) (c : Nat) : Bool :=
  c == 0x000 || (c == 0x002 && even s) || (0x010 ≤ c && c ≤ 0x012) || (0x030 ≤ c && c ≤ 0x03F) || (0x810 ≤ c && c ≤ 0x817)
/-- CSRW: as CSRR, and not a word of one of the rows for a single CSR. -/
def csrWrOk (s : BitVec 8) (c : BitVec 12) : Bool := csrRdOk s c && !csrwOwnRow s c.toNat

/-- An instruction that a batch may issue without ILLEGAL (R75), hints aside. -/
def Instr.wf : Instr → Bool
  | .nop => true
  | .exit => true
  | .yield => true
  | .waitb _ => true
  | .bkpt _ => true
  | .trap _ => true
  | .tret _ => true
  | .iadd g _ _ _ => g != 15
  | .isub g _ _ _ => g != 15
  | .imul g _ _ _ => g != 15
  | .imulhS g _ _ _ => g != 15
  | .imulhN g _ _ _ => g != 15
  | .iand g _ _ _ => g != 15
  | .ior g _ _ _ => g != 15
  | .ixor g _ _ _ => g != 15
  | .iandn g _ _ _ => g != 15
  | .shl g _ _ _ => g != 15
  | .shr g _ _ _ => g != 15
  | .sha g _ _ _ => g != 15
  | .iminS g _ _ _ => g != 15
  | .iminN g _ _ _ => g != 15
  | .imaxS g _ _ _ => g != 15
  | .imaxN g _ _ _ => g != 15
  | .iadd64 g _ _ _ => g != 15
  | .isub64 g _ _ _ => g != 15
  | .shl64 g _ _ _ => g != 15
  | .shr64 g _ _ _ => g != 15
  | .sha64 g _ _ _ => g != 15
  | .iabs g _ _ => g != 15
  | .ineg g _ _ => g != 15
  | .popc g _ _ => g != 15
  | .clz g _ _ => g != 15
  | .brev g _ _ => g != 15
  | .bfxN g _ _ _ => g != 15
  | .bfxS g _ _ _ => g != 15
  | .prmt g _ _ _ => g != 15
  | .isad g _ _ _ => g != 15
  | .mov g _ _ => g != 15
  | .sel g _ _ _ => g != 15
  | .iaddi g _ _ _ => g != 15
  | .iandi g _ _ _ => g != 15
  | .iori g _ _ _ => g != 15
  | .ixori g _ _ _ => g != 15
  | .ishiShl g _ _ _ => g != 15
  | .ishiShr g _ _ _ => g != 15
  | .ishiSha g _ _ _ => g != 15
  | .ishiRot g _ _ _ => g != 15
  | .imovi g _ _ => g != 15
  | .icmp c p q a b => destsOk p q && (!(decide (10 ≤ c.toNat ∧ c.toNat ≤ 13)) || (even a && even b))
  | .imad _ _ _ _ => true
  | .imadhS _ _ _ _ => true
  | .imadhN _ _ _ _ => true
  | .imadW _ _ _ _ => true
  | .bfi _ _ _ _ => true
  | .dp4S8 _ _ _ _ => true
  | .dp4N8 _ _ _ _ => true
  | .dp2S16 _ _ _ _ => true
  | .fadd g _ _ _ => g != 15
  | .fsub g _ _ _ => g != 15
  | .fmul g _ _ _ => g != 15
  | .fdiv g _ _ _ => g != 15
  | .fmin g _ _ _ => g != 15
  | .fmax g _ _ _ => g != 15
  | .fcsgn g _ _ _ => g != 15
  | .fabd g _ _ _ => g != 15
  | .hadd2 g _ _ _ => g != 15
  | .hsub2 g _ _ _ => g != 15
  | .hmul2 g _ _ _ => g != 15
  | .hmin2 g _ _ _ => g != 15
  | .hmax2 g _ _ _ => g != 15
  | .badd2 g _ _ _ => g != 15
  | .bsub2 g _ _ _ => g != 15
  | .bmul2 g _ _ _ => g != 15
  | .bmin2 g _ _ _ => g != 15
  | .bmax2 g _ _ _ => g != 15
  | .ffma _ _ _ _ => true
  | .ffms _ _ _ _ => true
  | .ffnma _ _ _ _ => true
  | .ffnms _ _ _ _ => true
  | .hfma2 _ _ _ _ => true
  | .bfma2 _ _ _ _ => true
  | .hfma2F32 _ _ _ _ => true
  | .bfma2F32 _ _ _ _ => true
  | .fcmp _ p q _ _ => destsOk p q
  | .frcp g _ _ => g != 15
  | .frsq g _ _ => g != 15
  | .fsqrt g _ _ => g != 15
  | .fex2 g _ _ => g != 15
  | .flg2 g _ _ => g != 15
  | .fsin g _ _ => g != 15
  | .fcos g _ _ => g != 15
  | .ftanh g _ _ => g != 15
  | .frndRn g _ _ => g != 15
  | .frndRz g _ _ => g != 15
  | .frndRu g _ _ => g != 15
  | .frndRd g _ _ => g != 15
  | .fclass g _ _ => g != 15
  | .fldexp g _ _ _ => g != 15
  | .ffrexpM g _ _ => g != 15
  | .ffrexpE g _ _ => g != 15
  | .cvt g d a b r => g != 15 && cvtOk d a b r
  | .faddS g _ _ _ => g != 15
  | .fmulS g _ _ _ => g != 15
  | .fmaxS g _ _ _ => g != 15
  | .fminS g _ _ _ => g != 15
  | .iaddS g _ _ _ => g != 15
  | .imulS g _ _ _ => g != 15
  | .iandS g _ _ _ => g != 15
  | .movS g _ _ => g != 15
  | .pand _ _ _ _ _ => true
  | .por _ _ _ _ _ => true
  | .pxor _ _ _ _ _ => true
  | .pmov _ _ _ => true
  | .shfl _ _ _ _ => true
  | .shflx _ _ _ _ => true
  | .shflu _ _ _ _ => true
  | .shfld _ _ _ _ => true
  | .rdxIadd _ _ _ => true
  | .rdxIminS _ _ _ => true
  | .rdxImaxS _ _ _ => true
  | .rdxFadd _ _ _ => true
  | .rdxFmin _ _ _ => true
  | .rdxFmax _ _ _ => true
  | .scanIadd _ _ _ => true
  | .scanIaddx _ _ _ => true
  | .scanFadd _ _ _ => true
  | .scanFaddx _ _ _ => true
  | .xmatch _ _ _ => true
  | .xshf _ _ _ _ => true
  | .voteAny _ _ _ => true
  | .voteAll _ _ _ => true
  | .voteEq _ _ _ => true
  | .voteBal _ _ _ => true
  | .bcast _ _ _ => true
  | .rbal _ _ _ _ => true
  | .fidx _ => true
  | .sadd _ _ _ => true
  | .ssub _ _ _ => true
  | .smul _ _ _ => true
  | .smulhN _ _ _ => true
  | .sand _ _ _ => true
  | .sor _ _ _ => true
  | .sxor _ _ _ => true
  | .sandn _ _ _ => true
  | .sshl _ _ _ => true
  | .sshr _ _ _ => true
  | .ssha _ _ _ => true
  | .srot _ _ _ => true
  | .sminS _ _ _ => true
  | .sminN _ _ _ => true
  | .smaxS _ _ _ => true
  | .smaxN _ _ _ => true
  | .sadd64 _ _ _ => true
  | .ssub64 _ _ _ => true
  | .smov _ _ => true
  | .ssel _ _ _ => true
  | .scmp c p q a b => destsOk p q && decide (c.toNat ≤ 12) && (!(c == 10 || c == 11) || (even a && even b))
  | .saddi _ _ _ => true
  | .smovi _ _ => true
  | .smovh _ _ => true
  | .mand _ _ _ => true
  | .mor _ _ _ => true
  | .mxor _ _ _ => true
  | .mandn _ _ _ => true
  | .mnot _ _ => true
  | .mpopc _ _ => true
  | .mffs _ _ => true
  | .mtos _ _ => true
  | .stom _ _ => true
  | .mq _ _ _ => true
  | .qand _ _ _ => true
  | .qor _ _ _ => true
  | .qnot _ _ => true
  | .bra g _ => g != 15
  | .bru g _ => g != 15
  | .brm n a b c d => brmOk n a b c d
  | .call g _ => g != 15
  | .brx g _ => g != 15
  | .ret g => g != 15
  | .callx g _ => g != 15
  | .winset g _ => g != 15
  | .winadd g _ => g != 15
  | .ld g d _ _ z => g != 15 && accessRegOk z d
  | .ldv g d _ z => g != 15 && z != 7 && accessRegOk z d
  | .st g d _ _ z => g != 15 && accessRegOk z d
  | .stv g d _ z => g != 15 && z != 7 && accessRegOk z d
  | .lds d _ z _ => z != 6 && (z != 5 || even d) && (z != 7 || quad d)
  | .sts d _ z _ => z != 6 && (z != 5 || even d) && (z != 7 || quad d)
  | .atomIadd _ _ _ k => decide (k.toNat ≤ 3)
  | .atomIminS _ _ _ k => decide (k.toNat ≤ 3)
  | .atomIminN _ _ _ k => decide (k.toNat ≤ 3)
  | .atomImaxS _ _ _ k => decide (k.toNat ≤ 3)
  | .atomImaxN _ _ _ k => decide (k.toNat ≤ 3)
  | .atomAnd _ _ _ k => decide (k.toNat ≤ 3)
  | .atomOr _ _ _ k => decide (k.toNat ≤ 3)
  | .atomXor _ _ _ k => decide (k.toNat ≤ 3)
  | .atomExch _ _ _ k => decide (k.toNat ≤ 3)
  | .atomCas _ _ _ k => decide (k.toNat ≤ 3)
  | .atomIadd64 _ _ _ k => decide (k.toNat ≤ 3)
  | .atomCas64 _ _ _ k => decide (k.toNat ≤ 3)
  | .atomFadd _ _ _ k => decide (k.toNat ≤ 3)
  | .atomFmin _ _ _ k => decide (k.toNat ≤ 3)
  | .atomFmax _ _ _ k => decide (k.toNat ≤ 3)
  | .atomOrd f d _ _ => decide (f.toNat ≤ 14) && (!(f == 9 || f == 10) || even d) && (f != 11 || quad d)
  | .redIadd _ _ _ k => decide (k.toNat ≤ 3)
  | .redIminS _ _ _ k => decide (k.toNat ≤ 3)
  | .redIminN _ _ _ k => decide (k.toNat ≤ 3)
  | .redImaxS _ _ _ k => decide (k.toNat ≤ 3)
  | .redImaxN _ _ _ k => decide (k.toNat ≤ 3)
  | .redAnd _ _ _ k => decide (k.toNat ≤ 3)
  | .redOr _ _ _ k => decide (k.toNat ≤ 3)
  | .redXor _ _ _ k => decide (k.toNat ≤ 3)
  | .redExch _ _ _ k => decide (k.toNat ≤ 3)
  | .redCas _ _ _ k => decide (k.toNat ≤ 3)
  | .redIadd64 _ _ _ k => decide (k.toNat ≤ 3)
  | .redCas64 _ _ _ k => decide (k.toNat ≤ 3)
  | .redFadd _ _ _ k => decide (k.toNat ≤ 3)
  | .redFmin _ _ _ k => decide (k.toNat ≤ 3)
  | .redFmax _ _ _ k => decide (k.toNat ≤ 3)
  | .redOrd f d _ _ => decide (f.toNat ≤ 14) && (!(f == 9 || f == 10) || even d) && (f != 11 || quad d)
  | .fenceRel k => decide (k.toNat ≤ 4)
  | .fenceAcq k => decide (k.toNat ≤ 4)
  | .fenceAr k => decide (k.toNat ≤ 4)
  | .fenceSc k => decide (k.toNat ≤ 4)
  | .fencePkg => true
  | .waita c _ v z k => decide (c.toNat ≤ 11) && (z == 4 || z == 5) && decide (k.toNat ≤ 3) && (z != 5 || even v)
  | .ljoin _ _ _ _ => true
  | .lstc _ _ _ _ => true
  | .lld _ _ _ => true
  | .lwait _ _ _ _ => true
  | .lsync => true
  | .talloc s => decide (s.toNat + 2 ≤ 256)
  | .tfree _ => true
  | .ttag _ => true
  | .twait _ => true
  | .tld s _ _ => decide (s.toNat + 6 ≤ 256)
  | .tst s _ _ => decide (s.toNat + 6 ≤ 256)
  | .tldt s _ _ => decide (s.toNat + 6 ≤ 256)
  | .tcopy s _ _ _ => decide (s.toNat + 2 ≤ 256)
  | .tfill s _ _ => decide (s.toNat + 2 ≤ 256)
  | .tstc s _ _ => decide (s.toNat + 4 ≤ 256)
  | .tldc s _ _ => decide (s.toNat + 3 ≤ 256)
  | .tcvt s _ _ => decide (s.toNat + 5 ≤ 256)
  | .trd _ _ _ _ => true
  | .twr _ _ _ _ => true
  | .trdt _ _ _ _ => true
  | .tatom _ _ _ o => decide (o.toNat ≤ 11)
  | .oclaim _ => true
  | .orel _ => true
  | .ofill s _ _ => decide (s.toNat + 4 ≤ 256)
  | .ofillS24 s _ _ => decide (s.toNat + 3 ≤ 256)
  | .ofillG s _ _ => decide (s.toNat + 5 ≤ 256)
  | .owait _ => true
  | .mma s _ _ => decide (s.toNat + 4 ≤ 256)
  | .mmas s _ _ => decide (s.toNat + 4 ≤ 256)
  | .mmat s _ _ => decide (s.toNat + 4 ≤ 256)
  | .spmm s _ _ => decide (s.toNat + 7 ≤ 256)
  | .pgen s _ _ _ => decide (s.toNat + 6 ≤ 256)
  | .pgenMat s _ _ => decide (s.toNat + 6 ≤ 256)
  | .pmerge s _ _ _ _ => decide (s.toNat + 8 ≤ 256)
  | .pload s => decide (s.toNat + 3 ≤ 256)
  | .pfree _ => true
  | .stream s _ _ m => decide (s.toNat + (if m == 1 then 11 else 7) ≤ 256)
  | .hcopy s _ _ _ => decide (2 * s.toNat + 6 ≤ 256)
  | .snap s _ _ => decide (2 * s.toNat + 6 ≤ 256)
  | .cwait s => decide (s.toNat + 4 ≤ 256)
  | .evpop _ _ => true
  | .shdef s => decide (s.toNat + 3 ≤ 256)
  | .shfree _ => true
  | .spawn s => decide (2 * s.toNat + 4 ≤ 256)
  | .spawnn s => decide (2 * s.toNat + 6 ≤ 256)
  | .spawna s t => t != 0 && decide (2 * s.toNat + 6 ≤ 256)
  | .sync => true
  | .launch s => decide (2 * s.toNat + 4 ≤ 256)
  | .barf _ => true
  | .pedrd s => decide (s.toNat ≤ 222)
  | .pedcmp s => decide (2 * s.toNat + 3 ≤ 256)
  | .palloc _ => true
  | .rview s m => decide (s.toNat + (if m == 1 then 4 else 3) ≤ 256)
  | .oskip _ => true
  | .prio _ => true
  | .prand g _ => g != 15
  | .prandf g _ => g != 15
  | .rupd g _ _ _ => g != 15
  | .csrr s c => csrRdOk s c
  | .csrw s c => csrWrOk s c
  | .csrwStat _ => true
  | .csrwSeed _ => true
  | .csrwLxs _ => true
  | .csrwLxp _ => true
  | .csrwCpyshare _ => true
  | .csrwPerfsel _ _ => true
  | .csrwLxt _ _ => true
  | .clock _ => true
  | .locq _ => true
  | .perfrd _ _ => true
  | .tlbinv _ => true
  | .ctxsv _ => true
  | .ctxld _ => true
  | .himm _ => true
  | .hmod _ _ v k _ _ r m => (v == 1 || k == 0) && decide (k.toNat ≤ 4) && (r == 1 || m == 0) && decide (m.toNat ≤ 5)
  | .hgrd g => g != 15
  | .htgt _ => true
  | .hseq _ => true
  | .powerOnBoot _ _ => true
  | .contextCreate _ _ _ _ _ _ => true
  | .mgmtSetPowerCap _ => true
  | .mgmtReportStatus => true
  | .mgmtReplaceFrontProgram _ _ _ _ _ => true
  | .mgmtTrainPort _ _ _ => true
  | .mgmtFirmwareUpdate _ => true
  | .thermalThrottle _ _ => true
  | .thermalShutdown _ _ => true
  | .hostWrite _ _ _ _ => true
  | .hostRead _ _ _ => true
  | .errclr _ _ => true
  | .winEntryWrite _ _ _ _ => true
  | .latticeBroadcastWrite _ _ _ _ _ => true
  | .mmioRegisterWrite _ _ _ _ _ => true
  | .clolyFlitReceive _ _ _ _ => true
  | .clolyLinkDown _ _ => true
  | .remoteWindowAccess _ _ _ => true
  | .latticeExchangeRound => true
  | .feldsparJoinArrival => true
  | .lsyncComplete _ => true
  | .monitorReread _ _ => true
  | .waitPoll _ _ => true
  | .waitForWalk => true
  | .agingPromotion _ => true
  | .taskStart _ _ => true
  | .gangDrain _ => true
  | .syncComplete _ => true
  | .barfPhaseComplete _ => true
  | .launchStart _ => true
  | .teamPlacement _ => true
  | .launchComplete _ => true
  | .engineCommandStart _ => true
  | .engineCommandCompletion _ => true
  | .snapCut => true
  | .snapBlockCopy => true
  | .raceCheck _ _ _ _ => true
  | .filterSpill _ => true
  | .migrateService _ _ => true
  | .arenaZeroFill _ _ => true
  | .pageWalk _ _ _ => true
  | .viewSpill _ _ _ => true
  | .contextRestorePlacement _ => true
  | .illegalWord _ => true
  | .powerCapClockStep _ => true
  | .hostConfigurationRequest _ => true

/-- A well-formed instruction. -/
abbrev WellFormed (i : Instr) : Prop := i.wf = true

end Sys2Proof
end

