-- ==== Sys2Proof/Decode.lean ====
section
/-! DEFINITION. Decoding of instruction words, written from the field tables of spec/, and the encoder after it. A word
is a number below 2^32; a byte string is decoded little-endian (R2, R55). shape reads the fields of the row whose
constant bits the word has; decodeWord refuses a word whose fields R75 makes illegal. The code generator cannot build
an object of more than 245 kinds, so what builds an Instr is marked noncomputable; Lean's kernel evaluates all of it. -/
namespace Sys2Proof

/-- The len bits of w from bit lo. -/
def fld (w lo len : Nat) : Nat := w / 2 ^ lo % 2 ^ len
/-- The len bits of w from bit lo as a bit vector. -/
def bfld (w lo len : Nat) : BitVec len := BitVec.ofNat len (w / 2 ^ lo)

/-- The rows of major 0x01 (R78). -/
noncomputable def shape01 (w : Nat) : Option Instr :=
  if fld w 0 26 = 0 then some (.nop) else
  if fld w 0 26 = 4194304 then some (.exit) else
  if fld w 0 26 = 8388608 then some (.yield) else
  if fld w 2 24 = 6291456 then some (.tret (bfld w 0 2)) else
  if fld w 3 23 = 1572864 then some (.waitb (bfld w 0 3)) else
  if fld w 16 10 = 256 then some (.bkpt (bfld w 0 16)) else
  if fld w 16 10 = 320 then some (.trap (bfld w 0 16)) else
  none

/-- The rows of major 0x02 (R78). -/
noncomputable def shape02 (w : Nat) : Option Instr :=
  if fld w 0 4 = 0 then some (.iadd (bfld w 22 4) (bfld w 16 6) (bfld w 10 6) (bfld w 4 6)) else
  if fld w 0 4 = 1 then some (.isub (bfld w 22 4) (bfld w 16 6) (bfld w 10 6) (bfld w 4 6)) else
  if fld w 0 4 = 2 then some (.imul (bfld w 22 4) (bfld w 16 6) (bfld w 10 6) (bfld w 4 6)) else
  if fld w 0 4 = 3 then some (.imulhS (bfld w 22 4) (bfld w 16 6) (bfld w 10 6) (bfld w 4 6)) else
  if fld w 0 4 = 4 then some (.imulhN (bfld w 22 4) (bfld w 16 6) (bfld w 10 6) (bfld w 4 6)) else
  if fld w 0 4 = 5 then some (.iand (bfld w 22 4) (bfld w 16 6) (bfld w 10 6) (bfld w 4 6)) else
  if fld w 0 4 = 6 then some (.ior (bfld w 22 4) (bfld w 16 6) (bfld w 10 6) (bfld w 4 6)) else
  if fld w 0 4 = 7 then some (.ixor (bfld w 22 4) (bfld w 16 6) (bfld w 10 6) (bfld w 4 6)) else
  if fld w 0 4 = 8 then some (.iandn (bfld w 22 4) (bfld w 16 6) (bfld w 10 6) (bfld w 4 6)) else
  if fld w 0 4 = 9 then some (.shl (bfld w 22 4) (bfld w 16 6) (bfld w 10 6) (bfld w 4 6)) else
  if fld w 0 4 = 10 then some (.shr (bfld w 22 4) (bfld w 16 6) (bfld w 10 6) (bfld w 4 6)) else
  if fld w 0 4 = 11 then some (.sha (bfld w 22 4) (bfld w 16 6) (bfld w 10 6) (bfld w 4 6)) else
  if fld w 0 4 = 12 then some (.iminS (bfld w 22 4) (bfld w 16 6) (bfld w 10 6) (bfld w 4 6)) else
  if fld w 0 4 = 13 then some (.iminN (bfld w 22 4) (bfld w 16 6) (bfld w 10 6) (bfld w 4 6)) else
  if fld w 0 4 = 14 then some (.imaxS (bfld w 22 4) (bfld w 16 6) (bfld w 10 6) (bfld w 4 6)) else
  if fld w 0 4 = 15 then some (.imaxN (bfld w 22 4) (bfld w 16 6) (bfld w 10 6) (bfld w 4 6)) else
  none

/-- The rows of major 0x03 (R78). -/
noncomputable def shape03 (w : Nat) : Option Instr :=
  if fld w 0 10 = 5 then some (.iabs (bfld w 22 4) (bfld w 16 6) (bfld w 10 6)) else
  if fld w 0 10 = 6 then some (.ineg (bfld w 22 4) (bfld w 16 6) (bfld w 10 6)) else
  if fld w 0 10 = 7 then some (.popc (bfld w 22 4) (bfld w 16 6) (bfld w 10 6)) else
  if fld w 0 10 = 8 then some (.clz (bfld w 22 4) (bfld w 16 6) (bfld w 10 6)) else
  if fld w 0 10 = 9 then some (.brev (bfld w 22 4) (bfld w 16 6) (bfld w 10 6)) else
  if fld w 0 10 = 14 then some (.mov (bfld w 22 4) (bfld w 16 6) (bfld w 10 6)) else
  if fld w 16 1 = 0 ∧ fld w 10 1 = 0 ∧ fld w 0 5 = 0 then some (.iadd64 (bfld w 22 4) (bfld w 17 5) (bfld w 11 5) (bfld w 5 5)) else
  if fld w 16 1 = 0 ∧ fld w 10 1 = 0 ∧ fld w 0 5 = 1 then some (.isub64 (bfld w 22 4) (bfld w 17 5) (bfld w 11 5) (bfld w 5 5)) else
  if fld w 16 1 = 0 ∧ fld w 10 1 = 0 ∧ fld w 0 4 = 2 then some (.shl64 (bfld w 22 4) (bfld w 17 5) (bfld w 11 5) (bfld w 4 6)) else
  if fld w 16 1 = 0 ∧ fld w 10 1 = 0 ∧ fld w 0 4 = 3 then some (.shr64 (bfld w 22 4) (bfld w 17 5) (bfld w 11 5) (bfld w 4 6)) else
  if fld w 16 1 = 0 ∧ fld w 10 1 = 0 ∧ fld w 0 4 = 4 then some (.sha64 (bfld w 22 4) (bfld w 17 5) (bfld w 11 5) (bfld w 4 6)) else
  if fld w 0 4 = 10 then some (.bfxN (bfld w 22 4) (bfld w 16 6) (bfld w 10 6) (bfld w 4 6)) else
  if fld w 0 4 = 11 then some (.bfxS (bfld w 22 4) (bfld w 16 6) (bfld w 10 6) (bfld w 4 6)) else
  if fld w 0 4 = 12 then some (.prmt (bfld w 22 4) (bfld w 16 6) (bfld w 10 6) (bfld w 4 6)) else
  if fld w 0 4 = 13 then some (.isad (bfld w 22 4) (bfld w 16 6) (bfld w 10 6) (bfld w 4 6)) else
  if fld w 0 4 = 15 then some (.sel (bfld w 22 4) (bfld w 16 6) (bfld w 10 6) (bfld w 4 6)) else
  none

/-- The rows of major 0x04 (R78). -/
noncomputable def shape04 (w : Nat) : Option Instr :=
  some (.iaddi (bfld w 22 4) (bfld w 16 6) (bfld w 10 6) (bfld w 0 10))

/-- The rows of major 0x05 (R78). -/
noncomputable def shape05 (w : Nat) : Option Instr :=
  some (.iandi (bfld w 22 4) (bfld w 16 6) (bfld w 10 6) (bfld w 0 10))

/-- The rows of major 0x06 (R78). -/
noncomputable def shape06 (w : Nat) : Option Instr :=
  some (.iori (bfld w 22 4) (bfld w 16 6) (bfld w 10 6) (bfld w 0 10))

/-- The rows of major 0x07 (R78). -/
noncomputable def shape07 (w : Nat) : Option Instr :=
  some (.ixori (bfld w 22 4) (bfld w 16 6) (bfld w 10 6) (bfld w 0 10))

/-- The rows of major 0x08 (R78). -/
noncomputable def shape08 (w : Nat) : Option Instr :=
  if fld w 6 4 = 0 then some (.ishiShl (bfld w 22 4) (bfld w 16 6) (bfld w 10 6) (bfld w 0 6)) else
  if fld w 6 4 = 4 then some (.ishiShr (bfld w 22 4) (bfld w 16 6) (bfld w 10 6) (bfld w 0 6)) else
  if fld w 6 4 = 8 then some (.ishiSha (bfld w 22 4) (bfld w 16 6) (bfld w 10 6) (bfld w 0 6)) else
  if fld w 6 4 = 12 then some (.ishiRot (bfld w 22 4) (bfld w 16 6) (bfld w 10 6) (bfld w 0 6)) else
  none

/-- The rows of major 0x09 (R78). -/
noncomputable def shape09 (w : Nat) : Option Instr :=
  some (.imovi (bfld w 22 4) (bfld w 16 6) (bfld w 0 16))

/-- The rows of major 0x0A (R78). -/
noncomputable def shape0A (w : Nat) : Option Instr :=
  if fld w 0 4 = 0 then some (.icmp (bfld w 22 4) (bfld w 19 3) (bfld w 16 3) (bfld w 10 6) (bfld w 4 6)) else
  none

/-- The rows of major 0x0B (R78). -/
noncomputable def shape0B (w : Nat) : Option Instr :=
  if fld w 20 1 = 0 ∧ fld w 0 3 = 3 then some (.imadW (bfld w 21 5) (bfld w 14 6) (bfld w 8 6) (bfld w 3 5)) else
  if fld w 0 2 = 0 then some (.imad (bfld w 20 6) (bfld w 14 6) (bfld w 8 6) (bfld w 2 6)) else
  if fld w 0 2 = 1 then some (.imadhS (bfld w 20 6) (bfld w 14 6) (bfld w 8 6) (bfld w 2 6)) else
  if fld w 0 2 = 2 then some (.imadhN (bfld w 20 6) (bfld w 14 6) (bfld w 8 6) (bfld w 2 6)) else
  none

/-- The rows of major 0x0C (R78). -/
noncomputable def shape0C (w : Nat) : Option Instr :=
  if fld w 0 2 = 0 then some (.bfi (bfld w 20 6) (bfld w 14 6) (bfld w 8 6) (bfld w 2 6)) else
  if fld w 0 2 = 1 then some (.dp4S8 (bfld w 20 6) (bfld w 14 6) (bfld w 8 6) (bfld w 2 6)) else
  if fld w 0 2 = 2 then some (.dp4N8 (bfld w 20 6) (bfld w 14 6) (bfld w 8 6) (bfld w 2 6)) else
  if fld w 0 2 = 3 then some (.dp2S16 (bfld w 20 6) (bfld w 14 6) (bfld w 8 6) (bfld w 2 6)) else
  none

/-- The rows of major 0x0D (R78). -/
noncomputable def shape0D (w : Nat) : Option Instr :=
  if fld w 0 4 = 0 then some (.fadd (bfld w 22 4) (bfld w 16 6) (bfld w 10 6) (bfld w 4 6)) else
  if fld w 0 4 = 1 then some (.fsub (bfld w 22 4) (bfld w 16 6) (bfld w 10 6) (bfld w 4 6)) else
  if fld w 0 4 = 2 then some (.fmul (bfld w 22 4) (bfld w 16 6) (bfld w 10 6) (bfld w 4 6)) else
  if fld w 0 4 = 3 then some (.fdiv (bfld w 22 4) (bfld w 16 6) (bfld w 10 6) (bfld w 4 6)) else
  if fld w 0 4 = 4 then some (.fmin (bfld w 22 4) (bfld w 16 6) (bfld w 10 6) (bfld w 4 6)) else
  if fld w 0 4 = 5 then some (.fmax (bfld w 22 4) (bfld w 16 6) (bfld w 10 6) (bfld w 4 6)) else
  if fld w 0 4 = 6 then some (.fcsgn (bfld w 22 4) (bfld w 16 6) (bfld w 10 6) (bfld w 4 6)) else
  if fld w 0 4 = 7 then some (.fabd (bfld w 22 4) (bfld w 16 6) (bfld w 10 6) (bfld w 4 6)) else
  none

/-- The rows of major 0x0E (R78). -/
noncomputable def shape0E (w : Nat) : Option Instr :=
  if fld w 0 4 = 0 then some (.hadd2 (bfld w 22 4) (bfld w 16 6) (bfld w 10 6) (bfld w 4 6)) else
  if fld w 0 4 = 1 then some (.hsub2 (bfld w 22 4) (bfld w 16 6) (bfld w 10 6) (bfld w 4 6)) else
  if fld w 0 4 = 2 then some (.hmul2 (bfld w 22 4) (bfld w 16 6) (bfld w 10 6) (bfld w 4 6)) else
  if fld w 0 4 = 3 then some (.hmin2 (bfld w 22 4) (bfld w 16 6) (bfld w 10 6) (bfld w 4 6)) else
  if fld w 0 4 = 4 then some (.hmax2 (bfld w 22 4) (bfld w 16 6) (bfld w 10 6) (bfld w 4 6)) else
  if fld w 0 4 = 8 then some (.badd2 (bfld w 22 4) (bfld w 16 6) (bfld w 10 6) (bfld w 4 6)) else
  if fld w 0 4 = 9 then some (.bsub2 (bfld w 22 4) (bfld w 16 6) (bfld w 10 6) (bfld w 4 6)) else
  if fld w 0 4 = 10 then some (.bmul2 (bfld w 22 4) (bfld w 16 6) (bfld w 10 6) (bfld w 4 6)) else
  if fld w 0 4 = 11 then some (.bmin2 (bfld w 22 4) (bfld w 16 6) (bfld w 10 6) (bfld w 4 6)) else
  if fld w 0 4 = 12 then some (.bmax2 (bfld w 22 4) (bfld w 16 6) (bfld w 10 6) (bfld w 4 6)) else
  none

/-- The rows of major 0x0F (R78). -/
noncomputable def shape0F (w : Nat) : Option Instr :=
  if fld w 0 2 = 0 then some (.ffma (bfld w 20 6) (bfld w 14 6) (bfld w 8 6) (bfld w 2 6)) else
  if fld w 0 2 = 1 then some (.ffms (bfld w 20 6) (bfld w 14 6) (bfld w 8 6) (bfld w 2 6)) else
  if fld w 0 2 = 2 then some (.ffnma (bfld w 20 6) (bfld w 14 6) (bfld w 8 6) (bfld w 2 6)) else
  if fld w 0 2 = 3 then some (.ffnms (bfld w 20 6) (bfld w 14 6) (bfld w 8 6) (bfld w 2 6)) else
  none

/-- The rows of major 0x10 (R78). -/
noncomputable def shape10 (w : Nat) : Option Instr :=
  if fld w 0 2 = 0 then some (.hfma2 (bfld w 20 6) (bfld w 14 6) (bfld w 8 6) (bfld w 2 6)) else
  if fld w 0 2 = 1 then some (.bfma2 (bfld w 20 6) (bfld w 14 6) (bfld w 8 6) (bfld w 2 6)) else
  if fld w 0 2 = 2 then some (.hfma2F32 (bfld w 20 6) (bfld w 14 6) (bfld w 8 6) (bfld w 2 6)) else
  if fld w 0 2 = 3 then some (.bfma2F32 (bfld w 20 6) (bfld w 14 6) (bfld w 8 6) (bfld w 2 6)) else
  none

/-- The rows of major 0x11 (R78). -/
noncomputable def shape11 (w : Nat) : Option Instr :=
  if fld w 0 4 = 0 then some (.fcmp (bfld w 22 4) (bfld w 19 3) (bfld w 16 3) (bfld w 10 6) (bfld w 4 6)) else
  none

/-- The rows of major 0x12 (R78). -/
noncomputable def shape12 (w : Nat) : Option Instr :=
  if fld w 0 10 = 0 then some (.frcp (bfld w 22 4) (bfld w 16 6) (bfld w 10 6)) else
  if fld w 0 10 = 1 then some (.frsq (bfld w 22 4) (bfld w 16 6) (bfld w 10 6)) else
  if fld w 0 10 = 2 then some (.fsqrt (bfld w 22 4) (bfld w 16 6) (bfld w 10 6)) else
  if fld w 0 10 = 3 then some (.fex2 (bfld w 22 4) (bfld w 16 6) (bfld w 10 6)) else
  if fld w 0 10 = 4 then some (.flg2 (bfld w 22 4) (bfld w 16 6) (bfld w 10 6)) else
  if fld w 0 10 = 5 then some (.fsin (bfld w 22 4) (bfld w 16 6) (bfld w 10 6)) else
  if fld w 0 10 = 6 then some (.fcos (bfld w 22 4) (bfld w 16 6) (bfld w 10 6)) else
  if fld w 0 10 = 7 then some (.ftanh (bfld w 22 4) (bfld w 16 6) (bfld w 10 6)) else
  if fld w 0 10 = 8 then some (.frndRn (bfld w 22 4) (bfld w 16 6) (bfld w 10 6)) else
  if fld w 0 10 = 9 then some (.frndRz (bfld w 22 4) (bfld w 16 6) (bfld w 10 6)) else
  if fld w 0 10 = 10 then some (.frndRu (bfld w 22 4) (bfld w 16 6) (bfld w 10 6)) else
  if fld w 0 10 = 11 then some (.frndRd (bfld w 22 4) (bfld w 16 6) (bfld w 10 6)) else
  if fld w 0 10 = 12 then some (.fclass (bfld w 22 4) (bfld w 16 6) (bfld w 10 6)) else
  if fld w 0 10 = 14 then some (.ffrexpM (bfld w 22 4) (bfld w 16 6) (bfld w 10 6)) else
  if fld w 0 10 = 15 then some (.ffrexpE (bfld w 22 4) (bfld w 16 6) (bfld w 10 6)) else
  if fld w 0 4 = 13 then some (.fldexp (bfld w 22 4) (bfld w 16 6) (bfld w 10 6) (bfld w 4 6)) else
  none

/-- The rows of major 0x13 (R78). -/
noncomputable def shape13 (w : Nat) : Option Instr :=
  some (.cvt (bfld w 22 4) (bfld w 16 6) (bfld w 10 6) (bfld w 4 6) (bfld w 0 4))

/-- The rows of major 0x14 (R78). -/
noncomputable def shape14 (w : Nat) : Option Instr :=
  if fld w 0 2 = 0 then some (.faddS (bfld w 22 4) (bfld w 16 6) (bfld w 10 6) (bfld w 2 8)) else
  if fld w 0 2 = 1 then some (.fmulS (bfld w 22 4) (bfld w 16 6) (bfld w 10 6) (bfld w 2 8)) else
  if fld w 0 2 = 2 then some (.fmaxS (bfld w 22 4) (bfld w 16 6) (bfld w 10 6) (bfld w 2 8)) else
  if fld w 0 2 = 3 then some (.fminS (bfld w 22 4) (bfld w 16 6) (bfld w 10 6) (bfld w 2 8)) else
  none

/-- The rows of major 0x15 (R78). -/
noncomputable def shape15 (w : Nat) : Option Instr :=
  if fld w 10 6 = 0 ∧ fld w 0 2 = 3 then some (.movS (bfld w 22 4) (bfld w 16 6) (bfld w 2 8)) else
  if fld w 0 2 = 0 then some (.iaddS (bfld w 22 4) (bfld w 16 6) (bfld w 10 6) (bfld w 2 8)) else
  if fld w 0 2 = 1 then some (.imulS (bfld w 22 4) (bfld w 16 6) (bfld w 10 6) (bfld w 2 8)) else
  if fld w 0 2 = 2 then some (.iandS (bfld w 22 4) (bfld w 16 6) (bfld w 10 6) (bfld w 2 8)) else
  none

/-- The rows of major 0x16 (R78). -/
noncomputable def shape16 (w : Nat) : Option Instr :=
  if fld w 22 4 = 3 ∧ fld w 13 3 = 0 ∧ fld w 0 12 = 0 then some (.pmov (bfld w 19 3) (bfld w 16 3) (bfld w 12 1)) else
  if fld w 22 4 = 0 ∧ fld w 0 11 = 0 then some (.pand (bfld w 19 3) (bfld w 16 3) (bfld w 13 3) (bfld w 12 1) (bfld w 11 1)) else
  if fld w 22 4 = 1 ∧ fld w 0 11 = 0 then some (.por (bfld w 19 3) (bfld w 16 3) (bfld w 13 3) (bfld w 12 1) (bfld w 11 1)) else
  if fld w 22 4 = 2 ∧ fld w 0 11 = 0 then some (.pxor (bfld w 19 3) (bfld w 16 3) (bfld w 13 3) (bfld w 12 1) (bfld w 11 1)) else
  none

/-- The rows of major 0x17 (R78). -/
noncomputable def shape17 (w : Nat) : Option Instr :=
  if fld w 25 1 = 0 ∧ fld w 16 1 = 0 ∧ fld w 0 10 = 14 then some (.xmatch (bfld w 22 3) (bfld w 17 5) (bfld w 10 6)) else
  if fld w 25 1 = 0 ∧ fld w 0 10 = 4 then some (.rdxIadd (bfld w 22 3) (bfld w 16 6) (bfld w 10 6)) else
  if fld w 25 1 = 0 ∧ fld w 0 10 = 5 then some (.rdxIminS (bfld w 22 3) (bfld w 16 6) (bfld w 10 6)) else
  if fld w 25 1 = 0 ∧ fld w 0 10 = 6 then some (.rdxImaxS (bfld w 22 3) (bfld w 16 6) (bfld w 10 6)) else
  if fld w 25 1 = 0 ∧ fld w 0 10 = 7 then some (.rdxFadd (bfld w 22 3) (bfld w 16 6) (bfld w 10 6)) else
  if fld w 25 1 = 0 ∧ fld w 0 10 = 8 then some (.rdxFmin (bfld w 22 3) (bfld w 16 6) (bfld w 10 6)) else
  if fld w 25 1 = 0 ∧ fld w 0 10 = 9 then some (.rdxFmax (bfld w 22 3) (bfld w 16 6) (bfld w 10 6)) else
  if fld w 25 1 = 0 ∧ fld w 0 10 = 10 then some (.scanIadd (bfld w 22 3) (bfld w 16 6) (bfld w 10 6)) else
  if fld w 25 1 = 0 ∧ fld w 0 10 = 11 then some (.scanIaddx (bfld w 22 3) (bfld w 16 6) (bfld w 10 6)) else
  if fld w 25 1 = 0 ∧ fld w 0 10 = 12 then some (.scanFadd (bfld w 22 3) (bfld w 16 6) (bfld w 10 6)) else
  if fld w 25 1 = 0 ∧ fld w 0 10 = 13 then some (.scanFaddx (bfld w 22 3) (bfld w 16 6) (bfld w 10 6)) else
  if fld w 25 1 = 0 ∧ fld w 0 4 = 0 then some (.shfl (bfld w 22 3) (bfld w 16 6) (bfld w 10 6) (bfld w 4 6)) else
  if fld w 25 1 = 0 ∧ fld w 0 4 = 1 then some (.shflx (bfld w 22 3) (bfld w 16 6) (bfld w 10 6) (bfld w 4 6)) else
  if fld w 25 1 = 0 ∧ fld w 0 4 = 2 then some (.shflu (bfld w 22 3) (bfld w 16 6) (bfld w 10 6) (bfld w 4 6)) else
  if fld w 25 1 = 0 ∧ fld w 0 4 = 3 then some (.shfld (bfld w 22 3) (bfld w 16 6) (bfld w 10 6) (bfld w 4 6)) else
  if fld w 25 1 = 0 ∧ fld w 0 4 = 15 then some (.xshf (bfld w 22 3) (bfld w 16 6) (bfld w 10 6) (bfld w 4 6)) else
  none

/-- The rows of major 0x18 (R78). -/
noncomputable def shape18 (w : Nat) : Option Instr :=
  if fld w 22 4 = 7 ∧ fld w 0 16 = 6 then some (.fidx (bfld w 16 6)) else
  if fld w 25 1 = 0 ∧ fld w 19 3 = 0 ∧ fld w 14 2 = 0 ∧ fld w 0 10 = 0 then some (.voteAny (bfld w 22 3) (bfld w 16 3) (bfld w 10 4)) else
  if fld w 25 1 = 0 ∧ fld w 19 3 = 0 ∧ fld w 14 2 = 0 ∧ fld w 0 10 = 1 then some (.voteAll (bfld w 22 3) (bfld w 16 3) (bfld w 10 4)) else
  if fld w 25 1 = 0 ∧ fld w 19 3 = 0 ∧ fld w 14 2 = 0 ∧ fld w 0 10 = 2 then some (.voteEq (bfld w 22 3) (bfld w 16 3) (bfld w 10 4)) else
  if fld w 25 1 = 0 ∧ fld w 19 3 = 0 ∧ fld w 14 2 = 0 ∧ fld w 0 10 = 3 then some (.voteBal (bfld w 22 3) (bfld w 16 3) (bfld w 10 4)) else
  if fld w 25 1 = 0 ∧ fld w 0 10 = 4 then some (.bcast (bfld w 22 3) (bfld w 16 6) (bfld w 10 6)) else
  if fld w 25 1 = 0 ∧ fld w 16 1 = 0 ∧ fld w 0 4 = 5 then some (.rbal (bfld w 22 3) (bfld w 17 5) (bfld w 10 6) (bfld w 4 6)) else
  none

/-- The rows of major 0x19 (R78). -/
noncomputable def shape19 (w : Nat) : Option Instr :=
  if fld w 24 2 = 0 then some (.sadd (bfld w 16 8) (bfld w 8 8) (bfld w 0 8)) else
  if fld w 24 2 = 1 then some (.ssub (bfld w 16 8) (bfld w 8 8) (bfld w 0 8)) else
  if fld w 24 2 = 2 then some (.smul (bfld w 16 8) (bfld w 8 8) (bfld w 0 8)) else
  if fld w 24 2 = 3 then some (.smulhN (bfld w 16 8) (bfld w 8 8) (bfld w 0 8)) else
  none

/-- The rows of major 0x1A (R78). -/
noncomputable def shape1A (w : Nat) : Option Instr :=
  if fld w 24 2 = 0 then some (.sand (bfld w 16 8) (bfld w 8 8) (bfld w 0 8)) else
  if fld w 24 2 = 1 then some (.sor (bfld w 16 8) (bfld w 8 8) (bfld w 0 8)) else
  if fld w 24 2 = 2 then some (.sxor (bfld w 16 8) (bfld w 8 8) (bfld w 0 8)) else
  if fld w 24 2 = 3 then some (.sandn (bfld w 16 8) (bfld w 8 8) (bfld w 0 8)) else
  none

/-- The rows of major 0x1B (R78). -/
noncomputable def shape1B (w : Nat) : Option Instr :=
  if fld w 24 2 = 0 then some (.sshl (bfld w 16 8) (bfld w 8 8) (bfld w 0 8)) else
  if fld w 24 2 = 1 then some (.sshr (bfld w 16 8) (bfld w 8 8) (bfld w 0 8)) else
  if fld w 24 2 = 2 then some (.ssha (bfld w 16 8) (bfld w 8 8) (bfld w 0 8)) else
  if fld w 24 2 = 3 then some (.srot (bfld w 16 8) (bfld w 8 8) (bfld w 0 8)) else
  none

/-- The rows of major 0x1C (R78). -/
noncomputable def shape1C (w : Nat) : Option Instr :=
  if fld w 24 2 = 0 then some (.sminS (bfld w 16 8) (bfld w 8 8) (bfld w 0 8)) else
  if fld w 24 2 = 1 then some (.sminN (bfld w 16 8) (bfld w 8 8) (bfld w 0 8)) else
  if fld w 24 2 = 2 then some (.smaxS (bfld w 16 8) (bfld w 8 8) (bfld w 0 8)) else
  if fld w 24 2 = 3 then some (.smaxN (bfld w 16 8) (bfld w 8 8) (bfld w 0 8)) else
  none

/-- The rows of major 0x1D (R78). -/
noncomputable def shape1D (w : Nat) : Option Instr :=
  if fld w 24 2 = 2 ∧ fld w 0 8 = 0 then some (.smov (bfld w 16 8) (bfld w 8 8)) else
  if fld w 24 2 = 0 ∧ fld w 16 1 = 0 ∧ fld w 8 1 = 0 ∧ fld w 0 1 = 0 then some (.sadd64 (bfld w 17 7) (bfld w 9 7) (bfld w 1 7)) else
  if fld w 24 2 = 1 ∧ fld w 16 1 = 0 ∧ fld w 8 1 = 0 ∧ fld w 0 1 = 0 then some (.ssub64 (bfld w 17 7) (bfld w 9 7) (bfld w 1 7)) else
  if fld w 24 2 = 3 then some (.ssel (bfld w 16 8) (bfld w 8 8) (bfld w 0 8)) else
  none

/-- The rows of major 0x1E (R78). -/
noncomputable def shape1E (w : Nat) : Option Instr :=
  some (.scmp (bfld w 22 4) (bfld w 19 3) (bfld w 16 3) (bfld w 8 8) (bfld w 0 8))

/-- The rows of major 0x1F (R78). -/
noncomputable def shape1F (w : Nat) : Option Instr :=
  some (.saddi (bfld w 18 8) (bfld w 10 8) (bfld w 0 10))

/-- The rows of major 0x20 (R78). -/
noncomputable def shape20 (w : Nat) : Option Instr :=
  some (.smovi (bfld w 18 8) (bfld w 0 18))

/-- The rows of major 0x21 (R78). -/
noncomputable def shape21 (w : Nat) : Option Instr :=
  some (.smovh (bfld w 18 8) (bfld w 0 18))

/-- The rows of major 0x22 (R78). -/
noncomputable def shape22 (w : Nat) : Option Instr :=
  if fld w 22 4 = 4 ∧ fld w 0 16 = 0 then some (.mnot (bfld w 19 3) (bfld w 16 3)) else
  if fld w 22 4 = 12 ∧ fld w 0 16 = 0 then some (.qnot (bfld w 19 3) (bfld w 16 3)) else
  if fld w 22 4 = 0 ∧ fld w 0 13 = 0 then some (.mand (bfld w 19 3) (bfld w 16 3) (bfld w 13 3)) else
  if fld w 22 4 = 1 ∧ fld w 0 13 = 0 then some (.mor (bfld w 19 3) (bfld w 16 3) (bfld w 13 3)) else
  if fld w 22 4 = 2 ∧ fld w 0 13 = 0 then some (.mxor (bfld w 19 3) (bfld w 16 3) (bfld w 13 3)) else
  if fld w 22 4 = 3 ∧ fld w 0 13 = 0 then some (.mandn (bfld w 19 3) (bfld w 16 3) (bfld w 13 3)) else
  if fld w 22 4 = 9 ∧ fld w 0 13 = 0 then some (.mq (bfld w 19 3) (bfld w 16 3) (bfld w 13 3)) else
  if fld w 22 4 = 10 ∧ fld w 0 13 = 0 then some (.qand (bfld w 19 3) (bfld w 16 3) (bfld w 13 3)) else
  if fld w 22 4 = 11 ∧ fld w 0 13 = 0 then some (.qor (bfld w 19 3) (bfld w 16 3) (bfld w 13 3)) else
  if fld w 19 7 = 56 ∧ fld w 13 3 = 0 ∧ fld w 0 6 = 0 then some (.mtos (bfld w 16 3) (bfld w 6 7)) else
  if fld w 22 4 = 8 ∧ fld w 13 6 = 0 ∧ fld w 0 6 = 0 then some (.stom (bfld w 19 3) (bfld w 6 7)) else
  if fld w 19 7 = 40 ∧ fld w 13 3 = 0 ∧ fld w 0 5 = 0 then some (.mpopc (bfld w 16 3) (bfld w 5 8)) else
  if fld w 19 7 = 48 ∧ fld w 13 3 = 0 ∧ fld w 0 5 = 0 then some (.mffs (bfld w 16 3) (bfld w 5 8)) else
  none

/-- The rows of major 0x23 (R78). -/
noncomputable def shape23 (w : Nat) : Option Instr :=
  some (.bra (bfld w 22 4) (bfld w 0 22))

/-- The rows of major 0x24 (R78). -/
noncomputable def shape24 (w : Nat) : Option Instr :=
  some (.bru (bfld w 22 4) (bfld w 0 22))

/-- The rows of major 0x25 (R78). -/
noncomputable def shape25 (w : Nat) : Option Instr :=
  if fld w 0 8 = 0 then some (.brm (bfld w 24 2) (bfld w 20 4) (bfld w 16 4) (bfld w 12 4) (bfld w 8 4)) else
  none

/-- The rows of major 0x26 (R78). -/
noncomputable def shape26 (w : Nat) : Option Instr :=
  some (.call (bfld w 22 4) (bfld w 0 22))

/-- The rows of major 0x27 (R78). -/
noncomputable def shape27 (w : Nat) : Option Instr :=
  if fld w 0 22 = 1 then some (.ret (bfld w 22 4)) else
  if fld w 16 6 = 0 ∧ fld w 0 10 = 0 then some (.brx (bfld w 22 4) (bfld w 10 6)) else
  if fld w 16 6 = 0 ∧ fld w 0 10 = 2 then some (.callx (bfld w 22 4) (bfld w 10 6)) else
  none

/-- The rows of major 0x28 (R78). -/
noncomputable def shape28 (w : Nat) : Option Instr :=
  if fld w 20 2 = 0 ∧ fld w 0 15 = 0 then some (.winset (bfld w 22 4) (bfld w 15 5)) else
  if fld w 20 2 = 1 ∧ fld w 0 15 = 0 then some (.winadd (bfld w 22 4) (bfld w 15 5)) else
  none

/-- The rows of major 0x29 (R78). -/
noncomputable def shape29 (w : Nat) : Option Instr :=
  some (.ld (bfld w 22 4) (bfld w 16 6) (bfld w 10 6) (bfld w 3 7) (bfld w 0 3))

/-- The rows of major 0x2A (R78). -/
noncomputable def shape2A (w : Nat) : Option Instr :=
  if fld w 3 8 = 0 then some (.ldv (bfld w 22 4) (bfld w 16 6) (bfld w 11 5) (bfld w 0 3)) else
  none

/-- The rows of major 0x2B (R78). -/
noncomputable def shape2B (w : Nat) : Option Instr :=
  some (.st (bfld w 22 4) (bfld w 16 6) (bfld w 10 6) (bfld w 3 7) (bfld w 0 3))

/-- The rows of major 0x2C (R78). -/
noncomputable def shape2C (w : Nat) : Option Instr :=
  if fld w 3 8 = 0 then some (.stv (bfld w 22 4) (bfld w 16 6) (bfld w 11 5) (bfld w 0 3)) else
  none

/-- The rows of major 0x2D (R78). -/
noncomputable def shape2D (w : Nat) : Option Instr :=
  some (.lds (bfld w 18 8) (bfld w 11 7) (bfld w 8 3) (bfld w 0 8))

/-- The rows of major 0x2E (R78). -/
noncomputable def shape2E (w : Nat) : Option Instr :=
  some (.sts (bfld w 18 8) (bfld w 11 7) (bfld w 8 3) (bfld w 0 8))

/-- The rows of major 0x2F (R78). -/
noncomputable def shape2F (w : Nat) : Option Instr :=
  if fld w 0 3 = 4 then some (.atomOrd (bfld w 22 4) (bfld w 16 6) (bfld w 10 6) (bfld w 3 7)) else
  if fld w 22 4 = 11 ∧ fld w 16 2 = 0 then some (.atomCas64 (bfld w 18 4) (bfld w 10 6) (bfld w 3 7) (bfld w 0 3)) else
  if fld w 22 4 = 9 ∧ fld w 16 1 = 0 then some (.atomCas (bfld w 17 5) (bfld w 10 6) (bfld w 3 7) (bfld w 0 3)) else
  if fld w 22 4 = 10 ∧ fld w 16 1 = 0 then some (.atomIadd64 (bfld w 17 5) (bfld w 10 6) (bfld w 3 7) (bfld w 0 3)) else
  if fld w 22 4 = 0 then some (.atomIadd (bfld w 16 6) (bfld w 10 6) (bfld w 3 7) (bfld w 0 3)) else
  if fld w 22 4 = 1 then some (.atomIminS (bfld w 16 6) (bfld w 10 6) (bfld w 3 7) (bfld w 0 3)) else
  if fld w 22 4 = 2 then some (.atomIminN (bfld w 16 6) (bfld w 10 6) (bfld w 3 7) (bfld w 0 3)) else
  if fld w 22 4 = 3 then some (.atomImaxS (bfld w 16 6) (bfld w 10 6) (bfld w 3 7) (bfld w 0 3)) else
  if fld w 22 4 = 4 then some (.atomImaxN (bfld w 16 6) (bfld w 10 6) (bfld w 3 7) (bfld w 0 3)) else
  if fld w 22 4 = 5 then some (.atomAnd (bfld w 16 6) (bfld w 10 6) (bfld w 3 7) (bfld w 0 3)) else
  if fld w 22 4 = 6 then some (.atomOr (bfld w 16 6) (bfld w 10 6) (bfld w 3 7) (bfld w 0 3)) else
  if fld w 22 4 = 7 then some (.atomXor (bfld w 16 6) (bfld w 10 6) (bfld w 3 7) (bfld w 0 3)) else
  if fld w 22 4 = 8 then some (.atomExch (bfld w 16 6) (bfld w 10 6) (bfld w 3 7) (bfld w 0 3)) else
  if fld w 22 4 = 12 then some (.atomFadd (bfld w 16 6) (bfld w 10 6) (bfld w 3 7) (bfld w 0 3)) else
  if fld w 22 4 = 13 then some (.atomFmin (bfld w 16 6) (bfld w 10 6) (bfld w 3 7) (bfld w 0 3)) else
  if fld w 22 4 = 14 then some (.atomFmax (bfld w 16 6) (bfld w 10 6) (bfld w 3 7) (bfld w 0 3)) else
  none

/-- The rows of major 0x30 (R78). -/
noncomputable def shape30 (w : Nat) : Option Instr :=
  if fld w 0 3 = 4 then some (.redOrd (bfld w 22 4) (bfld w 16 6) (bfld w 10 6) (bfld w 3 7)) else
  if fld w 22 4 = 11 ∧ fld w 16 2 = 0 then some (.redCas64 (bfld w 18 4) (bfld w 10 6) (bfld w 3 7) (bfld w 0 3)) else
  if fld w 22 4 = 9 ∧ fld w 16 1 = 0 then some (.redCas (bfld w 17 5) (bfld w 10 6) (bfld w 3 7) (bfld w 0 3)) else
  if fld w 22 4 = 10 ∧ fld w 16 1 = 0 then some (.redIadd64 (bfld w 17 5) (bfld w 10 6) (bfld w 3 7) (bfld w 0 3)) else
  if fld w 22 4 = 0 then some (.redIadd (bfld w 16 6) (bfld w 10 6) (bfld w 3 7) (bfld w 0 3)) else
  if fld w 22 4 = 1 then some (.redIminS (bfld w 16 6) (bfld w 10 6) (bfld w 3 7) (bfld w 0 3)) else
  if fld w 22 4 = 2 then some (.redIminN (bfld w 16 6) (bfld w 10 6) (bfld w 3 7) (bfld w 0 3)) else
  if fld w 22 4 = 3 then some (.redImaxS (bfld w 16 6) (bfld w 10 6) (bfld w 3 7) (bfld w 0 3)) else
  if fld w 22 4 = 4 then some (.redImaxN (bfld w 16 6) (bfld w 10 6) (bfld w 3 7) (bfld w 0 3)) else
  if fld w 22 4 = 5 then some (.redAnd (bfld w 16 6) (bfld w 10 6) (bfld w 3 7) (bfld w 0 3)) else
  if fld w 22 4 = 6 then some (.redOr (bfld w 16 6) (bfld w 10 6) (bfld w 3 7) (bfld w 0 3)) else
  if fld w 22 4 = 7 then some (.redXor (bfld w 16 6) (bfld w 10 6) (bfld w 3 7) (bfld w 0 3)) else
  if fld w 22 4 = 8 then some (.redExch (bfld w 16 6) (bfld w 10 6) (bfld w 3 7) (bfld w 0 3)) else
  if fld w 22 4 = 12 then some (.redFadd (bfld w 16 6) (bfld w 10 6) (bfld w 3 7) (bfld w 0 3)) else
  if fld w 22 4 = 13 then some (.redFmin (bfld w 16 6) (bfld w 10 6) (bfld w 3 7) (bfld w 0 3)) else
  if fld w 22 4 = 14 then some (.redFmax (bfld w 16 6) (bfld w 10 6) (bfld w 3 7) (bfld w 0 3)) else
  none

/-- The rows of major 0x31 (R78). -/
noncomputable def shape31 (w : Nat) : Option Instr :=
  if fld w 0 26 = 16777216 then some (.fencePkg) else
  if fld w 22 4 = 0 ∧ fld w 0 19 = 0 then some (.fenceRel (bfld w 19 3)) else
  if fld w 22 4 = 1 ∧ fld w 0 19 = 0 then some (.fenceAcq (bfld w 19 3)) else
  if fld w 22 4 = 2 ∧ fld w 0 19 = 0 then some (.fenceAr (bfld w 19 3)) else
  if fld w 22 4 = 3 ∧ fld w 0 19 = 0 then some (.fenceSc (bfld w 19 3)) else
  none

/-- The rows of major 0x32 (R78). -/
noncomputable def shape32 (w : Nat) : Option Instr :=
  if fld w 14 1 = 0 then some (.waita (bfld w 22 4) (bfld w 15 7) (bfld w 6 8) (bfld w 3 3) (bfld w 0 3)) else
  none

/-- The rows of major 0x33 (R78). -/
noncomputable def shape33 (w : Nat) : Option Instr :=
  if fld w 0 26 = 16777216 then some (.lsync) else
  if fld w 22 4 = 2 ∧ fld w 0 3 = 0 then some (.lld (bfld w 16 6) (bfld w 10 6) (bfld w 3 7)) else
  if fld w 22 4 = 0 ∧ fld w 1 2 = 0 then some (.ljoin (bfld w 16 6) (bfld w 10 6) (bfld w 3 7) (bfld w 0 1)) else
  if fld w 22 4 = 1 ∧ fld w 1 2 = 0 then some (.lstc (bfld w 16 6) (bfld w 10 6) (bfld w 3 7) (bfld w 0 1)) else
  if fld w 22 4 = 3 ∧ fld w 1 2 = 0 then some (.lwait (bfld w 16 6) (bfld w 10 6) (bfld w 3 7) (bfld w 0 1)) else
  none

/-- The rows of major 0x34 (R78). -/
noncomputable def shape34 (w : Nat) : Option Instr :=
  if fld w 22 4 = 0 ∧ fld w 0 14 = 0 then some (.talloc (bfld w 14 8)) else
  if fld w 22 4 = 1 ∧ fld w 0 14 = 0 then some (.tfree (bfld w 14 8)) else
  if fld w 22 4 = 2 ∧ fld w 0 14 = 0 then some (.ttag (bfld w 14 8)) else
  if fld w 22 4 = 3 ∧ fld w 0 14 = 0 then some (.twait (bfld w 14 8)) else
  if fld w 22 4 = 4 ∧ fld w 6 1 = 0 ∧ fld w 0 5 = 0 then some (.tld (bfld w 14 8) (bfld w 7 7) (bfld w 5 1)) else
  if fld w 22 4 = 5 ∧ fld w 6 1 = 0 ∧ fld w 0 5 = 0 then some (.tst (bfld w 14 8) (bfld w 7 7) (bfld w 5 1)) else
  if fld w 22 4 = 6 ∧ fld w 6 1 = 0 ∧ fld w 0 5 = 0 then some (.tldt (bfld w 14 8) (bfld w 7 7) (bfld w 5 1)) else
  if fld w 22 4 = 8 ∧ fld w 6 1 = 0 ∧ fld w 0 5 = 0 then some (.tfill (bfld w 14 8) (bfld w 7 7) (bfld w 5 1)) else
  if fld w 22 4 = 9 ∧ fld w 6 1 = 0 ∧ fld w 0 5 = 0 then some (.tstc (bfld w 14 8) (bfld w 7 7) (bfld w 5 1)) else
  if fld w 22 4 = 10 ∧ fld w 6 1 = 0 ∧ fld w 0 5 = 0 then some (.tldc (bfld w 14 8) (bfld w 7 7) (bfld w 5 1)) else
  if fld w 22 4 = 11 ∧ fld w 6 1 = 0 ∧ fld w 0 5 = 0 then some (.tcvt (bfld w 14 8) (bfld w 7 7) (bfld w 5 1)) else
  if fld w 22 4 = 7 ∧ fld w 6 1 = 0 ∧ fld w 1 4 = 0 then some (.tcopy (bfld w 14 8) (bfld w 7 7) (bfld w 5 1) (bfld w 0 1)) else
  none

/-- The rows of major 0x35 (R78). -/
noncomputable def shape35 (w : Nat) : Option Instr :=
  if fld w 24 2 = 0 ∧ fld w 1 3 = 0 then some (.trd (bfld w 18 6) (bfld w 12 6) (bfld w 4 8) (bfld w 0 1)) else
  if fld w 24 2 = 1 ∧ fld w 1 3 = 0 then some (.twr (bfld w 18 6) (bfld w 12 6) (bfld w 4 8) (bfld w 0 1)) else
  if fld w 24 2 = 2 ∧ fld w 1 3 = 0 then some (.trdt (bfld w 18 6) (bfld w 12 6) (bfld w 4 8) (bfld w 0 1)) else
  if fld w 24 2 = 3 then some (.tatom (bfld w 18 6) (bfld w 12 6) (bfld w 4 8) (bfld w 0 4)) else
  none

/-- The rows of major 0x36 (R78). -/
noncomputable def shape36 (w : Nat) : Option Instr :=
  if fld w 22 4 = 0 ∧ fld w 0 14 = 0 then some (.oclaim (bfld w 14 8)) else
  if fld w 22 4 = 1 ∧ fld w 0 14 = 0 then some (.orel (bfld w 14 8)) else
  if fld w 22 4 = 5 ∧ fld w 0 14 = 0 then some (.owait (bfld w 14 8)) else
  if fld w 22 4 = 2 ∧ fld w 6 1 = 0 ∧ fld w 0 5 = 0 then some (.ofill (bfld w 14 8) (bfld w 7 7) (bfld w 5 1)) else
  if fld w 22 4 = 3 ∧ fld w 6 1 = 0 ∧ fld w 0 5 = 0 then some (.ofillS24 (bfld w 14 8) (bfld w 7 7) (bfld w 5 1)) else
  if fld w 22 4 = 4 ∧ fld w 6 1 = 0 ∧ fld w 0 5 = 0 then some (.ofillG (bfld w 14 8) (bfld w 7 7) (bfld w 5 1)) else
  none

/-- The rows of major 0x37 (R78). -/
noncomputable def shape37 (w : Nat) : Option Instr :=
  if fld w 22 4 = 0 ∧ fld w 6 1 = 0 ∧ fld w 0 5 = 0 then some (.mma (bfld w 14 8) (bfld w 7 7) (bfld w 5 1)) else
  if fld w 22 4 = 1 ∧ fld w 6 1 = 0 ∧ fld w 0 5 = 0 then some (.mmas (bfld w 14 8) (bfld w 7 7) (bfld w 5 1)) else
  if fld w 22 4 = 2 ∧ fld w 6 1 = 0 ∧ fld w 0 5 = 0 then some (.mmat (bfld w 14 8) (bfld w 7 7) (bfld w 5 1)) else
  if fld w 22 4 = 3 ∧ fld w 6 1 = 0 ∧ fld w 0 5 = 0 then some (.spmm (bfld w 14 8) (bfld w 7 7) (bfld w 5 1)) else
  none

/-- The rows of major 0x38 (R78). -/
noncomputable def shape38 (w : Nat) : Option Instr :=
  if fld w 22 4 = 2 ∧ fld w 0 14 = 0 then some (.pload (bfld w 14 8)) else
  if fld w 22 4 = 3 ∧ fld w 0 14 = 0 then some (.pfree (bfld w 14 8)) else
  if fld w 22 4 = 0 ∧ fld w 6 1 = 0 ∧ fld w 0 5 = 1 then some (.pgenMat (bfld w 14 8) (bfld w 7 7) (bfld w 5 1)) else
  if fld w 22 4 = 0 ∧ fld w 6 1 = 0 ∧ fld w 2 3 = 0 ∧ fld w 0 1 = 0 then some (.pgen (bfld w 14 8) (bfld w 7 7) (bfld w 5 1) (bfld w 1 1)) else
  if fld w 22 4 = 1 ∧ fld w 6 1 = 0 ∧ fld w 2 3 = 0 then some (.pmerge (bfld w 14 8) (bfld w 7 7) (bfld w 5 1) (bfld w 1 1) (bfld w 0 1)) else
  none

/-- The rows of major 0x39 (R78). -/
noncomputable def shape39 (w : Nat) : Option Instr :=
  if fld w 22 4 = 4 ∧ fld w 1 15 = 0 then some (.evpop (bfld w 16 6) (bfld w 0 1)) else
  if fld w 22 4 = 3 ∧ fld w 0 14 = 0 then some (.cwait (bfld w 14 8)) else
  if fld w 22 4 = 5 ∧ fld w 0 14 = 0 then some (.shdef (bfld w 14 8)) else
  if fld w 22 4 = 6 ∧ fld w 0 14 = 0 then some (.shfree (bfld w 14 8)) else
  if fld w 22 4 = 2 ∧ fld w 14 1 = 0 ∧ fld w 6 1 = 0 ∧ fld w 0 5 = 0 then some (.snap (bfld w 15 7) (bfld w 7 7) (bfld w 5 1)) else
  if fld w 22 4 = 1 ∧ fld w 14 1 = 0 ∧ fld w 6 1 = 0 ∧ fld w 1 4 = 0 then some (.hcopy (bfld w 15 7) (bfld w 7 7) (bfld w 5 1) (bfld w 0 1)) else
  if fld w 22 4 = 0 ∧ fld w 6 1 = 0 ∧ fld w 1 4 = 0 then some (.stream (bfld w 14 8) (bfld w 7 7) (bfld w 5 1) (bfld w 0 1)) else
  none

/-- The rows of major 0x3A (R78). -/
noncomputable def shape3A (w : Nat) : Option Instr :=
  if fld w 0 26 = 12582912 then some (.sync) else
  if fld w 3 23 = 2621440 then some (.barf (bfld w 0 3)) else
  if fld w 22 4 = 0 ∧ fld w 0 15 = 0 then some (.spawn (bfld w 15 7)) else
  if fld w 22 4 = 1 ∧ fld w 0 15 = 0 then some (.spawnn (bfld w 15 7)) else
  if fld w 22 4 = 4 ∧ fld w 0 15 = 0 then some (.launch (bfld w 15 7)) else
  if fld w 22 4 = 7 ∧ fld w 0 15 = 0 then some (.pedcmp (bfld w 15 7)) else
  if fld w 22 4 = 8 ∧ fld w 0 15 = 0 then some (.palloc (bfld w 15 7)) else
  if fld w 22 4 = 6 ∧ fld w 0 14 = 0 then some (.pedrd (bfld w 14 8)) else
  if fld w 22 4 = 10 ∧ fld w 0 14 = 0 then some (.oskip (bfld w 14 8)) else
  if fld w 22 4 = 11 ∧ fld w 0 14 = 0 then some (.prio (bfld w 14 8)) else
  if fld w 22 4 = 9 ∧ fld w 1 13 = 0 then some (.rview (bfld w 14 8) (bfld w 0 1)) else
  if fld w 22 4 = 2 ∧ fld w 14 1 = 0 ∧ fld w 0 7 = 0 then some (.spawna (bfld w 15 7) (bfld w 7 7)) else
  none

/-- The rows of major 0x3B (R78). -/
noncomputable def shape3B (w : Nat) : Option Instr :=
  if fld w 0 16 = 0 then some (.prand (bfld w 22 4) (bfld w 16 6)) else
  if fld w 0 16 = 1 then some (.prandf (bfld w 22 4) (bfld w 16 6)) else
  if fld w 0 4 = 2 then some (.rupd (bfld w 22 4) (bfld w 16 6) (bfld w 10 6) (bfld w 4 6)) else
  none

/-- The rows of major 0x3C (R78). -/
noncomputable def shape3C (w : Nat) : Option Instr :=
  if fld w 22 4 = 1 ∧ fld w 0 15 = 2 then some (.csrwSeed (bfld w 15 7)) else
  if fld w 22 4 = 2 ∧ fld w 0 15 = 0 then some (.clock (bfld w 15 7)) else
  if fld w 22 4 = 5 ∧ fld w 0 15 = 0 then some (.tlbinv (bfld w 15 7)) else
  if fld w 22 4 = 6 ∧ fld w 0 15 = 0 then some (.ctxsv (bfld w 15 7)) else
  if fld w 22 4 = 7 ∧ fld w 0 15 = 0 then some (.ctxld (bfld w 15 7)) else
  if fld w 22 4 = 1 ∧ fld w 0 14 = 0 then some (.csrwStat (bfld w 14 8)) else
  if fld w 22 4 = 1 ∧ fld w 0 14 = 16 then some (.csrwLxs (bfld w 14 8)) else
  if fld w 22 4 = 1 ∧ fld w 0 14 = 17 then some (.csrwLxp (bfld w 14 8)) else
  if fld w 22 4 = 1 ∧ fld w 0 14 = 18 then some (.csrwCpyshare (bfld w 14 8)) else
  if fld w 22 4 = 3 ∧ fld w 0 14 = 0 then some (.locq (bfld w 14 8)) else
  if fld w 22 4 = 1 ∧ fld w 3 11 = 258 then some (.csrwLxt (bfld w 14 8) (bfld w 0 3)) else
  if fld w 22 4 = 1 ∧ fld w 4 10 = 3 then some (.csrwPerfsel (bfld w 14 8) (bfld w 0 4)) else
  if fld w 22 4 = 4 ∧ fld w 4 10 = 0 then some (.perfrd (bfld w 14 8) (bfld w 0 4)) else
  if fld w 22 4 = 0 ∧ fld w 12 2 = 0 then some (.csrr (bfld w 14 8) (bfld w 0 12)) else
  if fld w 22 4 = 1 ∧ fld w 12 2 = 0 then some (.csrw (bfld w 14 8) (bfld w 0 12)) else
  none

/-- The rows of major 0x3F (R78). -/
noncomputable def shape3F (w : Nat) : Option Instr :=
  if fld w 4 22 = 524288 then some (.hgrd (bfld w 0 4)) else
  if fld w 6 20 = 262144 then some (.hseq (bfld w 0 6)) else
  if fld w 14 12 = 256 then some (.hmod (bfld w 13 1) (bfld w 12 1) (bfld w 11 1) (bfld w 8 3) (bfld w 6 2) (bfld w 4 2) (bfld w 3 1) (bfld w 0 3)) else
  if fld w 22 4 = 0 then some (.himm (bfld w 0 22)) else
  if fld w 22 4 = 3 then some (.htgt (bfld w 0 22)) else
  none

/-- The row of the opcode table that a word has the constant bits of (R78). -/
noncomputable def shape (w : Nat) : Option Instr :=
  match fld w 26 6 with
  | 0x01 => shape01 w
  | 0x02 => shape02 w
  | 0x03 => shape03 w
  | 0x04 => shape04 w
  | 0x05 => shape05 w
  | 0x06 => shape06 w
  | 0x07 => shape07 w
  | 0x08 => shape08 w
  | 0x09 => shape09 w
  | 0x0A => shape0A w
  | 0x0B => shape0B w
  | 0x0C => shape0C w
  | 0x0D => shape0D w
  | 0x0E => shape0E w
  | 0x0F => shape0F w
  | 0x10 => shape10 w
  | 0x11 => shape11 w
  | 0x12 => shape12 w
  | 0x13 => shape13 w
  | 0x14 => shape14 w
  | 0x15 => shape15 w
  | 0x16 => shape16 w
  | 0x17 => shape17 w
  | 0x18 => shape18 w
  | 0x19 => shape19 w
  | 0x1A => shape1A w
  | 0x1B => shape1B w
  | 0x1C => shape1C w
  | 0x1D => shape1D w
  | 0x1E => shape1E w
  | 0x1F => shape1F w
  | 0x20 => shape20 w
  | 0x21 => shape21 w
  | 0x22 => shape22 w
  | 0x23 => shape23 w
  | 0x24 => shape24 w
  | 0x25 => shape25 w
  | 0x26 => shape26 w
  | 0x27 => shape27 w
  | 0x28 => shape28 w
  | 0x29 => shape29 w
  | 0x2A => shape2A w
  | 0x2B => shape2B w
  | 0x2C => shape2C w
  | 0x2D => shape2D w
  | 0x2E => shape2E w
  | 0x2F => shape2F w
  | 0x30 => shape30 w
  | 0x31 => shape31 w
  | 0x32 => shape32 w
  | 0x33 => shape33 w
  | 0x34 => shape34 w
  | 0x35 => shape35 w
  | 0x36 => shape36 w
  | 0x37 => shape37 w
  | 0x38 => shape38 w
  | 0x39 => shape39 w
  | 0x3A => shape3A w
  | 0x3B => shape3B w
  | 0x3C => shape3C w
  | 0x3F => shape3F w
  | _ => none

/-- The instruction a word stands for, or none where R75 raises ILLEGAL. -/
noncomputable def decodeWord (w : Nat) : Option Instr := (shape w).filter Instr.wf

/-- The number that bytes hold, the first lowest (R2). -/
def bytesToNat : List Byte → Nat
  | [] => 0
  | b :: bs => b.toNat + 256 * bytesToNat bs

/-- The first word of a byte string and the bytes after it (R55). -/
noncomputable def decodeBytes (bs : List Byte) : Option (Instr × List Byte) :=
  if bs.length < 4 then none
  else (decodeWord (bytesToNat (bs.take 4))).map fun i => (i, bs.drop 4)

/-- The n bytes of a number, lowest first (R2). -/
def natToBytes : Nat → Nat → List Byte
  | 0, _ => []
  | n + 1, x => BitVec.ofNat 8 x :: natToBytes n (x / 256)

/-- The decoder's answer for a row's word: every row is one word of 32 bits, laid out little-endian (R55). The 46 event
rows have no word: nbits is 0 and nothing is decoded. -/
noncomputable def decodeTableWord (nbits w : Nat) : Option Instr :=
  if nbits = 0 then none else (decodeBytes (natToBytes 4 w)).map (·.1)

/-- The word of an instruction, from the same field tables; events have none. -/
def encode : Instr → Option Nat
  | .nop => some (67108864)
  | .exit => some (71303168)
  | .yield => some (75497472)
  | .waitb m => some (79691776 + m.toNat)
  | .bkpt c => some (83886080 + c.toNat)
  | .trap c => some (88080384 + c.toNat)
  | .tret a => some (92274688 + a.toNat)
  | .iadd g d a b => some (134217728 + g.toNat * 4194304 + d.toNat * 65536 + a.toNat * 1024 + b.toNat * 16)
  | .isub g d a b => some (134217729 + g.toNat * 4194304 + d.toNat * 65536 + a.toNat * 1024 + b.toNat * 16)
  | .imul g d a b => some (134217730 + g.toNat * 4194304 + d.toNat * 65536 + a.toNat * 1024 + b.toNat * 16)
  | .imulhS g d a b => some (134217731 + g.toNat * 4194304 + d.toNat * 65536 + a.toNat * 1024 + b.toNat * 16)
  | .imulhN g d a b => some (134217732 + g.toNat * 4194304 + d.toNat * 65536 + a.toNat * 1024 + b.toNat * 16)
  | .iand g d a b => some (134217733 + g.toNat * 4194304 + d.toNat * 65536 + a.toNat * 1024 + b.toNat * 16)
  | .ior g d a b => some (134217734 + g.toNat * 4194304 + d.toNat * 65536 + a.toNat * 1024 + b.toNat * 16)
  | .ixor g d a b => some (134217735 + g.toNat * 4194304 + d.toNat * 65536 + a.toNat * 1024 + b.toNat * 16)
  | .iandn g d a b => some (134217736 + g.toNat * 4194304 + d.toNat * 65536 + a.toNat * 1024 + b.toNat * 16)
  | .shl g d a b => some (134217737 + g.toNat * 4194304 + d.toNat * 65536 + a.toNat * 1024 + b.toNat * 16)
  | .shr g d a b => some (134217738 + g.toNat * 4194304 + d.toNat * 65536 + a.toNat * 1024 + b.toNat * 16)
  | .sha g d a b => some (134217739 + g.toNat * 4194304 + d.toNat * 65536 + a.toNat * 1024 + b.toNat * 16)
  | .iminS g d a b => some (134217740 + g.toNat * 4194304 + d.toNat * 65536 + a.toNat * 1024 + b.toNat * 16)
  | .iminN g d a b => some (134217741 + g.toNat * 4194304 + d.toNat * 65536 + a.toNat * 1024 + b.toNat * 16)
  | .imaxS g d a b => some (134217742 + g.toNat * 4194304 + d.toNat * 65536 + a.toNat * 1024 + b.toNat * 16)
  | .imaxN g d a b => some (134217743 + g.toNat * 4194304 + d.toNat * 65536 + a.toNat * 1024 + b.toNat * 16)
  | .iadd64 g d a b => some (201326592 + g.toNat * 4194304 + d.toNat * 131072 + a.toNat * 2048 + b.toNat * 32)
  | .isub64 g d a b => some (201326593 + g.toNat * 4194304 + d.toNat * 131072 + a.toNat * 2048 + b.toNat * 32)
  | .shl64 g d a b => some (201326594 + g.toNat * 4194304 + d.toNat * 131072 + a.toNat * 2048 + b.toNat * 16)
  | .shr64 g d a b => some (201326595 + g.toNat * 4194304 + d.toNat * 131072 + a.toNat * 2048 + b.toNat * 16)
  | .sha64 g d a b => some (201326596 + g.toNat * 4194304 + d.toNat * 131072 + a.toNat * 2048 + b.toNat * 16)
  | .iabs g d a => some (201326597 + g.toNat * 4194304 + d.toNat * 65536 + a.toNat * 1024)
  | .ineg g d a => some (201326598 + g.toNat * 4194304 + d.toNat * 65536 + a.toNat * 1024)
  | .popc g d a => some (201326599 + g.toNat * 4194304 + d.toNat * 65536 + a.toNat * 1024)
  | .clz g d a => some (201326600 + g.toNat * 4194304 + d.toNat * 65536 + a.toNat * 1024)
  | .brev g d a => some (201326601 + g.toNat * 4194304 + d.toNat * 65536 + a.toNat * 1024)
  | .bfxN g d a b => some (201326602 + g.toNat * 4194304 + d.toNat * 65536 + a.toNat * 1024 + b.toNat * 16)
  | .bfxS g d a b => some (201326603 + g.toNat * 4194304 + d.toNat * 65536 + a.toNat * 1024 + b.toNat * 16)
  | .prmt g d a b => some (201326604 + g.toNat * 4194304 + d.toNat * 65536 + a.toNat * 1024 + b.toNat * 16)
  | .isad g d a b => some (201326605 + g.toNat * 4194304 + d.toNat * 65536 + a.toNat * 1024 + b.toNat * 16)
  | .mov g d a => some (201326606 + g.toNat * 4194304 + d.toNat * 65536 + a.toNat * 1024)
  | .sel g d a b => some (201326607 + g.toNat * 4194304 + d.toNat * 65536 + a.toNat * 1024 + b.toNat * 16)
  | .iaddi g d a i => some (268435456 + g.toNat * 4194304 + d.toNat * 65536 + a.toNat * 1024 + i.toNat)
  | .iandi g d a i => some (335544320 + g.toNat * 4194304 + d.toNat * 65536 + a.toNat * 1024 + i.toNat)
  | .iori g d a i => some (402653184 + g.toNat * 4194304 + d.toNat * 65536 + a.toNat * 1024 + i.toNat)
  | .ixori g d a i => some (469762048 + g.toNat * 4194304 + d.toNat * 65536 + a.toNat * 1024 + i.toNat)
  | .ishiShl g d a i => some (536870912 + g.toNat * 4194304 + d.toNat * 65536 + a.toNat * 1024 + i.toNat)
  | .ishiShr g d a i => some (536871168 + g.toNat * 4194304 + d.toNat * 65536 + a.toNat * 1024 + i.toNat)
  | .ishiSha g d a i => some (536871424 + g.toNat * 4194304 + d.toNat * 65536 + a.toNat * 1024 + i.toNat)
  | .ishiRot g d a i => some (536871680 + g.toNat * 4194304 + d.toNat * 65536 + a.toNat * 1024 + i.toNat)
  | .imovi g d i => some (603979776 + g.toNat * 4194304 + d.toNat * 65536 + i.toNat)
  | .icmp c p q a b => some (671088640 + c.toNat * 4194304 + p.toNat * 524288 + q.toNat * 65536 + a.toNat * 1024 + b.toNat * 16)
  | .imad d a b c => some (738197504 + d.toNat * 1048576 + a.toNat * 16384 + b.toNat * 256 + c.toNat * 4)
  | .imadhS d a b c => some (738197505 + d.toNat * 1048576 + a.toNat * 16384 + b.toNat * 256 + c.toNat * 4)
  | .imadhN d a b c => some (738197506 + d.toNat * 1048576 + a.toNat * 16384 + b.toNat * 256 + c.toNat * 4)
  | .imadW d a b c => some (738197507 + d.toNat * 2097152 + a.toNat * 16384 + b.toNat * 256 + c.toNat * 8)
  | .bfi d a b c => some (805306368 + d.toNat * 1048576 + a.toNat * 16384 + b.toNat * 256 + c.toNat * 4)
  | .dp4S8 d a b c => some (805306369 + d.toNat * 1048576 + a.toNat * 16384 + b.toNat * 256 + c.toNat * 4)
  | .dp4N8 d a b c => some (805306370 + d.toNat * 1048576 + a.toNat * 16384 + b.toNat * 256 + c.toNat * 4)
  | .dp2S16 d a b c => some (805306371 + d.toNat * 1048576 + a.toNat * 16384 + b.toNat * 256 + c.toNat * 4)
  | .fadd g d a b => some (872415232 + g.toNat * 4194304 + d.toNat * 65536 + a.toNat * 1024 + b.toNat * 16)
  | .fsub g d a b => some (872415233 + g.toNat * 4194304 + d.toNat * 65536 + a.toNat * 1024 + b.toNat * 16)
  | .fmul g d a b => some (872415234 + g.toNat * 4194304 + d.toNat * 65536 + a.toNat * 1024 + b.toNat * 16)
  | .fdiv g d a b => some (872415235 + g.toNat * 4194304 + d.toNat * 65536 + a.toNat * 1024 + b.toNat * 16)
  | .fmin g d a b => some (872415236 + g.toNat * 4194304 + d.toNat * 65536 + a.toNat * 1024 + b.toNat * 16)
  | .fmax g d a b => some (872415237 + g.toNat * 4194304 + d.toNat * 65536 + a.toNat * 1024 + b.toNat * 16)
  | .fcsgn g d a b => some (872415238 + g.toNat * 4194304 + d.toNat * 65536 + a.toNat * 1024 + b.toNat * 16)
  | .fabd g d a b => some (872415239 + g.toNat * 4194304 + d.toNat * 65536 + a.toNat * 1024 + b.toNat * 16)
  | .hadd2 g d a b => some (939524096 + g.toNat * 4194304 + d.toNat * 65536 + a.toNat * 1024 + b.toNat * 16)
  | .hsub2 g d a b => some (939524097 + g.toNat * 4194304 + d.toNat * 65536 + a.toNat * 1024 + b.toNat * 16)
  | .hmul2 g d a b => some (939524098 + g.toNat * 4194304 + d.toNat * 65536 + a.toNat * 1024 + b.toNat * 16)
  | .hmin2 g d a b => some (939524099 + g.toNat * 4194304 + d.toNat * 65536 + a.toNat * 1024 + b.toNat * 16)
  | .hmax2 g d a b => some (939524100 + g.toNat * 4194304 + d.toNat * 65536 + a.toNat * 1024 + b.toNat * 16)
  | .badd2 g d a b => some (939524104 + g.toNat * 4194304 + d.toNat * 65536 + a.toNat * 1024 + b.toNat * 16)
  | .bsub2 g d a b => some (939524105 + g.toNat * 4194304 + d.toNat * 65536 + a.toNat * 1024 + b.toNat * 16)
  | .bmul2 g d a b => some (939524106 + g.toNat * 4194304 + d.toNat * 65536 + a.toNat * 1024 + b.toNat * 16)
  | .bmin2 g d a b => some (939524107 + g.toNat * 4194304 + d.toNat * 65536 + a.toNat * 1024 + b.toNat * 16)
  | .bmax2 g d a b => some (939524108 + g.toNat * 4194304 + d.toNat * 65536 + a.toNat * 1024 + b.toNat * 16)
  | .ffma d a b c => some (1006632960 + d.toNat * 1048576 + a.toNat * 16384 + b.toNat * 256 + c.toNat * 4)
  | .ffms d a b c => some (1006632961 + d.toNat * 1048576 + a.toNat * 16384 + b.toNat * 256 + c.toNat * 4)
  | .ffnma d a b c => some (1006632962 + d.toNat * 1048576 + a.toNat * 16384 + b.toNat * 256 + c.toNat * 4)
  | .ffnms d a b c => some (1006632963 + d.toNat * 1048576 + a.toNat * 16384 + b.toNat * 256 + c.toNat * 4)
  | .hfma2 d a b c => some (1073741824 + d.toNat * 1048576 + a.toNat * 16384 + b.toNat * 256 + c.toNat * 4)
  | .bfma2 d a b c => some (1073741825 + d.toNat * 1048576 + a.toNat * 16384 + b.toNat * 256 + c.toNat * 4)
  | .hfma2F32 d a b c => some (1073741826 + d.toNat * 1048576 + a.toNat * 16384 + b.toNat * 256 + c.toNat * 4)
  | .bfma2F32 d a b c => some (1073741827 + d.toNat * 1048576 + a.toNat * 16384 + b.toNat * 256 + c.toNat * 4)
  | .fcmp c p q a b => some (1140850688 + c.toNat * 4194304 + p.toNat * 524288 + q.toNat * 65536 + a.toNat * 1024 + b.toNat * 16)
  | .frcp g d a => some (1207959552 + g.toNat * 4194304 + d.toNat * 65536 + a.toNat * 1024)
  | .frsq g d a => some (1207959553 + g.toNat * 4194304 + d.toNat * 65536 + a.toNat * 1024)
  | .fsqrt g d a => some (1207959554 + g.toNat * 4194304 + d.toNat * 65536 + a.toNat * 1024)
  | .fex2 g d a => some (1207959555 + g.toNat * 4194304 + d.toNat * 65536 + a.toNat * 1024)
  | .flg2 g d a => some (1207959556 + g.toNat * 4194304 + d.toNat * 65536 + a.toNat * 1024)
  | .fsin g d a => some (1207959557 + g.toNat * 4194304 + d.toNat * 65536 + a.toNat * 1024)
  | .fcos g d a => some (1207959558 + g.toNat * 4194304 + d.toNat * 65536 + a.toNat * 1024)
  | .ftanh g d a => some (1207959559 + g.toNat * 4194304 + d.toNat * 65536 + a.toNat * 1024)
  | .frndRn g d a => some (1207959560 + g.toNat * 4194304 + d.toNat * 65536 + a.toNat * 1024)
  | .frndRz g d a => some (1207959561 + g.toNat * 4194304 + d.toNat * 65536 + a.toNat * 1024)
  | .frndRu g d a => some (1207959562 + g.toNat * 4194304 + d.toNat * 65536 + a.toNat * 1024)
  | .frndRd g d a => some (1207959563 + g.toNat * 4194304 + d.toNat * 65536 + a.toNat * 1024)
  | .fclass g d a => some (1207959564 + g.toNat * 4194304 + d.toNat * 65536 + a.toNat * 1024)
  | .fldexp g d a b => some (1207959565 + g.toNat * 4194304 + d.toNat * 65536 + a.toNat * 1024 + b.toNat * 16)
  | .ffrexpM g d a => some (1207959566 + g.toNat * 4194304 + d.toNat * 65536 + a.toNat * 1024)
  | .ffrexpE g d a => some (1207959567 + g.toNat * 4194304 + d.toNat * 65536 + a.toNat * 1024)
  | .cvt g d a b r => some (1275068416 + g.toNat * 4194304 + d.toNat * 65536 + a.toNat * 1024 + b.toNat * 16 + r.toNat)
  | .faddS g d a s => some (1342177280 + g.toNat * 4194304 + d.toNat * 65536 + a.toNat * 1024 + s.toNat * 4)
  | .fmulS g d a s => some (1342177281 + g.toNat * 4194304 + d.toNat * 65536 + a.toNat * 1024 + s.toNat * 4)
  | .fmaxS g d a s => some (1342177282 + g.toNat * 4194304 + d.toNat * 65536 + a.toNat * 1024 + s.toNat * 4)
  | .fminS g d a s => some (1342177283 + g.toNat * 4194304 + d.toNat * 65536 + a.toNat * 1024 + s.toNat * 4)
  | .iaddS g d a s => some (1409286144 + g.toNat * 4194304 + d.toNat * 65536 + a.toNat * 1024 + s.toNat * 4)
  | .imulS g d a s => some (1409286145 + g.toNat * 4194304 + d.toNat * 65536 + a.toNat * 1024 + s.toNat * 4)
  | .iandS g d a s => some (1409286146 + g.toNat * 4194304 + d.toNat * 65536 + a.toNat * 1024 + s.toNat * 4)
  | .movS g d s => some (1409286147 + g.toNat * 4194304 + d.toNat * 65536 + s.toNat * 4)
  | .pand d a b n m => some (1476395008 + d.toNat * 524288 + a.toNat * 65536 + b.toNat * 8192 + n.toNat * 4096 + m.toNat * 2048)
  | .por d a b n m => some (1480589312 + d.toNat * 524288 + a.toNat * 65536 + b.toNat * 8192 + n.toNat * 4096 + m.toNat * 2048)
  | .pxor d a b n m => some (1484783616 + d.toNat * 524288 + a.toNat * 65536 + b.toNat * 8192 + n.toNat * 4096 + m.toNat * 2048)
  | .pmov d a n => some (1488977920 + d.toNat * 524288 + a.toNat * 65536 + n.toNat * 4096)
  | .shfl m d a b => some (1543503872 + m.toNat * 4194304 + d.toNat * 65536 + a.toNat * 1024 + b.toNat * 16)
  | .shflx m d a i => some (1543503873 + m.toNat * 4194304 + d.toNat * 65536 + a.toNat * 1024 + i.toNat * 16)
  | .shflu m d a b => some (1543503874 + m.toNat * 4194304 + d.toNat * 65536 + a.toNat * 1024 + b.toNat * 16)
  | .shfld m d a b => some (1543503875 + m.toNat * 4194304 + d.toNat * 65536 + a.toNat * 1024 + b.toNat * 16)
  | .rdxIadd m d a => some (1543503876 + m.toNat * 4194304 + d.toNat * 65536 + a.toNat * 1024)
  | .rdxIminS m d a => some (1543503877 + m.toNat * 4194304 + d.toNat * 65536 + a.toNat * 1024)
  | .rdxImaxS m d a => some (1543503878 + m.toNat * 4194304 + d.toNat * 65536 + a.toNat * 1024)
  | .rdxFadd m d a => some (1543503879 + m.toNat * 4194304 + d.toNat * 65536 + a.toNat * 1024)
  | .rdxFmin m d a => some (1543503880 + m.toNat * 4194304 + d.toNat * 65536 + a.toNat * 1024)
  | .rdxFmax m d a => some (1543503881 + m.toNat * 4194304 + d.toNat * 65536 + a.toNat * 1024)
  | .scanIadd m d a => some (1543503882 + m.toNat * 4194304 + d.toNat * 65536 + a.toNat * 1024)
  | .scanIaddx m d a => some (1543503883 + m.toNat * 4194304 + d.toNat * 65536 + a.toNat * 1024)
  | .scanFadd m d a => some (1543503884 + m.toNat * 4194304 + d.toNat * 65536 + a.toNat * 1024)
  | .scanFaddx m d a => some (1543503885 + m.toNat * 4194304 + d.toNat * 65536 + a.toNat * 1024)
  | .xmatch m d a => some (1543503886 + m.toNat * 4194304 + d.toNat * 131072 + a.toNat * 1024)
  | .xshf m d a b => some (1543503887 + m.toNat * 4194304 + d.toNat * 65536 + a.toNat * 1024 + b.toNat * 16)
  | .voteAny m q a => some (1610612736 + m.toNat * 4194304 + q.toNat * 65536 + a.toNat * 1024)
  | .voteAll m q a => some (1610612737 + m.toNat * 4194304 + q.toNat * 65536 + a.toNat * 1024)
  | .voteEq m q a => some (1610612738 + m.toNat * 4194304 + q.toNat * 65536 + a.toNat * 1024)
  | .voteBal m d a => some (1610612739 + m.toNat * 4194304 + d.toNat * 65536 + a.toNat * 1024)
  | .bcast m d a => some (1610612740 + m.toNat * 4194304 + d.toNat * 65536 + a.toNat * 1024)
  | .rbal m d a b => some (1610612741 + m.toNat * 4194304 + d.toNat * 131072 + a.toNat * 1024 + b.toNat * 16)
  | .fidx d => some (1639972870 + d.toNat * 65536)
  | .sadd d a b => some (1677721600 + d.toNat * 65536 + a.toNat * 256 + b.toNat)
  | .ssub d a b => some (1694498816 + d.toNat * 65536 + a.toNat * 256 + b.toNat)
  | .smul d a b => some (1711276032 + d.toNat * 65536 + a.toNat * 256 + b.toNat)
  | .smulhN d a b => some (1728053248 + d.toNat * 65536 + a.toNat * 256 + b.toNat)
  | .sand d a b => some (1744830464 + d.toNat * 65536 + a.toNat * 256 + b.toNat)
  | .sor d a b => some (1761607680 + d.toNat * 65536 + a.toNat * 256 + b.toNat)
  | .sxor d a b => some (1778384896 + d.toNat * 65536 + a.toNat * 256 + b.toNat)
  | .sandn d a b => some (1795162112 + d.toNat * 65536 + a.toNat * 256 + b.toNat)
  | .sshl d a b => some (1811939328 + d.toNat * 65536 + a.toNat * 256 + b.toNat)
  | .sshr d a b => some (1828716544 + d.toNat * 65536 + a.toNat * 256 + b.toNat)
  | .ssha d a b => some (1845493760 + d.toNat * 65536 + a.toNat * 256 + b.toNat)
  | .srot d a b => some (1862270976 + d.toNat * 65536 + a.toNat * 256 + b.toNat)
  | .sminS d a b => some (1879048192 + d.toNat * 65536 + a.toNat * 256 + b.toNat)
  | .sminN d a b => some (1895825408 + d.toNat * 65536 + a.toNat * 256 + b.toNat)
  | .smaxS d a b => some (1912602624 + d.toNat * 65536 + a.toNat * 256 + b.toNat)
  | .smaxN d a b => some (1929379840 + d.toNat * 65536 + a.toNat * 256 + b.toNat)
  | .sadd64 d a b => some (1946157056 + d.toNat * 131072 + a.toNat * 512 + b.toNat * 2)
  | .ssub64 d a b => some (1962934272 + d.toNat * 131072 + a.toNat * 512 + b.toNat * 2)
  | .smov d a => some (1979711488 + d.toNat * 65536 + a.toNat * 256)
  | .ssel d a b => some (1996488704 + d.toNat * 65536 + a.toNat * 256 + b.toNat)
  | .scmp c p q a b => some (2013265920 + c.toNat * 4194304 + p.toNat * 524288 + q.toNat * 65536 + a.toNat * 256 + b.toNat)
  | .saddi d a i => some (2080374784 + d.toNat * 262144 + a.toNat * 1024 + i.toNat)
  | .smovi d i => some (2147483648 + d.toNat * 262144 + i.toNat)
  | .smovh d i => some (2214592512 + d.toNat * 262144 + i.toNat)
  | .mand d a b => some (2281701376 + d.toNat * 524288 + a.toNat * 65536 + b.toNat * 8192)
  | .mor d a b => some (2285895680 + d.toNat * 524288 + a.toNat * 65536 + b.toNat * 8192)
  | .mxor d a b => some (2290089984 + d.toNat * 524288 + a.toNat * 65536 + b.toNat * 8192)
  | .mandn d a b => some (2294284288 + d.toNat * 524288 + a.toNat * 65536 + b.toNat * 8192)
  | .mnot d a => some (2298478592 + d.toNat * 524288 + a.toNat * 65536)
  | .mpopc a s => some (2302672896 + a.toNat * 65536 + s.toNat * 32)
  | .mffs a s => some (2306867200 + a.toNat * 65536 + s.toNat * 32)
  | .mtos a s => some (2311061504 + a.toNat * 65536 + s.toNat * 64)
  | .stom d s => some (2315255808 + d.toNat * 524288 + s.toNat * 64)
  | .mq d a b => some (2319450112 + d.toNat * 524288 + a.toNat * 65536 + b.toNat * 8192)
  | .qand d a b => some (2323644416 + d.toNat * 524288 + a.toNat * 65536 + b.toNat * 8192)
  | .qor d a b => some (2327838720 + d.toNat * 524288 + a.toNat * 65536 + b.toNat * 8192)
  | .qnot d a => some (2332033024 + d.toNat * 524288 + a.toNat * 65536)
  | .bra g o => some (2348810240 + g.toNat * 4194304 + o.toNat)
  | .bru g o => some (2415919104 + g.toNat * 4194304 + o.toNat)
  | .brm n a b c d => some (2483027968 + n.toNat * 16777216 + a.toNat * 1048576 + b.toNat * 65536 + c.toNat * 4096 + d.toNat * 256)
  | .call g o => some (2550136832 + g.toNat * 4194304 + o.toNat)
  | .brx g a => some (2617245696 + g.toNat * 4194304 + a.toNat * 1024)
  | .ret g => some (2617245697 + g.toNat * 4194304)
  | .callx g a => some (2617245698 + g.toNat * 4194304 + a.toNat * 1024)
  | .winset g i => some (2684354560 + g.toNat * 4194304 + i.toNat * 32768)
  | .winadd g i => some (2685403136 + g.toNat * 4194304 + i.toNat * 32768)
  | .ld g d a p z => some (2751463424 + g.toNat * 4194304 + d.toNat * 65536 + a.toNat * 1024 + p.toNat * 8 + z.toNat)
  | .ldv g d a z => some (2818572288 + g.toNat * 4194304 + d.toNat * 65536 + a.toNat * 2048 + z.toNat)
  | .st g d a p z => some (2885681152 + g.toNat * 4194304 + d.toNat * 65536 + a.toNat * 1024 + p.toNat * 8 + z.toNat)
  | .stv g d a z => some (2952790016 + g.toNat * 4194304 + d.toNat * 65536 + a.toNat * 2048 + z.toNat)
  | .lds d p z o => some (3019898880 + d.toNat * 262144 + p.toNat * 2048 + z.toNat * 256 + o.toNat)
  | .sts d p z o => some (3087007744 + d.toNat * 262144 + p.toNat * 2048 + z.toNat * 256 + o.toNat)
  | .atomIadd d a p k => some (3154116608 + d.toNat * 65536 + a.toNat * 1024 + p.toNat * 8 + k.toNat)
  | .atomIminS d a p k => some (3158310912 + d.toNat * 65536 + a.toNat * 1024 + p.toNat * 8 + k.toNat)
  | .atomIminN d a p k => some (3162505216 + d.toNat * 65536 + a.toNat * 1024 + p.toNat * 8 + k.toNat)
  | .atomImaxS d a p k => some (3166699520 + d.toNat * 65536 + a.toNat * 1024 + p.toNat * 8 + k.toNat)
  | .atomImaxN d a p k => some (3170893824 + d.toNat * 65536 + a.toNat * 1024 + p.toNat * 8 + k.toNat)
  | .atomAnd d a p k => some (3175088128 + d.toNat * 65536 + a.toNat * 1024 + p.toNat * 8 + k.toNat)
  | .atomOr d a p k => some (3179282432 + d.toNat * 65536 + a.toNat * 1024 + p.toNat * 8 + k.toNat)
  | .atomXor d a p k => some (3183476736 + d.toNat * 65536 + a.toNat * 1024 + p.toNat * 8 + k.toNat)
  | .atomExch d a p k => some (3187671040 + d.toNat * 65536 + a.toNat * 1024 + p.toNat * 8 + k.toNat)
  | .atomCas d a p k => some (3191865344 + d.toNat * 131072 + a.toNat * 1024 + p.toNat * 8 + k.toNat)
  | .atomIadd64 d a p k => some (3196059648 + d.toNat * 131072 + a.toNat * 1024 + p.toNat * 8 + k.toNat)
  | .atomCas64 d a p k => some (3200253952 + d.toNat * 262144 + a.toNat * 1024 + p.toNat * 8 + k.toNat)
  | .atomFadd d a p k => some (3204448256 + d.toNat * 65536 + a.toNat * 1024 + p.toNat * 8 + k.toNat)
  | .atomFmin d a p k => some (3208642560 + d.toNat * 65536 + a.toNat * 1024 + p.toNat * 8 + k.toNat)
  | .atomFmax d a p k => some (3212836864 + d.toNat * 65536 + a.toNat * 1024 + p.toNat * 8 + k.toNat)
  | .atomOrd f d a p => some (3154116612 + f.toNat * 4194304 + d.toNat * 65536 + a.toNat * 1024 + p.toNat * 8)
  | .redIadd d a p k => some (3221225472 + d.toNat * 65536 + a.toNat * 1024 + p.toNat * 8 + k.toNat)
  | .redIminS d a p k => some (3225419776 + d.toNat * 65536 + a.toNat * 1024 + p.toNat * 8 + k.toNat)
  | .redIminN d a p k => some (3229614080 + d.toNat * 65536 + a.toNat * 1024 + p.toNat * 8 + k.toNat)
  | .redImaxS d a p k => some (3233808384 + d.toNat * 65536 + a.toNat * 1024 + p.toNat * 8 + k.toNat)
  | .redImaxN d a p k => some (3238002688 + d.toNat * 65536 + a.toNat * 1024 + p.toNat * 8 + k.toNat)
  | .redAnd d a p k => some (3242196992 + d.toNat * 65536 + a.toNat * 1024 + p.toNat * 8 + k.toNat)
  | .redOr d a p k => some (3246391296 + d.toNat * 65536 + a.toNat * 1024 + p.toNat * 8 + k.toNat)
  | .redXor d a p k => some (3250585600 + d.toNat * 65536 + a.toNat * 1024 + p.toNat * 8 + k.toNat)
  | .redExch d a p k => some (3254779904 + d.toNat * 65536 + a.toNat * 1024 + p.toNat * 8 + k.toNat)
  | .redCas d a p k => some (3258974208 + d.toNat * 131072 + a.toNat * 1024 + p.toNat * 8 + k.toNat)
  | .redIadd64 d a p k => some (3263168512 + d.toNat * 131072 + a.toNat * 1024 + p.toNat * 8 + k.toNat)
  | .redCas64 d a p k => some (3267362816 + d.toNat * 262144 + a.toNat * 1024 + p.toNat * 8 + k.toNat)
  | .redFadd d a p k => some (3271557120 + d.toNat * 65536 + a.toNat * 1024 + p.toNat * 8 + k.toNat)
  | .redFmin d a p k => some (3275751424 + d.toNat * 65536 + a.toNat * 1024 + p.toNat * 8 + k.toNat)
  | .redFmax d a p k => some (3279945728 + d.toNat * 65536 + a.toNat * 1024 + p.toNat * 8 + k.toNat)
  | .redOrd f d a p => some (3221225476 + f.toNat * 4194304 + d.toNat * 65536 + a.toNat * 1024 + p.toNat * 8)
  | .fenceRel k => some (3288334336 + k.toNat * 524288)
  | .fenceAcq k => some (3292528640 + k.toNat * 524288)
  | .fenceAr k => some (3296722944 + k.toNat * 524288)
  | .fenceSc k => some (3300917248 + k.toNat * 524288)
  | .fencePkg => some (3305111552)
  | .waita c s v z k => some (3355443200 + c.toNat * 4194304 + s.toNat * 32768 + v.toNat * 64 + z.toNat * 8 + k.toNat)
  | .ljoin d a p x => some (3422552064 + d.toNat * 65536 + a.toNat * 1024 + p.toNat * 8 + x.toNat)
  | .lstc d a p x => some (3426746368 + d.toNat * 65536 + a.toNat * 1024 + p.toNat * 8 + x.toNat)
  | .lld d a p => some (3430940672 + d.toNat * 65536 + a.toNat * 1024 + p.toNat * 8)
  | .lwait d a p x => some (3435134976 + d.toNat * 65536 + a.toNat * 1024 + p.toNat * 8 + x.toNat)
  | .lsync => some (3439329280)
  | .talloc s => some (3489660928 + s.toNat * 16384)
  | .tfree s => some (3493855232 + s.toNat * 16384)
  | .ttag s => some (3498049536 + s.toNat * 16384)
  | .twait s => some (3502243840 + s.toNat * 16384)
  | .tld s t e => some (3506438144 + s.toNat * 16384 + t.toNat * 128 + e.toNat * 32)
  | .tst s t e => some (3510632448 + s.toNat * 16384 + t.toNat * 128 + e.toNat * 32)
  | .tldt s t e => some (3514826752 + s.toNat * 16384 + t.toNat * 128 + e.toNat * 32)
  | .tcopy s t e x => some (3519021056 + s.toNat * 16384 + t.toNat * 128 + e.toNat * 32 + x.toNat)
  | .tfill s t e => some (3523215360 + s.toNat * 16384 + t.toNat * 128 + e.toNat * 32)
  | .tstc s t e => some (3527409664 + s.toNat * 16384 + t.toNat * 128 + e.toNat * 32)
  | .tldc s t e => some (3531603968 + s.toNat * 16384 + t.toNat * 128 + e.toNat * 32)
  | .tcvt s t e => some (3535798272 + s.toNat * 16384 + t.toNat * 128 + e.toNat * 32)
  | .trd d a s z => some (3556769792 + d.toNat * 262144 + a.toNat * 4096 + s.toNat * 16 + z.toNat)
  | .twr d a s z => some (3573547008 + d.toNat * 262144 + a.toNat * 4096 + s.toNat * 16 + z.toNat)
  | .trdt d a s z => some (3590324224 + d.toNat * 262144 + a.toNat * 4096 + s.toNat * 16 + z.toNat)
  | .tatom d a s o => some (3607101440 + d.toNat * 262144 + a.toNat * 4096 + s.toNat * 16 + o.toNat)
  | .oclaim s => some (3623878656 + s.toNat * 16384)
  | .orel s => some (3628072960 + s.toNat * 16384)
  | .ofill s t e => some (3632267264 + s.toNat * 16384 + t.toNat * 128 + e.toNat * 32)
  | .ofillS24 s t e => some (3636461568 + s.toNat * 16384 + t.toNat * 128 + e.toNat * 32)
  | .ofillG s t e => some (3640655872 + s.toNat * 16384 + t.toNat * 128 + e.toNat * 32)
  | .owait s => some (3644850176 + s.toNat * 16384)
  | .mma s t e => some (3690987520 + s.toNat * 16384 + t.toNat * 128 + e.toNat * 32)
  | .mmas s t e => some (3695181824 + s.toNat * 16384 + t.toNat * 128 + e.toNat * 32)
  | .mmat s t e => some (3699376128 + s.toNat * 16384 + t.toNat * 128 + e.toNat * 32)
  | .spmm s t e => some (3703570432 + s.toNat * 16384 + t.toNat * 128 + e.toNat * 32)
  | .pgen s t e v => some (3758096384 + s.toNat * 16384 + t.toNat * 128 + e.toNat * 32 + v.toNat * 2)
  | .pgenMat s t e => some (3758096385 + s.toNat * 16384 + t.toNat * 128 + e.toNat * 32)
  | .pmerge s t e k n => some (3762290688 + s.toNat * 16384 + t.toNat * 128 + e.toNat * 32 + k.toNat * 2 + n.toNat)
  | .pload s => some (3766484992 + s.toNat * 16384)
  | .pfree s => some (3770679296 + s.toNat * 16384)
  | .stream s t e m => some (3825205248 + s.toNat * 16384 + t.toNat * 128 + e.toNat * 32 + m.toNat)
  | .hcopy s t e b => some (3829399552 + s.toNat * 32768 + t.toNat * 128 + e.toNat * 32 + b.toNat)
  | .snap s t e => some (3833593856 + s.toNat * 32768 + t.toNat * 128 + e.toNat * 32)
  | .cwait s => some (3837788160 + s.toNat * 16384)
  | .evpop s n => some (3841982464 + s.toNat * 65536 + n.toNat)
  | .shdef s => some (3846176768 + s.toNat * 16384)
  | .shfree s => some (3850371072 + s.toNat * 16384)
  | .spawn s => some (3892314112 + s.toNat * 32768)
  | .spawnn s => some (3896508416 + s.toNat * 32768)
  | .spawna s t => some (3900702720 + s.toNat * 32768 + t.toNat * 128)
  | .sync => some (3904897024)
  | .launch s => some (3909091328 + s.toNat * 32768)
  | .barf d => some (3913285632 + d.toNat)
  | .pedrd s => some (3917479936 + s.toNat * 16384)
  | .pedcmp s => some (3921674240 + s.toNat * 32768)
  | .palloc s => some (3925868544 + s.toNat * 32768)
  | .rview s m => some (3930062848 + s.toNat * 16384 + m.toNat)
  | .oskip s => some (3934257152 + s.toNat * 16384)
  | .prio s => some (3938451456 + s.toNat * 16384)
  | .prand g d => some (3959422976 + g.toNat * 4194304 + d.toNat * 65536)
  | .prandf g d => some (3959422977 + g.toNat * 4194304 + d.toNat * 65536)
  | .rupd g d a b => some (3959422978 + g.toNat * 4194304 + d.toNat * 65536 + a.toNat * 1024 + b.toNat * 16)
  | .csrr s c => some (4026531840 + s.toNat * 16384 + c.toNat)
  | .csrw s c => some (4030726144 + s.toNat * 16384 + c.toNat)
  | .csrwStat s => some (4030726144 + s.toNat * 16384)
  | .csrwSeed s => some (4030726146 + s.toNat * 32768)
  | .csrwLxs s => some (4030726160 + s.toNat * 16384)
  | .csrwLxp s => some (4030726161 + s.toNat * 16384)
  | .csrwCpyshare s => some (4030726162 + s.toNat * 16384)
  | .csrwPerfsel s k => some (4030726192 + s.toNat * 16384 + k.toNat)
  | .csrwLxt s k => some (4030728208 + s.toNat * 16384 + k.toNat)
  | .clock s => some (4034920448 + s.toNat * 32768)
  | .locq s => some (4039114752 + s.toNat * 16384)
  | .perfrd s k => some (4043309056 + s.toNat * 16384 + k.toNat)
  | .tlbinv s => some (4047503360 + s.toNat * 32768)
  | .ctxsv s => some (4051697664 + s.toNat * 32768)
  | .ctxld s => some (4055891968 + s.toNat * 32768)
  | .himm h => some (4227858432 + h.toNat)
  | .hmod n t v k c o r m => some (4232052736 + n.toNat * 8192 + t.toNat * 4096 + v.toNat * 2048 + k.toNat * 256 + c.toNat * 64 + o.toNat * 16 + r.toNat * 8 + m.toNat)
  | .hgrd g => some (4236247040 + g.toNat)
  | .htgt h => some (4240441344 + h.toNat)
  | .hseq s => some (4244635648 + s.toNat)
  | .powerOnBoot _ _ => none
  | .contextCreate _ _ _ _ _ _ => none
  | .mgmtSetPowerCap _ => none
  | .mgmtReportStatus => none
  | .mgmtReplaceFrontProgram _ _ _ _ _ => none
  | .mgmtTrainPort _ _ _ => none
  | .mgmtFirmwareUpdate _ => none
  | .thermalThrottle _ _ => none
  | .thermalShutdown _ _ => none
  | .hostWrite _ _ _ _ => none
  | .hostRead _ _ _ => none
  | .errclr _ _ => none
  | .winEntryWrite _ _ _ _ => none
  | .latticeBroadcastWrite _ _ _ _ _ => none
  | .mmioRegisterWrite _ _ _ _ _ => none
  | .clolyFlitReceive _ _ _ _ => none
  | .clolyLinkDown _ _ => none
  | .remoteWindowAccess _ _ _ => none
  | .latticeExchangeRound => none
  | .feldsparJoinArrival => none
  | .lsyncComplete _ => none
  | .monitorReread _ _ => none
  | .waitPoll _ _ => none
  | .waitForWalk => none
  | .agingPromotion _ => none
  | .taskStart _ _ => none
  | .gangDrain _ => none
  | .syncComplete _ => none
  | .barfPhaseComplete _ => none
  | .launchStart _ => none
  | .teamPlacement _ => none
  | .launchComplete _ => none
  | .engineCommandStart _ => none
  | .engineCommandCompletion _ => none
  | .snapCut => none
  | .snapBlockCopy => none
  | .raceCheck _ _ _ _ => none
  | .filterSpill _ => none
  | .migrateService _ _ => none
  | .arenaZeroFill _ _ => none
  | .pageWalk _ _ _ => none
  | .viewSpill _ _ _ => none
  | .contextRestorePlacement _ => none
  | .illegalWord _ => none
  | .powerCapClockStep _ => none
  | .hostConfigurationRequest _ => none

end Sys2Proof
end

