-- ==== Sys2Proof/Machine/Control.lean ====
section
/-! DEFINITION. Branches, the window and CTRL (R150 to R165). TRET and EXIT's wait are here; their completion beside
SYNC is in Machine/Task.lean. -/
namespace Sys2Proof.Machine

/-- Adding a fibre to the group of its next PC (R91). -/
def addGroup (pc : DWord) (i : Nat) : List (DWord × Mask) → List (DWord × Mask)
  | [] => [(pc, maskOf i)]
  | e :: es => if e.1 = pc then (e.1, e.2 ||| maskOf i) :: es else e :: addGroup pc i es

/-- Running a branch over fibres: the new fibres, the groups by next PC, and the faults (R91, R155). -/
def runBranch (f : Nat → Fibre → Except FFault (Fibre × DWord)) (g0 : Gang) :
    List Nat → Gang → Gang × List (DWord × Mask) × List FFault
  | [], g => (g, [], [])
  | i :: is, g =>
    match f i (g0.fibre i) with
    | .ok (fb, pc) =>
      let r := runBranch f g0 is (g.setFibre i fb)
      (r.1, addGroup pc i r.2.1, r.2.2)
    | .error e =>
      let r := runBranch f g0 is g
      (r.1, r.2.1, e :: r.2.2)

/-- A branch word: every fibre of the batch goes to its own next PC. -/
def branch (s : State) (f : Cur → Gang → Nat → Fibre → Except FFault (Fibre × DWord)) : Out :=
  withCur s fun c g =>
    let r := runBranch (f c g) g (fibresOf g.width c.memb) g
    finishWith Cause.rank c 0 r.2.2 r.2.1 (s.modGang c.gid fun _ => r.1)

/-- The test of a target (R155): a byte offset from the text base. -/
def target (text : DWord) (size : Nat) (i : Nat) (pc : DWord) : Except FFault DWord :=
  let off := (pc - text).toNat
  if off % 4 ≠ 0 then .error { fix := i, cause := .align, addr := pc, info := 0 }
  else if off ≥ size then .error { fix := i, cause := .prot, addr := pc, info := 0 }
  else .ok pc

/-- A fibre check as a branch fault with no address. -/
def plain {α : Type} (i : Nat) : FRes α → Except FFault α
  | .ok x => .ok x
  | .error (cause, info) => .error { fix := i, cause := cause, addr := 0, info := info }

/-- The address that an OFF22 or HTGT field names, from the branch word (R62). -/
def offTarget (w : DWord) (o : BitVec 22) : DWord := w + o.signExtend 64 <<< 2

/-- The link value: the byte offset of the word after the branch (R154). -/
def linkOf (c : Cur) (text : DWord) : Word := loWord (c.word + 4 - text)

/-- BRA (R151). -/
def execBra (gd : BitVec 4) (o : BitVec 22) (s : State) : Out :=
  branch s fun c g i f =>
    if guardOf gd f then do
      let t ← target (s.textOf g) (s.textSz g) i (offTarget c.word o)
      return (f, t)
    else .ok (f, c.next)

/-- BRU (R152): one condition for the whole batch. -/
def execBru (gd : BitVec 4) (o : BitVec 22) (s : State) : Out :=
  branch s fun c g i f =>
    if g.qget (gd.toNat % 8) != bit gd 3 then do
      let t ← target (s.textOf g) (s.textSz g) i (offTarget c.word o)
      return (f, t)
    else .ok (f, c.next)

/-- The target of the lowest-numbered active pair whose predicate is true (R73). -/
def pickPair (f : Fibre) : List (BitVec 4 × BitVec 22) → Option (BitVec 22)
  | [] => none
  | p :: ps => if guardOf p.1 f then some p.2 else pickPair f ps

/-- BRM (R73, R153). -/
def execBrm (n : BitVec 2) (b0 b1 b2 b3 : BitVec 4) (s : State) : Out :=
  branch s fun c g i f =>
    match pickPair f (([b0, b1, b2, b3].take (n.toNat + 1)).zip c.tgts) with
    | some o => do
      let t ← target (s.textOf g) (s.textSz g) i (offTarget c.word o)
      return (f, t)
    | none => .ok (f, c.next)

/-- CALL (R154). -/
def execCall (gd : BitVec 4) (o : BitVec 22) (s : State) : Out :=
  branch s fun c g i f =>
    if guardOf gd f then do
      plain i (f.chkD 63 1)
      let t ← target (s.textOf g) (s.textSz g) i (offTarget c.word o)
      return (f.setV 63 (linkOf c (s.textOf g)), t)
    else .ok (f, c.next)

/-- BRX (R156): the target is a byte offset from the text base. -/
def execBrx (gd : BitVec 4) (a : BitVec 6) (s : State) : Out :=
  branch s fun c g i f =>
    if guardOf gd f then do
      plain i (f.chk a.toNat 1)
      let t ← target (s.textOf g) (s.textSz g) i (s.textOf g + (f.v a.toNat).setWidth 64)
      return (f, t)
    else .ok (f, c.next)

/-- RET (R156). -/
def execRet (gd : BitVec 4) (s : State) : Out :=
  branch s fun c g i f =>
    if guardOf gd f then do
      plain i (f.chk 63 1)
      let t ← target (s.textOf g) (s.textSz g) i (s.textOf g + (f.v 63).setWidth 64)
      return (f, t)
    else .ok (f, c.next)

/-- CALLX (R156): Va is read before V63 is written. -/
def execCallx (gd : BitVec 4) (a : BitVec 6) (s : State) : Out :=
  branch s fun c g i f =>
    if guardOf gd f then do
      plain i (f.chkD 63 1)
      plain i (f.chk a.toNat 1)
      let t ← target (s.textOf g) (s.textSz g) i (s.textOf g + (f.v a.toNat).setWidth 64)
      return (f.setV 63 (linkOf c (s.textOf g)), t)
    else .ok (f, c.next)

/-- Setting a window base (R86, R157): the result must lie in 0 to A - 8. -/
def winTo (f : Fibre) (n : Int) : FRes (Fibre × Flags) :=
  if 0 ≤ n ∧ n + 8 ≤ f.regs.length then .ok ({ f with wb := n.toNat }, 0) else .error (.regRange, 0)

/-- WINSET (R157). -/
def execWinset (gd : BitVec 4) (n : BitVec 5) (s : State) : Out :=
  vecGd s gd fun _ _ _ f => winTo f (8 * n.toNat)

/-- WINADD (R157). -/
def execWinadd (gd : BitVec 4) (n : BitVec 5) (s : State) : Out :=
  vecGd s gd fun _ _ _ f => winTo f (f.wb + 8 * n.toInt)

/-- NOP (R160). -/
def execNop (s : State) : Out := withCur s fun c _ => done c s

/-- YIELD (R160, R312): the gang becomes the one that has waited least, so no class prefers it as its last issuer. -/
def execYield (s : State) : Out :=
  withCur s fun c _ => done c { s with lastIn := s.lastIn.filter (·.2.2.2 != c.gid) }

/-- EXIT (R161): ILLEGAL in a trap batch; the last live fibres first perform a SYNC while the frame has children that no
SYNC has joined, drained or not, so that what the gang's views hold does not depend on when a child drained (R15, R47,
R296). -/
def execExit (s : State) : Out :=
  withCur s fun c g =>
    if g.inTrap c.memb then trapIllegal c g 0x04400000 s
    else if g.live &&& ~~~c.memb = 0 ∧ (g.outstanding ≠ 0 ∨ g.finals.isEmpty = false) then waitFor c 3 [1] s
    else deliver c g s (fun _ => true) (.next ((s.endFibres c.gid c.memb).settle c.gid))

/-- WAITB (R162), a delivery point of held engine faults (R258). -/
def execWaitb (m : BitVec 3) (s : State) : Out :=
  withCur s fun c g => deliver c g s (fun _ => true) (waitFor c 1 [m.setWidth 64] s)

/-- BKPT (R164). -/
def execBkpt (n : BitVec 16) (s : State) : Out := withCur s fun c g => trapBatch c g .bkpt 0 n.toNat s

/-- TRAP (R164). -/
def execTrap (n : BitVec 16) (s : State) : Out := withCur s fun c g => trapBatch c g .software 0 n.toNat s

end Sys2Proof.Machine
end

