-- ==== Sys2Proof/Machine/Unit.lean ====
section
/-! DEFINITION. Fetching and judging an instruction unit (R67 to R77, R155, R188), the issue bookkeeping of a gang
(R92, R93, R312 to R314), and the meanings of the hint words and of a broken unit. -/
namespace Sys2Proof.Machine

/-! ## Fetch -/

/-- A fault of a fetch: the cause, the address and the high bits of TINFO. -/
structure FetchFault where
  cause : Cause
  addr : DWord
  info : Nat
  deriving DecidableEq, Repr

/-- The lines of a core's 128 KiB instruction cache (R188): 1,024 at most, the oldest leaving first. -/
def keepLine (core : Nat) (ls : List ILine) : List ILine :=
  if (ls.filter (·.core == core)).length ≤ 1024 then ls
  else (ls.filter (·.core == core)).take 1024 ++ ls.filter (·.core != core)

/-- A 128-byte line as a core's instruction cache gives it, filled from home on a miss (R188). -/
def State.iline (s : State) (core line : Nat) : ILine × State :=
  match s.icache.find? fun l => l.core == core && l.line == line with
  | some l => (l, s)
  | none =>
    let l : ILine := { core := core, line := line, data := s.homeRd (128 * line) 128,
                       bad := (List.range 8).any fun k => (s.poisonAt (8 * line + k)).isSome }
    (l, { s with icache := keepLine core (l :: s.icache) })

/-- Fetching one word of a gang's text (R155, R188): a host-owned page is migrated on the way. -/
def State.fetchWord (s : State) (c : Cur) (g : Gang) (pc : DWord) : Except FetchFault Word × State :=
  if (pc - s.textOf g).toNat ≥ s.textSz g then (.error { cause := .prot, addr := pc, info := 0 }, s)
  else
    let go : State → Except FetchFault Word × State := fun s =>
      match s.checkVa (agentOf s c g) pc false (fun _ => true) with
      | (.error e, s) => (.error { cause := e, addr := pc, info := 0 }, s)
      | (.ok t, s) =>
        if !isHbm t.pa then (.ok (BitVec.ofNat 32 (numOf (s.ioRd t.pa 4))), s)
        else
          let r := s.iline g.core (t.pa / 128)
          if r.1.bad then (.error { cause := .eccUncorr, addr := pc, info := eccInfo 7 }, r.2)
          else (.ok (BitVec.ofNat 32 (numOf ((r.1.data.drop (t.pa % 128)).take 4))), r.2)
    match go s with
    | (.error e, s) => if e.cause = .migrate then go (s.migrateBy g.core g.ctx pc.toNat) else (.error e, s)
    | r => r

/-- The words of a unit: hints before the main word, and the words that follow a BRM. -/
structure UnitWords where
  hints : List Word
  main : Word
  tgts : List Word
  /-- Address of the main word. -/
  at_ : DWord
  /-- Address after the unit. -/
  next : DWord
  deriving DecidableEq, Repr

/-- A field of a word. -/
def wf_ (w : Word) (lo len : Nat) : Nat := w.toNat / 2 ^ lo % 2 ^ len
/-- The major of a word. -/
def major (w : Word) : Nat := wf_ w 26 6
/-- A hint word other than HTGT. -/
def isHint (w : Word) : Bool := major w == 0x3F && wf_ w 22 4 != 3
/-- An HTGT word. -/
def isTgt (w : Word) : Bool := major w == 0x3F && wf_ w 22 4 == 3

/-- Fetching n words. -/
def State.fetchWords (s : State) (c : Cur) (g : Gang) (pc : DWord) : Nat → Except FetchFault (List Word) × State
  | 0 => (.ok [], s)
  | n + 1 =>
    match s.fetchWord c g pc with
    | (.error e, s) => (.error e, s)
    | (.ok w, s) =>
      match s.fetchWords c g (pc + 4) n with
      | (.error e, s) => (.error e, s)
      | (.ok ws, s) => (.ok (w :: ws), s)

/-- Fetching a unit: hints up to n, the main word, and the target words of a BRM (R67). -/
def State.fetchUnit (s : State) (c : Cur) (g : Gang) (hints : List Word) (pc : DWord) :
    Nat → Except FetchFault UnitWords × State
  | 0 =>
    match s.fetchWord c g pc with
    | (.error e, s) => (.error e, s)
    | (.ok w, s) => (.ok { hints := hints, main := w, tgts := [], at_ := pc, next := pc + 4 }, s)
  | n + 1 =>
    match s.fetchWord c g pc with
    | (.error e, s) => (.error e, s)
    | (.ok w, s) =>
      if isHint w then s.fetchUnit c g (hints ++ [w]) (pc + 4) n
      else
        let k := if major w = 0x25 then wf_ w 24 2 + 1 else 0
        match s.fetchWords c g (pc + 4) k with
        | (.error e, s) => (.error e, s)
        | (.ok ts, s) => (.ok { hints := hints, main := w, tgts := ts, at_ := pc, next := pc + 4 + BitVec.ofNat 64 (4 * k) }, s)

/-- The unit of a batch, before its words are known. -/
def Cur.start (gid : Nat) (b : Batch) : Cur :=
  { gid := gid, base := b.pc, word := b.pc, next := b.pc + 4, main := 0, memb := b.memb, himm := none, hmod := none,
    hgrd := none, hseq := none, tgts := [], reads := [], raced := false }

/-! ## Judging a unit (R67 to R73) -/

/-- Majors and codes before which no hint may stand (R150, R159, R166, R243, R286, R392), and words that are no
instruction. -/
def noHint (m : Word) : Bool :=
  let o := major m
  let fn := wf_ m 22 4
  o == 0 || o ≥ 0x3D || o == 0x01 || o == 0x17 || o == 0x18 || (0x23 ≤ o && o ≤ 0x27) || o == 0x33 ||
  (o == 0x3A && (fn ≤ 1 || (3 ≤ fn && fn ≤ 5) || fn == 11)) || (o == 0x39 && fn == 4) ||
  (o == 0x3B && wf_ m 0 4 ≤ 1)

/-- SPAWNA, which accepts HMOD SCOPE only (R286). -/
def isSpawna (m : Word) : Bool := major m == 0x3A && wf_ m 22 4 == 2

/-- HIMM's targets (R68, R69): formats VI, SI, VR, V4, SR, SC, CP, MM and SM whose B is a register. -/
def himmTarget (m : Word) : Bool :=
  let o := major m
  let fn := wf_ m 0 4
  !noHint m &&
  ((0x04 ≤ o && o ≤ 0x07) || o == 0x09 || o == 0x02 || (o == 0x03 && !((5 ≤ fn && fn ≤ 9) || fn == 14)) ||
   (0x0A ≤ o && o ≤ 0x11) || (o == 0x12 && fn == 13) || (o == 0x3B && fn ≥ 2) ||
   (0x19 ≤ o && o ≤ 0x1C) || (o == 0x1D && wf_ m 24 2 != 2) || o == 0x1E || o == 0x1F || (0x29 ≤ o && o ≤ 0x2E))

/-- HGRD's targets: formats CP, V4, AM and TR (R68). -/
def hgrdTarget (m : Word) : Bool :=
  let o := major m
  (0x0A ≤ o && o ≤ 0x0C) || (0x0F ≤ o && o ≤ 0x11) || o == 0x2F || o == 0x30 || o == 0x35

/-- HSEQ's targets: AM words with SC = 4 (R68). -/
def hseqTarget (m : Word) : Bool := (major m == 0x2F || major m == 0x30) && wf_ m 0 3 == 4

/-- Asynchronous ENG commands (R71, R252). -/
def asyncCmd (m : Word) : Bool :=
  let o := major m
  let fn := wf_ m 22 4
  (o == 0x34 && 4 ≤ fn && fn ≤ 11) || (o == 0x36 && 2 ≤ fn && fn ≤ 4) || (o == 0x37 && fn ≤ 3) ||
  (o == 0x38 && fn ≤ 1) || (o == 0x39 && fn ≤ 2)

/-- Whether a target accepts every non-zero field of an HMOD value (R71, R233). -/
def hmodTarget (m : Word) (h : Nat) : Bool :=
  let o := major m
  let fn := wf_ m 22 4
  let vr := wf_ m 0 4
  let f := fun lo len => h / 2 ^ lo % 2 ^ len
  !noHint m &&
  (f 3 1 == 0 || (o == 0x0D && (vr ≤ 3 || vr == 7)) || o == 0x0E || o == 0x0F || o == 0x10 ||
    (o == 0x14 && wf_ m 0 2 ≤ 1) || (o == 0x12 && vr == 2)) &&
  (f 6 2 == 0 || (0x29 ≤ o && o ≤ 0x30) || (o == 0x34 && (fn == 4 || fn == 5 || fn == 6 || fn == 9 || fn == 10))) &&
  (f 4 2 == 0 || o == 0x2F || ((o == 0x29 || o == 0x2A || o == 0x2D) && f 4 2 == 1) ||
    ((o == 0x2B || o == 0x2C || o == 0x2E) && f 4 2 == 2)) &&
  (f 11 1 == 0 || (0x29 ≤ o && o ≤ 0x2F) || asyncCmd m || (o == 0x39 && fn == 3) || isSpawna m) &&
  (f 13 1 == 0 || (o == 0x34 && (fn == 5 || fn == 7 || fn == 9 || fn == 11)) || (o == 0x36 && 2 ≤ fn && fn ≤ 4) ||
    (o == 0x37 && fn ≤ 3) || (o == 0x39 && fn == 0)) &&
  (f 12 1 == 0 || (o == 0x38 && fn == 0) || (o == 0x37 && fn == 3) || (o == 0x36 && fn == 4)) &&
  !(o == 0x2F && f 11 1 == 1 && wf_ m 0 3 ≤ 3 && f 8 3 != wf_ m 0 3)

/-- Whether a hint's kind and value are allowed (R68, R70, R72). -/
def hintValue (w : Word) : Bool :=
  let h := wf_ w 0 22
  match wf_ w 22 4 with
  | 0 => true
  | 1 =>
    h / 2 ^ 14 == 0 && (h / 2 ^ 11 % 2 == 1 || h / 2 ^ 8 % 8 == 0) && h / 2 ^ 8 % 8 ≤ 4 &&
    (h / 8 % 2 == 1 || h % 8 == 0) && h % 8 ≤ 5
  | 2 => h < 15
  | 4 => h < 64
  | _ => false

/-- Whether a main word is an allowed target of a hint (R68 to R72). -/
def hintTarget (w m : Word) : Bool :=
  !noHint m &&
  match wf_ w 22 4 with
  | 0 => himmTarget m
  | 1 => hmodTarget m (wf_ w 0 22)
  | 2 => hgrdTarget m
  | 4 => hseqTarget m
  | _ => false

/-- The length of a unit's run of hints is bounded by its text. -/
def State.hintLimit (s : State) (g : Gang) : Nat := s.textSz g / 4 + 1

/-- The address after the unit at an address; after its first word where it cannot be fetched. -/
def State.unitEnd (s : State) (g : Gang) (pc : DWord) : DWord :=
  let b : Batch := { memb := 0, pc := pc, st := .ready, passed := 0, cap := [], next := 0, polled := false }
  match (s.fetchUnit (Cur.start g.gid b) g [] pc (s.hintLimit g)).1 with
  | .ok u => u.next
  | .error _ => pc + 4

/-- The first hint of a unit that breaks a rule (R67). -/
def badHint (m : Word) (seen : List Nat) : List Word → Option Word
  | [] => none
  | w :: ws =>
    if seen.contains (wf_ w 22 4) || seen.length ≥ 3 || !hintValue w || !hintTarget w m then some w
    else badHint m (seen ++ [wf_ w 22 4]) ws

/-- The value of a kind of hint in a unit. -/
def hintOf (k : Nat) (hs : List Word) : Option Nat :=
  (hs.find? fun w => wf_ w 22 4 == k).map fun w => wf_ w 0 22

/-- What a main word must satisfy with its hints: a zero B, A or OFF8 under HIMM (R69), HSEQ before SC = 4 (R64), no
.T with MAT on PGEN (R346). -/
def mainFits (m : Word) (hs : List Word) : Bool :=
  let o := major m
  let himm := (hintOf 0 hs).isSome
  let vr := o == 0x02 || o == 0x03 || o == 0x0D || o == 0x0E || o == 0x12 || o == 0x3B
  let v4 := o == 0x0B || o == 0x0C || o == 0x0F || o == 0x10
  let cp := o == 0x0A || o == 0x11
  let sr := 0x19 ≤ o && o ≤ 0x1E
  let zero :=
    if vr || cp then wf_ m 4 6 == 0
    else if v4 then wf_ m 8 6 == 0
    else if sr then wf_ m 0 8 == 0
    else if o == 0x09 then wf_ m 10 6 == 0
    else if o == 0x2D || o == 0x2E then wf_ m 0 8 == 0
    else true
  (!himm || zero) &&
  (!((o == 0x2F || o == 0x30) && wf_ m 0 3 == 4) || (hintOf 4 hs).isSome) &&
  !(o == 0x38 && wf_ m 22 4 == 0 && wf_ m 0 1 == 1 && (match hintOf 1 hs with | some h => h / 2 ^ 12 % 2 == 1 | none => false))

/-- The word of a unit that TINFO names when the unit breaks a rule (R67, R75, R76). -/
noncomputable def unitBad (u : UnitWords) : Option Word :=
  match badHint u.main [] u.hints with
  | some w => some w
  | none =>
    if (decodeWord u.main.toNat).isNone || isTgt u.main || !mainFits u.main u.hints then some u.main
    else u.tgts.find? fun t => !isTgt t

/-! ## The words of the hint major, and a broken unit -/

/-- HIMM: latched for the main word of its unit (R68, R69). -/
def execHimm (h : BitVec 22) (s : State) : Out := .next { s with cur := s.cur.map fun c => { c with himm := some h } }
/-- HMOD: latched for the main word of its unit (R70). -/
def execHmod (n t v : BitVec 1) (k : BitVec 3) (cc o : BitVec 2) (r : BitVec 1) (m : BitVec 3) (s : State) : Out :=
  .next { s with cur := s.cur.map fun c => { c with hmod := some ((0 : BitVec 8) ++ n ++ t ++ v ++ k ++ cc ++ o ++ r ++ m) } }
/-- HGRD: latched for the main word of its unit (R72). -/
def execHgrd (g : BitVec 4) (s : State) : Out := .next { s with cur := s.cur.map fun c => { c with hgrd := some g } }
/-- HTGT: latched for the BRM of its unit (R73). -/
def execHtgt (h : BitVec 22) (s : State) : Out := .next { s with cur := s.cur.map fun c => { c with tgts := c.tgts ++ [h] } }
/-- HSEQ: latched for the main word of its unit (R68). -/
def execHseq (q : BitVec 6) (s : State) : Out := .next { s with cur := s.cur.map fun c => { c with hseq := some q } }
/-- A supervisor instruction (R76): SYS codes 5 to 7, and CSRR or CSRW of a CSR numbered 0x800 or above. -/
def supWord (w : Word) : Bool :=
  major w == 0x3C && ((5 ≤ wf_ w 22 4 && wf_ w 22 4 ≤ 7) || (wf_ w 22 4 ≤ 1 && wf_ w 0 12 ≥ 0x800))

/-- A word, or unit, that is no instruction (R75, R76): ILLEGAL over the batch, with the word in TINFO; PROT where it is a
supervisor instruction issued outside supervisor state. -/
def execIllegalWord (w : Word) (s : State) : Out :=
  withCur s fun c g =>
    if supWord w && !s.sup g then trapBatch c g .prot 0 w.toNat s else trapIllegal c g w s

/-- The trap of a failed fetch: in every fibre of the batch (R155, R188). -/
def fetchTrap (s : State) (c : Cur) (e : FetchFault) : Out :=
  match s.gang? c.gid with
  | none => .fault .noBatch
  | some g => trapBatch c g e.cause e.addr (lowFix g.width c.memb + e.info) s

/-! ## Issue bookkeeping -/

/-- The issue class of a main word (R78): 0 V, 1 M, 2 U. The opcode map gives TRW (0x35) class M and its home chapter, which
describes the instruction in full, class V (R273): the two conflict, and the model follows the home chapter (log 74). -/
def issueClass (m : Word) : Nat :=
  let o := major m
  if (0x02 ≤ o && o ≤ 0x18) || o == 0x35 || (o == 0x3B && wf_ m 0 4 ≤ 1) then 0
  else if (0x29 ≤ o && o ≤ 0x3B) then 1
  else 2

/-- The 64-byte block of an address (R93). -/
def blockOf (pc : DWord) : DWord := pc &&& ~~~63

/-- Replacing the gang of a class's last issue (R312). -/
def State.setLastIn (s : State) (core part cls gid : Nat) : State :=
  { s with lastIn := (core, part, cls, gid) ::
             s.lastIn.filter fun e => !(e.1 == core && e.2.1 == part && e.2.2.1 == cls) }

/-- What an issue changes before the unit acts: the buffer, the passed-over counts, the stamps, the aging and the
event counters (R93, R312, R313, R395). Where the spec is silent (log 75): only batches that could have issued count as
passed over, an entry that merges keeps its own count, and after a unit that straddles two blocks the buffer holds the
block of the main word. -/
def State.onIssue (s : State) (c : Cur) (g : Gang) (pc : DWord) (m : Word) : State :=
  let cls := issueClass m
  let beats := if cls < 2 then ((fibresOf g.width c.memb).length + 31) / 32 else 0
  let s := (({ s with stamp := s.stamp + 1 } : State).setLastIn g.core g.part cls g.gid)
  let s := (s.bump g.core (2 + cls) 1).bump g.core 5 beats
  s.modGang g.gid fun g =>
    { g with ibuf := some (blockOf c.word),
             batches := g.batches.map fun b =>
               if b.memb == c.memb then { b with passed := 0 }
               else if b.st == .ready || (b.st == .trapped && g.inTrap b.memb) then { b with passed := b.passed + 1 }
               else b,
             sched := { g.sched with last := s.stamp, since := s.clock, raised := 0, lastPc := some pc } }

/-- The registers of a gang that instructions write, for the test of R314. -/
def Gang.regsOf (g : Gang) : List Word × List Fibre × BitVec 7 × List Mask := (g.sregs, g.fibres, g.q, g.m)

/-- What an issue changes after the unit has acted: the unit history, and demotion at a backward branch to a unit of
the last 64 with no changed register since (R314). pc is the unit; before is the gang before it. -/
def State.afterIssue (s : State) (before : Gang) (pc : DWord) (reads : List Nat) : State :=
  match s.gang? before.gid with
  | none => s
  | some g =>
    let changed := g.regsOf != before.regsOf
    let hist := ((pc, changed) :: g.sched.hist).take 64
    let back := g.batches.find? fun b => b.pc.toNat ≤ pc.toNat && b.st == .ready &&
      !(before.batches.any fun a => a.pc == b.pc && a.st == .ready && a.memb == b.memb)
    let spin := match back with
      | none => false
      | some b =>
        let since := hist.takeWhile fun e => e.1 != b.pc
        hist.any (fun e => e.1 == b.pc) && !(since.any (·.2)) &&
          !((hist.find? fun e => e.1 == b.pc).any (·.2))
    let now := spin && !g.sched.demoted
    let s := if now then s.bump g.core 13 1 else s
    s.modGang g.gid fun g =>
      { g with sched := { g.sched with hist := hist, demoted := g.sched.demoted || spin,
                                       reads := if now then reads else if g.sched.demoted then (reads ++ g.sched.reads).eraseDups else [] } }

/-- The return from demotion (R314): a store reached a sector read since the branch, a batch left a wait, or a trap was
taken. -/
def State.promote (before s : State) : State :=
  { s with gangs := s.gangs.map fun g =>
      if g.sched.demoted then
        let stored := g.sched.reads.any (s.wrote.contains ·)
        let woke := match before.gang? g.gid with
          | some b => b.batches.any fun a =>
              (match a.st with | .waiting _ => true | _ => false) &&
              !(g.batches.any fun x => x.st == a.st && x.memb == a.memb)
          | none => false
        if stored || woke || g.trap.isSome then { g with sched := { g.sched with demoted := false, reads := [] } } else g
      else g }

end Sys2Proof.Machine
end

