-- ==== Sys2Proof/Machine/Engine.lean ====
section
/-! DEFINITION. Engine commands (R251 to R260): parameter checks, acceptance, what an engine reads and writes, starting,
completing and holding a command; tiles and slots by handle; shape records (R261 to R263). -/
namespace Sys2Proof.Machine

/-! ## Tiles, slots and shapes by handle -/

/-- The team that a gang's TEAMID names (R255, R310). -/
def State.teamOf (s : State) (g : Gang) : Option Team := s.teams.find? fun t => t.lkey == g.lkey && t.teamId == g.teamId
/-- A LIVE tile of a team. -/
def State.tile? (s : State) (k : Option Nat) (h : Nat) : Option Tile :=
  match k with
  | none => none
  | some k =>
    match s.team? k with
    | none => none
    | some t => t.tiles.find? (·.hnd == h)
/-- Changing a tile. -/
def State.modTile (s : State) (k : Option Nat) (h : Nat) (f : Tile → Tile) : State :=
  match k with
  | none => s
  | some k => s.modTeam k fun t => { t with tiles := t.tiles.map fun x => if x.hnd == h then f x else x }
/-- A slot that a team holds on a core. -/
def State.slot? (s : State) (core : Nat) (k : Option Nat) (h : Nat) : Option Slot :=
  s.slots.find? fun x => x.core == core && some x.tkey == k && x.hnd == h
/-- Changing a slot. -/
def State.modSlot (s : State) (core : Nat) (k : Option Nat) (h : Nat) (f : Slot → Slot) : State :=
  { s with slots := s.slots.map fun x => if x.core == core && some x.tkey == k && x.hnd == h then f x else x }

/-- Width of a tile's elements. -/
def Tile.w (t : Tile) : Nat := elemBits t.fmt
/-- Element number e of a tile, its bits; one that nothing has written is what the last holder left (R264). -/
def Tile.get (t : Tile) (e : Nat) : Nat :=
  match t.data.find? (·.1 == e) with
  | some x => x.2.toNat
  | none => (Config.tileJunk t.serial e).toNat % 2 ^ t.w
/-- Writing an element's bits; poison in it is gone (R406). -/
def Tile.put (t : Tile) (e x : Nat) : Tile :=
  { t with data := (e, BitVec.ofNat 32 (x % 2 ^ t.w)) :: t.data.filter (·.1 != e), poison := t.poison.filter (· != e) }
/-- Granules of a shape (R189). -/
def granulesOf (rows cols w : Nat) : Nat := (rows * cols * w + 16383) / 16384
/-- Granules of a tile; level A takes none (R191). -/
def Tile.granules (t : Tile) : Nat := if t.lvl = 2 then 0 else granulesOf t.rows t.cols t.w
/-- The store that ECC_UNCORR names for a tile (R406). -/
def Tile.store (t : Tile) : Nat := if t.lvl = 2 then 5 else 4

/-- Element k of row or column i of a slot (R193). -/
def slotElem (d : List Byte) (w i k : Nat) : Nat :=
  (numOf ((d.drop (96 * i + k * w / 8)).take ((w + 7) / 8))) / 2 ^ (k * w % 8) % 2 ^ w
/-- A row or column of 96 bytes from its elements (R193). -/
def slotRow (w : Nat) (el : Nat → Nat) : List Byte :=
  bytesOf 96 ((List.range (768 / w)).foldl (fun n k => n + el k % 2 ^ w * 2 ^ (w * k)) 0)

/-- A shape record (R261). -/
structure Shape where
  base : DWord
  ext : List Nat
  /-- STR1 to STR3; with COMP the offset-table base first. -/
  str : List DWord
  fmt : Nat
  ndim : Nat
  comp : Bool
  cap : Nat
  box0 : Nat
  box1 : Nat
  pad : Nat
  deriving DecidableEq, Repr

/-- Reading a shape record. -/
def shapeOf (bs : List Byte) : Shape :=
  let n := numOf bs
  let f := fun lo len => n / 2 ^ lo % 2 ^ len
  { base := BitVec.ofNat 64 n, ext := [f 64 32, f 96 32, f 128 32, f 160 32],
    str := [BitVec.ofNat 64 (f 192 64), BitVec.ofNat 64 (f 256 64), BitVec.ofNat 64 (f 320 64)],
    fmt := f 384 4, ndim := f 388 2, comp := f 390 1 == 1, cap := f 256 32, box0 := f 392 8 + 1, box1 := f 400 8 + 1,
    pad := f 416 32 }

/-- The byte offset of the first field that makes a record not well formed (R261, R262). -/
def shapeBad (bs : List Byte) : Option Nat :=
  let r := shapeOf bs
  let n := numOf bs
  let f := fun lo len => n / 2 ^ lo % 2 ^ len
  let w := elemBits r.fmt
  let al := if !r.comp && w ≥ 8 then w / 8 else 1
  let e := fun k => r.ext.getD k 0
  let st := fun k => (r.str.getD k 0).toNat
  let checks : List (Nat × Bool) :=
    [(0, r.base.toNat ≥ 2 ^ 57 || r.base.toNat % (if r.comp then 16 else al) != 0)] ++
    ((List.range 4).map fun k => (8 + 4 * k, e k == 0 || (k > r.ndim && e k != 1))) ++
    (if r.comp then [(24, st 0 % 16 != 0), (32, r.cap % 16 != 0), (36, f 288 32 != 0), (40, st 2 != 0)]
     else [(24, r.ndim ≥ 1 && st 0 % al != 0), (32, r.ndim ≥ 2 && st 1 % al != 0), (40, r.ndim ≥ 3 && st 2 % al != 0)]) ++
    [(48, r.fmt > 13 || f 391 1 != 0), (51, f 408 8 != 0), (56, f 448 64 != 0)]
  (checks.find? (·.2)).map (·.1)

/-- The address of element (i0, i1, i2, i3) of an uncompressed tensor (R261). -/
def Shape.addr (r : Shape) (i0 i1 i2 i3 : Nat) : DWord :=
  r.base + BitVec.ofNat 64 (i0 * elemBits r.fmt / 8) + BitVec.ofNat 64 i1 * r.str.getD 0 0 +
    BitVec.ofNat 64 i2 * r.str.getD 1 0 + BitVec.ofNat 64 i3 * r.str.getD 2 0
/-- Whether signed indices lie within the extents. -/
def Shape.inside (r : Shape) (i0 i1 i2 i3 : Int) : Bool :=
  0 ≤ i0 && i0 < r.ext.getD 0 0 && 0 ≤ i1 && i1 < r.ext.getD 1 0 && 0 ≤ i2 && i2 < r.ext.getD 2 0 &&
    0 ≤ i3 && i3 < r.ext.getD 3 0
/-- Bytes of a compressed chunk with n present elements (R200). -/
def chunkBytes (w n : Nat) : Nat := (16 + (n * w + 7) / 8 + 15) / 16 * 16

/-! ## Parameter checks (R253) -/

/-- What a check at issue answers: a value, or the cause and TINFO. -/
abbrev Blk := Except (Cause × Nat)

/-- Word i of a parameter block fails. -/
def failAt {α : Type} (cause : Cause) (i : Nat) : Blk α := .error (cause, i)
/-- Requiring a condition at word i. -/
def need (ok : Bool) (cause : Cause) (i : Nat) : Blk Unit := if ok then .ok () else .error (cause, i)

/-- A tile-handle word (R190, R253, R291). -/
def tileAt (s : State) (g : Gang) (w : Word) (i : Nat) : Blk Tile :=
  if w.toNat ≥ 64 then failAt .tileBad i
  else
    match s.tile? g.team w.toNat with
    | none => failAt .tileBad i
    | some t => if t.lvl = 0 && t.core != g.core then failAt .tileBad i else .ok t

/-- A slot-handle word (R277). -/
def slotAt (s : State) (g : Gang) (w : Word) (i : Nat) : Blk Slot :=
  if w.toNat ≥ 16 then failAt .opndState i
  else
    match s.slot? g.core g.team w.toNat with
    | none => failAt .opndState i
    | some x => .ok x

/-- A shape-handle word (R263, R356). -/
def shapeAt (s : State) (g : Gang) (w : Word) (i : Nat) : Blk (List Byte) :=
  match s.ctx? g.ctx with
  | none => failAt .shapeStale i
  | some c =>
    match c.shapes.find? (·.1 == w.toNat % 4096) with
    | some e => if e.2.2.1 && e.2.1 == w.toNat / 4096 then .ok e.2.2.2 else failAt .shapeStale i
    | none => failAt .shapeStale i

/-! ## What a command names -/

/-- Word k of the block. -/
def Command.p (m : Command) (k : Nat) : Word := m.params.getD k 0
/-- A field of the captured HMOD value. -/
def Command.hm (m : Command) (lo len : Nat) : Nat := m.hmod.toNat / 2 ^ lo % 2 ^ len
/-- HMOD CON, T and CACHE = .L2. -/
def Command.con (m : Command) : Bool := m.hm 13 1 == 1
def Command.t (m : Command) : Bool := m.hm 12 1 == 1
def Command.l2 (m : Command) : Bool := m.hm 6 2 == 2
/-- The EV option. -/
def Command.ev (m : Command) : Bool := m.x / 32 % 2 == 1
/-- A matrix step or SPMM. -/
def Command.isMatrix (m : Command) : Bool := m.opc == 0x37
/-- SPMM in slot mode. -/
def Command.slotMode (m : Command) : Bool := m.opc == 0x37 && m.fn == 3 && bit (m.p 3) 10
/-- The CONSUME flag of a matrix step. -/
def Command.consume (m : Command) : Bool := m.con || bit (m.p 3) 9

/-- Tiles that the engine reads (R264). -/
def Command.srcs (m : Command) : List Nat :=
  let h := fun k => (m.p k).toNat
  match m.opc, m.fn with
  | 0x34, 5 => [h 0] | 0x34, 7 => [h 1] | 0x34, 9 => [h 0] | 0x34, 11 => [h 1]
  | 0x36, 2 => [h 1] | 0x36, 3 => [h 1] | 0x36, 4 => [h 1]
  | 0x37, 3 => if m.slotMode then [] else [h 4]
  | 0x39, 0 => if m.p 2 = 0xFFFFFFFF then [h 1] else [h 1, h 2]
  | 0x38, 1 => [h 0, h 1, h 2, h 3]
  | _, _ => []
/-- Tiles that the engine writes whole (R264). -/
def Command.dsts (m : Command) : List Nat :=
  let h := fun k => (m.p k).toNat
  match m.opc, m.fn with
  | 0x34, 4 => [h 0] | 0x34, 6 => [h 0] | 0x34, 7 => [h 0] | 0x34, 8 => [h 0] | 0x34, 10 => [h 0] | 0x34, 11 => [h 0]
  | 0x39, 0 => if m.x % 2 = 1 then [] else [h 0]
  | 0x38, 0 => if m.x % 2 = 1 then [] else [h 3]
  | 0x38, 1 => [h 4, h 5, h 6]
  | 0x37, _ => if bit (m.p 3) 8 then [h 2] else []
  | _, _ => []
/-- The accumulator of a matrix step without ZERO. -/
def Command.accs (m : Command) : List Nat := if m.isMatrix && !bit (m.p 3) 8 then [(m.p 2).toNat] else []
/-- Every tile a command names. -/
def Command.tiles (m : Command) : List Nat := m.srcs ++ m.dsts ++ m.accs
/-- The slot that a command fills. -/
def Command.fills (m : Command) : List Nat := if m.opc = 0x36 then [(m.p 0).toNat] else []
/-- The slots that a matrix step reads. -/
def Command.reads (m : Command) : List Nat :=
  let h := fun k => (m.p k).toNat
  if !m.isMatrix then []
  else if m.fn = 3 then
    (if m.slotMode then (if m.p 3 &&& 0xF = 2 ∨ m.p 3 &&& 0xF = 3 then [h 4, h 4 + 1] else [h 4]) else [])
  else if m.fn = 2 then [h 0, h 1, h 1 + 1, h 1 + 2, h 1 + 3]
  else [h 0, h 1]
/-- A command that has not completed. -/
def Command.inFlight (m : Command) : Bool := m.st != .heldIncr && m.st != .heldNote

/-- Whether some command in flight names a tile of a team (R264). -/
def State.tileBusy (s : State) (k : Option Nat) (h : Nat) : Bool :=
  s.cmds.any fun m => m.inFlight && m.tkey == k && m.tiles.contains h

/-! ## Acceptance (R251 to R254) -/

/-- The queue a command enters: 0 TXU, 1 matrix array, 2 IXG only, 3 I/O die. -/
def cmdQueue (opc fn : Nat) : Nat :=
  if opc = 0x37 then 1 else if opc = 0x38 then 2 else if opc = 0x39 ∧ fn ≠ 0 then 3 else 0
/-- Whether a command takes a generator context (R344). -/
def takesCtx (opc fn : Nat) : Bool := opc == 0x38 || (opc == 0x37 && fn == 3)
/-- The I/O die that serves a core (R327, R328). -/
def iodOf (core : Nat) : Nat := if dieOf core < 4 then 0 else 1

/-- Whether a queue and a core's generator contexts have room for one more command beside a list of others (R254, R328,
R344). -/
def cmdRoom (ms : List Command) (core opc fn : Nat) : Bool :=
  let q := cmdQueue opc fn
  let same := ms.filter fun m => m.inFlight && cmdQueue m.opc m.fn == q &&
    (if q = 3 then iodOf m.core == iodOf core else m.core == core)
  let ctxs := ms.filter fun m => m.inFlight && takesCtx m.opc m.fn && m.core == core
  (match q with
    | 0 => decide (same.length < 32)
    | 1 => decide (same.length < 2)
    | 2 => true
    | _ => decide (same.length < 256)) &&
  (!takesCtx opc fn || decide (ctxs.length < 8))

/-- Whether a command can be accepted. -/
def State.hasRoom (s : State) (core opc fn : Nat) : Bool := cmdRoom s.cmds core opc fn

/-- Whether a command has a place in its queue beside those before it; a restored one waits for it (R12, R411, R412). -/
def State.inQueue (s : State) (m : Command) : Bool := cmdRoom (s.cmds.takeWhile (·.cid != m.cid)) m.core m.opc m.fn

/-- The tags of the block and the records that a command copies at issue. -/
structure Captured where
  shape : List Byte
  pattern : List Byte
  deriving DecidableEq, Repr

/-- The fault of a block at issue: the whole batch, TINFO as given (R253). -/
def trapBlock (c : Cur) (g : Gang) (e : Cause × Nat) (s : State) : Out := trapBatch c g e.1 0 e.2 s

/-- The n words of a block from S(SA). -/
def Gang.block (g : Gang) (sa n : Nat) : List Word := (List.range n).map fun k => g.s (sa + k)

/-- The command record of an issuing gang. -/
def newCommand (s : State) (c : Cur) (g : Gang) (opc fn x : Nat) (params : List Word) (sb : Nat) (cap : Captured) : Command :=
  { cid := s.fresh, gid := g.gid, core := g.core, tkey := (s.teamOf g).map (·.tkey), lkey := g.lkey, opc := opc, fn := fn,
    x := x, params := params, hmod := match c.hmod with | some h => h | none => 0, hasCnt := sb != 0,
    cnt := if sb = 0 then 0 else g.s2 sb, owns := false, after := false, unitOff := loWord (c.base - s.textOf g), seq := g.cmdSeq,
    ped := g.ped, shape := cap.shape, pattern := cap.pattern, st := .queued, gen := none, status := 0, count := 0,
    aux := 0, cval := 0, flags := 0, note := false, fcause := 0, faddr := 0, finfo := 0 }

/-- The KIND and FMT that a fill gives its slot (R193, R278, R279, R350). -/
def fillKind (s : State) (m : Command) : Nat × Nat :=
  let fmt := match s.tile? m.tkey (m.p 1).toNat with | some t => t.fmt | none => 0
  if m.fn = 2 then ((m.p 3).toNat, fmt) else if m.fn = 3 then (1, fmt) else (2, (shapeOf m.shape).fmt)

/-- A fill takes its slot once the slot is claimed or consumed, or, issued while the slot was filling, full (R195). -/
def slotFree (m : Command) (x : Slot) : Bool := x.st == 1 || x.st == 4 || (m.after && x.st == 3)

/-- A fill takes its slot; one that meets it filling by another fill follows that one (R195). -/
def State.takeSlot (s : State) (m : Command) : Command × State :=
  match m.fills with
  | [] => (m, s)
  | h :: _ =>
    match s.slot? m.core m.tkey h with
    | none => (m, s)
    | some x =>
      if m.owns then (m, s)
      else if slotFree m x then
        let kf := fillKind s m
        ({ m with owns := true }, s.modSlot m.core m.tkey h fun x => { x with st := 2, kind := kf.1, fmt := kf.2 })
      else ({ m with after := m.after || x.st == 2 }, s)

/-- Accepting a command: the issue releases, the command joins its engine's queue, and the batch goes on (R218, R252). The
stores of the engine come after an earlier fence of the gang (R208). -/
def acceptCmd (c : Cur) (g : Gang) (m : Command) (s : State) : Out :=
  let s := (s.payOwed c.gid).releaseLv g.core (if cmdQueue m.opc m.fn = 3 then 2 else scopeLevel 0 (s.spread g))
  let r := s.takeSlot m
  let s := { r.2 with cmds := r.2.cmds ++ [r.1], fresh := s.fresh + 1 }
  done c (s.modGang c.gid fun g => { g with cmdSeq := g.cmdSeq + 1 })

/-- An asynchronous command: its block is checked, then its counter, then it is accepted or waits for room with WK 4. -/
def asyncCmdOf (s : State) (opc fn x sa n sb : Nat) (check : Gang → State → Cur → List Word → Blk Captured) : Out :=
  withCur s fun c g =>
    sGuard c g s ((sa, n) :: (if sb = 0 then [] else [(sb, 2)]))
      (let ps := g.block sa n
       match check g s c ps with
       | .error e => trapBlock c g e s
       | .ok cap =>
         if sb ≠ 0 ∧ (g.s2 sb).toNat % 8 ≠ 0 then trapBatch c g .align (g.s2 sb) 0 s
         else if s.hasRoom g.core opc fn then acceptCmd c g (newCommand s c g opc fn x ps sb cap) s
         else waitFor c 4 [] s)

/-- A command that copies no record. -/
def noCapture : Captured := { shape := [], pattern := [] }

/-! ## What an engine reads and writes (R257, R258) -/

/-- A command's work so far. -/
structure Eng where
  s : State
  count : Nat
  aux : Word
  status : Nat
  flags : Flags

/-- Why a command stops: cause, TADDR and TINFO. -/
structure EFault where
  cause : Cause
  addr : DWord
  info : Nat
  deriving DecidableEq, Repr

/-- A piece of a command's work. -/
abbrev EM := ExceptT EFault (StateM Eng)

/-- The current state. -/
def eGet : EM State := do return (← get).s
/-- Changing the state. -/
def eMod (f : State → State) : EM Unit := modify fun e => { e with s := f e.s }
/-- Counting what is written. -/
def eCount (n : Nat) : EM Unit := modify fun e => { e with count := e.count + n }
/-- Raising flags. -/
def eFlags (f : Flags) : EM Unit := modify fun e => { e with flags := e.flags ||| f }
/-- Stopping the command. -/
def eStop {α : Type} (cause : Cause) (addr : DWord) (info : Nat) : EM α := throw { cause := cause, addr := addr, info := info }

/-- The agent that a command's accesses belong to: its issuing strand, on the core that issued it (R257). Which copy engine
serves a copy has no visible effect (R327). -/
def State.cmdAgent (s : State) (m : Command) : Agent :=
  { core := m.core, ctx := s.ctxOf m.lkey, lkey := m.lkey,
    gid := m.gid, ped := m.ped, epc := m.unitOff }

/-- An access with MIGRATE serviced on the way. -/
def served {α : Type} (ag : Agent) (va : Nat) (f : State → Except AFault α × State) (s : State) : Except AFault α × State :=
  match f s with
  | (.error e, s) => if e.1 = .migrate then f (s.migrateBy ag.core ag.ctx va) else (.error e, s)
  | r => r

/-- Running an access; a failure stops the command with TINFO[8:6] = 6. -/
def eAccess {α : Type} (va : DWord) (f : State → Except AFault α × State) : EM α := do
  let e ← get
  let r := f e.s
  set { e with s := r.2 }
  match r.1 with
  | .ok x => return x
  | .error x => eStop x.1 va (64 * 6 + x.2)

/-- Reading n bytes within a sector. -/
def eLoad (m : Command) (va : DWord) (n : Nat) : EM (List Byte) := do
  let s ← eGet
  let ag := s.cmdAgent m
  let r ← eAccess va (served ag va.toNat fun s => s.loadVa ag va n m.l2 (fun _ => true))
  return r.1

/-- Writing bytes within a sector. -/
def eStore (m : Command) (va : DWord) (bs : List Byte) : EM Unit := do
  let s ← eGet
  let ag := s.cmdAgent m
  eAccess va (served ag va.toNat fun s => s.storeVa ag va bs m.l2)

/-- Reading an element of w bits whose lowest byte is at va, from bit b of it. -/
def eLoadElem (m : Command) (va : DWord) (b w : Nat) : EM Nat := do
  let bs ← eLoad m va ((w + 7) / 8)
  return numOf bs / 2 ^ b % 2 ^ w

/-- Writing an element; one narrower than a byte changes only its own bits (R183, R268). -/
def eStoreElem (m : Command) (va : DWord) (b w x : Nat) : EM Unit := do
  if w ≥ 8 then eStore m va (bytesOf (w / 8) x)
  else
    let s ← eGet
    let ag := s.cmdAgent m
    let t ← eAccess va (served ag va.toNat fun s => s.storeCheck ag va 1 (fun _ => true))
    eMod fun s => storeBits s m.core t b w x

/-- A tile that the command names; it is LIVE while the command is in flight. -/
def eTile (m : Command) (h : Nat) : EM Tile := do
  let s ← eGet
  match s.tile? m.tkey h with
  | some t => return t
  | none => eStop .tileBad 0 (64 * 6)

/-- The elements that p admits are read: poison in one stops the command (R406). -/
def eSound (t : Tile) (p : Nat → Bool) : EM Unit :=
  if t.poison.any p then eStop .eccUncorr 0 (64 * 6 + eccInfo t.store) else pure ()

/-- Reading an element of a tile. -/
def eElem (t : Tile) (e : Nat) : EM Nat := do
  eSound t (· == e)
  return t.get e

/-- Writing an element of a destination tile. -/
def ePut (m : Command) (h e x : Nat) : EM Unit := eMod fun s => s.modTile m.tkey h fun t => t.put e x

/-- Reading the bytes of a slot that p admits; poison in one stops the command. -/
def eSlot (m : Command) (p : Nat → Bool) (h : Nat) : EM Slot := do
  let s ← eGet
  match s.slot? m.core m.tkey h with
  | some x => if x.bad.any p then eStop .eccUncorr 0 (64 * 6 + eccInfo 5) else return x
  | none => eStop .opndState 0 (64 * 6)

/-- The engine stream of a command (R259). -/
def eDraw (m : Command) (salt : Word) (e : Nat) : EM Word := do
  let s ← eGet
  let seed := match s.launch? m.lkey with | some l => l.seed | none => 0
  return edraw seed m.ped.levels salt e

/-! ## Starting (R254, R264, R195) -/

/-- A step reads a slot that a later fill of its gang has taken and does not fill before the step has read it: commands of
one gang on one slot take effect in the order of issue (R195, R254). -/
def State.heldBack (s : State) (m : Command) (h : Nat) : Bool :=
  s.cmds.any fun o => o.gid == m.gid && o.owns && o.st == .queued && decide (m.seq < o.seq) && o.fills.contains h

/-- Whether a command may start: no earlier command of its gang names the same tile or slot, and the tags and slots it
waits for allow it. Those of a restored gang wait for the replica that it waits for (R412). -/
def State.mayStart (s : State) (m : Command) : Bool :=
  let before := s.cmds.filter fun o => o.gid == m.gid && o.inFlight && o.seq < m.seq
  let shared := before.any fun o => o.tiles.any (m.tiles.contains ·) ||
    (o.fills ++ o.reads).any ((m.fills ++ m.reads).contains ·)
  let tl := fun h (p : Tile → Bool) => match s.tile? m.tkey h with | some t => p t | none => true
  let sl := fun h (p : Slot → Bool) => match s.slot? m.core m.tkey h with | some x => p x | none => true
  !shared && s.inQueue m && !(s.gangs.any fun g => g.gid == m.gid && !g.behind.isEmpty) &&
  m.srcs.all (fun h => tl h fun t => t.v) &&
  m.dsts.all (fun h => tl h fun t => t.c || t.fresh) &&
  m.accs.all (fun h => tl h fun t => t.v || t.fresh) &&
  (m.owns || m.fills.all fun h => sl h (slotFree m)) &&
  m.reads.all (fun h => sl h fun x => x.st == 3 || x.st == 4 || s.heldBack m h)

/-- Copies of one gang in one class whose ranges overlap take effect in issue order (R328); one SNAP at a time (R329). -/
def State.copyTurn (s : State) (m : Command) : Bool :=
  if cmdQueue m.opc m.fn ≠ 3 then true
  else if m.fn = 2 then
    (s.cmds.filter fun o => o.opc == 0x39 && o.fn == 2 && o.inFlight).all fun o => decide (m.cid ≤ o.cid)
  else
    let rng := fun (o : Command) k => ((pairOf (o.p k) (o.p (k + 1))).toNat, (pairOf (o.p 4) (o.p 5)).toNat)
    let hit := fun (a b : Nat × Nat) => decide (a.1 < b.1 + b.2) && decide (b.1 < a.1 + a.2)
    (s.cmds.filter fun o => o.opc == 0x39 && o.fn == 1 && o.inFlight && o.gid == m.gid && o.x % 2 == m.x % 2 &&
        decide (o.seq < m.seq)).all fun o =>
      !(hit (rng o 2) (rng m 0) || hit (rng o 2) (rng m 2) || hit (rng m 2) (rng o 0))

/-- The tags at the start of a command (R264); a whole write clears poison (R406). -/
def State.startTags (s : State) (m : Command) : State :=
  (m.dsts ++ m.accs).foldl (fun s h => s.modTile m.tkey h fun t => { t with v := false, fresh := false }) s

/-- A command becomes started. -/
def State.begin (s : State) (m : Command) : State :=
  let r := s.takeSlot m
  (r.2.startTags m).modCmd m.cid fun _ => { r.1 with st := .started }

/-- What a piece of work leaves of its command: it is performed, or its fault is held. -/
def State.endWork (m : Command) (r : Except EFault Unit × Eng) : State :=
  r.2.s.modCmd m.cid fun k =>
    let k := { k with count := r.2.count, aux := r.2.aux, status := r.2.status, flags := r.2.flags }
    match r.1 with
    | .ok _ => { k with st := .performed }
    | .error e => { k with st := .heldFault, fcause := e.cause.word, faddr := e.addr, finfo := BitVec.ofNat 32 e.info }

/-- Running a command's work from its beginning. -/
def State.work (s : State) (m : Command) (f : EM Unit) : State :=
  State.endWork m (f.run.run { s := s, count := 0, aux := 0, status := 0, flags := 0 })

/-! ## Completion (R255, R256, R260, R389) -/

/-- The completion scope (R255, R327): GANG acts as TEAM; a copy's scope is at least DEV. -/
def Command.scope (m : Command) : Nat :=
  let k := if m.hm 11 1 = 1 then m.hm 8 3 else if m.opc = 0x39 ∧ m.fn = 1 then 2 else 0
  if m.opc = 0x39 ∧ m.fn = 1 then (if k = 3 then 3 else 2) else if k ≥ 4 then 0 else k

/-- Whether a command's team is spread. -/
def State.cmdSpread (s : State) (m : Command) : Bool :=
  match m.tkey with
  | none => false
  | some k =>
    match s.team? k with
    | some t => decide (t.cores.length > 1)
    | none => false

/-- Adding 1 to a counter at a scope, checked as an engine access: its new value (R255, R309, R389). -/
def State.bumpCounter (s : State) (ag : Agent) (va : DWord) (scope : Nat) (spread : Bool) : Except AFault DWord × State :=
  match served ag va.toNat (fun s => atomCheck s ag va 8 (scope == 3)) s with
  | (.error e, s) => (.error e, s)
  | (.ok t, s) =>
    let place := scopePlace scope spread
    let r := s.locRd ag.core place t 8
    match r.1.2 with
    | some k => (.error (.eccUncorr, eccInfo k), r.2)
    | none => (.ok (r.1.1 + 1), r.2.locWr ag.core place t 8 (r.1.1 + 1))

/-- A completion record (R256). -/
def recordOf (status : Nat) (cmd : Nat) (count : Nat) (aux cval : Word) : BitVec 128 :=
  BitVec.ofNat 128 (status % 256 + cmd % 2 ^ 24 * 256 + count % 2 ^ 32 * 2 ^ 32 + aux.toNat * 2 ^ 64 + cval.toNat * 2 ^ 96)
/-- The record of a command: CMD is bits [25:2] of the unit's offset. -/
def Command.record (m : Command) : BitVec 128 := recordOf m.status (m.unitOff.toNat / 4) m.count m.aux m.cval

/-- The tag changes at completion (R264, R195), and the scope of the completion that a wait observes (R218). -/
def State.endTags (s : State) (m : Command) : State :=
  let seen := m.scope
  let s := m.srcs.foldl (fun s h => s.modTile m.tkey h fun t => { t with scope := max t.scope seen }) s
  let s := (m.dsts ++ m.accs).foldl (fun s h => s.modTile m.tkey h fun t => { t with v := true, c := false, scope := seen }) s
  let s := if (if m.isMatrix then m.consume else m.con)
    then m.srcs.foldl (fun s h => s.modTile m.tkey h fun t => { t with c := true }) s else s
  let s := if m.isMatrix && m.consume
    then m.reads.foldl (fun s h => s.modSlot m.core m.tkey h fun x => { x with st := if x.st = 2 then 2 else 4 }) s else s
  if m.owns then m.fills.foldl (fun s h => s.modSlot m.core m.tkey h fun x => { x with st := 3, scope := seen }) s else s

/-- Whether some live gang's TEAMID names a team (R255). -/
def State.teamLive (s : State) (k : Nat) : Bool :=
  match s.team? k with
  | none => false
  | some t => s.gangs.any fun g => g.lkey == t.lkey && g.teamId == t.teamId && !g.exited

/-- Posting a record to a team's queue. -/
def State.post (s : State) (k : Nat) (r : BitVec 128) (scope : Nat) : State :=
  s.modTeam k fun t => { t with evq := t.evq ++ [(r, scope)] }

/-- Whether a team's event queue is full. -/
def State.queueFull (s : State) (k : Nat) : Bool :=
  match s.team? k with
  | some t => decide (t.evq.length ≥ 64)
  | none => false

/-- A command that has completed leaves; one with a COMPRESS_OVF to deliver stays until then (R258, R271). -/
def State.retire (s : State) (m : Command) : State :=
  if m.note then
    s.modCmd m.cid fun m => { m with st := .heldNote, note := false, fcause := Cause.word .compressOvf, faddr := 0,
                                     finfo := BitVec.ofNat 32 (64 * 6 + 16) }
  else { s with cmds := s.cmds.filter (·.cid != m.cid) }

/-- The actions of a completion: the increment, the tags and flags, the record, as one release (R255). -/
def State.complete (s : State) (m : Command) (k : Option Nat) : State :=
  let ag := s.cmdAgent m
  let s := s.releaseLv m.core (scopeLevel m.scope (s.cmdSpread m))
  let r : Except AFault DWord × State :=
    if m.hasCnt then s.bumpCounter ag m.cnt m.scope (s.cmdSpread m) else (.ok 0, s)
  let cval := match r.1 with | .ok v => loWord v | .error _ => 0
  let s := (r.2.endTags m).modGang m.gid (·.flags m.flags)
  let s := match k with
    | some t => s.post t { m with cval := cval }.record m.scope
    | none => s
  let note := m.status = 1 && (match s.gang? m.gid with | some g => bit g.statarm 4 | none => false)
  match r.1 with
  | .error e =>
    s.modCmd m.cid fun m => { m with st := .heldIncr, note := note, fcause := e.1.word, faddr := m.cnt, finfo := BitVec.ofNat 32 (64 * 6 + e.2) }
  | .ok _ => s.retire { m with note := note }

/-- A command whose accesses are done completes, or is held while its event queue is full (R255). -/
def State.completeCmd (s : State) (m : Command) : State :=
  match (if m.ev then m.tkey else none) with
  | none => s.complete m none
  | some k =>
    if !s.teamLive k then s.complete m none
    else if s.queueFull k then s.modCmd m.cid fun m => { m with st := .heldDone }
    else s.complete m (some k)

/-- ENGINE_COMMAND_COMPLETION (R255). -/
def execEngineCommandCompletion (cid : Nat) (s : State) : Out :=
  match s.cmd? cid with
  | none => .next s
  | some m =>
    if m.st = .performed ∨ m.st = .heldDone then
      let s := if m.st = .performed && m.isMatrix && m.fn != 3 && m.status == 0 then s.bump m.core 12 1 else s
      .next (s.completeCmd m)
    else .next s

/-- What TRET makes of the command whose fault a trap delivered (R258, R271, R389). One issued again from its start begins
with a new generator context (R344). -/
def State.settleHeld (s : State) (h : Held) (retry : Bool) : State :=
  match h with
  | .cmd cid =>
    if retry then s.modCmd cid fun m => { m with st := .started, gen := none, status := 0, count := 0, aux := 0, flags := 0 }
    else s.modCmd cid fun m => { m with st := .performed, status := 2 }
  | .incr cid =>
    match s.cmd? cid with
    | none => s
    | some m =>
      if m.st = .heldIncr ∧ retry = true then
        match s.bumpCounter (s.cmdAgent m) m.cnt m.scope (s.cmdSpread m) with
        | (.ok _, s) => s.retire m
        | (.error e, s) =>
          s.modCmd cid fun m => { m with fcause := e.1.word, finfo := BitVec.ofNat 32 (64 * 6 + e.2) }
      else s.retire { m with note := m.note && m.st == .heldIncr }

end Sys2Proof.Machine
end

