-- ==== Sys2Proof/Machine/Tile.lean ====
section
/-! DEFINITION. The synchronous tile, slot and shape instructions and the accesses of fibres to tiles (R262 to R267,
R273 to R277). -/
namespace Sys2Proof.Machine

/-- A synchronous command over its block (R252, R253). -/
def syncCmd (s : State) (sa n : Nat) (k : Cur → Gang → List Word → Out) : Out :=
  withCur s fun c g => sGuard c g s [(sa, n)] (k c g (g.block sa n))

/-- The tiles whose tags a command changes (R264). -/
def Command.tagged (m : Command) : List Nat :=
  m.dsts ++ m.accs ++ (if (if m.isMatrix then m.consume else m.con) then m.srcs else [])

/-- A wait on a tile: a held fault of a command that would change its tag is delivered there (R258, R264). -/
def tileWait (c : Cur) (g : Gang) (s : State) (h : Nat) (wk : Nat) : Out :=
  deliver c g s (fun m => m.tkey == g.team && (m.tagged.contains h)) (waitFor c wk [BitVec.ofNat 64 h] s)

/-! ## Allocation and tags (R264 to R267) -/

/-- Granules of a team's tiles, of all levels or of level L on one core. -/
def Team.used (t : Team) (core : Option Nat) : Nat :=
  ((t.tiles.filter fun x => match core with | none => true | some k => x.lvl == 0 && x.core == k).map Tile.granules).sum

/-- Whether a team's reservation holds a new tile of n granules (R190). -/
def Team.holds (t : Team) (core lvl n : Nat) : Bool :=
  let k := t.cores.length
  let share := (t.granules + k - 1) / k
  decide (t.used none + n ≤ k * share) && (lvl != 0 || decide (t.used (some core) + n ≤ share))

/-- The accumulator tiles in use on a core (R191). -/
def State.accsUsed (s : State) (core : Nat) : Nat :=
  ((s.teams.flatMap (·.tiles)).filter fun t => t.lvl == 2 && t.core == core).length

/-- TALLOC (R265). -/
def execTalloc (sa : BitVec 8) (s : State) : Out :=
  syncCmd s sa.toNat 1 fun c g ps =>
    let d := (ps.getD 0 0).toNat
    let hnd := d % 64
    let lvl := d / 64 % 4
    let fmt := d / 256 % 16
    let rows := d / 4096 % 256 + 1
    let cols := d / 2 ^ 20 % 256 + 1
    match (g.team.bind s.team?) with
    | none => trapBlock c g (.tileBad, 0) s
    | some t =>
      if d / 2 ^ 28 ≠ 0 ∨ lvl = 3 ∨ fmt > 13 ∨ t.tiles.any (·.hnd == hnd) = true ∨
          (lvl = 2 ∧ ¬(fmt = 1 ∧ rows = 128 ∧ cols = 128)) then trapBlock c g (.tileBad, 0) s
      else
        let n := if lvl = 2 then 0 else granulesOf rows cols (elemBits fmt)
        if lvl ≠ 2 ∧ t.holds g.core lvl n = false then trapBlock c g (.tileNospace, 0) s
        else if lvl = 2 ∧ s.accsUsed g.core ≥ 4 then waitFor c 5 [0x100] s
        else
          let x : Tile := { hnd := hnd, lvl := lvl, core := g.core, fmt := fmt, rows := rows, cols := cols, v := false,
                            c := false, fresh := true, serial := s.fresh, data := [], poison := [], scope := 0 }
          let s := ({ s with fresh := s.fresh + 1 } : State).modTeam t.tkey fun t => { t with tiles := t.tiles ++ [x] }
          done c (s.modGang c.gid fun g => g.setS (sa.toNat + 1) (BitVec.ofNat 32 n))

/-- A command on one tile that waits until no command naming it is in flight (R264). -/
def whenQuiet (c : Cur) (g : Gang) (s : State) (h : Nat) (k : Out) : Out :=
  if s.tileBusy g.team h then tileWait c g s h 5 else k

/-- TFREE (R266). -/
def execTfree (sa : BitVec 8) (s : State) : Out :=
  syncCmd s sa.toNat 1 fun c g ps =>
    match tileAt s g (ps.getD 0 0) 0 with
    | .error e => trapBlock c g e s
    | .ok t =>
      whenQuiet c g s t.hnd
        (done c (match g.team with
          | some k => s.modTeam k fun x => { x with tiles := x.tiles.filter (·.hnd != t.hnd) }
          | none => s))

/-- The tile of a TTAG or TWAIT word, whose bits above the operation are zero (R267). -/
def tagTile (s : State) (g : Gang) (w : Word) : Blk (Tile × Nat) := do
  let op := w.toNat / 64
  need (decide (op ≤ 2)) .tileBad 0
  let t ← tileAt s g (w &&& 63) 0
  return (t, op)

/-- TTAG (R267). -/
def execTtag (sa : BitVec 8) (s : State) : Out :=
  syncCmd s sa.toNat 1 fun c g ps =>
    match tagTile s g (ps.getD 0 0) with
    | .error e => trapBlock c g e s
    | .ok (t, op) =>
      whenQuiet c g s t.hnd
        (done c (s.modTile g.team t.hnd fun t =>
          if op = 0 then { t with c := true }
          else if op = 1 then { t with v := true, c := false, fresh := false }
          else { t with v := false, c := false, fresh := true }))

/-- TWAIT (R267): it acquires at TEAM scope, and at that of the completion it observes (R218). -/
def execTwait (sa : BitVec 8) (s : State) : Out :=
  syncCmd s sa.toNat 1 fun c g ps =>
    match tagTile s g (ps.getD 0 0) with
    | .error e => trapBlock c g e s
    | .ok (t, op) =>
      let ok := if op = 0 then t.v else if op = 1 then t.c || t.fresh else !s.tileBusy g.team t.hnd
      if ok then done c (s.acquireLv g.core (scopeLevel t.scope (s.spread g))) else tileWait c g s t.hnd 5

/-! ## Fibre access (R273 to R276) -/

/-- The element that a fibre names. -/
def trElem (t : Tile) (tr : Bool) (a : Word) : Option Nat :=
  let hi := a.toNat / 65536
  let lo := a.toNat % 65536
  let r := if tr then lo else hi
  let k := if tr then hi else lo
  if r < t.rows ∧ k < t.cols then some (r * t.cols + k) else none

/-- What one fibre does to a tile: its new registers, the tile, and flags. -/
abbrev TrBody := Tile → Fibre → Nat → Except (Cause × Nat) (Fibre × Tile × Flags)

/-- One fibre of a TR word: its registers, its element, its effect. -/
def trOne (d : Nat) (a : BitVec 6) (tr : Bool) (dst : Bool) (body : TrBody) (t : Tile) (f : Fibre) :
    Except (Cause × Nat) (Fibre × Tile × Flags) := do
  f.chk a.toNat 1
  if dst then f.chkD d 1 else f.chk d 1
  match trElem t tr (f.v a.toNat) with
  | none => .error (.tileBad, 0)
  | some e => body t f e

/-- ECC_UNCORR is the last check of a fibre (R227). -/
def trLast {α : Type} (run : Fibre → Except (Cause × Nat) α) (f : Fibre) : Except (Cause × Nat) α :=
  match run f with
  | .error e =>
    if e.1 = .eccUncorr && !f.bad.isEmpty then
      match run { f with bad := [] } with
      | .error e' => .error e'
      | .ok _ => .error e
    else .error e
  | r => r

/-- The fibres act in ascending FIX on one tile. -/
def runTr (d : Nat) (a : BitVec 6) (tr : Bool) (dst : Bool) (body : TrBody) (g0 : Gang) :
    List Nat → Gang → Tile → Gang × Tile × List FFault
  | [], g, t => (g, t, [])
  | i :: is, g, t =>
    match trLast (trOne d a tr dst body t) (g0.fibre i) with
    | .ok r => runTr d a tr dst body g0 is ((g.setFibre i r.1).flags r.2.2) r.2.1
    | .error x =>
      let r := runTr d a tr dst body g0 is g t
      (r.1, r.2.1, { fix := i, cause := x.1, addr := 0, info := x.2 } :: r.2.2)

/-- Causes of a TR fault in their order. -/
def trRank : Cause → Nat
  | .regRange => 1 | .tileBad => 2 | .eccUncorr => 3 | _ => 4

/-- A TR word over fibres (R273, R274): a handle failure faults the batch, a tag that is not ready makes it wait. -/
def trWord (s : State) (d a : BitVec 6) (n : BitVec 8) (tr dst : Bool) (ready : Tile → Bool) (after : Tile → Tile)
    (body : TrBody) : Out :=
  withCur s fun c g =>
    sGuard c g s [(n.toNat, 1)]
      (match tileAt s g (g.s n.toNat) 0 with
       | .error e => trapBlock c g e s
       | .ok t =>
         let act := actHg c g
         let inRange := act.any fun i =>
           match (g.fibre i).chk a.toNat 1 with
           | .ok _ => (trElem t tr ((g.fibre i).v a.toNat)).isSome
           | .error _ => false
         if inRange && !ready t then tileWait c g s t.hnd 5
         else
           let r := runTr d.toNat a tr dst body g act g t
           let t := if r.2.2.length < act.length then after r.2.1 else r.2.1
           let s := (s.modGang c.gid fun _ => r.1).modTile g.team t.hnd fun _ => t
           finishWith trRank c 7 r.2.2 [(c.next, c.memb)] s)

/-- TRD and TRDT: typed, or raw bits (R274). -/
def trdBody (d : Nat) (raw : Bool) : TrBody := fun t f e =>
  if t.poison.contains e then .error (.eccUncorr, eccInfo t.store)
  else
    let x := t.get e
    if raw then .ok (f.setV d (BitVec.ofNat 32 x), t, 0)
    else let r := widen t.fmt x; .ok (f.setV d r.1, t, r.2)

/-- TRD (R274). -/
def execTrd (d a : BitVec 6) (n : BitVec 8) (z : BitVec 1) (s : State) : Out :=
  trWord s d a n false true (·.v) id (trdBody d.toNat (z == 1))
/-- TRDT (R274). -/
def execTrdt (d a : BitVec 6) (n : BitVec 8) (z : BitVec 1) (s : State) : Out :=
  trWord s d a n true true (·.v) id (trdBody d.toNat (z == 1))
/-- TWR (R274): the highest FIX prevails, since fibres act in ascending order. -/
def execTwr (d a : BitVec 6) (n : BitVec 8) (z : BitVec 1) (s : State) : Out :=
  trWord s d a n false false (fun t => t.v || t.fresh) (fun t => { t with v := true, c := false, fresh := false })
    fun t f e =>
      if z = 1 then .ok (f, t.put e (f.v d.toNat).toNat, 0)
      else let r := storeElem t.fmt (f.v d.toNat); .ok (f, t.put e r.1, r.2)

/-- Whether a format fits an operation of TATOM (R275). -/
def tatomFmt (op fmt : Nat) : Bool :=
  if op < 8 then fmt == 6 || fmt == 7 else if op = 8 then fmt == 1 || fmt == 6 || fmt == 7 else fmt == 1
/-- The new element of TATOM (R275). -/
def tatomNew (op : Nat) (m d : Word) : Word × Flags :=
  let r := if op < 8 then atomNew op (m.setWidth 64) (d.setWidth 64) 0
    else if op = 8 then (d.setWidth 64, 0)
    else atomNew (op + 3) (m.setWidth 64) (d.setWidth 64) 0
  (loWord r.1, r.2)

/-- TATOM (R275): in a deterministic launch D keeps its value. -/
def execTatom (d a : BitVec 6) (n : BitVec 8) (op : BitVec 4) (s : State) : Out :=
  withCur s fun c g =>
    if g.det && decide (op.toNat ≥ 8) then trapBatch c g .det 0 c.main.toNat s
    else
      trWord s d a n false false (·.v) id fun t f e =>
        if !tatomFmt op.toNat t.fmt then .error (.tileBad, 0)
        else if t.poison.contains e then .error (.eccUncorr, eccInfo t.store)
        else
          let old := BitVec.ofNat 32 (t.get e)
          let r := tatomNew op.toNat old (f.v d.toNat)
          .ok (if g.det then f else f.setV d.toNat old, t.put e r.1.toNat, r.2)

/-! ## Operand slots (R193 to R195, R277) -/

/-- The core-local team slot of a team on a core (R194). -/
def State.tslotOf (s : State) (k core : Nat) : Nat :=
  match s.team? k with
  | some t => ((t.cores.zip t.tslots).lookup core).getD 0
  | none => 0

/-- OCLAIM (R193, R277): the lowest handle that the team does not hold. -/
def execOclaim (sa : BitVec 8) (s : State) : Out :=
  withCur s fun c g =>
    match g.team with
    | none => trapBlock c g (.opndState, 0) s
    | some k =>
      let held := (s.slots.filter (·.tkey == k)).map (·.hnd)
      match (List.range 16).find? fun h => !held.contains h with
      | none => waitFor c 6 [0x100] s
      | some h =>
        if (s.slots.filter (·.core == g.core)).length ≥ 16 then waitFor c 6 [0x100] s
        else
          let x : Slot := { core := g.core, tkey := k, tslot := s.tslotOf k g.core, hnd := h, st := 1, kind := 0, fmt := 0,
                            bmp := 0, data := [], bad := [], scope := 0 }
          done c (({ s with slots := s.slots ++ [x] } : State).modGang c.gid fun g => g.setS sa.toNat (BitVec.ofNat 32 h))

/-- A wait on a slot (R195): no delivery point (R258). -/
def slotWait (c : Cur) (s : State) (h : Nat) : Out := waitFor c 6 [BitVec.ofNat 64 h] s

/-- OREL (R195, R277). -/
def execOrel (sa : BitVec 8) (s : State) : Out :=
  syncCmd s sa.toNat 1 fun c g ps =>
    match slotAt s g (ps.getD 0 0) 0 with
    | .error e => trapBlock c g e s
    | .ok x =>
      if x.st = 2 ∨ s.cmds.any (fun m => m.inFlight && m.tkey == g.team && m.core == g.core && m.reads.contains x.hnd) = true
      then slotWait c s x.hnd
      else done c { s with slots := s.slots.filter fun y => !(y.core == x.core && y.tkey == x.tkey && y.hnd == x.hnd) }

/-- OWAIT (R195, R277): it acquires at the scope of the completion it observes (R218). -/
def execOwait (sa : BitVec 8) (s : State) : Out :=
  syncCmd s sa.toNat 1 fun c g ps =>
    match slotAt s g (ps.getD 0 0) 0 with
    | .error e => trapBlock c g e s
    | .ok x =>
      if x.st = 2 then slotWait c s x.hnd
      else if x.st = 1 then trapBlock c g (.opndState, 0) s
      else done c (s.acquireLv g.core (scopeLevel x.scope (s.spread g)))

/-! ## Shapes (R262, R263) -/

/-- An entry of a slot table of a context: replaced, or added. -/
def setEntry (l : List (Nat × Nat × Bool × List Byte)) (e : Nat × Nat × Bool × List Byte) : List (Nat × Nat × Bool × List Byte) :=
  e :: l.filter (·.1 != e.1)
/-- A slot's generation and whether it is live; GEN starts at 0. -/
def entryOf (l : List (Nat × Nat × Bool × List Byte)) (slot : Nat) : Nat × Bool :=
  match l.find? (·.1 == slot) with
  | some e => (e.2.1, e.2.2.1)
  | none => (0, false)

/-- SHDEF (R262). The rule gives no order of its faults; the model takes that of the text, with what the load raises first
(log 76). -/
def execShdef (sa : BitVec 8) (s : State) : Out :=
  syncCmd s sa.toNat 3 fun c g ps =>
    let va := pairOf (ps.getD 0 0) (ps.getD 1 0)
    let w := (ps.getD 2 0).toNat
    if va.toNat % 64 ≠ 0 then uniFault c g 5 va (.align, 0) s
    else
      match s.loadBlock (agentOf s c g) va 4 with
      | (.error e, s) => uniFault c g 5 e.2 e.1 s
      | (.ok bs, s) =>
        match s.ctx? g.ctx with
        | none => trapBlock c g (.shapeStale, 2 + 256) s
        | some x =>
          let e := entryOf x.shapes (w % 4096)
          if w / 4096 ≠ 0 ∨ e.2 = true then trapBlock c g (.shapeStale, 2 + 256) s
          else
            match shapeBad bs with
            | some off => trapBlock c g (.tileBad, off * 256) s
            | none =>
              let s := s.modCtx g.ctx fun x => { x with shapes := setEntry x.shapes (w % 4096, e.1, true, bs) }
              done c (s.modGang c.gid fun g => g.setS (sa.toNat + 2) (BitVec.ofNat 32 (w % 4096 + e.1 * 4096)))

/-- SHFREE (R263). -/
def execShfree (sa : BitVec 8) (s : State) : Out :=
  syncCmd s sa.toNat 1 fun c g ps =>
    let w := (ps.getD 0 0).toNat
    match shapeAt s g (ps.getD 0 0) 0 with
    | .error e => trapBlock c g e s
    | .ok bs =>
      done c (s.modCtx g.ctx fun x =>
        { x with shapes := setEntry x.shapes (w % 4096, (w / 4096 + 1) % 2 ^ 20, false, bs) })

/-! ## CWAIT (R284) -/

/-- A read of a counter waited for: it completes the wait as an acquire, or the batch waits on. A held fault of a command
with this counter is delivered first (R258). -/
def cwaitRead (c : Cur) (g : Gang) (s : State) (va target : DWord) (scope : Nat) : Out :=
  deliver c g s (fun m => m.hasCnt && m.cnt == va)
    (if va.toNat % 8 ≠ 0 then uniFault c g 4 va (.align, 0) s
     else
       match s.checkVa (agentOf s c g) va false (fun t => isHbm t.pa || scope == 3) with
       | (.error e, s) => uniFault c g 4 va (e, 0) s
       | (.ok t, s) =>
         if t.lattice then uniFault c g 4 va (.latticePlain, 0) s
         else
           let r := s.locRd g.core (scopePlace scope (s.spread g)) t 8
           match r.1.2 with
           | some k => uniFault c g 4 va (.eccUncorr, eccInfo k) r.2
           | none =>
             if target.ule r.1.1 then
               done c ((r.2.dropMonitor g.gid c.base c.memb).acquireLv g.core (scopeLevel scope (s.spread g)))
             else
               waitFor c 4 [va, target, BitVec.ofNat 64 scope]
                 (r.2.takeMonitor g c.base c.memb (scopePlace scope (s.spread g)) (t.pa / 16) 1))

/-- CWAIT (R284). -/
def execCwait (sa : BitVec 8) (s : State) : Out :=
  syncCmd s sa.toNat 4 fun c g ps =>
    let k := hmodScope c 0
    cwaitRead c g s (pairOf (ps.getD 0 0) (ps.getD 1 0)) (pairOf (ps.getD 2 0) (ps.getD 3 0)) (if k ≥ 4 then 0 else k)

end Sys2Proof.Machine
end

