-- ==== Sys2Proof/Machine/Txu.lean ====
section
/-! DEFINITION. The commands of the TXU (R268 to R272, R278, R279, R283, R350): their checks at issue and their work. -/
namespace Sys2Proof.Machine

/-! ## Boxes (R268) -/

/-- The checks of TLD, TLDT and TST: the tile, an uncompressed shape, and that box and tile agree. -/
def boxCheck (tr : Bool) : Gang → State → Cur → List Word → Blk Captured := fun g s _ ps => do
  let t ← tileAt s g (ps.getD 0 0) 0
  let bs ← shapeAt s g (ps.getD 1 0) 1
  let r := shapeOf bs
  need (!r.comp) .tileBad 1
  let rc := if tr then (r.box0, r.box1) else (r.box1, r.box0)
  let w := elemBits r.fmt
  need (t.rows == rc.1 && t.cols == rc.2 && t.fmt == r.fmt && (w ≥ 8 || r.box0 * w % 8 == 0)) .tileBad 1
  need (w ≥ 8 || (ps.getD 2 0).toNat * w % 8 == 0) .tileBad 2
  return { shape := bs, pattern := [] }

/-- The indices of tile element e of a box. -/
def boxIdx (m : Command) (k : Nat) (tr : Bool) (cols e : Nat) : Int × Int × Int × Int :=
  let r : Int := (e / cols : Nat)
  let c : Int := (e % cols : Nat)
  let o := fun j => (m.p (k + j)).toInt
  if tr then (o 0 + r, o 1 + c, o 2, o 3) else (o 0 + c, o 1 + r, o 2, o 3)

/-- The address, the bit and whether it lies inside, of tile element e of a box. -/
def boxAddr (m : Command) (r : Shape) (k : Nat) (tr : Bool) (cols e : Nat) : Option (DWord × Nat) :=
  let i := boxIdx m k tr cols e
  if r.inside i.1 i.2.1 i.2.2.1 i.2.2.2 then
    some (r.addr i.1.toNat i.2.1.toNat i.2.2.1.toNat i.2.2.2.toNat, i.1.toNat * elemBits r.fmt % 8)
  else none

/-- Every element of a list of numbers, in order. -/
def eEach (es : List Nat) (f : Nat → EM Unit) : EM Unit := es.forM f

/-- TLD and TLDT. -/
def tldWork (m : Command) (tr : Bool) : EM Unit := do
  let h := (m.p 0).toNat
  let t ← eTile m h
  let r := shapeOf m.shape
  eEach (List.range (t.rows * t.cols)) fun e =>
    match boxAddr m r 2 tr t.cols e with
    | some a => do
      let x ← eLoadElem m a.1 a.2 t.w
      ePut m h e x
      eCount 1
    | none => ePut m h e r.pad

/-- TST. -/
def tstWork (m : Command) : EM Unit := do
  let t ← eTile m (m.p 0).toNat
  let r := shapeOf m.shape
  eEach (List.range (t.rows * t.cols)) fun e =>
    match boxAddr m r 2 false t.cols e with
    | some a => do
      let x ← eElem t e
      eStoreElem m a.1 a.2 t.w x
      eCount 1
    | none => pure ()

/-! ## Copies, fills and conversions (R269, R270) -/

/-- TCOPY's checks. -/
def tcopyCheck (tr : Bool) : Gang → State → Cur → List Word → Blk Captured := fun g s _ ps => do
  let d ← tileAt s g (ps.getD 0 0) 0
  let t ← tileAt s g (ps.getD 1 0) 1
  need (d.hnd != t.hnd && d.fmt == t.fmt) .tileBad 1
  need (if tr then d.rows == t.cols && d.cols == t.rows else d.rows == t.rows && d.cols == t.cols) .tileBad 1
  return noCapture

/-- TCOPY. -/
def tcopyWork (m : Command) : EM Unit := do
  let h := (m.p 0).toNat
  let d ← eTile m h
  let t ← eTile m (m.p 1).toNat
  eEach (List.range (d.rows * d.cols)) fun e => do
    let x ← eElem t (if m.x % 2 = 1 then e % d.cols * t.cols + e / d.cols else e)
    ePut m h e x
    eCount 1

/-- TFILL's check. -/
def tfillCheck : Gang → State → Cur → List Word → Blk Captured := fun g s _ ps => do
  let _ ← tileAt s g (ps.getD 0 0) 0
  return noCapture

/-- TFILL. -/
def tfillWork (m : Command) : EM Unit := do
  let h := (m.p 0).toNat
  let d ← eTile m h
  eEach (List.range (d.rows * d.cols)) fun e => do
    ePut m h e (m.p 1).toNat
    eCount 1

/-- TCVT's checks. -/
def tcvtCheck : Gang → State → Cur → List Word → Blk Captured := fun g s _ ps => do
  let d ← tileAt s g (ps.getD 0 0) 0
  need (d.fmt != 0) .tileBad 0
  let t ← tileAt s g (ps.getD 1 0) 1
  need (t.fmt != 0 && d.rows == t.rows && d.cols == t.cols) .tileBad 1
  let mw := (ps.getD 3 0).toNat
  need (decide (mw / 16 = 0) && decide (mw % 8 ≤ 5)) .tileBad 3
  return noCapture

/-- One element of TCVT (R270). -/
def tcvtElem (src dst : Nat) (mode : RMode) (relu : Bool) (scale draw : Word) (x : Nat) : Nat × Flags :=
  let a := elemEx src x
  let k := dec32 scale
  let y : Ex := if a.1.isNan || k.isNan then .nan false else a.1.mul k
  let inv := flagIf (!a.1.isNan && !k.isNan && y.isNan) fINV
  let y := if relu && (match y with | .nan _ => false | y => y.sign) then .zero false else y
  let r := convElem dst mode draw y
  (r.1, r.2 ||| a.2 ||| inv)

/-- TCVT. -/
def tcvtWork (m : Command) : EM Unit := do
  let h := (m.p 0).toNat
  let d ← eTile m h
  let t ← eTile m (m.p 1).toNat
  let mw := (m.p 3).toNat
  eEach (List.range (d.rows * d.cols)) fun e => do
    let dr ← eDraw m (m.p 4) e
    let x ← eElem t e
    let r := tcvtElem t.fmt d.fmt (rmode (mw % 8)) (mw / 8 % 2 == 1) (m.p 2) dr x
    ePut m h e r.1
    eFlags r.2
    eCount 1

/-! ## Compressed tensors (R200, R201, R271, R272) -/

/-- Elements of a tensor. -/
def Shape.total (r : Shape) : Nat := r.ext.foldl (· * ·) 1

/-- The checks of TSTC and TLDC. -/
def chunkCheck (store : Bool) : Gang → State → Cur → List Word → Blk Captured := fun g s _ ps => do
  let t ← tileAt s g (ps.getD 0 0) 0
  need (t.rows * t.cols % 128 == 0) .tileBad 0
  let bs ← shapeAt s g (ps.getD 1 0) 1
  let r := shapeOf bs
  need (r.comp && r.fmt == t.fmt) .tileBad 1
  need (!store || (ps.getD 3 0).toNat % 16 == 0) .tileBad 3
  return { shape := bs, pattern := [] }

/-- The bytes of a chunk from its 128 elements: none when every element has all-zero bits (R200). -/
def chunkOf (w : Nat) (els : List Nat) : Option (List Byte) :=
  let present := (List.range 128).filter fun i => els.getD i 0 != 0
  if present.isEmpty then none
  else
    let map := present.foldl (fun n i => n + 2 ^ i) 0
    let vals := (present.zip (List.range present.length)).foldl (fun n x => n + els.getD x.1 0 * 2 ^ (w * x.2)) 0
    some (bytesOf 16 map ++ bytesOf (chunkBytes w present.length - 16) vals)

/-- Checking n sectors from an address as stores, before any is written. -/
def eCheckSectors (m : Command) (va : DWord) : Nat → EM (List Tr)
  | 0 => pure []
  | n + 1 => do
    let s ← eGet
    let ag := s.cmdAgent m
    let t ← eAccess va (served ag va.toNat fun s => s.storeCheck ag va 16 (fun _ => true))
    let r ← tryCatch (eCheckSectors m (va + 16) n) fun e => do
      eMod fun s' => s'.unrecord s [t.pa / 16]
      throw e
    return t :: r

/-- Writing the bytes of a chunk: whole, or not at all (R271). -/
def eStoreChunk (m : Command) (va : DWord) (bs : List Byte) : EM Unit := do
  let ts ← eCheckSectors m va (bs.length / 16)
  eEach (List.range ts.length) fun k =>
    match ts[k]? with
    | some t => eMod fun s => s.store m.core t ((bs.drop (16 * k)).take 16) m.l2
    | none => pure ()

/-- An entry of the offset table. -/
def chunkEntry (r : Shape) (c : Word) : DWord := r.str.getD 0 0 + c.setWidth 64 * 4

/-- TSTC, chunk by chunk; ovf says that the capacity has run out. Bits past the tensor's last element are 0 (R200). -/
def tstcGo (m : Command) (t : Tile) (r : Shape) : List Nat → Nat → Bool → EM Unit
  | [], p, ovf => modify fun e =>
    { e with aux := BitVec.ofNat 32 p, status := if ovf then 1 else 0, flags := e.flags ||| flagIf ovf fCOVF }
  | k :: ks, p, ovf => do
    let c := m.p 2 + BitVec.ofNat 32 k
    let ent := chunkEntry r c
    let absent := bytesOf 4 0xFFFFFFFF
    if ovf then
      eStore m ent absent
      tstcGo m t r ks p true
    else
      let els ← (List.range 128).mapM fun i =>
        if 128 * c.toNat + i < r.total then eElem t (128 * k + i) else pure 0
      match chunkOf t.w els with
      | none =>
        eStore m ent absent
        eCount 1
        tstcGo m t r ks p false
      | some bs =>
        if p + bs.length > r.cap then
          eStore m ent absent
          tstcGo m t r ks p true
        else
          eStoreChunk m (r.base + BitVec.ofNat 64 p) bs
          eStore m ent (bytesOf 4 p)
          eCount 1
          tstcGo m t r ks (p + bs.length) false

/-- TSTC (R271). -/
def tstcWork (m : Command) : EM Unit := do
  let t ← eTile m (m.p 0).toNat
  tstcGo m t (shapeOf m.shape) (List.range (t.rows * t.cols / 128)) (m.p 3).toNat false

/-- Reading bytes sector by sector. -/
def eLoadSectors (m : Command) (va : DWord) : Nat → EM (List Byte)
  | 0 => pure []
  | n + 1 => do
    let bs ← eLoad m va 16
    let r ← eLoadSectors m (va + 16) n
    return bs ++ r

/-- The elements of a chunk whose bitmap is known; bits past the tensor's end are ignored (R272). -/
def chunkElems (w map first limit : Nat) (vals : Nat) : List Nat :=
  ((List.range 128).foldl (fun (acc : List Nat × Nat) i =>
    if map / 2 ^ i % 2 = 1 ∧ first + i < limit then (acc.1 ++ [vals / 2 ^ (w * acc.2) % 2 ^ w], acc.2 + 1)
    else (acc.1 ++ [0], acc.2)) ([], 0)).1

/-- One chunk of TLDC: its elements, or none for a bad entry. -/
def tldcChunk (m : Command) (r : Shape) (c : Word) : EM (Option (List Nat)) := do
  let w := elemBits r.fmt
  let eb ← eLoad m (chunkEntry r c) 4
  let ent := numOf eb
  if ent = 0xFFFFFFFF then return some (List.replicate 128 0)
  else if ent % 16 ≠ 0 ∨ ent ≥ r.cap then return none
  else
    let mb ← eLoad m (r.base + BitVec.ofNat 64 ent) 16
    let map := numOf mb
    let first := c.toNat * 128
    let n := ((List.range 128).filter fun i => map / 2 ^ i % 2 = 1 ∧ first + i < r.total).length
    let size := chunkBytes w n
    if ent + size > r.cap then return none
    else
      let vb ← eLoadSectors m (r.base + BitVec.ofNat 64 (ent + 16)) (size / 16 - 1)
      return some (chunkElems w map first r.total (numOf vb))

/-- TLDC (R272). -/
def tldcWork (m : Command) : EM Unit := do
  let h := (m.p 0).toNat
  let t ← eTile m h
  let r := shapeOf m.shape
  eEach (List.range (t.rows * t.cols / 128)) fun k => do
    let x ← tldcChunk m r (m.p 2 + BitVec.ofNat 32 k)
    match x with
    | some els =>
      eEach (List.range 128) fun i => ePut m h (128 * k + i) (els.getD i 0)
      eCount 1
    | none =>
      eEach (List.range 128) fun i => ePut m h (128 * k + i) 0
      modify fun e => { e with status := 3, flags := e.flags ||| fINV, aux := if e.status = 3 then e.aux else BitVec.ofNat 32 k }

/-! ## Operand fills (R278, R279, R350) -/

/-- The checks of OFILL. -/
def ofillCheck : Gang → State → Cur → List Word → Blk Captured := fun g s _ ps => do
  let _ ← slotAt s g (ps.getD 0 0) 0
  let t ← tileAt s g (ps.getD 1 0) 1
  let k := (ps.getD 3 0).toNat
  need (t.fmt == 2 || t.fmt == 3 || t.fmt == 4 || t.fmt == 5 || t.fmt == 10 || t.fmt == 12) .tileBad 1
  need (k == 0 || (k == 2 && t.fmt != 12)) .opndState 3
  return noCapture

/-- An element of a tile as bits, or zero bits outside it. -/
def Tile.at_ (t : Tile) (r c : Nat) : Nat := if r < t.rows ∧ c < t.cols then t.get (r * t.cols + c) else 0

/-- The elements of a tile of the given columns that lie in the box of h rows and w columns from (r0, c0). -/
def inBox (cols r0 c0 h w e : Nat) : Bool :=
  r0 ≤ e / cols && e / cols < r0 + h && c0 ≤ e % cols && e % cols < c0 + w

/-- OFILL (R278). -/
def ofillWork (m : Command) : EM Unit := do
  let t ← eTile m (m.p 1).toNat
  let u := (m.p 2).toNat / 65536
  let v := (m.p 2).toNat % 65536
  let K := 768 / t.w
  eSound t (if (m.p 3).toNat = 0 then inBox t.cols u v 128 K else inBox t.cols u v K 128)
  let el := fun i k => if (m.p 3).toNat = 0 then t.at_ (u + i) (v + k) else t.at_ (u + k) (v + i)
  let data := (List.range 128).flatMap fun i => slotRow t.w (el i)
  eMod fun s => s.modSlot m.core m.tkey (m.p 0).toNat fun x => { x with data := data, bad := [] }
  eCount (128 * (768 / t.w))

/-- The checks of OFILL.S24. -/
def s24Check : Gang → State → Cur → List Word → Blk Captured := fun g s _ ps => do
  let _ ← slotAt s g (ps.getD 0 0) 0
  let t ← tileAt s g (ps.getD 1 0) 1
  need (t.fmt == 4 || t.fmt == 5 || t.fmt == 10) .tileBad 1
  return noCapture

/-- The weight of an 8-bit element: zero only for a zero, a NaN above every number (R279). -/
def s24Weight (fmt x : Nat) : Nat :=
  if fmt = 10 then (sInt 8 x).natAbs
  else
    match floatFmt fmt with
    | some f => if (f.decode x).isNan then 255 else x % 128
    | none => 0

/-- The two elements of a quad that are kept, in index order. -/
def s24Keep (ws : List Nat) : Nat × Nat :=
  let best := fun (skip : Option Nat) => (List.range 4).foldl (fun (r : Option Nat) i =>
    if some i = skip then r
    else match r with
      | none => some i
      | some j => if ws.getD i 0 > ws.getD j 0 then some i else some j) none
  let a := (best none).getD 0
  let b := (best (some a)).getD 0
  (min a b, max a b)

/-- OFILL.S24 (R279, R193). -/
def s24Work (m : Command) : EM Unit := do
  let t ← eTile m (m.p 1).toNat
  let u := (m.p 2).toNat / 65536
  let v := (m.p 2).toNat % 65536
  eSound t (inBox t.cols u v 128 96)
  let el := fun r k => t.at_ (u + r) (v + k)
  let live := (List.range 24).filter fun q => (List.range 128).any fun r => (List.range 4).any fun j => s24Weight t.fmt (el r (4 * q + j)) != 0
  let row := fun r =>
    let kept := live.map fun q => (q, s24Keep ((List.range 4).map fun j => s24Weight t.fmt (el r (4 * q + j))))
    let vals := (kept.zip (List.range kept.length)).foldl
      (fun n x => n + el r (4 * x.1.1 + x.1.2.1) * 2 ^ (16 * x.2) + el r (4 * x.1.1 + x.1.2.2) * 2 ^ (16 * x.2 + 8)) 0
    let idx := (kept.zip (List.range kept.length)).foldl (fun n x => n + (x.1.2.1 + 4 * x.1.2.2) * 2 ^ (4 * x.2)) 0
    bytesOf 48 vals ++ bytesOf 48 idx
  let data := (List.range 128).flatMap row
  let bmp : BitVec 24 := BitVec.ofNat 24 (live.foldl (fun n q => n + 2 ^ q) 0)
  eMod fun s => s.modSlot m.core m.tkey (m.p 0).toNat fun x => { x with data := data, bmp := bmp, bad := [] }
  eCount (256 * live.length)

/-- The checks of OFILL.G. -/
def ofillGCheck : Gang → State → Cur → List Word → Blk Captured := fun g s _ ps => do
  let _ ← slotAt s g (ps.getD 0 0) 0
  let t ← tileAt s g (ps.getD 1 0) 1
  need (t.fmt == 6 || t.fmt == 7) .tileBad 1
  let bs ← shapeAt s g (ps.getD 3 0) 3
  let r := shapeOf bs
  need (!r.comp && (r.fmt == 2 || r.fmt == 3 || r.fmt == 4 || r.fmt == 5 || r.fmt == 10)) .tileBad 3
  return { shape := bs, pattern := [] }

/-- OFILL.G (R350). -/
def ofillGWork (m : Command) : EM Unit := do
  let t ← eTile m (m.p 1).toNat
  let r := shapeOf m.shape
  let w := elemBits r.fmt
  let q := (m.p 2).toNat / 65536
  let u := (m.p 2).toNat % 65536
  let K := 768 / w
  eSound t (inBox t.cols q u 1 K)
  let idx := fun k => if q < t.rows ∧ u + k < t.cols then t.get (q * t.cols + u + k) else 0xFFFFFFFF
  let j0 := (m.p 4).toInt
  let cols ← (List.range 128).mapM fun j =>
    (List.range K).mapM fun k => do
      let x := idx k
      if x = 0xFFFFFFFF then return 0
      else
        let a : Int := j0 + (j : Nat)
        let b : Int := (x : Nat)
        let i := if m.t then (b, a) else (a, b)
        if r.inside i.1 i.2 0 0 then eLoadElem m (r.addr i.1.toNat i.2.toNat 0 0) 0 w
        else return r.pad % 2 ^ w
  let data := cols.flatMap fun c => slotRow w fun k => c.getD k 0
  eMod fun s => s.modSlot m.core m.tkey (m.p 0).toNat fun x => { x with data := data, bad := [] }
  eCount ((List.range K).filter fun k => idx k != 0xFFFFFFFF).length

/-! ## STREAM (R283) -/

/-- Op i of a STREAM. -/
def streamOp (ops : Word) (i : Nat) : Nat := ops.toNat / 16 ^ i % 16

/-- The checks of STREAM. -/
def streamCheck (mem : Bool) : Gang → State → Cur → List Word → Blk Captured := fun g s _ ps => do
  let d ← if mem then pure none else do
    let t ← tileAt s g (ps.getD 0 0) 0
    pure (some t)
  let bs ← if mem then shapeAt s g (ps.getD 0 0) 0 else pure []
  let r := shapeOf bs
  let w := elemBits r.fmt
  need (!mem || (!r.comp && (w ≥ 8 || r.box0 * w % 8 == 0))) .tileBad 0
  let x ← tileAt s g (ps.getD 1 0) 1
  need ((floatFmt x.fmt).isSome) .tileBad 1
  need (match d with
    | some t => t.rows == x.rows && t.cols == x.cols
    | none => r.box1 == x.rows && r.box0 == x.cols) .tileBad 1
  let noY := ps.getD 2 0 == 0xFFFFFFFF
  if noY then pure ()
  else do
    let y ← tileAt s g (ps.getD 2 0) 2
    need ((floatFmt y.fmt).isSome && y.rows == x.rows && y.cols == x.cols) .tileBad 2
  let ops := (List.range 8).map (streamOp (ps.getD 4 0))
  let tail := ops.dropWhile (· != 0)
  need (tail.all (· == 0) && !ops.contains 15 && !(noY && (ops.contains 1 || ops.contains 2 || ops.contains 9))) .tileBad 4
  need (decide ((ps.getD 5 0).toNat ≤ 5)) .tileBad 5
  need (!mem || w ≥ 8 || (ps.getD 7 0).toNat * w % 8 == 0) .tileBad 7
  return { shape := bs, pattern := [] }

/-- One step of a STREAM on F32 values (R283). -/
def streamStep (op : Nat) (acc y k : Word) : Word × Flags :=
  match op with
  | 1 => fadd32 acc y
  | 2 => let r := f32.fmul .rn 0 acc.toNat y.toNat; (BitVec.ofNat 32 r.1, r.2)
  | 3 => fadd32 acc k
  | 4 => let r := f32.fmul .rn 0 acc.toNat k.toNat; (BitVec.ofNat 32 r.1, r.2)
  | 5 => (fmax32 acc k, 0)
  | 6 => (fmin32 acc k, 0)
  | 7 => (if (dec32 acc).isNan then nan32 else abs32 acc, 0)
  | 8 => (if (dec32 acc).isNan then nan32 else neg32 acc, 0)
  | 9 => enc32 .rn 0 (((dec32 acc).mul (dec32 k)).add false (dec32 y))
  | 10 => fex232 acc
  | 11 => frcp32 acc
  | 12 => frsq32 acc
  | 13 => ftanh32 acc
  | _ => let r := f32.fmul .rn 0 acc.toNat acc.toNat; (BitVec.ofNat 32 r.1, r.2)

/-- The chain of a STREAM: the accumulator and the flags. -/
def streamChain (ops y k : Word) : Nat → Nat → Word → Word × Flags
  | 0, _, acc => (acc, 0)
  | n + 1, i, acc =>
    let op := streamOp ops i
    if op = 0 then (acc, 0)
    else
      let r := streamStep op acc y k
      let t := streamChain ops y k n (i + 1) r.1
      (t.1, r.2 ||| t.2)

/-- What a STREAM writes for an accumulator; the manual states no value for a RAW destination (log 4). -/
def streamOut (fmt : Nat) (mode : RMode) (draw acc : Word) : Nat × Flags :=
  if fmt = 0 then ((Config.rawElem acc).toNat % 256, 0) else convElem fmt mode draw (dec32 acc)

/-- STREAM (R283). -/
def streamWork (m : Command) : EM Unit := do
  let mem := m.x % 2 == 1
  let x ← eTile m (m.p 1).toNat
  let y ← if m.p 2 = 0xFFFFFFFF then pure none else do
    let t ← eTile m (m.p 2).toNat
    pure (some t)
  let r := shapeOf m.shape
  let fmt ← if mem then pure r.fmt else do
    let d ← eTile m (m.p 0).toNat
    pure d.fmt
  eEach (List.range (x.rows * x.cols)) fun e => do
    let xv ← eElem x e
    let a := (widen x.fmt xv).1
    let yv ← match y with
      | some t => do
        let b ← eElem t e
        pure (widen t.fmt b).1
      | none => pure 0
    let c := streamChain (m.p 4) yv (m.p 3) 8 0 a
    let dr ← eDraw m (m.p 6) e
    let o := streamOut fmt (rmode (m.p 5).toNat) dr c.1
    if mem then
      match boxAddr m r 7 false x.cols e with
      | some ad => do
        eStoreElem m ad.1 ad.2 (elemBits fmt) o.1
        eFlags (c.2 ||| o.2)
        eCount 1
      | none => eFlags c.2
    else
      ePut m (m.p 0).toNat e o.1
      eFlags (c.2 ||| o.2)
      eCount 1

/-! ## The instructions -/

/-- TLD (R268). -/
def execTld (sa : BitVec 8) (sb : BitVec 7) (e : BitVec 1) (s : State) : Out :=
  asyncCmdOf s 0x34 4 (32 * e.toNat) sa.toNat 6 (pairNo sb) (boxCheck false)
/-- TST (R268). -/
def execTst (sa : BitVec 8) (sb : BitVec 7) (e : BitVec 1) (s : State) : Out :=
  asyncCmdOf s 0x34 5 (32 * e.toNat) sa.toNat 6 (pairNo sb) (boxCheck false)
/-- TLDT (R268). -/
def execTldt (sa : BitVec 8) (sb : BitVec 7) (e : BitVec 1) (s : State) : Out :=
  asyncCmdOf s 0x34 6 (32 * e.toNat) sa.toNat 6 (pairNo sb) (boxCheck true)
/-- TCOPY (R269). -/
def execTcopy (sa : BitVec 8) (sb : BitVec 7) (e x : BitVec 1) (s : State) : Out :=
  asyncCmdOf s 0x34 7 (32 * e.toNat + x.toNat) sa.toNat 2 (pairNo sb) (tcopyCheck (x == 1))
/-- TFILL (R269). -/
def execTfill (sa : BitVec 8) (sb : BitVec 7) (e : BitVec 1) (s : State) : Out :=
  asyncCmdOf s 0x34 8 (32 * e.toNat) sa.toNat 2 (pairNo sb) tfillCheck
/-- TSTC (R271). -/
def execTstc (sa : BitVec 8) (sb : BitVec 7) (e : BitVec 1) (s : State) : Out :=
  asyncCmdOf s 0x34 9 (32 * e.toNat) sa.toNat 4 (pairNo sb) (chunkCheck true)
/-- TLDC (R272). -/
def execTldc (sa : BitVec 8) (sb : BitVec 7) (e : BitVec 1) (s : State) : Out :=
  asyncCmdOf s 0x34 10 (32 * e.toNat) sa.toNat 3 (pairNo sb) (chunkCheck false)
/-- TCVT (R270). -/
def execTcvt (sa : BitVec 8) (sb : BitVec 7) (e : BitVec 1) (s : State) : Out :=
  asyncCmdOf s 0x34 11 (32 * e.toNat) sa.toNat 5 (pairNo sb) tcvtCheck
/-- OFILL (R278). -/
def execOfill (sa : BitVec 8) (sb : BitVec 7) (e : BitVec 1) (s : State) : Out :=
  asyncCmdOf s 0x36 2 (32 * e.toNat) sa.toNat 4 (pairNo sb) ofillCheck
/-- OFILL.S24 (R279). -/
def execOfillS24 (sa : BitVec 8) (sb : BitVec 7) (e : BitVec 1) (s : State) : Out :=
  asyncCmdOf s 0x36 3 (32 * e.toNat) sa.toNat 3 (pairNo sb) s24Check
/-- OFILL.G (R350). -/
def execOfillG (sa : BitVec 8) (sb : BitVec 7) (e : BitVec 1) (s : State) : Out :=
  asyncCmdOf s 0x36 4 (32 * e.toNat) sa.toNat 5 (pairNo sb) ofillGCheck
/-- STREAM (R283). -/
def execStream (sa : BitVec 8) (sb : BitVec 7) (e mem : BitVec 1) (s : State) : Out :=
  asyncCmdOf s 0x39 0 (32 * e.toNat + mem.toNat) sa.toNat (if mem = 1 then 11 else 7) (pairNo sb) (streamCheck (mem == 1))

/-- The work of a TXU command. -/
def txuWork (m : Command) : EM Unit :=
  match m.opc, m.fn with
  | 0x34, 4 => tldWork m false
  | 0x34, 5 => tstWork m
  | 0x34, 6 => tldWork m true
  | 0x34, 7 => tcopyWork m
  | 0x34, 8 => tfillWork m
  | 0x34, 9 => tstcWork m
  | 0x34, 10 => tldcWork m
  | 0x34, 11 => tcvtWork m
  | 0x36, 2 => ofillWork m
  | 0x36, 3 => s24Work m
  | 0x36, 4 => ofillGWork m
  | _, _ => streamWork m

end Sys2Proof.Machine
end

