-- ==== Sys2Proof/Machine/Ixg.lean ====
section
/-! DEFINITION. Pattern records and runs (R333 to R343), and the commands of the index generator: PLOAD, PFREE, PGEN,
PMERGE (R336, R346 to R349). -/
namespace Sys2Proof.Machine

/-! ## Records (R333, R334, R342) -/

/-- A pattern record. -/
structure Pat where
  n : Nat
  k : Nat
  vcnt : Nat
  deg : Nat
  /-- FWDOFF, BASEOFF, INVOFF. -/
  offs : List Nat
  nwords : Nat
  vfmt : Nat
  unit : Bool
  c : List Word
  words : List Nat
  deriving DecidableEq, Repr

/-- Reading a record. -/
def patOf (bs : List Byte) : Pat :=
  let x := numOf (bs.take 64)
  let f := fun lo len => x / 2 ^ lo % 2 ^ len
  { n := f 0 32, k := f 32 32, vcnt := f 64 32, deg := f 96 32, offs := [f 128 8, f 136 8, f 144 8], nwords := f 152 7,
    vfmt := f 160 4, unit := f 164 1 == 1, c := (List.range 8).map fun i => BitVec.ofNat 32 (f (256 + 32 * i) 32),
    words := (List.range 96).map fun i => numOf ((bs.drop (64 + 2 * i)).take 2) }

/-- The offset of a section: 0 FWD, 1 BASE, 2 INV; 0 is absent. -/
def Pat.off (p : Pat) (sec : Nat) : Nat := p.offs.getD sec 0
/-- Whether a section is present. -/
def Pat.has (p : Pat) (sec : Nat) : Bool := p.off sec != 0
/-- First word of a section. -/
def Pat.first (p : Pat) (sec : Nat) : Nat := p.off sec - 32
/-- The word after a section's last. -/
def Pat.last (p : Pat) (sec : Nat) : Nat :=
  (p.offs.filter fun o => o > p.off sec).foldl (fun m o => min m (o - 32)) p.nwords
/-- Fields of word i. -/
def Pat.op (p : Pat) (i : Nat) : Nat := p.words.getD i 0 / 2048
def Pat.fd (p : Pat) (i : Nat) : Nat := p.words.getD i 0 / 256 % 8
def Pat.fa (p : Pat) (i : Nat) : Nat := p.words.getD i 0 / 16 % 16
def Pat.fb (p : Pat) (i : Nat) : Nat := p.words.getD i 0 % 16

/-- Whether the header fails R334 (its reserved fields included). -/
def headBad (bs : List Byte) : Bool :=
  let p := patOf bs
  let x := numOf (bs.take 64)
  let pres := p.offs.filter (· != 0)
  x / 2 ^ 159 % 2 != 0 || x / 2 ^ 165 % 2 ^ 91 != 0 || p.n == 0 || p.n > 2 ^ 31 || p.k == 0 || p.k > 2 ^ 31 ||
  !p.has 0 || (!p.has 1 && p.deg == 0) || p.deg > 4096 || p.nwords == 0 || p.nwords > 96 ||
  pres.any (fun o => o < 32 || o > 31 + p.nwords) || pres.eraseDups.length != pres.length ||
  !(p.unit || p.vfmt == 1 || p.vfmt == 2 || p.vfmt == 3 || p.vfmt == 4 || p.vfmt == 5 || p.vfmt == 10)

/-- Whether a field that R337 marks 0 is not zero, or the op is reserved or not allowed in the section. -/
def Pat.wordBad (p : Pat) (sec i : Nat) : Bool :=
  let o := p.op i
  let zd := o == 0 || (14 ≤ o && o ≤ 16) || o == 18 || o == 22 || o == 23
  let za := o == 0 || o == 16 || o == 18 || o == 23
  let zb := o == 0 || o == 1 || (14 ≤ o && o ≤ 18) || o == 23
  o ≥ 24 || (zd && p.fd i != 0) || (za && p.fa i != 0) || (zb && p.fb i != 0) ||
  (14 ≤ o && o ≤ 16 && sec != 0) || (o == 22 && sec != 2)

/-- Whether a skip at word i passes a LOOP or ENDL word or lands beyond the section. -/
def Pat.skipBad (p : Pat) (last i : Nat) : Bool :=
  let n := p.fd i + 1
  i + 1 + n ≥ last || (List.range n).any fun j => p.op (i + 1 + j) == 17 || p.op (i + 1 + j) == 18

/-- The first bad word of a section from word i, with its reason; depth is the number of open loops. -/
def Pat.scanSec (p : Pat) (sec last : Nat) : List Nat → Nat → Option (Nat × Nat)
  | [], depth => if depth = 0 then none else some (last - 1, 2)
  | i :: is, depth =>
    if p.wordBad sec i then some (i, 1)
    else if p.op i = 17 then (if depth = 4 then some (i, 2) else p.scanSec sec last is (depth + 1))
    else if p.op i = 18 then (if depth = 0 then some (i, 2) else p.scanSec sec last is (depth - 1))
    else if 19 ≤ p.op i ∧ p.op i ≤ 21 ∧ p.skipBad last i = true then some (i, 3)
    else p.scanSec sec last is depth

/-- The word and reason for which PLOAD refuses a record (R342). -/
def patBad (bs : List Byte) : Option (Nat × Nat) :=
  let p := patOf bs
  if headBad bs then some (0, 5)
  else
    match (List.range (96 - p.nwords)).find? fun j => p.words.getD (p.nwords + j) 0 != 0 with
    | some j => some (p.nwords + j, 1)
    | none =>
      let secs := ([0, 1, 2].filter p.has).map fun c => (p.first c, c)
      (List.range 96).findSome? fun st =>
        match secs.find? (·.1 == st) with
        | some e => p.scanSec e.2 (p.last e.2) ((List.range (p.last e.2 - st)).map (· + st)) 0
        | none => none

/-! ## Runs (R337 to R341) -/

/-- A generator context at the start of a command (R344). -/
def GenCtx.start (mode sec outer : Nat) : GenCtx :=
  { pc := 0, sec := sec, mode := mode, phase := false, outer := BitVec.ofNat 32 outer, steps := 0, last := 0,
    g := List.replicate 8 0, loops := [], sbuf := [], out := [], row := [], bases := [], acc := [], prog0 := 0, prog1 := 0 }

/-- A context enters a section for an outer index (R338). -/
def GenCtx.enter (k : GenCtx) (p : Pat) (sec x : Nat) : GenCtx :=
  { k with pc := p.first sec, sec := sec, steps := 0, g := BitVec.ofNat 32 x :: List.replicate 7 0, loops := [], sbuf := [],
           out := [] }

/-- A fault of a run: cause, word, reason (R343). -/
structure PatFault where
  cause : Cause
  word : Nat
  reason : Nat
  deriving DecidableEq, Repr

/-- An operand: G0 to G7, then C0 to C7. -/
def Pat.arg (p : Pat) (r : GenCtx) (code : Nat) : Word := if code < 8 then r.g.getD code 0 else p.c.getD (code - 8) 0

/-- The word of the ENDL that closes a loop whose body starts at word i; n bounds the search. -/
def Pat.endl (p : Pat) : Nat → Nat → Nat → Nat
  | 0, i, _ => i
  | n + 1, i, depth =>
    if p.op i = 18 then (if depth = 0 then i else p.endl n (i + 1) (depth - 1))
    else if p.op i = 17 then p.endl n (i + 1) (depth + 1)
    else p.endl n (i + 1) depth

/-- Emitting a value (R339, R340): below the extent, above the last one, at most 4,096 and at most cap. -/
def emit (lim cap w : Nat) (r : GenCtx) (v j : Nat) : Except PatFault GenCtx :=
  if v ≥ lim then .error { cause := .patternRange, word := w, reason := 0 }
  else if !r.out.isEmpty && decide (v ≤ r.last.toNat) then .error { cause := .patternOrder, word := w, reason := 0 }
  else if r.out.length ≥ 4096 then .error { cause := .patternLimit, word := w, reason := 6 }
  else if r.out.length ≥ cap then .error { cause := .patternLimit, word := w, reason := 10 }
  else .ok { r with out := (v, j, w) :: r.out, last := BitVec.ofNat 32 v }

/-- The first place from h on, modulo K, that is not taken; n bounds the probes. -/
def probe (k : Nat) (taken : List Nat) : Nat → Nat → Nat
  | 0, h => h
  | n + 1, h => if taken.contains h then probe k taken n ((h + 1) % k) else h

/-- Emitting a list of values. -/
def emits (lim cap w : Nat) : List Nat → GenCtx → Except PatFault GenCtx
  | [], r => .ok r
  | v :: vs, r =>
    match emit lim cap w r v 0 with
    | .ok r => emits lim cap w vs r
    | .error e => .error e

/-- FLUSH (R341). -/
def flush (lim cap w : Nat) (r : GenCtx) : Except PatFault GenCtx :=
  let taken := r.sbuf.foldl (fun s h => s ++ [probe lim s (s.length + 1) h]) []
  emits lim cap w (taken.foldl (fun l x => insertNat x l) []) { r with sbuf := [] }

/-- The value of an arithmetic pattern word; none for a division by zero (R337). -/
def patAlu (op : Nat) (d a b : Word) : Option Word :=
  match op with
  | 3 => some (a + b)
  | 4 => some (a - b)
  | 5 => some (a * b)
  | 6 => some (if a.ule b then a else b)
  | 7 => some (if a.ule b then b else a)
  | 8 => some (if b.toNat ≥ 32 then 0 else a <<< b.toNat)
  | 9 => some (if b.toNat ≥ 32 then 0 else a >>> b.toNat)
  | 10 => some (a &&& b)
  | 11 => if b = 0 then none else some (a / b)
  | 12 => if b = 0 then none else some (a % b)
  | _ => some (loWord (pmix (d.setWidth 64) (a.setWidth 64) (b.setWidth 64)))

/-- Executing one word: the run goes on, or has ended (R337, R338). -/
def Pat.exec (p : Pat) (cap : Nat) (r : GenCtx) : Except PatFault (GenCtx × Bool) :=
  let i := r.pc
  let o := p.op i
  let d := p.fd i
  let a := p.arg r (p.fa i)
  let b := p.arg r (p.fb i)
  let lim := if r.sec = 2 then p.n else p.k
  let go := fun (r : GenCtx) => (.ok ({ r with pc := i + 1 }, false) : Except PatFault (GenCtx × Bool))
  if o = 0 then .ok (r, true)
  else if o = 1 then go { r with g := r.g.set d a }
  else if o = 2 then go { r with g := r.g.set d (BitVec.ofNat 32 (16 * p.fa i + p.fb i)) }
  else if o ≤ 13 then
    match patAlu o (r.g.getD d 0) a b with
    | some v => go { r with g := r.g.set d v }
    | none => .error { cause := .patternRange, word := i, reason := 0 }
  else if o = 14 then (emit lim cap i r a.toNat 0).bind go
  else if o = 15 then
    if a.toNat ≥ p.k then .error { cause := .patternRange, word := i, reason := 0 }
    else if r.sbuf.length ≥ min 64 p.k then .error { cause := .patternLimit, word := i, reason := 8 }
    else go { r with sbuf := r.sbuf ++ [a.toNat] }
  else if o = 16 then (flush p.k cap i r).bind go
  else if o = 17 then
    if a = 0 then .ok ({ r with pc := p.endl 96 (i + 1) 0 + 1 }, false)
    else go { r with loops := (a, 0, i + 1) :: r.loops, g := r.g.set d 0 }
  else if o = 18 then
    match r.loops with
    | [] => go r
    | l :: ls =>
      if (l.2.1 + 1).ult l.1 then
        .ok ({ r with loops := (l.1, l.2.1 + 1, l.2.2) :: ls, g := r.g.set (p.fd (l.2.2 - 1)) (l.2.1 + 1), pc := l.2.2 }, false)
      else go { r with loops := ls }
  else if o ≤ 21 then
    let take := if o = 19 then a.ult b else if o = 20 then b.ule a else a == b
    .ok ({ r with pc := if take then i + 2 + d else i + 1 }, false)
  else if o = 22 then (emit lim cap i r a.toNat b.toNat).bind go
  else
    match r.loops with
    | [] => .ok (r, true)
    | l :: ls => .ok ({ r with loops := ls, pc := p.endl 96 l.2.2 0 + 1 }, false)

/-- One step of a run: the context after it, and whether the run has ended, its sort buffer then flushed (R338). The word
that ends an FWD run is named when it has not DEG emits (R339). -/
def Pat.step (p : Pat) (cap : Nat) (k : GenCtx) : Except PatFault (GenCtx × Bool) :=
  match p.exec cap k with
  | .error e => .error e
  | .ok (t, ended) =>
    let t := { t with steps := k.steps + 1 }
    if k.steps ≥ 65536 then .error { cause := .patternLimit, word := k.pc, reason := 7 }
    else if ended then
      match (if t.sbuf.isEmpty then .ok t else flush p.k cap k.pc t) with
      | .error e => .error e
      | .ok t =>
        if k.sec = 0 ∧ p.has 1 = false ∧ t.out.length ≠ p.deg then
          .error { cause := .patternLimit, word := k.pc, reason := 9 }
        else .ok (t, true)
    else if t.pc < p.first k.sec ∨ p.last k.sec ≤ t.pc then .error { cause := .patternLimit, word := k.pc, reason := 4 }
    else .ok (t, false)

/-- At most n further steps of a run. -/
def Pat.go (p : Pat) (cap : Nat) : Nat → GenCtx → Except PatFault GenCtx
  | 0, k => .ok k
  | n + 1, k =>
    match p.step cap k with
    | .error e => .error e
    | .ok (k, ended) => if ended then .ok k else p.go cap n k

/-- A run of a section for an outer index. -/
def Pat.run (p : Pat) (sec cap x : Nat) : Except PatFault GenCtx :=
  p.go cap 65537 ((GenCtx.start 0 sec x).enter p sec x)

/-- The value-index base of a row (R339). -/
def Pat.base (p : Pat) (row : Nat) : Except PatFault Nat :=
  if p.has 1 then
    match p.run 1 4096 row with
    | .ok r => .ok (r.g.getD 1 0).toNat
    | .error e => .error e
  else .ok (row * p.deg)

/-- The held fault of a run (R343). -/
def patStop {α : Type} (outer sec : Nat) (e : PatFault) : EM α :=
  eStop e.cause (BitVec.ofNat 64 outer) (64 * 6 + e.word * 2 ^ 9 + sec * 2 ^ 16 + e.reason * 2 ^ 18)

/-- A piece of a run inside a command. -/
def ePat {α : Type} (outer sec : Nat) (r : Except PatFault α) : EM α :=
  match r with
  | .ok r => pure r
  | .error e => patStop outer sec e

/-- The value index of an entry: a base and an ordinal, below VCNT, or the fault that names its word (R339, R340, R343). -/
def eIndex (p : Pat) (x sec base j w : Nat) : EM Nat :=
  if base + j ≥ p.vcnt then patStop x sec { cause := .patternRange, word := w, reason := 0 } else pure (base + j)

/-- The value indices of some entries of an outer index: each with its place in the entry list (R339, R340). -/
def eIndices (p : Pat) (inv : Bool) (x : Nat) (es : List ((Nat × Nat × Nat) × Nat)) : EM (List Nat) := do
  let b0 ← if inv then pure 0 else ePat x 1 (p.base x)
  es.mapM fun e => do
    let b ← if inv then ePat e.1.1 1 (p.base e.1.1) else pure b0
    eIndex p x (if inv then 2 else 0) b (if inv then e.1.2.1 else e.2) e.1.2.2

/-! ## PLOAD and PFREE (R335, R336) -/

/-- A pattern-handle word (R335). -/
def patAt (s : State) (g : Gang) (w : Word) (i : Nat) : Blk (List Byte) :=
  match s.ctx? g.ctx with
  | none => failAt .patternStale i
  | some c =>
    match c.patterns.find? (·.1 == w.toNat % 4096) with
    | some e => if e.2.2.1 && e.2.1 == w.toNat / 4096 then .ok e.2.2.2 else failAt .patternStale i
    | none => failAt .patternStale i

/-- PLOAD (R336, R342). -/
def execPload (sa : BitVec 8) (s : State) : Out :=
  syncCmd s sa.toNat 3 fun c g ps =>
    let va := pairOf (ps.getD 0 0) (ps.getD 1 0)
    let w := (ps.getD 2 0).toNat
    if va.toNat % 64 ≠ 0 then uniFault c g 5 va (.align, 0) s
    else
      match s.loadBlock (agentOf s c g) va 16 with
      | (.error e, s) => uniFault c g 5 e.2 e.1 s
      | (.ok bs, s) =>
        match patBad bs with
        | some e => trapBlock c g (.patternLimit, e.1 * 2 ^ 9 + e.2 * 2 ^ 18) s
        | none =>
          match s.ctx? g.ctx with
          | none => trapBlock c g (.patternStale, 2 + 256) s
          | some x =>
            let e := entryOf x.patterns (w % 4096)
            if w / 4096 ≠ 0 ∨ w % 4096 ≥ 1024 ∨ e.2 = true then trapBlock c g (.patternStale, 2 + 256) s
            else
              let s := s.modCtx g.ctx fun x => { x with patterns := setEntry x.patterns (w % 4096, e.1, true, bs) }
              done c (s.modGang c.gid fun g => g.setS (sa.toNat + 2) (BitVec.ofNat 32 (w % 4096 + e.1 * 4096)))

/-- PFREE (R336). -/
def execPfree (sa : BitVec 8) (s : State) : Out :=
  syncCmd s sa.toNat 1 fun c g ps =>
    let w := (ps.getD 0 0).toNat
    match patAt s g (ps.getD 0 0) 0 with
    | .error e => trapBlock c g e s
    | .ok bs =>
      done c (s.modCtx g.ctx fun x =>
        { x with patterns := setEntry x.patterns (w % 4096, (w / 4096 + 1) % 2 ^ 20, false, bs) })

/-! ## PGEN (R346 to R348) -/

/-- The checks of PGEN. -/
def pgenCheck (mat : Bool) : Gang → State → Cur → List Word → Blk Captured := fun g s c ps => do
  let t := hmodT c
  let bs ← patAt s g (ps.getD 0 0) 0
  let p := patOf bs
  need (!t || p.has 2) .patternNoinv 0
  let m := (ps.getD 2 0).toNat
  need (decide ((ps.getD 1 0).toNat + m ≤ if t then p.k else p.n)) .patternRange 1
  need (m != 0) .patternRange 2
  if mat then pure ()
  else do
    let x ← tileAt s g (ps.getD 3 0) 3
    need ((x.fmt == 6 || x.fmt == 7) && decide (m ≤ x.rows)) .tileBad 3
  let a := (pairOf (ps.getD 4 0) (ps.getD 5 0)).toNat
  if mat then need (a % 16 == 0) .align 4
  else do
    need (ps.getD 4 0 == 0) .tileBad 4
    need (ps.getD 5 0 == 0) .tileBad 5
  return { shape := [], pattern := bs }

/-- The rows whose BASE a row of entries needs: its own for FWD, that of each entry for INV (R339, R340). -/
def baseRows (inv : Bool) (x : Nat) (es : List (Nat × Nat × Nat)) : List Nat := if inv then es.map (·.1) else [x]

/-- The base of entry e of a row. -/
def baseOf (inv : Bool) (bases : List Nat) (e : Nat) : Nat := bases.getD (if inv then e else 0) 0

/-- The context of the next outer index. -/
def GenCtx.nextRow (k : GenCtx) (p : Pat) (sec : Nat) : GenCtx :=
  { k with outer := k.outer + 1, row := [], bases := [] }.enter p sec (k.outer.toNat + 1)

/-- One step of a PGEN: of the FWD or INV run of its row, then of the BASE runs that its value indices need (R338, R339).
Once the row's runs are complete, fin goes on with it. -/
def pgenStep (p : Pat) (inv vi : Bool) (cap : Nat) (k : GenCtx) (fin : GenCtx → EM (Option GenCtx)) : EM (Option GenCtx) := do
  let x := k.outer.toNat
  let r ← ePat (if k.sec = 1 ∧ inv = true then k.last.toNat else x) k.sec (p.step (if k.sec = 1 then 4096 else cap) k)
  if !r.2 then return some r.1
  else
    let k := if k.sec = 1 then { r.1 with bases := k.bases ++ [(r.1.g.getD 1 0).toNat] }
      else { r.1 with row := r.1.out.reverse, bases := [] }
    let rows := baseRows inv x k.row
    if !vi then fin k
    else if !p.has 1 then fin { k with bases := rows.map (· * p.deg) }
    else
      match rows[k.bases.length]? with
      | some b => return some { k.enter p 1 b with last := if inv then BitVec.ofNat 32 b else k.last }
      | none => fin k

/-- A step of a PGEN without MAT (R347); the row is written whole once its runs have completed. -/
def pgenRow (m : Command) (p : Pat) (k : GenCtx) : EM (Option GenCtx) := do
  let h := (m.p 3).toNat
  let t ← eTile m h
  let vi := m.x / 2 % 2 == 1
  pgenStep p m.t vi t.cols k fun k => do
    let x := k.outer.toNat
    let q := x - (m.p 1).toNat
    let sec := if m.t then 2 else 0
    let vs ← (k.row.zip (List.range k.row.length)).mapM fun e =>
      if vi then eIndex p x sec (baseOf m.t k.bases e.2) (if m.t then e.1.2.1 else e.2) e.1.2.2 else pure e.1.1
    eEach (List.range t.cols) fun e => ePut m h (q * t.cols + e) (vs.getD e 0xFFFFFFFF)
    eCount vs.length
    if q + 1 < (m.p 2).toNat then return some ({ k with prog0 := k.prog0 + vs.length }.nextRow p sec) else return none

/-- Inserting an entry (column, row, value index) behind all of its column (R348). -/
def insertCol (x : Nat × Nat × Nat) : List (Nat × Nat × Nat) → List (Nat × Nat × Nat)
  | [] => [x]
  | y :: ys => if x.1 < y.1 then x :: y :: ys else y :: insertCol x ys

/-- Entries of a row added to the transposed list. -/
def addRow (row : List (Nat × Nat × Nat)) (x base : Nat) (acc : List (Nat × Nat × Nat)) : List (Nat × Nat × Nat) :=
  (row.zip (List.range row.length)).foldl (fun l e => insertCol (e.1.1, x, base + e.2) l) acc

/-- A step of a PGEN with MAT (R348): of a run of the counting pass, of a run of the writing pass, or, once that pass has
every entry, the column pointers and then one entry after another. -/
def pgenMat (m : Command) (p : Pat) (k : GenCtx) : EM (Option GenCtx) := do
  let o := (m.p 1).toNat
  let n := (m.p 2).toNat
  let x := k.outer.toNat
  if !k.phase then
    pgenStep p false false 4096 k fun k => do
      let cnt := k.prog1 + k.row.length
      if cnt > (m.p 3).toNat then
        patStop x 0 { cause := .patternLimit, word := (k.row.getLastD (0, 0, 0)).2.2, reason := 10 }
      else if x + 1 < o + n then return some ({ k with prog1 := cnt }.nextRow p 0)
      else return some ({ k with outer := BitVec.ofNat 32 o, phase := true, prog1 := cnt, row := [] }.enter p 0 o)
  else if x < o + n then
    pgenStep p false true 4096 k fun k => do
      let b := baseOf false k.bases 0
      eEach (List.range k.row.length) fun e => do
        let _ ← eIndex p x 0 b e (k.row.getD e (0, 0, 0)).2.2
      return some ({ k with acc := addRow k.row x b k.acc }.nextRow p 0)
  else
    let a := pairOf (m.p 4) (m.p 5)
    let P := 16 * ((4 * (p.k + 1) + 15) / 16)
    if k.prog0 = 0 then
      eEach (List.range (p.k + 1)) fun c =>
        eStore m (a + BitVec.ofNat 64 (4 * c)) (bytesOf 4 (k.acc.filter (·.1 < c)).length)
    match k.acc[k.prog0]? with
    | none => return none
    | some e =>
      eStore m (a + BitVec.ofNat 64 (P + 8 * k.prog0)) (bytesOf 4 e.2.1 ++ bytesOf 4 e.2.2)
      eCount 1
      return if k.prog0 + 1 < k.acc.length then some { k with prog0 := k.prog0 + 1 } else none

/-! ## PMERGE (R349) -/

/-- The checks of PMERGE. -/
def pmergeCheck : Gang → State → Cur → List Word → Blk Captured := fun g s _ ps => do
  let ia ← tileAt s g (ps.getD 0 0) 0
  need (ia.fmt == 7) .tileBad 0
  let va ← tileAt s g (ps.getD 1 0) 1
  need (va.fmt == 1 && va.rows == ia.rows && va.cols == ia.cols) .tileBad 1
  let ib ← tileAt s g (ps.getD 2 0) 2
  need (ib.fmt == 7 && ib.rows == ia.rows) .tileBad 2
  let vb ← tileAt s g (ps.getD 3 0) 3
  need (vb.fmt == 1 && vb.rows == ib.rows && vb.cols == ib.cols) .tileBad 3
  let ins := [ia.hnd, va.hnd, ib.hnd, vb.hnd]
  let ic ← tileAt s g (ps.getD 4 0) 4
  need (ic.fmt == 7 && ic.rows == ia.rows && decide (ia.cols + ib.cols ≤ ic.cols) && !ins.contains ic.hnd) .tileBad 4
  let vc ← tileAt s g (ps.getD 5 0) 5
  need (vc.fmt == 1 && vc.rows == ic.rows && vc.cols == ic.cols && !ins.contains vc.hnd) .tileBad 5
  let nc ← tileAt s g (ps.getD 6 0) 6
  need (nc.fmt == 7 && nc.rows == ia.rows && nc.cols == 1 && !ins.contains nc.hnd && nc.hnd != ic.hnd) .tileBad 6
  need (decide ((ps.getD 7 0).toNat < 4)) .tileBad 7
  return noCapture

/-- A row of an index tile before its first 0xFFFFFFFF, with its values. -/
def mergeRow (i v : Tile) (r : Nat) : List (Nat × Word) :=
  ((List.range i.cols).map fun c => (i.get (r * i.cols + c), BitVec.ofNat 32 (v.get (r * v.cols + c)))).takeWhile
    fun e => e.1 != 0xFFFFFFFF

/-- Strictly increasing first components. -/
def rising : List (Nat × Word) → Bool
  | x :: y :: r => decide (x.1 < y.1) && rising (y :: r)
  | _ => true

/-- The operation of PMERGE on values present in both inputs. -/
def mergeOp (op : Nat) (a b : Word) : Word × Flags :=
  match op with
  | 0 => let r := f32.fadd .rn 0 a.toNat b.toNat; (BitVec.ofNat 32 r.1, r.2)
  | 1 => let r := f32.fsub .rn 0 a.toNat b.toNat; (BitVec.ofNat 32 r.1, r.2)
  | 2 => let r := f32.fmul .rn 0 a.toNat b.toNat; (BitVec.ofNat 32 r.1, r.2)
  | _ => (fmax32 a b, 0)

/-- The value of an entry present only in B (R349). -/
def mergeOnlyB (op : Nat) (b : Word) : Word :=
  if op = 1 then (if (dec32 b).isNan then nan32 else neg32 b) else b

/-- The merged row, with flags. -/
def mergeGo (op : Nat) (and_ kz : Bool) : Nat → List (Nat × Word) → List (Nat × Word) → List (Nat × Word) × Flags
  | 0, _, _ => ([], 0)
  | n + 1, xs, ys =>
    match xs, ys with
    | [], [] => ([], 0)
    | x :: xs, [] =>
      let r := mergeGo op and_ kz n xs []
      (if and_ then r.1 else x :: r.1, r.2)
    | [], y :: ys =>
      let r := mergeGo op and_ kz n [] ys
      (if and_ then r.1 else (y.1, mergeOnlyB op y.2) :: r.1, r.2)
    | x :: xs, y :: ys =>
      if x.1 < y.1 then
        let r := mergeGo op and_ kz n xs (y :: ys)
        (if and_ then r.1 else x :: r.1, r.2)
      else if y.1 < x.1 then
        let r := mergeGo op and_ kz n (x :: xs) ys
        (if and_ then r.1 else (y.1, mergeOnlyB op y.2) :: r.1, r.2)
      else
        let v := mergeOp op x.2 y.2
        let r := mergeGo op and_ kz n xs ys
        (if !kz && abs32 v.1 == 0 then r.1 else (x.1, v.1) :: r.1, v.2 ||| r.2)

/-- The tile of word k, whose row r is read. -/
def eRow (m : Command) (k r : Nat) : EM Tile := do
  let t ← eTile m (m.p k).toNat
  eSound t fun e => e / t.cols == r
  return t

/-- One row of PMERGE (R349). -/
def pmergeRow (m : Command) (k : GenCtx) : EM (Option GenCtx) := do
  let r := k.outer.toNat
  let ia ← eRow m 0 r
  let va ← eRow m 1 r
  let ib ← eRow m 2 r
  let vb ← eRow m 3 r
  let ic ← eTile m (m.p 4).toNat
  let a := mergeRow ia va r
  let b := mergeRow ib vb r
  if !(rising a && rising b) then patStop r 3 { cause := .patternOrder, word := 0, reason := 0 }
  else
    let o := mergeGo (m.p 7).toNat (m.x % 2 == 1) (m.x / 2 % 2 == 1) (a.length + b.length + 1) a b
    eEach (List.range ic.cols) fun c => do
      ePut m (m.p 4).toNat (r * ic.cols + c) (match o.1[c]? with | some e => e.1 | none => 0xFFFFFFFF)
      ePut m (m.p 5).toNat (r * ic.cols + c) (match o.1[c]? with | some e => e.2.toNat | none => 0)
    ePut m (m.p 6).toNat r o.1.length
    eFlags o.2
    eCount o.1.length
    if r + 1 < ia.rows then return some { k with outer := k.outer + 1, prog0 := k.prog0 + o.1.length } else return none

/-! ## The instructions -/

/-- PGEN (R347). -/
def execPgen (sa : BitVec 8) (sb : BitVec 7) (e v : BitVec 1) (s : State) : Out :=
  asyncCmdOf s 0x38 0 (32 * e.toNat + 2 * v.toNat) sa.toNat 6 (pairNo sb) (pgenCheck false)
/-- PGEN with MAT (R348). -/
def execPgenMat (sa : BitVec 8) (sb : BitVec 7) (e : BitVec 1) (s : State) : Out :=
  asyncCmdOf s 0x38 0 (32 * e.toNat + 1) sa.toNat 6 (pairNo sb) (pgenCheck true)
/-- PMERGE (R349). -/
def execPmerge (sa : BitVec 8) (sb : BitVec 7) (e k n : BitVec 1) (s : State) : Out :=
  asyncCmdOf s 0x38 1 (32 * e.toNat + 2 * k.toNat + n.toNat) sa.toNat 8 (pairNo sb) pmergeCheck

/-- The generator context with which a PGEN, PMERGE or SPMM begins (R344). -/
def Command.genStart (m : Command) : GenCtx :=
  if m.opc = 0x38 ∧ m.fn = 1 then GenCtx.start 2 3 0
  else
    let sec := if m.t then 2 else 0
    let x := (m.p 1).toNat
    (GenCtx.start (if m.isMatrix then 3 else m.x % 2) sec x).enter (patOf m.pattern) sec x

/-- What the engine holds beside a context's words, formed again from them and the pattern by the same runs (R345). -/
def Command.rebuild (m : Command) (k : GenCtx) : GenCtx :=
  let p := patOf m.pattern
  let x := k.outer.toNat
  let sec := if m.t then 2 else 0
  let ok := fun (r : Except PatFault GenCtx) => match r with | .ok r => r | .error _ => k
  if m.opc = 0x38 ∧ m.fn = 1 then k
  else
    let main := (ok (p.run sec 4096 x)).out.reverse
    let row := if k.sec = 1 then main else []
    let o := (m.p 1).toNat
    let idx := fun i => match p.base i with | .ok b => b | .error _ => 0
    { k with
      out := if k.sec = 1 ∨ m.isMatrix = true then [] else (ok (p.go 4096 k.steps ((GenCtx.start 0 sec x).enter p sec x))).out
      row := row
      bases := if m.t && k.sec == 1 then ((row.map (·.1)).takeWhile (· < k.last.toNat)).map idx else []
      acc := if k.phase then
          (List.range (x - o)).foldl (fun l i => addRow (ok (p.run 0 4096 (o + i))).out.reverse (o + i) (idx (o + i)) l) []
        else [] }

/-- One stretch of an IXG command: a step of a PGEN, a row of a PMERGE (R345). -/
def ixgWork (m : Command) (k : GenCtx) : EM (Option GenCtx) :=
  if m.fn = 1 then pmergeRow m k
  else if m.x % 2 = 1 then pgenMat m (patOf m.pattern) k
  else pgenRow m (patOf m.pattern) k

end Sys2Proof.Machine
end

