-- ==== Sys2Proof/Machine/Matrix.lean ====
section
/-! DEFINITION. Matrix steps (R280, R281) and SPMM (R351, R352). -/
namespace Sys2Proof.Machine

/-! ## MMA, MMAS, MMAT -/

/-- Requiring that a slot a step reads is not claimed and holds this kind, or is being filled with it (R195). -/
def slotFor (x : Slot) (kind i : Nat) : Blk Unit := need (x.st != 1 && x.kind == kind) .opndState i

/-- The formats a step accepts (R280). -/
def stepFmts (fn a b : Nat) : Bool :=
  let f8 := fun k => k == 4 || k == 5
  match fn with
  | 0 => (f8 a && f8 b) || (a == 10 && b == 10) || (a == 2 && b == 2) || (a == 3 && b == 3)
  | 1 => (f8 a && f8 b) || (a == 10 && b == 10)
  | _ => a == 12 && b == 10

/-- The accumulator word: a level-A tile of the issuing core (R280). -/
def accAt (s : State) (g : Gang) (w : Word) (i : Nat) : Blk Tile := do
  let t ← tileAt s g w i
  need (t.lvl == 2 && t.core == g.core) .tileBad i
  return t

/-- The checks of a matrix step. -/
def stepCheck (fn : Nat) : Gang → State → Cur → List Word → Blk Captured := fun g s _ ps => do
  let fl := (ps.getD 3 0).toNat
  let fa := fl % 16
  let fb := fl / 16 % 16
  let a ← slotAt s g (ps.getD 0 0) 0
  slotFor a (if fn = 1 then 1 else 0) 0
  let h := (ps.getD 1 0).toNat
  let bs ← (if fn = 2 then [h, h + 1, h + 2, h + 3] else [h]).mapM fun k => do
    let b ← slotAt s g (BitVec.ofNat 32 k) 1
    slotFor b 2 1
    return b
  let _ ← accAt s g (ps.getD 2 0) 2
  need (decide (fl / 1024 = 0)) .tileBad 3
  need (a.fmt == fa && bs.all (·.fmt == fb) && stepFmts fn fa fb) .opndState 3
  return noCapture

/-- A(i, k) of an A slot of K elements of a format, dense or sparse: what a sparse row does not keep is 0 (R193, R281). -/
def aElem (a : Slot) (sparse : Bool) (fmt i k : Nat) : Nat :=
  if !sparse then slotElem a.data (elemBits fmt) i k
  else
    let live := (List.range 24).filter (bit a.bmp ·)
    if !live.contains (k / 4) then 0
    else
      let q := (live.takeWhile (· != k / 4)).length
      let ix := slotElem a.data 4 i (96 + q)
      if k % 4 = ix % 4 then slotElem a.data 8 i (2 * q)
      else if k % 4 = ix / 4 then slotElem a.data 8 i (2 * q + 1)
      else 0

/-- The entries (k, element bits) of row i of an A slot (R193, R281). -/
def aRow (a : Slot) (sparse : Bool) (fmt i : Nat) : List (Nat × Nat) :=
  (List.range (768 / elemBits fmt)).map fun k => (k, aElem a sparse fmt i k)

/-- B(k, j) of the slots of a step. -/
def bElem (bs : List Slot) (fmt k j : Nat) : Nat :=
  match bs with
  | [b] => slotElem b.data (elemBits fmt) j k
  | _ =>
    match bs[k / 96]? with
    | some b => slotElem b.data (elemBits fmt) j (k % 96)
    | none => 0

/-- One output element: the window sum over the row's entries, and flags (R41, R42, R281). -/
def stepElem (fa fb : Nat) (acc : Word) (row : List (Nat × Nat)) (b : Nat → Nat) : Word × Flags :=
  let ps := row.map fun e =>
    let x := elemEx fa e.2
    let y := elemEx fb (b e.1)
    (x.1.mul y.1, x.2 ||| y.2)
  let r := windowAdd acc (ps.map (·.1))
  (r.1, ps.foldl (fun f p => f ||| p.2) r.2)

/-- A matrix step (R281), with the formats of its flags word. -/
def stepWork (m : Command) : EM Unit := do
  let all := fun _ => true
  let fa := (m.p 3).toNat % 16
  let fb := (m.p 3).toNat / 16 % 16
  let a ← eSlot m all (m.p 0).toNat
  let h := (m.p 1).toNat
  let bs ← (if m.fn = 2 then [h, h + 1, h + 2, h + 3] else [h]).mapM (eSlot m all)
  let c := (m.p 2).toNat
  let zero := bit (m.p 3) 8
  let t ← eTile m c
  eEach (List.range 128) fun i =>
    let row := aRow a (m.fn == 1) fa i
    eEach (List.range 128) fun j => do
      let acc ← if zero then pure 0 else eElem t (128 * i + j)
      let r := stepElem fa fb (BitVec.ofNat 32 acc) row fun k => bElem bs fb k j
      ePut m c (128 * i + j) r.1.toNat
      eFlags r.2

/-- MMA (R281). -/
def execMma (sa : BitVec 8) (sb : BitVec 7) (e : BitVec 1) (s : State) : Out :=
  asyncCmdOf s 0x37 0 (32 * e.toNat) sa.toNat 4 (pairNo sb) (stepCheck 0)
/-- MMAS (R281). -/
def execMmas (sa : BitVec 8) (sb : BitVec 7) (e : BitVec 1) (s : State) : Out :=
  asyncCmdOf s 0x37 1 (32 * e.toNat) sa.toNat 4 (pairNo sb) (stepCheck 1)
/-- MMAT (R281). -/
def execMmat (sa : BitVec 8) (sb : BitVec 7) (e : BitVec 1) (s : State) : Out :=
  asyncCmdOf s 0x37 2 (32 * e.toNat) sa.toNat 4 (pairNo sb) (stepCheck 2)

/-! ## SPMM -/

/-- The checks of SPMM (R351). -/
def spmmCheck : Gang → State → Cur → List Word → Blk Captured := fun g s c ps => do
  let tr := hmodT c
  let bs ← patAt s g (ps.getD 0 0) 0
  let p := patOf bs
  need (!tr || p.has 2) .patternNoinv 0
  need (decide ((ps.getD 1 0).toNat < if tr then p.k else p.n)) .patternRange 1
  let _ ← accAt s g (ps.getD 2 0) 2
  let fl := (ps.getD 3 0).toNat
  let fb := fl % 16
  let slot := fl / 1024 % 2 == 1
  need (fl / 16 % 16 == 0 && decide (fl / 2 ^ 24 = 0) && (slot || fl / 2048 % 2 ^ 13 == 0)) .tileBad 3
  need (fb == 2 || fb == 3 || fb == 4 || fb == 5 || fb == 10 || (fb == 1 && !slot)) .tileBad 3
  if slot then
    let b ← slotAt s g (ps.getD 4 0) 4
    slotFor b 2 4
    need (b.fmt == fb) .opndState 4
    if fb = 2 ∨ fb = 3 then
      let b1 ← slotAt s g (ps.getD 4 0 + 1) 4
      slotFor b1 2 4
      need (b1.fmt == fb) .opndState 4
    else pure ()
  else
    let t ← tileAt s g (ps.getD 4 0) 4
    need (t.fmt == fb && decide ((if tr then p.n else p.k) ≤ t.rows) && decide (t.cols ≤ 128)) .tileBad 4
  need (p.unit || (pairOf (ps.getD 5 0) (ps.getD 6 0)).toNat % (elemBits p.vfmt / 8) == 0) .align 5
  return { shape := [], pattern := bs }

/-- The exact value of an entry (R339, R352). -/
def spmmVal (m : Command) (p : Pat) (vi : Nat) : EM Ex := do
  if p.unit then return Ex.ofInt 1
  else
    let w := elemBits p.vfmt
    let x ← eLoadElem m (pairOf (m.p 5) (m.p 6) + BitVec.ofNat 64 (vi * (w / 8))) 0 w
    return (elemEx p.vfmt x).1

/-- Adding a run's window sum to row i of the accumulator (R352). -/
def spmmRun (m : Command) (i : Nat) (es : List (Ex × Nat)) (cols : Nat) (b : Nat → Nat → EM Ex) : EM Unit := do
  let h := (m.p 2).toNat
  let t ← eTile m h
  eEach (List.range cols) fun j => do
    let acc ← eElem t (128 * i + j)
    let ps ← es.mapM fun e => do
      let y ← b e.2 j
      return e.1.mul y
    let r := windowAdd (BitVec.ofNat 32 acc) ps
    ePut m h (128 * i + j) r.1.toNat
    eFlags r.2
  eMod fun s => s.bump m.core 12 1

/-- The accumulator's rows that ZERO clears (R352). -/
def spmmZero (m : Command) (rows : List Nat) : EM Unit :=
  if bit (m.p 3) 8 then eEach rows fun i => eEach (List.range 128) fun j => ePut m (m.p 2).toNat (128 * i + j) 0
  else pure ()

/-- Run q of an outer index: the context of its section, the entries of the run with their values, and whether more
follow (R352). Only the run's own value indices are needed. -/
def spmmEntries (m : Command) (p : Pat) (k : GenCtx) (q : Nat) : EM (GenCtx × List (Ex × Nat) × Bool) := do
  let x := k.outer.toNat
  let sec := if m.t then 2 else 0
  let r ← ePat x sec (p.run sec 4096 x)
  let es := r.out.reverse
  let run := ((es.zip (List.range es.length)).drop (96 * q)).take 96
  let vis ← if p.unit || run.isEmpty then pure (run.map fun _ => 0) else eIndices p m.t x run
  let vs ← vis.mapM (spmmVal m p)
  return ({ r with mode := k.mode, outer := k.outer, out := [] }, vs.zip (run.map (·.1.1)), decide (96 * (q + 1) < es.length))

/-- One run of an SPMM (R345, R352): PROG0 counts the entries of the outer index that have been added. -/
def spmmWork (m : Command) (k : GenCtx) : EM (Option GenCtx) := do
  let p := patOf m.pattern
  let o := (m.p 1).toNat
  let x := k.outer.toNat
  let fl := (m.p 3).toNat
  let fb := fl % 16
  let w := elemBits fb
  if m.slotMode then
    let row := fl / 2 ^ 17 % 128
    spmmZero m [row]
    let e ← spmmEntries m p k (fl / 2 ^ 11 % 64)
    let n := e.2.1.length
    let per := 768 / w
    let bs ← (m.reads.zip (List.range m.reads.length)).mapM fun h =>
      eSlot m (fun b => decide (b % 96 * 8 < (n - per * h.2) * w)) h.1
    if n = 0 then return none
    else
      spmmRun m row ((e.2.1.map (·.1)).zip (List.range n)) 128 fun pos j =>
        match bs[pos / per]? with
        | some y => pure (elemEx fb (slotElem y.data w j (pos % per))).1
        | none => pure (Ex.ofInt 0)
      return none
  else
    if x = o ∧ k.prog0 = 0 then spmmZero m (List.range 128)
    let t ← eTile m (m.p 4).toNat
    let e ← spmmEntries m p k (k.prog0 / 96)
    if e.2.1.isEmpty then pure ()
    else
      spmmRun m (x - o) e.2.1 t.cols fun r j => do
        let y ← eElem t (r * t.cols + j)
        pure (elemEx fb y).1
    if e.2.2 then return some { e.1 with prog0 := k.prog0 + 96 }
    else if x + 1 < (if m.t then p.k else p.n) ∧ x + 1 < o + 128 then
      return some { e.1 with outer := k.outer + 1, prog0 := 0 }
    else return none

/-- SPMM (R351, R352). -/
def execSpmm (sa : BitVec 8) (sb : BitVec 7) (e : BitVec 1) (s : State) : Out :=
  asyncCmdOf s 0x37 3 (32 * e.toNat) sa.toNat 7 (pairNo sb) spmmCheck

end Sys2Proof.Machine
end

