-- ==== Sys2Proof/Machine/Copy.lean ====
section
/-! DEFINITION. The copy engines and the snapshot controller (R326 to R330, R222), and the start of an engine command
(R254). -/
namespace Sys2Proof.Machine

/-! ## HCOPY (R326, R327) -/

/-- A pair of block words. -/
def pairAt (ps : List Word) (k : Nat) : Nat := (pairOf (ps.getD k 0) (ps.getD (k + 1) 0)).toNat

/-- The checks of HCOPY. -/
def hcopyCheck : Gang → State → Cur → List Word → Blk Captured := fun _ _ _ ps => do
  need (pairAt ps 0 % 16 == 0) .align 0
  need (pairAt ps 2 % 16 == 0) .align 2
  need (pairAt ps 4 % 16 == 0) .align 4
  need (decide (pairAt ps 4 ≤ 2 ^ 40)) .tileBad 4
  return noCapture

/-- A copy engine's read of a sector, at home. -/
def State.copyRd (s : State) (ag : Agent) (va : DWord) : Except AFault (List Byte) × State :=
  match s.checkVa ag va false (fun _ => true) with
  | (.error e, s) => (.error (e, 0), s)
  | (.ok t, s) =>
    match (if isHbm t.pa && !t.lattice then s.filterCheck ag (t.pa / 16) (BitVec.allOnes 16) true else (none, s)) with
    | (some e, s) => (.error (.race, 0), s.logRace ag va (t.pa / 16) (BitVec.allOnes 16) true e)
    | (none, s) =>
      if !isHbm t.pa then (.ok (s.ioRd t.pa 16), s)
      else
        match s.poisonAt (t.pa / 16) with
        | some k => (.error (.eccUncorr, eccInfo k), s)
        | none => (.ok (s.homeRd t.pa 16), s)

/-- A copy engine's write of a sector, at home. -/
def State.copyWr (s : State) (ag : Agent) (va : DWord) (bs : List Byte) : Except AFault Unit × State :=
  match s.storeCheck ag va 16 (fun _ => true) with
  | (.error e, s) => (.error e, s)
  | (.ok t, s) => (.ok (), if isHbm t.pa then s.homeWr t.pa bs else s.ioWr t.pa bs)

/-- HCOPY, sector by sector (R327). -/
def hcopyWork (m : Command) : EM Unit := do
  let src := pairAt m.params 0
  let dst := pairAt m.params 2
  let n := pairAt m.params 4 / 16
  let order := if dst ≤ src then List.range n else (List.range n).reverse
  eEach order fun k => do
    let s ← eGet
    let ag := s.cmdAgent m
    let a := BitVec.ofNat 64 (src + 16 * k)
    let b := BitVec.ofNat 64 (dst + 16 * k)
    let bs ← eAccess a (served ag a.toNat fun s => s.copyRd ag a)
    eAccess b (served ag b.toNat fun s => s.copyWr ag b bs)
    eCount 1

/-- HCOPY (R326). -/
def execHcopy (sa sb : BitVec 7) (e b : BitVec 1) (s : State) : Out :=
  asyncCmdOf s 0x39 1 (32 * e.toNat + b.toNat) (pairNo sa) 6 (pairNo sb) hcopyCheck

/-! ## SNAP (R329, R330) -/

/-- The checks of SNAP. -/
def snapCheck : Gang → State → Cur → List Word → Blk Captured := fun _ _ _ ps => do
  let base := pairAt ps 0
  let len := pairAt ps 2
  let dst := pairAt ps 4
  need (base % 65536 == 0) .align 0
  need (len % 65536 == 0 && decide (len ≤ 2 ^ 36)) .align 2
  need (len != 0) .tileBad 2
  need (dst % 65536 == 0) .align 4
  need (!(decide (dst < base + len) && decide (base < dst + len))) .tileBad 4
  return noCapture

/-- SNAP (R329). -/
def execSnap (sa sb : BitVec 7) (e : BitVec 1) (s : State) : Out :=
  asyncCmdOf s 0x39 2 (32 * e.toNat) (pairNo sa) 6 (pairNo sb) snapCheck

/-- The blocks of a SNAP: range pages are device-owned HBM pages, destination pages ordinary ones (R330). -/
def snapBlocks (m : Command) : EM (List SnapBlock) :=
  (List.range (pairAt m.params 2 / 65536)).mapM fun k => do
    let s ← eGet
    let ag := s.cmdAgent m
    let a := BitVec.ofNat 64 (pairAt m.params 0 + 65536 * k)
    let b := BitVec.ofNat 64 (pairAt m.params 4 + 65536 * k)
    let own := fun t : Tr => isHbm t.pa && !bit t.leaf.pte 4
    let x ← eAccess a fun s => match s.checkPage ag a false own with
      | (.error e, s) => (.error (e, 0), s)
      | (.ok t, s) => (.ok t, s)
    let y ← eAccess b fun s => match s.checkPage ag b true (fun t => own t && !t.lattice) with
      | (.error e, s) => (.error (e, 0), s)
      | (.ok t, s) => (.ok t, s)
    return { src := x.pa, dst := y.pa, copied := false }

/-- A SNAP starts: its blocks are known, and the cut comes next. -/
def snapStart (m : Command) : EM Unit := do
  let bs ← snapBlocks m
  eMod fun s => { s with snap := some { cid := m.cid, cut := false, blocks := bs } }

/-- SNAP_CUT (R222, R330): every dirty line of the range is written back, and all dies change colour at once. -/
def execSnapCut (s : State) : Out :=
  match s.snap with
  | none => .next s
  | some n =>
    if n.cut then .next s
    else
      let hit := fun x : Sector => x.dirty != 0 && n.blocks.any fun b => b.src ≤ 16 * x.sect && 16 * x.sect < b.src + 65536
      let s := (s.l1.filter hit).foldl State.wbL1 s
      let s := (s.quads.filter hit).foldl State.wbQuad s
      let s := (s.l2.filter hit).foldl State.wbL2 s
      .next { s with colours := ~~~s.colours, snap := some { n with cut := true } }

/-- SNAP_BLOCK_COPY (R330): the next block in ascending order; after the last the command has performed its work. -/
def execSnapBlockCopy (s : State) : Out :=
  match s.snap with
  | none => .next s
  | some n =>
    if !n.cut then .next s
    else
      let s := match n.blocks.find? fun b => !b.copied with
        | some b => s.copyBlock b
        | none => s
      match s.snap with
      | none => .next s
      | some n =>
        if n.blocks.all (·.copied) then
          .next (({ s with snap := none } : State).modCmd n.cid fun m => { m with st := .performed, count := n.blocks.length })
        else .next s

/-! ## Starting a command -/

/-- A stretch of an IXG command or SPMM: the command goes on from its generator context (R344, R345). -/
def State.stretch (s : State) (m : Command) (f : GenCtx → EM (Option GenCtx)) : State :=
  let k := match m.gen with
    | some k => k
    | none => m.genStart
  let r := (f k).run.run { s := s, count := m.count, aux := m.aux, status := m.status, flags := m.flags }
  match r.1 with
  | .ok (some k) =>
    r.2.s.modCmd m.cid fun c => { c with gen := some k, count := r.2.count, aux := r.2.aux, status := r.2.status, flags := r.2.flags }
  | .ok none => State.endWork m (.ok (), r.2)
  | .error e => State.endWork m (.error e, r.2)

/-- A command acts: all its accesses, or its next stretch; a SNAP begins its stages. -/
def State.perform (s : State) (m : Command) : State :=
  match cmdQueue m.opc m.fn with
  | 0 => s.work m (txuWork m)
  | 1 => if m.fn = 3 then s.stretch m (spmmWork m) else s.work m (stepWork m)
  | 2 => s.stretch m (ixgWork m)
  | _ =>
    if m.fn = 1 then s.work m (hcopyWork m)
    else
      match (snapStart m).run.run { s := s, count := 0, aux := 0, status := 0, flags := 0 } with
      | (.ok _, e) => e.s
      | (.error f, e) => State.endWork m (.error f, e)

/-- ENGINE_COMMAND_START (R254, R264, R195): a queued command starts once its tags and slots allow it; a started one
performs its next stretch. -/
def execEngineCommandStart (cid : Nat) (s : State) : Out :=
  match s.cmd? cid with
  | none => .next s
  | some m =>
    match m.st with
    | .queued =>
      if s.mayStart m && s.copyTurn m then
        let s := s.begin m
        match s.cmd? cid with
        | some m => .next (s.perform m)
        | none => .next s
      else .next s
    | .started =>
      match s.snap with
      | some n => if n.cid = cid || !s.inQueue m then .next s else .next (s.perform m)
      | none => if s.inQueue m then .next (s.perform m) else .next s
    | _ => .next s

end Sys2Proof.Machine
end

