-- ==== Sys2Proof/Machine/Csr.lean ====
section
/-! DEFINITION. Control and status registers, the clock, event counters, the location word, TLBINV and random numbers
(R22, R97, R98, R198, R384 to R396). -/
namespace Sys2Proof.Machine

/-- The 64-bit CSRs: SEED, TVEC and PTROOT. -/
def csrWide (n : Nat) : Bool := n == 0x002 || n == 0x020 || n == 0x820

/-- PERFSEL k of a core as it reads: EVENT, with CLR reading zero (R4, R395). -/
def State.perfselWord (s : State) (core k : Nat) : Word := BitVec.ofNat 32 (s.perfSel core k)

/-- The value of a CSR for a gang, where the map assigns one (R97, R198, R382). -/
def State.csrGet (s : State) (g : Gang) (n : Nat) : Option DWord :=
  let w := fun (x : Word) => some (x.setWidth 64)
  let l := s.launch? g.lkey
  match n with
  | 0x000 => w g.statWord
  | 0x001 => w g.armWord
  | 0x002 => some g.seed
  | 0x003 => w (BitVec.ofNat 32 (g.ped.mode % 4))
  | 0x004 => w (BitVec.ofNat 32 g.width)
  | 0x005 => w g.gangId
  | 0x006 => w g.teamId
  | 0x007 => w (BitVec.ofNat 32 (match l with | some l => l.r.gangs | none => 0))
  | 0x008 => w (match l with | some l => l.r.nteams | none => 0)
  | 0x009 => w g.ped.lid
  | 0x00A => w (BitVec.ofNat 32 g.ped.depth)
  | 0x010 => w (BitVec.ofNat 32 s.lxs)
  | 0x011 => w s.lxp
  | 0x012 => w ((s.iod (iodOfDie (dieOf g.core))).cpyshare.setWidth 32)
  | 0x020 => some (g.tvec &&& tvecBits)
  | 0x021 => w g.tcause
  | 0x022 => w g.tepc
  | 0x023 => w g.tmask
  | 0x024 => w g.tmaskh
  | 0x025 => w g.taddr
  | 0x026 => w (g.taddrh &&& 0x01FFFFFF)
  | 0x027 => w g.tinfo
  | 0x820 => some (match s.ctx? g.ctx with | some c => c.ptroot | none => 0)
  | n =>
    if 0x030 ≤ n ∧ n ≤ 0x03F then w (s.perfselWord g.core (n - 0x030))
    else if 0x810 ≤ n ∧ n ≤ 0x817 then w (s.lxt.getD (n - 0x810) 0)
    else none
where
  /-- The I/O die that serves a compute die (R327, R328). -/
  iodOfDie (d : Nat) : Nat := if d < 4 then 0 else 1

/-- A value of LXT names a pairing: every nibble is a die, and the pairing is its own inverse (R198). -/
def lxtOk (v : Word) : Bool :=
  (List.range 8).all fun d =>
    let p := v.toNat / 2 ^ (4 * d) % 16
    decide (p < 8) && v.toNat / 2 ^ (4 * p) % 16 == d

/-- PERFSEL k of a core takes an event; CLR zeroes the counter (R395). -/
def State.perfselSet (s : State) (core k : Nat) (v : Word) : State :=
  let ev := v.toNat % 256
  let r := s.perfsel.filter fun e => !(e.1 == core && e.2.1 == k)
  let s := { s with perfsel := if ev = 0 then r else (core, k, ev) :: r }
  if bit v 8 then s.perfSet core k 0 else s

/-- Writing a CSR: the writable fields take v; read-only and hardware fields ignore it (R97, R98). -/
def State.csrSet (s : State) (g : Gang) (n : Nat) (v : DWord) : State :=
  let w := loWord v
  let sup := s.sup g
  match n with
  | 0x000 => s.modGang g.gid (·.statW1C w)
  | 0x001 => s.modGang g.gid (·.armWrite w)
  | 0x002 => s.modGang g.gid fun g => { g with seed := v }
  | 0x010 => if sup then { s with lxs := w.toNat % 4 } else s
  | 0x011 => if sup then { s with lxp := if w.ult 256 then 256 else w } else s
  | 0x012 =>
    if sup then s.modIo (if dieOf g.core < 4 then 0 else 1) fun d => { d with cpyshare := w.setWidth 8 } else s
  | 0x020 => s.modGang g.gid fun g => { g with tvec := v &&& tvecBits }
  | 0x820 => s.modCtx g.ctx fun c => { c with ptroot := v }
  | n =>
    if 0x030 ≤ n ∧ n ≤ 0x03F then s.perfselSet g.core (n - 0x030) w
    else if 0x810 ≤ n ∧ n ≤ 0x817 then (if lxtOk w then { s with lxt := s.lxt.set (n - 0x810) w } else s)
    else s

/-- The three checks of CSRR and CSRW in their order (R76, R98): the cause that the word raises. -/
def State.csrCheck (s : State) (g : Gang) (r n : Nat) : Option Cause :=
  if n ≥ 0x800 && !s.sup g then some .prot
  else if (s.csrGet g n).isNone then some .illegal
  else if csrWide n && r % 2 == 1 then some .illegal
  else none

/-- A word that is not permitted: PROT or ILLEGAL over the batch with the word in TINFO (R76). -/
def trapWord (c : Cur) (g : Gang) (cause : Cause) (s : State) : Out := trapBatch c g cause 0 c.main.toNat s

/-- CSRR (R98): earlier instructions of the gang are complete when it issues. -/
def execCsrr (r : BitVec 8) (n : BitVec 12) (s : State) : Out :=
  withCur s fun c g =>
    match s.csrCheck g r.toNat n.toNat, s.csrGet g n.toNat with
    | some e, _ => trapWord c g e s
    | none, none => trapWord c g .illegal s
    | none, some v =>
      done c (s.modGang c.gid fun g => if csrWide n.toNat then g.setS2 r.toNat v else g.setS r.toNat (loWord v))

/-- A CSRW of CSR n from S[r] (R98). -/
def csrWrite (s : State) (r n : Nat) : Out :=
  withCur s fun c g =>
    match s.csrCheck g r n with
    | some e => trapWord c g e s
    | none =>
      sGuard c g s [(r, if csrWide n then 2 else 1)]
        (done c (s.csrSet g n (if csrWide n then g.s2 r else (g.s r).setWidth 64)))

/-- CSRW (R98). -/
def execCsrw (r : BitVec 8) (n : BitVec 12) (s : State) : Out := csrWrite s r.toNat n.toNat
/-- CSRW STAT (R386). -/
def execCsrwStat (r : BitVec 8) (s : State) : Out := csrWrite s r.toNat 0x000
/-- CSRW SEED (R393). -/
def execCsrwSeed (r : BitVec 7) (s : State) : Out := csrWrite s (pairNo r) 0x002
/-- CSRW LXS (R198). -/
def execCsrwLxs (r : BitVec 8) (s : State) : Out := csrWrite s r.toNat 0x010
/-- CSRW LXP (R198). -/
def execCsrwLxp (r : BitVec 8) (s : State) : Out := csrWrite s r.toNat 0x011
/-- CSRW CPYSHARE (R328). -/
def execCsrwCpyshare (r : BitVec 8) (s : State) : Out := csrWrite s r.toNat 0x012
/-- CSRW PERFSEL k (R395). -/
def execCsrwPerfsel (r : BitVec 8) (k : BitVec 4) (s : State) : Out := csrWrite s r.toNat (0x030 + k.toNat)
/-- CSRW LXT k (R198). -/
def execCsrwLxt (r : BitVec 8) (k : BitVec 3) (s : State) : Out := csrWrite s r.toNat (0x810 + k.toNat)

/-- CLOCK (R394). -/
def execClock (r : BitVec 7) (s : State) : Out :=
  withCur s fun c _ => done c (s.modGang c.gid fun g => g.setS2 (pairNo r) (BitVec.ofNat 64 s.clock))

/-- The physical slot of core n of a die (R7). -/
def physSlot (die n : Nat) : Nat := if n < Config.fusedSlotRaw die % 21 then n else n + 1

/-- The location word of a core and partition (R22). -/
def locWord (core part : Nat) : Word :=
  if core ≥ 160 then Config.mgmtLoc
  else
    let n := core % 20
    BitVec.ofNat 32 (dieOf core + n * 2 ^ 3 + n / 4 * 2 ^ 8 + part % 4 * 2 ^ 11 + core * 2 ^ 16 +
      physSlot (dieOf core) n * 2 ^ 24)

/-- LOCQ (R22). -/
def execLocq (r : BitVec 8) (s : State) : Out :=
  withCur s fun c g => done c (s.modGang c.gid fun h => h.setS r.toNat (locWord g.core g.part))

/-- PERFRD (R396). -/
def execPerfrd (r : BitVec 8) (k : BitVec 4) (s : State) : Out :=
  withCur s fun c g => done c (s.modGang c.gid fun h => h.setS r.toNat (s.perfGet g.core k.toNat))

/-- TLBINV (R384): PROT outside supervisor state, ILLEGAL for a set reserved bit, then a DEV release and the drop. -/
def execTlbinv (r : BitVec 7) (s : State) : Out :=
  withCur s fun c g =>
    if !s.sup g then trapWord c g .prot s
    else
      sGuard c g s [(pairNo r, 2)]
        (let v := g.s2 (pairNo r)
         if v.toNat % 65536 / 2 ≠ 0 then trapWord c g .illegal s
         else
           let s := s.releaseLv g.core 2
           done c (if bit v 0 then { s with tlb := s.tlb.filter fun e => e.ctx != g.ctx }
                   else s.tlbDropPage g.ctx (v.toNat / 65536 * 65536)))

/-! ## Random numbers (R53, R391, R392) -/

/-- PRAND (R392). -/
def execPrand (gd : BitVec 4) (d : BitVec 6) (s : State) : Out :=
  vecGd s gd fun _ g i f => do
    f.chkD d.toNat 1
    return ((f.drew 1).setV d.toNat (drawOf s g i f), 0)

/-- The F32 in [0, 1) of a draw: its high 24 bits times 2^-24, exactly (R392). -/
def unitFloat (v : Word) : Word :=
  let n := v.toNat / 256
  if n = 0 then 0
  else
    let k := Nat.log2 n
    BitVec.ofNat 32 ((k + 103) * 2 ^ 23 + (n * 2 ^ (23 - k) - 2 ^ 23))

/-- PRANDF (R392). -/
def execPrandf (gd : BitVec 4) (d : BitVec 6) (s : State) : Out :=
  vecGd s gd fun _ g i f => do
    f.chkD d.toNat 1
    return ((f.drew 1).setV d.toNat (unitFloat (drawOf s g i f)), 0)

end Sys2Proof.Machine
end

