-- ==== Sys2Proof/Machine/Reduce.lean ====
section
/-! DEFINITION. Reducers: identities, contributions and merges (R46, R47, R49), the storage of views (R196, R358, R361),
the merge at a SYNC (R295) and the result at launch completion (R362). -/
namespace Sys2Proof.Machine

/-! ## Elements -/

/-- The identity of a reducer type (R46). -/
def identElem (t : Nat) : VElem :=
  match t with
  | 2 => .w 0x80000000
  | 3 => .x 0 false false false
  | 4 => .w 0x7FFFFFFF
  | 5 => .w 0x80000000
  | 6 => .w 0x7FFFFFFF
  | 7 => .w 0xFFFFFFFF
  | 8 => .w 0xFFFFFFFF
  | _ => .w 0

/-- An F32 value as an XSUM32 element (R49). -/
def xsumOf (v : Word) : VElem :=
  let e := v.toNat / 2 ^ 23 % 256
  let m := v.toNat % 2 ^ 23
  if e = 255 then .x 0 (m != 0) (m == 0 && !v.msb) (m == 0 && v.msb)
  else
    let n : Nat := if e = 0 then m else (2 ^ 23 + m) * 2 ^ (e - 1)
    .x (BitVec.ofInt 320 (if v.msb then -(n : Int) else n)) false false false

/-- A contribution as an element. -/
def contribElem (t : Nat) (v : DWord) : VElem :=
  if t = 3 then xsumOf (loWord v) else if t = 1 then .w v else .w ((loWord v).setWidth 64)

/-- The combining operation of a type on words (R46). -/
def combWord (t : Nat) (a b : DWord) : DWord × Flags :=
  let x := loWord a
  let y := loWord b
  let w := fun (r : Word) => (r.setWidth 64, (0 : Flags))
  match t with
  | 0 => w (x + y)
  | 1 => (a + b, 0)
  | 2 => let r := fadd32 x y; (r.1.setWidth 64, r.2)
  | 4 => w (if x.sle y then x else y)
  | 5 => w (if x.sle y then y else x)
  | 6 => w (if (tkey x).ule (tkey y) then x else y)
  | 7 => w (if (tkey x).ule (tkey y) then y else x)
  | 8 => w (x &&& y)
  | _ => w (x ||| y)

/-- The combining operation with the flags it sets: XSUM32 sets INV when the view first records NAN, or POS and NEG
together (R46, R49). -/
def combElem (t : Nat) : VElem → VElem → VElem × Flags
  | .x s n p m, .x s' n' p' m' =>
    let nn := n || n'
    let pp := p || p'
    let mm := m || m'
    (.x (s + s') nn pp mm, flagIf ((nn && !n) || (pp && mm && !(p && m))) fINV)
  | .w a, .w b => let r := combWord t a b; (.w r.1, r.2)
  | a, _ => (a, 0)

/-- The value that an element is written as (R49). -/
def elemOut : VElem → DWord
  | .w a => a
  | .x s n p m =>
    let r : Word :=
      if n || (p && m) then nan32
      else if p then 0x7F800000
      else if m then 0xFF800000
      else if s = 0 then 0
      else (enc32 .rn 0 (.val s.msb s.toInt.natAbs 1 (-149))).1
    r.setWidth 64

/-- Folding elements pairwise. -/
def combList (t : Nat) : List VElem → List VElem → List VElem × Flags
  | a :: as, b :: bs =>
    let c := combElem t a b
    let r := combList t as bs
    (c.1 :: r.1, c.2 ||| r.2)
  | as, _ => (as, 0)

/-! ## Storage (R196, R358, R361) -/

/-- Bytes of an element (R196). -/
def Reducer.ew (r : Reducer) : Nat := if r.type = 1 then 8 else if r.type = 3 then 48 else 4
/-- Bytes of a view of a reducer. -/
def Reducer.bytes (r : Reducer) : Nat := (r.count + 1) * r.ew
/-- Bytes that a view takes in a store, in 16-byte units of it. -/
def Reducer.room (r : Reducer) : Nat := (r.bytes + 15) / 16 * 16
/-- The reducers of a launch. -/
def State.redsOf (s : State) (lkey : Nat) : List Reducer :=
  match s.launch? lkey with
  | some l => l.reds
  | none => []
/-- Every list of views of the device, with its launch. -/
def State.allViews (s : State) : List (Nat × List (Option View)) :=
  s.gangs.flatMap (fun g => (g.lkey, g.views) :: g.finals.map fun f => (g.lkey, f.views)) ++
  s.launches.flatMap fun l => l.finals.map fun f => (l.lkey, f.views)
/-- Every view with storage, with its launch and reducer. -/
def State.stored (s : State) : List (Nat × Reducer × View) :=
  s.allViews.flatMap fun e => (e.2.zip (s.redsOf e.1)).filterMap fun x => x.1.map fun v => (e.1, x.2, v)
/-- Bytes of the views that p admits. -/
def State.viewUse (s : State) (p : Nat → View → Bool) : Nat :=
  ((s.stored.filter fun e => p e.1 e.2.2).map fun e => e.2.1.room).sum

/-- Changing the views of a list. -/
def mapV (f : Reducer → View → View) : List (Option View) → List Reducer → List (Option View)
  | v :: vs, r :: rs => v.map (f r) :: mapV f vs rs
  | vs, _ => vs
/-- Changing every view with storage. -/
def State.mapViews (s : State) (f : Nat → Reducer → View → View) : State :=
  let fin := fun (k : Nat) (rs : List Reducer) (x : Final) => { x with views := mapV (f k) x.views rs }
  { s with
    gangs := s.gangs.map fun g =>
      let rs := s.redsOf g.lkey
      { g with views := mapV (f g.lkey) g.views rs, finals := g.finals.map (fin g.lkey rs) }
    launches := s.launches.map fun l => { l with finals := l.finals.map (fin l.lkey l.reds) } }

/-- Moving the views that p admits to the front of their store: new places, and the end. -/
def packOne (p : View → Bool) : List (Option View) → List Reducer → Nat → List (Option View) × Nat
  | some v :: vs, r :: rs, off =>
    if p v then
      let t := packOne p vs rs (off + r.room)
      (some { v with loc := off / 16 } :: t.1, t.2)
    else let t := packOne p vs rs off; (some v :: t.1, t.2)
  | none :: vs, _ :: rs, off => let t := packOne p vs rs off; (none :: t.1, t.2)
  | vs, _, off => (vs, off)
/-- The same over final views. -/
def packFinals (p : View → Bool) (rs : List Reducer) : List Final → Nat → List Final × Nat
  | [], off => ([], off)
  | f :: fs, off =>
    let a := packOne p f.views rs off
    let b := packFinals p rs fs a.2
    ({ f with views := a.1 } :: b.1, b.2)
/-- The same over gangs. -/
def packGangs (s : State) (p : Nat → View → Bool) : List Gang → Nat → List Gang × Nat
  | [], off => ([], off)
  | g :: gs, off =>
    let rs := s.redsOf g.lkey
    let a := packOne (p g.lkey) g.views rs off
    let b := packFinals (p g.lkey) rs g.finals a.2
    let r := packGangs s p gs b.2
    ({ g with views := a.1, finals := b.1 } :: r.1, r.2)
/-- The same over launches. -/
def packLaunches (p : Nat → View → Bool) : List Launch → Nat → List Launch × Nat
  | [], off => ([], off)
  | l :: ls, off =>
    let a := packFinals (p l.lkey) l.reds l.finals off
    let r := packLaunches p ls a.2
    ({ l with finals := a.1 } :: r.1, r.2)
/-- The VME packs a store; the place after its views (R361). -/
def State.packViews (s : State) (p : Nat → View → Bool) : State × Nat :=
  let a := packGangs s p s.gangs 0
  let b := packLaunches p s.launches a.2
  ({ s with gangs := a.1, launches := b.1 }, b.2)

/-- The view store of a core. -/
def inStore (core : Nat) : Nat → View → Bool := fun _ v => !v.spill && v.core == core
/-- The view backing area of a launch. -/
def inBacking (lkey : Nat) : Nat → View → Bool := fun k v => v.spill && k == lkey
/-- Bytes of a launch's view backing area. -/
def State.viewCap (s : State) (lkey : Nat) : Nat :=
  match s.launch? lkey with
  | some l => l.r.viewcap * 1024
  | none => 0
/-- The bytes of an element in the backing area; of an XSUM32 element the integer and then NAN, POS and NEG (log 77). -/
def VElem.bytes (w : Nat) : VElem → List Byte
  | .w a => bytesOf w a.toNat
  | .x s n p m => bytesOf 40 s.toNat ++ bytesOf 8 ((if n then 1 else 0) + (if p then 2 else 0) + if m then 4 else 0)
/-- An element from its bytes. -/
def VElem.ofBytes (r : Reducer) (bs : List Byte) : VElem :=
  let h := numOf (bs.drop 40)
  if r.type = 3 then .x (BitVec.ofNat 320 (numOf (bs.take 40))) (h % 2 == 1) (h / 2 % 2 == 1) (h / 4 % 2 == 1)
  else .w (BitVec.ofNat 64 (numOf bs))

/-- The context and the address in it where a place of a launch's backing area lies. -/
def State.viewVa (s : State) (lkey loc : Nat) : Nat × Nat :=
  match s.launch? lkey with
  | some l => (l.ctx, l.r.viewbase.toNat + 16 * loc)
  | none => (0, 0)

/-- The elements of a view; those of a spilled one stand in memory (R361). -/
def State.viewElems (s : State) (lkey : Nat) (r : Reducer) (v : View) : List VElem :=
  if v.spill && v.elems.isEmpty then
    let a := s.viewVa lkey v.loc
    (List.range (r.count + 1)).map fun e =>
      VElem.ofBytes r ((List.range r.ew).map fun b => s.firmRd a.1 (a.2 + e * r.ew + b))
  else v.elems

/-- The elements of every spilled view of a launch are at hand. -/
def State.fetchViews (s : State) (lkey : Nat) : State :=
  s.mapViews fun k r v => if k == lkey && v.spill then { v with elems := s.viewElems k r v } else v

/-- Whether the place of a spilled view lies in its launch's backing area, and can be written. -/
def State.backed (s : State) (lkey : Nat) (r : Reducer) (v : View) : Bool :=
  let a := s.viewVa lkey v.loc
  v.spill && decide (16 * v.loc + r.room ≤ s.viewCap lkey) && s.firmOk a.1 a.2 r.room

/-- The elements of spilled views that are at hand go to their places in memory. -/
def State.storeViews (s : State) : State :=
  let out := s.stored.filter fun e => !e.2.2.elems.isEmpty && s.backed e.1 e.2.1 e.2.2
  let s := out.foldl (fun s e =>
    let a := s.viewVa e.1 e.2.2.loc
    s.firmWrs a.1 a.2 (e.2.1.room / 16 + 2) (e.2.2.elems.flatMap (VElem.bytes e.2.1.ew))) s
  if out.isEmpty then s else s.mapViews fun k r v => if s.backed k r v then { v with elems := [] } else v

/-- The views of a launch's backing area are packed, and written to their places. -/
def State.packBacking (s : State) (lkey : Nat) : State := (s.packViews (inBacking lkey)).1.storeViews

/-- Every view of a launch goes to its backing area (R410). One that finds no room there is held by the H40 (log 78). -/
def State.spillAll (s : State) (lkey : Nat) : State :=
  ((s.fetchViews lkey).mapViews fun k _ v => if k == lkey then { v with spill := true } else v).packBacking lkey

/-- The views that a gang holds go to its launch's backing area (R413, R416). -/
def State.spillGang (s : State) (gid lkey : Nat) : State :=
  ((s.fetchViews lkey).modGang gid fun g => { g with views := g.views.map fun v => v.map fun x => { x with spill := true } }).packBacking
    lkey

/-- Whether the view store of a core holds its views, and whether the backing area of a launch has room. -/
def State.storeFits (s : State) (core : Nat) : Bool := decide (s.viewUse (inStore core) ≤ 2 ^ 18)
def State.backingRoom (s : State) (lkey n : Nat) : Bool :=
  let used := s.viewUse (inBacking lkey)
  let a := s.viewVa lkey 0
  decide (used + n ≤ s.viewCap lkey) && s.firmOk a.1 a.2 (used + n)

/-- The view at a place of a core's store moves to its launch's backing area, whose views are packed (R361). -/
def State.spillView (s : State) (lkey core loc : Nat) : State :=
  ((s.fetchViews lkey).mapViews fun _ _ v => if !v.spill && v.core == core && v.loc == loc then { v with spill := true } else v).packBacking
    lkey

/-- Views of a core's store, but not the one at keep, are spilled until the store holds the rest, and the store is packed;
none when no choice of them makes room. The VME's choice is not architectural (R361); n bounds the moves. -/
def State.fitStore (s : State) (core keep : Nat) : Nat → Option State
  | 0 => none
  | n + 1 =>
    if s.storeFits core then some (s.packViews (inStore core)).1
    else
      match s.stored.find? fun e => inStore core e.1 e.2.2 && e.2.2.loc != keep && s.backingRoom e.1 e.2.1.room with
      | none => none
      | some e => (s.spillView e.1 core e.2.2.loc).fitStore core keep n

/-- The gang's binding of reducer k. -/
def Gang.view (g : Gang) (k : Nat) : Option View := (g.views.getD k none)
/-- Replacing a binding. -/
def Gang.setView (g : Gang) (k : Nat) (v : Option View) : Gang := { g with views := g.views.set k v }

/-- A view of a gang stands in the store of its core: brought back from the backing area, or new and equal to the identity
(R358, R361). None when neither the store nor the backing area has room. -/
def State.bring (s : State) (g : Gang) (k : Nat) (r : Reducer) : Option State :=
  let v : View := match g.view k with
    | some v => { v with elems := s.viewElems g.lkey r v }
    | none => { spill := false, core := g.core, loc := 0, elems := List.replicate (r.count + 1) (identElem r.type), bad := [] }
  let t := s.packViews (inStore g.core)
  (t.1.modGang g.gid fun g => g.setView k (some { v with spill := false, core := g.core, loc := t.2 / 16 })).fitStore
    g.core (t.2 / 16) (s.stored.length + 2)

/-- A view that has storage is used where the VME can bring it, and otherwise where it stands. -/
def State.useView (s : State) (g : Gang) (k : Nat) (r : Reducer) : State :=
  match g.view k with
  | some v => if v.spill then (s.bring g k r).getD s else s
  | none => s

/-- Giving storage to the bindings of a list of reducers: none when there is no room. -/
def State.giveViews (s : State) (gid : Nat) : List (Nat × Reducer) → Option State
  | [] => some s
  | (k, r) :: ks =>
    match s.gang? gid with
    | none => some s
    | some g =>
      match g.view k with
      | some _ => (s.useView g k r).giveViews gid ks
      | none =>
        match s.bring g k r with
        | none => none
        | some s => s.giveViews gid ks

/-! ## The merge at SYNC (R47, R295) -/

/-- Children's finals in ascending rank. -/
def insertFinal (f : Final) : List Final → List Final
  | [] => [f]
  | g :: gs => if f.rank.toNat < g.rank.toNat then f :: g :: gs else g :: insertFinal f gs
/-- Ascending rank order; finals of equal rank keep their order. -/
def sortFinals (fs : List Final) : List Final := fs.foldl (fun l f => insertFinal f l) []

/-- Folding a view into another of the same reducer; an IDENT view is skipped (R361). -/
def foldView (t : Nat) (acc : Option View × Flags) (v : Option View) : Option View × Flags :=
  match acc.1, v with
  | some a, some b => let r := combList t a.elems b.elems; (some { a with elems := r.1, bad := a.bad ++ b.bad }, acc.2 ||| r.2)
  | none, some b => (some b, acc.2)
  | _, none => acc

/-- The merged views of a gang with storage for every reducer that needs it, and the flags. -/
def mergeViews (reds : List Reducer) (fs : List Final) (views : List (Option View)) : List (Option View) × Flags :=
  ((List.range views.length).map fun k =>
      (fs.foldl (fun a f => foldView ((reds.getD k { type := 0, count := 0, result := 0 }).type) a (f.views.getD k none))
        ((views.getD k none), (0 : Flags)))).foldl
    (fun r x => (r.1 ++ [x.1], r.2 ||| x.2)) ([], 0)

/-- A merge answers none when a view finds no room, and otherwise the state; poison in a view is told apart. -/
inductive Merge where
  | noSpace
  | poisoned
  | ok (s : State)

/-- The merge of a frame's final views and flags into the parent (R295). -/
def State.mergeFrame (s : State) (gid : Nat) : Merge :=
  match s.gang? gid with
  | none => .ok s
  | some g =>
    let fs := sortFinals g.finals
    let reds := s.redsOf g.lkey
    let need := (List.range reds.length).filterMap fun k =>
      if fs.any (fun f => (f.views.getD k none).isSome) then some (k, reds.getD k { type := 0, count := 0, result := 0 }) else none
    let met := fun (vs : List (Option View)) => need.any fun k => (vs.getD k.1 none).any fun v => !v.bad.isEmpty
    if met g.views || fs.any (fun f => met f.views) then .poisoned
    else
      match s.giveViews gid need with
      | none => .noSpace
      | some s =>
        let s := s.fetchViews g.lkey
        let fs := match s.gang? gid with | some g => sortFinals g.finals | none => fs
        .ok (s.modGang gid fun g =>
          let r := mergeViews reds fs g.views
          { g with views := r.1, finals := [], stat := fs.foldl (fun a f => a ||| f.stat) (g.stat ||| r.2) }).storeViews

/-! ## Results at launch completion (R362) -/

/-- The fold of the root gangs' final views, from the identity, as numbers; with its flags and whether poison was met. -/
def launchResult (s : State) (lkey : Nat) (fs : List Final) (k : Nat) (r : Reducer) : List DWord × Flags × Bool :=
  let x := (sortFinals fs).foldl (fun (a : List VElem × Flags × Bool) f =>
      match f.views.getD k none with
      | none => a
      | some v => let c := combList r.type a.1 (s.viewElems lkey r v); (c.1, a.2.1 ||| c.2, a.2.2 || !v.bad.isEmpty))
    (List.replicate (r.count + 1) (identElem r.type), 0, false)
  (x.1.map elemOut, x.2)

end Sys2Proof.Machine
end

