-- ==== Sys2Proof/Machine/Image.lean ====
section
/-! DEFINITION. The records that the H40 writes to memory: task entries (R292) and gang records (R416), with their
readers. -/
namespace Sys2Proof.Machine

/-- Zero bytes up to a length. -/
def padTo (n : Nat) (l : List Byte) : List Byte := l ++ List.replicate (n - l.length) 0
/-- A length rounded up to records of 256 bytes. -/
def up256 (n : Nat) : Nat := (n + 255) / 256 * 256
/-- A number of n bytes at an offset. -/
def rdN (bs : List Byte) (off n : Nat) : Nat := numOf ((bs.drop off).take n)
/-- A word at an offset. -/
def rdW (bs : List Byte) (off : Nat) : Word := BitVec.ofNat 32 (rdN bs off 4)
/-- The bytes of words. -/
def wordBytes (ws : List Word) : List Byte := ws.flatMap fun w => bytesOf 4 w.toNat
/-- n words at an offset. -/
def rdWs (bs : List Byte) (off n : Nat) : List Word := (List.range n).map fun k => rdW bs (off + 4 * k)

/-- The width code of a width (R287). -/
def widthCode (w : Nat) : Nat := if w = 8 then 0 else if w = 16 then 1 else if w = 32 then 2 else 3
/-- The width of a code. -/
def widthOf (k : Nat) : Nat := 8 * 2 ^ (k % 4)
/-- The .vregs code of a register count. -/
def vregsCode (v : Nat) : Nat := v / 8 - 1

/-! ## Task entries (R292) -/

/-- A task entry's 64 bytes; ref stands in FRAME. -/
def TaskEntry.bytes (e : TaskEntry) (ref : Nat) : List Byte :=
  bytesOf 64 (e.entry.toNat + e.args.toNat * 2 ^ 32 + e.wcode % 4 * 2 ^ 96 + vregsCode e.vregs % 32 * 2 ^ 98 +
    (if e.fan then 2 ^ 103 else 0) + (if e.pend then 2 ^ 104 else 0) + e.rank0.toNat * 2 ^ 112 + e.flr.toNat * 2 ^ 144 +
    e.count % 2 ^ 32 * 2 ^ 176 + e.stride.toNat * 2 ^ 208 + ref % 2 ^ 32 * 2 ^ 240 + e.caddr.toNat * 2 ^ 272 +
    e.cval.toNat * 2 ^ 336 + e.cscope % 8 * 2 ^ 400)

/-- A task entry from its bytes, over a base that holds what the entry does not. -/
def TaskEntry.ofBytes (b : TaskEntry) (bs : List Byte) : TaskEntry :=
  let n := numOf bs
  let f := fun lo len => n / 2 ^ lo % 2 ^ len
  { b with
    entry := BitVec.ofNat 32 (f 0 32), args := BitVec.ofNat 64 (f 32 64), wcode := f 96 2, vregs := 8 * (f 98 5 + 1)
    fan := f 103 1 == 1, pend := f 104 1 == 1, rank0 := BitVec.ofNat 32 (f 112 32), flr := BitVec.ofNat 32 (f 144 32)
    count := f 176 32, stride := BitVec.ofNat 32 (f 208 32), caddr := BitVec.ofNat 64 (f 272 64)
    cval := BitVec.ofNat 64 (f 336 64), cscope := f 400 3 }

/-! ## Gang records (R416) -/

/-- The offset of the V registers. -/
def vOff (w : Nat) : Nat := 0x1300 + up256 (8 * w)
/-- The size of a gang record. -/
def gangSize (w v : Nat) : Nat := up256 (vOff w + 4 * w * v)

/-- ST and WK of a batch (R90). -/
def BatchSt.code : BatchSt → Nat × Nat
  | .ready => (1, 0)
  | .waiting wk => (2, wk)
  | .trapped => (3, 0)

/-- A batch-table entry (R90). -/
def Batch.bytes (b : Batch) : List Byte :=
  bytesOf 16 (b.memb.toNat + b.pc.toNat / 4 % 2 ^ 55 * 2 ^ 64 + b.st.code.1 * 2 ^ 119 + b.st.code.2 * 2 ^ 121)

/-- The batch of an entry in use; a wait evaluates its unit anew (R412). -/
def batchOf (bs : List Byte) : Option Batch :=
  let n := numOf bs
  let memb : Mask := BitVec.ofNat 64 n
  let pc : DWord := BitVec.ofNat 64 (n / 2 ^ 64 % 2 ^ 55 * 4)
  let st := n / 2 ^ 119 % 4
  let wk := n / 2 ^ 121 % 16
  if st = 0 then none
  else
    some { memb := memb, pc := pc, st := if st = 1 then .ready else if st = 2 then .waiting wk else .trapped, passed := 0,
           cap := [], next := pc + 4, polled := false }

/-- A reducer binding (R358). -/
def bindingBits : Option View → Nat
  | none => 1
  | some v => (if v.spill then 2 else 0) + v.core % 256 * 4 + v.loc % 2 ^ 22 * 2 ^ 10

/-- The view of a binding, whose elements stand in the backing area. -/
def bindingOf (n : Nat) : Option View :=
  if n % 2 = 1 then none
  else some { spill := true, core := n / 4 % 256, loc := n / 2 ^ 10 % 2 ^ 22, elems := [], bad := [] }

/-- A pending trap's record (R416). -/
def Trap.bytes (t : Trap) (entry : Nat) : List Byte :=
  wordBytes [t.cause, t.tepc, loWord t.tmask, hiWord t.tmask, loWord t.taddr, hiWord t.taddr &&& 0x01FFFFFF, t.tinfo,
    BitVec.ofNat 32 entry]

/-- The place of the first element that p admits. -/
def indexOf {α : Type} (p : α → Bool) : List α → Nat
  | [] => 0
  | x :: xs => if p x then 0 else indexOf p xs + 1

/-- A fibre's two words. -/
def Fibre.bytes (f : Fibre) (i : Nat) (live : Bool) : List Byte :=
  bytesOf 4 (f.wb % 256 + f.p.toNat * 2 ^ 8 + (if live then 2 ^ 15 else 0) + i % 64 * 2 ^ 16) ++ bytesOf 4 f.drw.toNat

/-- A gang record (R416), with the offsets of the records of its team and parent; the record of a gang that stands in the
inline area says so. -/
def Gang.bytes (g : Gang) (teamOff parentOff : Nat) (isInline : Bool) : List Byte :=
  let head := bytesOf 4 (widthCode g.width + vregsCode g.vregs % 32 * 4 + g.prio % 4 * 2 ^ 7 + g.pending.length % 128 * 2 ^ 9 +
      (if isInline then 2 ^ 16 else 0)) ++
    bytesOf 4 g.gangId.toNat ++ bytesOf 4 teamOff ++ bytesOf 4 parentOff ++ bytesOf 4 g.outstanding ++
    bytesOf 4 (locWord g.core g.part).toNat ++ bytesOf 8 g.turns.toNat
  let csrs := [g.statWord, g.armWord, loWord g.seed, hiWord g.seed, loWord g.tvec, hiWord g.tvec, g.tcause, g.tepc, g.tmask,
    g.tmaskh, g.taddr, g.taddrh, g.tinfo, g.q.setWidth 32]
  let fib := (List.range g.width).map fun i => (g.fibre i, i)
  padTo 0x40 head ++ padTo 0xC0 (wordBytes g.ped.words) ++ padTo 0x400 (wordBytes g.sregs) ++
  padTo 0x400 (g.batches.flatMap Batch.bytes) ++ padTo 0x40 (wordBytes csrs) ++
  padTo 0x40 (g.m.flatMap fun m => bytesOf 8 m.toNat) ++ padTo 0x80 (wordBytes g.arena) ++
  padTo 0x100 (((List.range 64).map fun k => g.views.getD k none).flatMap fun v => bytesOf 4 (bindingBits v)) ++
  padTo 0x800 (g.pending.flatMap fun t => t.bytes (indexOf (fun (b : Batch) => b.memb == t.bmask) g.batches)) ++
  padTo (vOff g.width - 0x1300) (fib.flatMap fun e => e.1.bytes e.2 (bit g.live e.2)) ++
  padTo (gangSize g.width g.vregs - vOff g.width) (fib.flatMap fun e => wordBytes (padW g.vregs e.1.regs))
where
  /-- The allocation of a fibre, at its full length. -/
  padW (n : Nat) (ws : List Word) : List Word := (ws ++ List.replicate (n - ws.length) 0).take n

/-- The pedigree of a record. -/
def pedOf (bs : List Byte) (off : Nat) : Ped :=
  let h := rdN bs off 4
  { mode := h / 256 % 4, root := h / 1024 % 2 == 1, devl := h / 2048 % 2 == 1, lid := rdW bs (off + 4),
    levels := (List.range (h % 32)).map fun l => (rdW bs (off + 8 + 8 * l), rdW bs (off + 12 + 8 * l)) }

/-- A gang with nothing in it. -/
def Gang.blank : Gang :=
  { gid := 0, lkey := 0, ctx := 0, team := none, parent := none, rank := 0, core := 0, part := 0, width := 8, vregs := 8,
    sregs := List.replicate 256 0, q := 0, m := List.replicate 7 0, live := 0,
    ped := { mode := 2, root := false, devl := false, lid := 0, levels := [] }, arena := List.replicate 16 0, views := [],
    stat := 0, statarm := 0, seed := 0, tvec := 0, gangId := 0, teamId := 0, prio := 0, tcause := 0, tepc := 0, tmask := 0,
    tmaskh := 0, taddr := 0, taddrh := 0, tinfo := 0, batches := [], trap := none, pending := [], fibres := [], turns := 0,
    openTurn := none, outstanding := 0, finals := [], arrived := false, cmdSeq := 0, joined := [], ibuf := none,
    sched := { last := 0, since := 0, raised := 0, demoted := false, hist := [], reads := [], lastPc := none },
    exited := false, inlined := none, inlineFan := none, poisonS := [], behind := [], owed := 0 }

/-- A trap from its record: seven words, and the fibres of its batch. The fibres outside its mask stand at the next unit
(R228). -/
def trapOf (s : State) (g : Gang) (ws : List Word) (memb : Mask) : Trap :=
  let w := fun i => ws.getD i 0
  let next := s.unitEnd g (s.textOf g + (w 1).setWidth 64)
  let mask : Mask := pairOf (w 2) (w 3)
  { cause := w 0, tepc := w 1, tmask := mask, taddr := pairOf (w 4) (w 5), tinfo := w 6, bmask := memb,
    good := if memb &&& ~~~mask = 0 then [] else [(next, memb &&& ~~~mask)], skip := next, held := none }

/-- What a waiting batch captured, from the same batch of a list. -/
def keepBatch (bs : List Batch) (x : Batch) : Batch := (bs.find? fun y => y.memb == x.memb && y.pc == x.pc && y.st == x.st).getD x
/-- Where a trap's other fibres stand and what it delivered, from the same trap of a list. -/
def keepTrap (ts : List Trap) (t : Trap) : Trap :=
  match ts.find? fun u => u.cause == t.cause && u.tepc == t.tepc && u.tmask == t.tmask && u.bmask == t.bmask with
  | some u => { t with good := u.good, skip := u.skip, held := u.held }
  | none => t
/-- What the H40 holds of a view beside memory, from the same view. -/
def keepView (o v : Option View) : Option View := v.map fun x => match o with | some y => { x with elems := y.elems, bad := y.bad } | none => x

/-- A gang from its record, over one that holds what the record does not: its number, launch, team and parent, what its
waits captured and what its frame has gathered (R412, R416). The trapped batches that no pending trap names are the active
trap's. -/
def Gang.ofBytes (s : State) (b : Gang) (bs : List Byte) : Gang :=
  let h := rdN bs 0 4
  let w := widthOf h
  let v := 8 * (h / 4 % 32 + 1)
  let rdF := fun i => rdN bs (0x1300 + 8 * i) 4
  let es := (List.range 64).map fun i => batchOf ((bs.drop (0x500 + 16 * i)).take 16)
  let csrs := rdWs bs 0x918 7
  let pends := (List.range (h / 2 ^ 9 % 128)).map fun i =>
    let o := 0xB00 + 32 * i
    trapOf s b (rdWs bs o 7) (match es.getD (rdN bs (o + 28) 4) none with | some x => x.memb | none => 0)
  let late := pends.foldl (fun m t => m ||| t.bmask) 0
  let mine := (es.filterMap id).foldl (fun m x => if x.st == .trapped then m ||| x.memb else m) 0 &&& ~~~late
  { b with
    width := w, vregs := v, prio := h / 2 ^ 7 % 4, gangId := rdW bs 4, outstanding := rdN bs 0x10 4
    core := rdN bs 0x14 4 / 2 ^ 16 % 256, part := rdN bs 0x14 4 / 2 ^ 11 % 4
    turns := BitVec.ofNat 64 (rdN bs 0x18 8), ped := pedOf bs 0x40, sregs := rdWs bs 0x100 256
    batches := (es.filterMap id).map (keepBatch b.batches)
    trap := if mine = 0 then none else some (keepTrap b.trap.toList (trapOf s b csrs mine)), pending := pends.map (keepTrap b.pending)
    stat := (rdW bs 0x900).setWidth 5, statarm := (rdW bs 0x904).setWidth 5
    seed := BitVec.ofNat 64 (rdN bs 0x908 8), tvec := BitVec.ofNat 64 (rdN bs 0x910 8) &&& tvecBits, tcause := rdW bs 0x918
    tepc := rdW bs 0x91C, tmask := rdW bs 0x920, tmaskh := rdW bs 0x924, taddr := rdW bs 0x928, taddrh := rdW bs 0x92C &&& 0x01FFFFFF
    tinfo := rdW bs 0x930, q := (rdW bs 0x934).setWidth 7
    m := (List.range 7).map fun k => BitVec.ofNat 64 (rdN bs (0x940 + 8 * k) 8)
    arena := rdWs bs 0x980 16
    views := (List.range b.views.length).map fun k => keepView (b.view k) (bindingOf (rdN bs (0xA00 + 4 * k) 4))
    live := maskOfList ((List.range w).filter fun i => rdF i / 2 ^ 15 % 2 == 1)
    fibres := (List.range w).map fun i =>
      { regs := rdWs bs (vOff w + 4 * i * v) v, wb := rdF i % 256, p := BitVec.ofNat 7 (rdF i / 256),
        drw := rdW bs (0x1304 + 8 * i), bad := (b.fibre i).bad }
    exited := (List.range w).all fun i => rdF i / 2 ^ 15 % 2 == 0 }

end Sys2Proof.Machine
end

