-- ==== Sys2Proof/Machine/Task.lean ====
section
/-! DEFINITION. Tasks: spawning, starting, joining and the team barrier (R286 to R297), gang drain (R308), event queues
(R310) and priorities (R311 to R313). -/
namespace Sys2Proof.Machine

/-- A gang's pedigree changes: its strand ends (R371). -/
def State.setPed (s : State) (gid : Nat) (p : Ped) : State :=
  (({ s with strands := s.strands.map fun e => if e.gid == gid && e.ped != p then { e with ended := true } else e } : State).recount).modGang
    gid fun g => { g with ped := p }

/-- A rank that passes 0xFFFF_FFFF (R89). -/
def overRank (r : Word) (n : Nat) : Bool := decide (r.toNat + n > 0xFFFFFFFF)

/-- The PROT or ILLEGAL of a whole word (R76). -/
def trapPed (c : Cur) (g : Gang) (cause : Cause) (info : Nat) (s : State) : Out := trapBatch c g cause 0 (info % 32) s

/-! ## Room (R304) -/

/-- A gang that runs inline stands in its parent's slot (R293). -/
def State.isInline (s : State) (g : Gang) : Bool :=
  match g.parent with
  | some p => s.gangs.any fun x => x.gid == p && x.inlined == some g.gid
  | none => false
/-- The gangs that hold a slot of a core. -/
def State.residents (s : State) (core : Nat) : List Gang := s.gangs.filter fun g => g.core == core && !s.isInline g
/-- Registers of a list of gangs. -/
def regsUsed (gs : List Gang) : Nat := (gs.map fun g => g.width * g.vregs).sum
/-- Whether a partition has room for a gang of width w with v registers (R304). -/
def State.partRoom (s : State) (core part w v : Nat) : Bool :=
  let all := s.residents core
  let own := all.filter (·.part == part)
  decide (all.length + 1 ≤ 64) && decide ((all.map (·.width)).sum + w ≤ 4096) && decide (own.length < 16) &&
    decide (regsUsed own + w * v ≤ 65536)

/-! ## Creating a gang -/

/-- A fibre as created (R85). -/
def Fibre.created (vregs : Nat) : Fibre := { regs := List.replicate vregs 0, wb := 0, p := 0, drw := 0, bad := [] }
/-- Issue selection state as created. -/
def Sched.created (now : Nat) : Sched :=
  { last := 0, since := now, raised := 0, demoted := false, hist := [], reads := [], lastPc := none }

/-- What a new gang is given; everything else is at its reset value (R87, R291, R301). -/
structure GangInit where
  lkey : Nat
  ctx : Nat
  team : Option Nat
  parent : Option Nat
  rank : Word
  core : Nat
  part : Nat
  width : Nat
  vregs : Nat
  ped : Ped
  args : DWord
  pc : DWord
  nred : Nat
  statarm : Flags
  seed : DWord
  tvec : DWord
  gangId : Word
  teamId : Word
  prio : Nat

/-- A new gang: one batch of every fibre at its entry. -/
def GangInit.gang (i : GangInit) (gid now : Nat) : Gang :=
  { Gang.blank with
    gid := gid, lkey := i.lkey, ctx := i.ctx, team := i.team, parent := i.parent, rank := i.rank, core := i.core,
    part := i.part, width := i.width, vregs := i.vregs, sregs := loWord i.args :: hiWord i.args :: List.replicate 254 0,
    live := maskLow i.width, ped := i.ped, views := List.replicate i.nred none, statarm := i.statarm, seed := i.seed,
    tvec := i.tvec, gangId := i.gangId, teamId := i.teamId, prio := i.prio,
    batches := [{ memb := maskLow i.width, pc := i.pc, st := .ready, passed := 0, cap := [], next := 0, polled := false }],
    fibres := List.replicate i.width (Fibre.created i.vregs), sched := Sched.created now }

/-- A gang enters the device: it acquires at DEV scope before its first instruction (R216). -/
def State.addGang (s : State) (i : GangInit) : State :=
  { (s.acquireLv i.core 2) with gangs := s.gangs ++ [i.gang s.fresh s.clock], fresh := s.fresh + 1 }

/-- The first child of a task entry (R288 to R291). -/
def TaskEntry.init (s : State) (e : TaskEntry) (core part : Nat) : GangInit :=
  let l := s.launch? e.lkey
  { lkey := e.lkey, ctx := s.ctxOf e.lkey, team := none, parent := some e.parent, rank := e.rank0, core := core, part := part,
    width := widthOf e.wcode, vregs := e.vregs,
    ped := { mode := e.pmode, root := false, devl := e.devl, lid := match l with | some l => l.lid | none => 0,
             levels := e.base ++ [(e.rank0, e.flr), (0, 0)] }
    args := e.args, pc := (match l with | some l => l.r.text | none => 0) + e.entry.setWidth 64
    nred := (s.redsOf e.lkey).length, statarm := e.statarm, seed := e.seed, tvec := e.tvec, gangId := e.gangId
    teamId := e.teamId, prio := e.prio }

/-- What is left of an entry once its first child has started (R292). -/
def TaskEntry.rest (e : TaskEntry) : Option TaskEntry :=
  if e.count ≤ 1 then none
  else some { e with rank0 := e.rank0 + 1, count := e.count - 1, args := e.args + e.stride.setWidth 64 }

/-! ## Deques, backing stores and inline children (R293) -/

/-- The entries of a partition's deque, oldest first. -/
def State.deque (s : State) (core part : Nat) : List DequeEnt := s.deques.filter fun d => d.core == core && d.part == part

/-- The agent of the H40's own writes for a launch: unfiltered, checked as an engine access. -/
def State.ownAgent (s : State) (lkey core : Nat) : Agent :=
  { core := core, ctx := s.ctxOf lkey, lkey := lkey, gid := 0, ped := { mode := 2, root := false, devl := false, lid := 0, levels := [] }, epc := 0 }

/-- Writing bytes of one page at home, if the access passes its checks. -/
def State.ownWrite (s : State) (ag : Agent) (va : DWord) (bs : List Byte) : Bool × State :=
  match served ag va.toNat (fun s => match s.checkVa ag va true (fun t => !t.lattice) with
      | (.error e, s) => (.error (e, 0), s)
      | (.ok t, s) => (.ok t, s)) s with
  | (.error _, s) => (false, s)
  | (.ok t, s) => (true, if isHbm t.pa then s.homeWr t.pa bs else s.ioWr t.pa bs)

/-- Writing a record of 16-byte pieces: whether every write was made, and the state. -/
def State.ownRecord (s : State) (ag : Agent) (va : DWord) : Nat → List Byte → Bool × State
  | 0, _ => (true, s)
  | n + 1, bs =>
    let a := s.ownWrite ag va (bs.take 16)
    let b := a.2.ownRecord ag (va + 16) n (bs.drop 16)
    (a.1 && b.1, b.2)

/-- Changing a task entry, in a deque or in a backing store. -/
def State.modTask (s : State) (key : Nat) (f : TaskEntry → TaskEntry) : State :=
  let g := fun (e : TaskEntry) => if e.key == key then f e else e
  { s with deques := s.deques.map fun (d : DequeEnt) => { d with task := g d.task },
           launches := s.launches.map fun (l : Launch) => { l with backing := l.backing.map g } }

/-- The record of a backing entry is written at its place (R292). -/
def State.putBacking (s : State) (e : TaskEntry) : State :=
  match s.launch? e.lkey with
  | none => s
  | some l => (s.ownRecord (s.ownAgent e.lkey 0) (l.r.bsbase + BitVec.ofNat 64 (64 * e.place)) 4 (e.bytes e.parent)).2

/-- An entry joins the backing store of its launch, at the lowest free place (R293). -/
def State.toBacking (s : State) (e : TaskEntry) (core : Nat) : State :=
  match s.launch? e.lkey with
  | none => s
  | some l =>
    let used := l.backing.map (·.place)
    let e := { e with place := ((List.range (used.length + 1)).find? fun k => !used.contains k).getD 0 }
    ((s.modLaunch e.lkey fun l => { l with backing := l.backing ++ [e] }).putBacking e).bump core 14 1

/-- The launch of highest priority, then of lowest id (R294). -/
def firstLaunch (ls : List Launch) : Option Launch :=
  ls.foldl (fun (r : Option Launch) l => match r with
    | none => some l
    | some a => if l.r.prio < a.r.prio || (l.r.prio == a.r.prio && l.lid.ult a.lid) then some l else some a) none

/-- Bringing the oldest backing entry, of the launch of highest priority and then lowest id, to the top of a deque
with room (R294). -/
def State.fromBacking (s : State) (core part : Nat) : State :=
  if (s.deque core part).length ≥ 64 then s
  else
    match firstLaunch (s.launches.filter fun l => !l.backing.isEmpty) with
    | none => s
    | some l =>
      match l.backing with
      | [] => s
      | e :: es =>
        let s := s.modLaunch l.lkey fun l => { l with backing := es }
        { s with deques := { core := core, part := part, task := e } :: s.deques }

/-- A free record of a launch's inline area. -/
def Launch.inlineRoom (l : Launch) : Bool := decide (l.inlines.length < l.r.inlcap)

/-- The lowest offset of an inline area at which n bytes are free. -/
def inlineOff (used : List InlineRec) (n : Nat) : Nat :=
  let ends := used.map fun u => u.off + u.size
  ((0 :: ends).filter fun o => used.all fun u => decide (o + n ≤ u.off) || decide (u.off + u.size ≤ o)).foldl min (ends.foldl max 0)

/-- A child runs in its parent's slot, the parent's state lying in the inline area (R293). -/
def State.runInline (s : State) (gid : Nat) (e : TaskEntry) : State :=
  let s := s.spillGang gid e.lkey
  match s.gang? gid, s.launch? e.lkey with
  | some g, some l =>
    let n := gangSize g.width g.vregs
    let off := inlineOff l.inlines n
    let w := s.ownRecord (s.ownAgent e.lkey g.core) (l.r.inlbase + BitVec.ofNat 64 off) (n / 16) (g.bytes 0 0 true)
    let s := w.2.modLaunch e.lkey fun l => { l with inlines := { gid := gid, off := off, size := n, whole := w.1 } :: l.inlines }
    let s := s.modGang gid fun g => { g with inlined := some s.fresh, inlineFan := e.rest }
    (s.addGang (e.init s g.core g.part)).bump g.core 15 1
  | _, _ => s

/-- A parent takes its state back from its inline record, which is free again (R293, R413). What has changed while it lay
there stays: its children, turns, flags and views, and its end. -/
def State.fromInline (s : State) (gid : Nat) : State :=
  match s.gang? gid with
  | none => s
  | some q =>
    match (s.launch? q.lkey).bind fun l => (l.inlines.find? (·.gid == gid)).map fun x => (l, x) with
    | none => s
    | some (l, x) =>
      let s := s.modLaunch q.lkey fun l => { l with inlines := l.inlines.filter (·.gid != gid) }
      let va := l.r.inlbase.toNat + x.off
      let h := Gang.ofBytes s q ((List.range x.size).map fun i => s.firmRd l.ctx (va + i))
      if !x.whole || q.exited || h.pending.length != q.pending.length || h.trap.isSome != q.trap.isSome then s
      else s.modGang gid fun q =>
        { h with core := q.core, part := q.part, outstanding := q.outstanding, turns := q.turns, stat := q.stat, views := q.views }

/-- Reading a counter at a scope without waiting: whether it has reached its target. -/
def State.counterMet (s : State) (ag : Agent) (va target : DWord) (scope : Nat) (spread : Bool) : Bool × State :=
  if va.toNat % 8 ≠ 0 then (false, s)
  else
    match s.checkVa ag va false (fun t => isHbm t.pa || scope == 3) with
    | (.error e, s) => (false, if e = .migrate then s.migrateBy ag.core ag.ctx va.toNat else s)
    | (.ok t, s) =>
      if t.lattice then (false, s)
      else
        let r := s.locRd ag.core (scopePlace scope spread) t 8
        (r.1.2.isNone && target.ule r.1.1, r.2)

/-- What placing an entry answers (R293). -/
inductive Placed where
  | placed (s : State)
  | tooWide (s : State)
  | full (s : State)

/-- A pending entry takes a monitor of its core, or polls and counts once as one that does (R242, R290, R377); it polls too
while its counter cannot be read. -/
def State.watchEntry (s : State) (core : Nat) (spread : Bool) (e : TaskEntry) : State :=
  if s.monitors.any fun m => m.gid == e.key && m.kind == 2 then s
  else
    match s.checkVa (s.ownAgent e.lkey core) e.caddr false (fun t => isHbm t.pa || e.cscope == 3) with
    | (.error _, s) => s
    | (.ok t, s) =>
      if (s.monitors.filter (·.core == core)).length < 256 then
        { s with monitors := { core := core, place := scopePlace e.cscope spread, sect := t.pa / 16, kind := 2, gid := e.key,
                               pc := e.caddr, memb := 0 } :: s.monitors }
      else if e.polled then s
      else (s.bumpDie (dieOf core) 11 1).modTask e.key fun e => { e with polled := true }

/-- Placing a new entry of a gang (R293). -/
def State.placeEntry (s : State) (g : Gang) (e : TaskEntry) : Placed :=
  let bs := match s.launch? e.lkey with | some l => decide (l.backing.length < l.r.bscap) | none => false
  let inl := match s.launch? e.lkey with | some l => l.inlineRoom | none => false
  let watch := fun (s : State) => if e.pend then s.watchEntry g.core (s.spread g) e else s
  if (s.deque g.core g.part).length < 64 then
    .placed (watch { s with deques := s.deques ++ [{ core := g.core, part := g.part, task := e }] })
  else if bs then .placed (watch (s.toBacking e g.core))
  else if widthOf e.wcode > g.width ∨ e.vregs > g.vregs then .tooWide s
  else if !inl then .full s
  else if e.pend then
    let r := s.counterMet (s.ownAgent e.lkey g.core) e.caddr e.cval e.cscope (s.spread g)
    if r.1 then .placed (r.2.runInline g.gid { e with pend := false }) else .full r.2
  else .placed (s.runInline g.gid e)

/-! ## SPAWN, SPAWNN, SPAWNA (R287 to R290) -/

/-- The checks 1 to 5 of R287: cause, TADDR and TINFO. -/
def spawnFault (s : State) (c : Cur) (g : Gang) (entry desc : Word) (n : Nat) : Option (Cause × DWord × Nat) :=
  let low := lowFix g.width c.memb
  let at_ := s.textOf g + entry.setWidth 64
  if desc.toNat / 128 ≠ 0 ∨ n > 65536 then some (.illegal, 0, c.main.toNat)
  else if entry.toNat % 4 ≠ 0 then some (.align, at_, low)
  else if entry.toNat ≥ s.textSz g then some (.prot, at_, low)
  else if n = 0 then none
  else if g.ped.depth ≥ 16 then some (.pedDepth, 0, g.ped.depth % 32)
  else if overRank g.ped.last.1 n then some (.pedRank, 0, g.ped.depth % 32)
  else none

/-- The entry that a spawn creates. -/
def spawnEntry (s : State) (g : Gang) (entry desc : Word) (args : DWord) (fan : Bool) (n : Nat) (stride : Word) : TaskEntry :=
  { key := s.fresh, lkey := g.lkey, parent := g.gid, entry := entry, args := args, wcode := desc.toNat % 4,
    vregs := 8 * (desc.toNat / 4 % 32 + 1), fan := fan, pend := false, rank0 := g.ped.last.1, flr := g.ped.last.2, count := n,
    stride := stride, base := g.ped.levels.dropLast, caddr := 0, cval := 0, cscope := 0, statarm := g.statarm,
    tvec := g.tvec, seed := g.seed, gangId := g.gangId, teamId := g.teamId, prio := g.prio, pmode := g.ped.mode,
    devl := g.ped.devl, place := 0, polled := false }

/-- The parent of a spawn releases, moves to its next rank and goes on past the spawn (R216, R288, R289). -/
def spawned (c : Cur) (g : Gang) (e : TaskEntry) (s : State) : State :=
  let t := (s.payOwed g.gid).releaseLv g.core 2
  let t := { t with fresh := t.fresh + 1 }
  let t := t.setPed g.gid (g.ped.setLast (e.rank0 + BitVec.ofNat 32 e.count, e.flr))
  advance c (t.modGang g.gid fun g => { g with outstanding := g.outstanding + e.count })

/-- A spawn of a checked entry: the parent goes on and the entry is placed; when no place is free the batch waits and
nothing else has changed (R288, R293). -/
def spawnPlace (c : Cur) (g : Gang) (e : TaskEntry) (s : State) : Out :=
  match (spawned c g e s).placeEntry g e with
  | .placed t => .next t
  | .tooWide _ => trapBatch c g .spawnWidth 0 (e.wcode + 4 * vregsCode e.vregs) s
  | .full _ => waitFor c 3 [3] s

/-- SPAWN (R288). -/
def execSpawn (a : BitVec 7) (s : State) : Out :=
  withCur s fun c g =>
    gatherAll c g s 0
      (sGuard c g s [(pairNo a, 4)]
        (let b := g.block (pairNo a) 4
         match spawnFault s c g (b.getD 0 0) (b.getD 1 0) 1 with
         | some e => trapBatch c g e.1 e.2.1 e.2.2 s
         | none => spawnPlace c g (spawnEntry s g (b.getD 0 0) (b.getD 1 0) (pairOf (b.getD 2 0) (b.getD 3 0)) false 1 0) s))

/-- SPAWNN (R289): with n = 0 only the first checks are made. -/
def execSpawnn (a : BitVec 7) (s : State) : Out :=
  withCur s fun c g =>
    gatherAll c g s 0
      (sGuard c g s [(pairNo a, 6)]
        (let b := g.block (pairNo a) 6
         let n := (b.getD 4 0).toNat
         match spawnFault s c g (b.getD 0 0) (b.getD 1 0) n with
         | some e => trapBatch c g e.1 e.2.1 e.2.2 s
         | none =>
           if n = 0 then done c s
           else spawnPlace c g (spawnEntry s g (b.getD 0 0) (b.getD 1 0) (pairOf (b.getD 2 0) (b.getD 3 0)) true n (b.getD 5 0)) s))

/-- SPAWNA (R290): the child is pending until the counter at SB reaches its target at the scope. -/
def execSpawna (a sb : BitVec 7) (s : State) : Out :=
  withCur s fun c g =>
    gatherAll c g s 0
      (sGuard c g s [(pairNo a, 6), (pairNo sb, 2)]
        (let b := g.block (pairNo a) 6
         match spawnFault s c g (b.getD 0 0) (b.getD 1 0) 1 with
         | some e => trapBatch c g e.1 e.2.1 e.2.2 s
         | none =>
           let e := spawnEntry s g (b.getD 0 0) (b.getD 1 0) (pairOf (b.getD 2 0) (b.getD 3 0)) false 1 0
           let k := hmodScope c 0
           spawnPlace c g { e with pend := true, caddr := g.s2 (pairNo sb), cval := pairOf (b.getD 4 0) (b.getD 5 0),
                                   cscope := if k ≥ 4 then 0 else k } s))

/-- The pending entries, each with the core that reads its counter; for one in a backing store that of its parent. -/
def State.pendings (s : State) : List (Nat × TaskEntry) :=
  (s.deques.filter (·.task.pend)).map (fun d => (d.core, d.task)) ++
  ((s.launches.flatMap (·.backing)).filter (·.pend)).map fun e => (match s.gang? e.parent with | some g => g.core | none => 0, e)

/-- A pending entry whose counter is read (R290): once satisfied it is ready, and moves to the bottom of its deque; one in
the backing store stays there, with its record written again. Otherwise it is watched, or polls. -/
def State.readEntry (s : State) (core : Nat) (e : TaskEntry) : State :=
  let spread := match s.gang? e.parent with | some g => s.spread g | none => false
  let r := s.counterMet (s.ownAgent e.lkey core) e.caddr e.cval e.cscope spread
  if r.1 then
    let s : State := { r.2 with monitors := r.2.monitors.filter (·.gid != e.key) }
    let e := { e with pend := false }
    match s.deques.find? (·.task.key == e.key) with
    | some d => { s with deques := (s.deques.filter (·.task.key != e.key)) ++ [{ d with task := e }] }
    | none => (s.modTask e.key fun _ => e).putBacking e
  else r.2.watchEntry core spread e

/-! ## TASK_START (R294) -/

/-- A ready entry for which a partition has room. -/
def State.fits (s : State) (core part : Nat) (d : DequeEnt) : Bool :=
  !d.task.pend && s.partRoom core part (widthOf d.task.wcode) d.task.vregs

/-- The other cores of a die in a thief's order (R294): k is the number of its searches so far. -/
def stealOrder (core k : Nat) : List Nat :=
  let l := ((List.range 20).map (· + 20 * dieOf core)).filter (· != core)
  (List.range 19).map fun j => l.getD (((pmix (BitVec.ofNat 64 k) (BitVec.ofNat 64 core) 0).toNat % 2 ^ 64 + j) % 19) core

/-- The oldest entry that fits, of the deques of a core in ascending partition number. -/
def State.victim (s : State) (core part : Nat) (parts : List Nat) (v : Nat) : Option DequeEnt :=
  parts.findSome? fun p => (s.deque v p).find? fun d => s.fits core part d

/-- Searches of a core so far. -/
def State.searchNo (s : State) (core : Nat) : Nat := match s.searches.find? (·.1 == core) with | some e => e.2 | none => 0

/-- The entry that a partition starts: its own newest, then by stealing; with the state after a search of step 2, and
whether it came from another die (R294). -/
def State.findTask (s : State) (core part : Nat) : Option (DequeEnt × Bool) × State :=
  match (s.deque core part).reverse.find? (s.fits core part) with
  | some d => (some (d, false), s)
  | none =>
    if s.launches.any fun l => l.backing.any fun e => s.fits core part { core := core, part := part, task := e } then (none, s)
    else
      match s.victim core part ((List.range 4).filter (· != part)) core with
      | some d => (some (d, false), s)
      | none =>
        let k := s.searchNo core
        let s := { s with searches := (core, k + 1) :: s.searches.filter (·.1 != core) }
        match (stealOrder core k).findSome? (s.victim core part [0, 1, 2, 3]) with
        | some d => (some (d, false), s)
        | none =>
          let dies := (List.range 7).map fun j => (dieOf core + 1 + j) % 8
          match (dies.flatMap fun d => (List.range 20).map (· + 20 * d)).findSome? (s.victim core part [0, 1, 2, 3]) with
          | some d => (some (d, true), s)
          | none => (none, s)

/-- The first child of an entry is taken. An entry whose last child is taken frees its place; in a deque a backing entry
takes it (R292, R294). -/
def State.takeChild (s : State) (e : TaskEntry) : State :=
  match e.rest, s.deques.find? (·.task.key == e.key) with
  | some r, some _ => s.modTask e.key fun _ => r
  | some r, none => (s.modTask e.key fun _ => r).putBacking r
  | none, some d => ({ s with deques := s.deques.filter (·.task.key != e.key) } : State).fromBacking d.core d.part
  | none, none => s.modLaunch e.lkey fun l => { l with backing := l.backing.filter (·.key != e.key) }

/-- The first child of a deque entry starts on a partition. -/
def State.startEntry (s : State) (d : DequeEnt) (core part : Nat) (far : Bool) : State :=
  let s := if far then s.bumpDie (dieOf core) 9 1 else s
  (s.addGang (d.task.init s core part)).takeChild d.task

/-- The oldest entry of a launch's backing store that fits a partition. -/
def State.backingFor (s : State) (core part : Nat) (l : Launch) : Option TaskEntry :=
  l.backing.find? fun e => s.fits core part { core := core, part := part, task := e }

/-- The oldest entry that fits a partition starts there, of the backing store of the launch of highest priority, then of
lowest id (R294). -/
def State.startBacking (s : State) (core part : Nat) : State :=
  match (firstLaunch (s.launches.filter fun l => (s.backingFor core part l).isSome)).bind (s.backingFor core part) with
  | none => s
  | some e => (s.addGang (e.init s core part)).takeChild e

/-- A gang that waits for its children. -/
def Gang.atSync (g : Gang) : Bool := g.inlined.isNone && g.batches.any fun b => b.st == .waiting 3 && b.cap.headD 3 != 3

/-- A parent waiting at SYNC runs an unstarted child inline when no partition has room for it (R296). -/
def State.syncInline (s : State) (core part : Nat) : State :=
  let any := fun (e : TaskEntry) => (List.range 160).any fun c => (List.range 4).any fun p =>
    s.fits c p { core := c, part := p, task := e }
  let kid := fun (g : Gang) => (s.deques.map (·.task) ++ s.launches.flatMap (·.backing)).find? fun e =>
    e.parent == g.gid && !e.pend && widthOf e.wcode ≤ g.width && e.vregs ≤ g.vregs && !any e
  let room := fun (g : Gang) => match s.launch? g.lkey with | some l => l.inlineRoom | none => false
  match s.gangs.findSome? fun g => if g.core == core && g.part == part && g.atSync && room g then (kid g).map fun e => (g, e) else none with
  | none => s
  | some (g, e) => (s.takeChild e).runInline g.gid { e with count := 1 }

/-- TASK_START (R294, R296): a partition starts a task, its own newest first, then one of a backing store, then a stolen
one; with no room, or with nothing to start, a parent waiting there runs a child inline. -/
def execTaskStart (core part : Nat) (s : State) : Out :=
  if core ≥ 160 ∨ part ≥ 4 then .next s
  else if !s.partRoom core part 8 8 then .next (s.syncInline core part)
  else
    match s.findTask core part with
    | (some (d, far), s) => .next (s.startEntry d core part far)
    | (none, s') =>
      if s.launches.any fun l => (s.backingFor core part l).isSome
      then .next (s.startBacking core part)
      else .next (s'.syncInline core part)

/-! ## Joining (R295, R296) -/

/-- The end of a SYNC, an implicit one included: held faults are delivered, then FLAG_ARMED; otherwise k (R295, R388).
skip is where TRET skip goes on after FLAG_ARMED. -/
def syncDeliver (s : State) (g : Gang) (memb : Mask) (pc skip : DWord) (k : State → State) : State :=
  match s.gang? g.gid with
  | none => s
  | some g =>
    match s.heldOf g (fun _ => true) with
    | some h => (s.takeTrap g.gid pc (heldTrap g h memb pc)).settle g.gid
    | none =>
      if g.armed != 0 then (s.takeTrap g.gid pc { (flagTrap (s.textOf g) g memb pc) with skip := skip }).settle g.gid
      else k s

/-- A trap of the batch that stands at a unit, outside its issue; next is the unit after it. -/
def batchTrap (s : State) (g : Gang) (memb : Mask) (pc next : DWord) (cause : Cause) (info : Nat) : State :=
  let t : Trap :=
    { cause := cause.word, tepc := loWord (pc - s.textOf g), tmask := memb, taddr := 0, tinfo := BitVec.ofNat 32 info,
      bmask := memb, good := [], skip := next, held := none }
  (s.takeTrap g.gid pc t).settle g.gid

/-- The merge of a frame at a unit, with its faults; k goes on (R295, R361, R406). -/
def mergeAt (s : State) (g : Gang) (memb : Mask) (pc next : DWord) (k : State → State) : State :=
  match s.mergeFrame g.gid with
  | .noSpace => batchTrap s g memb pc next .tileNospace 256
  | .poisoned => batchTrap s g memb pc next .eccUncorr (6 * 2 ^ 28 + lowFix g.width memb)
  | .ok s => k s

/-- A SYNC whose children have drained, of a batch at a unit: rank check, merge, the raised floor, the acquire, then the
deliveries; k ends the unit (R295). -/
def syncEnd (s : State) (g : Gang) (memb : Mask) (pc next skip : DWord) (k : State → State) : State :=
  let r := g.ped.last.1
  if overRank r 1 then batchTrap s g memb pc next .pedRank (g.ped.depth % 32)
  else
    mergeAt s g memb pc next fun s =>
      let s := s.setPed g.gid (g.ped.setLast (r + 1, r + 1))
      syncDeliver (s.acquireLv g.core 2) g memb pc skip k

/-- A batch goes on at a unit. -/
def State.moveBatch (s : State) (gid : Nat) (memb : Mask) (pc : DWord) : State :=
  (s.modGang gid fun g => (g.unbatch memb).place pc memb).settle gid

/-- SYNC (R295). -/
def execSync (s : State) : Out :=
  withCur s fun c g =>
    gatherAll c g s 0
      (if g.outstanding ≠ 0 then waitFor c 3 [0] s
       else .next (syncEnd s g c.memb c.base c.next c.next fun s => s.moveBatch g.gid c.memb c.next))

/-- The gang level of a launch's root gangs (R297): their PED has one level more. -/
def gangLevel (s : State) (g : Gang) : Nat :=
  match s.launch? g.lkey with
  | some l => if l.host then 2 else l.base.length + 2
  | none => 2

/-- NGANGS of a gang's launch. -/
def State.ngangs (s : State) (g : Gang) : Nat := match s.launch? g.lkey with | some l => l.r.gangs | none => 1

/-- An arrival at the team barrier once its children have drained: their merge, a release at TEAM scope, the wait. -/
def barfArrive (s : State) (g : Gang) (memb : Mask) (pc next : DWord) (d : Nat) : State :=
  mergeAt s g memb pc next fun s =>
    let s := (s.acquireLv g.core 2).releaseLv g.core (scopeLevel 0 (s.spread g))
    (s.modGang g.gid fun g => ({ g with arrived := true } : Gang).waitBatch memb 2 [BitVec.ofNat 64 d] next).settle g.gid

/-- BARF (R297). -/
def execBarf (d : BitVec 3) (s : State) : Out :=
  withCur s fun c g =>
    if !g.ped.root then trapIllegal c g c.main s
    else
      gatherAll c g s 0
        (let p := match g.team.bind s.team? with | some t => t.phase | none => 0
         if (p + 2) * s.ngangs g - 1 > 0xFFFFFFFF then trapBatch c g .pedRank 0 (gangLevel s g % 32) s
         else if g.outstanding ≠ 0 then waitFor c 3 [BitVec.ofNat 64 (2 + d.toNat * 256)] s
         else .next (barfArrive s g c.memb c.base c.next d.toNat))

/-- SYNC_COMPLETE (R295 to R297): the batch that waits for the gang's children completes its SYNC, its EXIT's or its
BARF's. -/
def execSyncComplete (gid : Nat) (s : State) : Out :=
  match s.gang? gid with
  | none => .next s
  | some g =>
    if g.outstanding ≠ 0 ∨ g.inlined.isSome = true then .next s
    else
      match g.batches.find? fun b => b.st == .waiting 3 && b.cap.headD 3 != 3 with
      | none => .next s
      | some b =>
        match b.cap with
        | [] => .next s
        | k :: _ =>
          if k = 0 then .next (syncEnd s g b.memb b.pc b.next b.next fun s => s.moveBatch gid b.memb b.next)
          else if k = 1 then .next (syncEnd s g b.memb b.pc b.next b.pc fun s => (s.endFibres gid b.memb).settle gid)
          else .next (barfArrive s g b.memb b.pc b.next (k.toNat / 256))

/-- The root gangs of a team that are still in the device. -/
def State.rootsOf (s : State) (tkey : Nat) : List Gang := s.gangs.filter fun g => g.team == some tkey && g.ped.root

/-- One gang leaves the team barrier (R297). -/
def barfLeave (s : State) (t : Team) (g : Gang) : State :=
  match g.batches.find? fun b => b.st == .waiting 2 with
  | none => s.modGang g.gid fun g => { g with arrived := false }
  | some b =>
    let r := gangLevel s g
    let n := s.ngangs g
    let l := fun (k : Nat) => BitVec.ofNat 32 k
    let levels := g.ped.levels.take (r - 1) ++ [(l ((t.phase + 1) * n + g.gangId.toNat), l ((t.phase + 1) * n)), (0, 0)]
    let d := (b.cap.headD 7).toNat
    let s := (s.setPed g.gid { g.ped with levels := levels }).modGang g.gid fun g => ({ g with arrived := false } : Gang).qset d t.broken
    let s := s.acquireLv g.core (scopeLevel 0 (s.spread g))
    syncDeliver s g b.memb b.pc b.next fun s => s.moveBatch g.gid b.memb b.next

/-- BARF_PHASE_COMPLETE (R297): once every root gang of the team has arrived or exited. What exited gangs have done
precedes the next phase too (R217). -/
def execBarfPhaseComplete (tkey : Nat) (s : State) : Out :=
  match s.team? tkey with
  | none => .next s
  | some t =>
    let gs := s.rootsOf tkey
    if gs.any (·.arrived) && gs.all (fun g => g.arrived || g.exited) then
      let s := (gs.filter (·.exited)).foldl (fun s g => s.releaseLv g.core (scopeLevel 0 (s.spread g))) s
      let s := s.modTeam tkey fun t => { t with phase := t.phase + 1, broken := false }
      .next ((gs.filter (·.arrived)).foldl (fun s g => barfLeave s t g) s)
    else .next s

/-! ## GANG_DRAIN (R308) -/

/-- A launch whose completion record is still to be posted to its issuer's queue. -/
def Launch.owes (l : Launch) (gid : Nat) : Bool :=
  l.issuer == some gid && (match l.st with | .posting _ _ => true | _ => false)

/-- Whether an exited gang has drained (R308); a gang whose fibres were killed first waits for its children too, for its
implicit SYNC (R295, R296). -/
def State.drained (s : State) (g : Gang) : Bool :=
  g.exited && g.inlined.isNone && g.outstanding == 0 && !(s.cmds.any fun c => c.gid == g.gid) && !(s.launches.any (·.owes g.gid)) &&
    !(s.latSends.any fun e => e.gang == some g.gid)

/-- Freeing a team whose root gangs have all drained (R308). -/
def State.freeTeam (s : State) (tkey : Nat) : State :=
  if (s.rootsOf tkey).isEmpty then
    match s.team? tkey with
    | none => s
    | some t =>
      { s with teams := s.teams.filter (·.tkey != tkey), slots := s.slots.filter (·.tkey != tkey),
               launches := s.launches.map fun l => if l.lkey == t.lkey then { l with freed := l.freed + 1 } else l }
  else s

/-- A drained child leaves its views and flags to its parent's SYNC; an inline one lets its parent go on (R293, R295). -/
def State.toParent (s : State) (g : Gang) (p : Nat) : State :=
  match s.gang? p with
  | none => s
  | some q =>
    let s := s.modGang p fun q =>
      { q with outstanding := q.outstanding - 1, finals := q.finals ++ [{ rank := g.rank, views := g.views, stat := g.stat }] }
    if q.inlined = some g.gid then
      let s := s.fromInline p
      match q.inlineFan with
      | none => s.modGang p fun q => { q with inlined := none }
      | some e => (s.modGang p fun q => { q with inlined := none, inlineFan := none }).runInline p e
    else s

/-- The implicit SYNC of a gang whose fibres were killed with children not yet joined: its views and STAT take theirs.
It has no batch left to take a fault of the merge. -/
def State.lastSync (s : State) (g : Gang) : State :=
  if g.finals.isEmpty then s
  else
    match s.mergeFrame g.gid with
    | .ok s => s.acquireLv g.core 2
    | _ => s.modGang g.gid fun g => { g with finals := [], stat := g.finals.foldl (fun a f => a ||| f.stat) g.stat }

/-- A gang that has drained leaves the device (R308, R371). -/
def State.drain (s : State) (g : Gang) : State :=
  let s := s.releaseLv g.core 2
  let s := ({ s with gangs := s.gangs.filter (·.gid != g.gid),
                     strands := s.strands.map fun (e : Strand) => if e.gid == g.gid then { e with ended := true } else e } : State).recount
  match g.parent with
  | some p => s.toParent g p
  | none =>
    let s := s.modLaunch g.lkey fun l =>
      { l with finals := l.finals ++ [{ rank := BitVec.ofNat 32 (linIndex l g), views := g.views, stat := g.stat }],
               turnMasks := l.turnMasks ++ [(linIndex l g, g.turns)] }
    let s := s.moveCursors g.lkey
    match g.team with
    | some t => s.freeTeam t
    | none => s

/-- GANG_DRAIN (R308). An exited gang has no batch left to take a held fault: its commands complete with STATUS 2. -/
def execGangDrain (gid : Nat) (s : State) : Out :=
  match s.gang? gid with
  | none => .next s
  | some g =>
    let s := if g.exited then s.dropHeld gid else s
    if s.drained g then
      let s := s.lastSync g
      match s.gang? gid with
      | some g => .next (s.drain g)
      | none => .next s
    else .next s

/-! ## EVPOP, PRIO (R310, R311), aging (R313) -/

/-- A posted place frees: the oldest completion held for the team's queue is posted (R255, R309). -/
def State.releaseHeld (s : State) (tkey : Nat) : State :=
  let cs := s.cmds.filter fun m => m.st == .heldDone && m.ev && m.tkey == some tkey
  match cs.foldl (fun (r : Option Command) m => match r with
      | none => some m
      | some a => if m.cid < a.cid then some m else some a) none with
  | some m => s.completeCmd m
  | none => s

/-- EVPOP (R310): a delivery point of held faults; it acquires at the scope of the record's completion. -/
def execEvpop (a : BitVec 6) (nb : BitVec 1) (s : State) : Out :=
  withCur s fun c g =>
    let sa := 4 * a.toNat
    deliver c g s (fun _ => true)
      (match s.teamOf g with
       | some t =>
         match t.evq with
         | (r, scope) :: rest =>
           let s := s.modTeam t.tkey fun t => { t with evq := rest }
           let s := s.modGang c.gid fun g =>
             g.setSs sa ((List.range 4).map fun k => BitVec.ofNat 32 (r.toNat / 2 ^ (32 * k)))
           done c ((s.acquireLv g.core (scopeLevel scope (s.spread g))).releaseHeld t.tkey)
         | [] => if nb = 1 then done c (s.modGang c.gid fun g => g.setSs sa [0xFF, 0, 0, 0]) else waitFor c 7 [] s
       | none => if nb = 1 then done c (s.modGang c.gid fun g => g.setSs sa [0xFF, 0, 0, 0]) else waitFor c 7 [] s)

/-- PRIO (R311): no priority above the launch's own. -/
def execPrio (a : BitVec 8) (s : State) : Out :=
  syncCmd s a.toNat 1 fun c g ps =>
    let p := (ps.getD 0 0).toNat % 4
    let l := match s.launch? g.lkey with | some l => l.r.prio | none => 0
    done c (s.modGang c.gid fun g => { g with prio := max p l })

/-- Whether some batch of a gang can be issued now (R92, R312). -/
def Gang.eligible (g : Gang) : Bool :=
  !g.exited && g.inlined.isNone && g.batches.any fun b => b.st == .ready || (b.st == .trapped && g.inTrap b.memb)

/-- AGING_PROMOTION (R313): an eligible gang that has issued nothing for 4,096 cycles counts one level higher. -/
def execAgingPromotion (gid : Nat) (s : State) : Out :=
  match s.gang? gid with
  | none => .next s
  | some g =>
    if g.eligible && decide (s.clock ≥ g.sched.since + 4096 * (g.sched.raised + 1)) && decide (g.sched.raised < if g.sched.demoted then 4 else g.prio) then
      .next (s.modGang gid fun g => { g with sched := { g.sched with raised := g.sched.raised + 1 } })
    else .next s

end Sys2Proof.Machine
end

