-- ==== Sys2Proof/Machine/Launch.lean ====
section
/-! DEFINITION. Launches: records and their checks (R298, R299, R357, R363), LAUNCH (R300 to R302), starting, placing and
completing a launch (R303 to R309). -/
namespace Sys2Proof.Machine

/-! ## Records -/

/-- A launch record (R298). -/
def lrecOf (bs : List Byte) : LRec :=
  let n := numOf bs
  let f := fun lo len => n / 2 ^ lo % 2 ^ len
  let w := fun lo => BitVec.ofNat 32 (f lo 32)
  let d := fun lo => BitVec.ofNat 64 (f lo 64)
  let b := fun lo => f lo 1 == 1
  { text := d 0, textsz := w 64, entry := w 96, args := d 128, nteams := w 192, wcode := f 224 2, gangs := f 226 6 + 1,
    vregs := 8 * (f 232 5 + 1), mode := f 237 2, scatter := b 239, prio := f 240 2, front := b 242, seedsrc := b 243,
    queue := f 244 4, tiles := f 256 11, seed := d 320, cmask := BitVec.ofNat 160 (f 384 160), depaddr := d 576,
    depval := d 640, cpladdr := d 704, crecaddr := d 768, cplscope := f 832 3, ev := b 835, tvec := d 896, bsbase := d 960,
    bscap := f 1024 32, inlcap := f 1056 32, inlbase := d 1088, redtab := d 1152, nred := f 1216 8, narena := f 1224 8,
    arenatab := d 1280, viewbase := d 1344, viewcap := f 1408 32, filtcap := f 1440 32, filtbase := d 1472,
    flogbase := d 1536, flogcap := f 1600 32 }

/-- A reserved field of the record is not zero. -/
def lrecReserved (bs : List Byte) : Bool :=
  let n := numOf bs
  [(248, 8), (267, 53), (544, 32), (836, 60), (1232, 48), (1632, 416)].any fun e => n / 2 ^ e.1 % 2 ^ e.2 != 0

/-- The record as it stands in a queue: the captured seed in SEED, SEEDSRC 1 (R414). -/
def captureSeed (bs : List Byte) (seed : DWord) : List Byte :=
  bs.take 30 ++ (match (bs.drop 30).head? with | some b => [b ||| 0x08] | none => []) ++ (bs.drop 31).take 9 ++
    bytesOf 8 seed.toNat ++ bs.drop 48

/-- A reducer descriptor (R357). -/
def redOf (bs : List Byte) : Reducer :=
  let n := numOf bs
  { type := n % 16, count := n / 2 ^ 16 % 2 ^ 12, result := BitVec.ofNat 64 (n / 2 ^ 64) }
/-- A reserved field of a reducer descriptor is not zero. -/
def redReserved (bs : List Byte) : Bool :=
  let n := numOf bs
  n / 2 ^ 4 % 2 ^ 12 != 0 || n / 2 ^ 28 % 2 ^ 36 != 0 || n / 2 ^ 128 != 0
/-- The other conditions of a reducer descriptor. -/
def redBad (r : Reducer) : Bool :=
  r.type > 9 || (r.type == 3 && r.count > 15) || r.result.toNat % (if r.type = 1 then 8 else 4) != 0

/-- An arena descriptor (R363). -/
def arenaOf (bs : List Byte) : Arena :=
  let n := numOf bs
  let f := fun lo len => n / 2 ^ lo % 2 ^ len
  { base := BitVec.ofNat 64 n, slog2 := f 64 5, cbits := f 72 6,
    terms := (List.range (min (f 69 3) 4)).map fun j => (f (128 + 16 * j) 5, f (133 + 16 * j) 6) }
/-- A reserved field of an arena descriptor is not zero. -/
def arenaReserved (bs : List Byte) : Bool :=
  let n := numOf bs
  n / 2 ^ 78 % 2 ^ 50 != 0 || n / 2 ^ 192 != 0 || (List.range 4).any fun j => n / 2 ^ (139 + 16 * j) % 2 ^ 5 != 0
/-- The other conditions of an arena descriptor. -/
def arenaBad (bs : List Byte) : Bool :=
  let n := numOf bs
  let a := arenaOf bs
  let nlev := n / 2 ^ 69 % 8
  a.base.toNat ≥ 2 ^ 57 || a.base.toNat % 2 ^ a.slog2 != 0 || a.slog2 > 24 || nlev > 4 || a.cbits > 40 ||
    a.terms.any (fun t => t.1 < 1 || t.1 > 16 || t.2 < 1 || t.2 > 32) || (a.terms.map (·.2)).sum + a.cbits > 40 ||
    (List.range 4).any fun j => nlev ≤ j && n / 2 ^ (128 + 16 * j) % 2 ^ 11 != 0

/-! ## Where a team fits (R304, R305) -/

/-- A partition as it fills: gangs and registers. -/
abbrev Fill := Nat × Nat

/-- The partition for a gang: fewest gangs among those with room, ties to the lowest number (R304). -/
def pickPart (w v : Nat) (ps : List Fill) : Option Nat :=
  (List.range ps.length).foldl (fun r k =>
    let p := ps.getD k (16, 0)
    if p.1 < 16 ∧ p.2 + w * v ≤ 65536 then
      match r with
      | none => some k
      | some j => if p.1 < (ps.getD j (16, 0)).1 then some k else some j
    else r) none

/-- The partitions of n gangs taken in order. -/
def fillParts (w v : Nat) : Nat → List Fill → Option (List Nat)
  | 0, _ => some []
  | n + 1, ps =>
    match pickPart w v ps with
    | none => none
    | some k => (fillParts w v n (ps.modify k fun p => (p.1 + 1, p.2 + w * v))).map (k :: ·)

/-- What a core holds: teams, gangs, fibres, granules, and its partitions. -/
structure Load where
  teams : Nat
  gangs : Nat
  fibres : Nat
  granules : Nat
  parts : List Fill

/-- An empty core. -/
def Load.empty : Load := { teams := 0, gangs := 0, fibres := 0, granules := 0, parts := List.replicate 4 (0, 0) }

/-- Room on a core for n gangs of a team with t granules there (R304): their partitions. -/
def Load.room (l : Load) (w v n t : Nat) : Option (List Nat) :=
  if l.teams < 32 ∧ l.gangs + n ≤ 64 ∧ l.fibres + n * w ≤ 4096 ∧ l.granules + t ≤ 384 then fillParts w v n l.parts else none

/-- The gangs of a team of g gangs that run on place i of c (R305). -/
def shareOf (g c i : Nat) : Nat := (g + c - 1 - i) / c

/-- Whether a team fits c empty cores. -/
def fitsOn (w v g t c : Nat) : Bool :=
  (List.range c).all fun i => (Load.empty.room w v (shareOf g c i) ((t + c - 1) / c)).isSome

/-- The cores that a launch's team takes, when it fits at all (R305). -/
def LRec.spread (r : LRec) : Option Nat := [1, 2, 3, 4].find? fun c => fitsOn (widthOf r.wcode) r.vregs r.gangs r.tiles c

/-- Whether a core is admitted (R298). -/
def LRec.admits (r : LRec) (core : Nat) : Bool := r.cmask == 0 || bit r.cmask core

/-- The candidates of a launch's teams by their lowest core, ascending: cores, or quads (R54, R306). -/
def LRec.candidates (r : LRec) (c : Nat) : List Nat :=
  if c = 1 then (List.range 160).filter r.admits
  else ((List.range 40).map (4 * ·)).filter fun q => (List.range c).all fun i => r.admits (q + i)

/-- The status of a record (R299). laxer says that the mode is laxer than the issuing launch's. -/
def launchStatus (bs : List Byte) (reds arenas : List (List Byte)) (sup laxer : Bool) : Nat :=
  let r := lrecOf bs
  if lrecReserved bs || r.nteams == 0 || r.cplscope == 1 || r.cplscope ≥ 4 || r.nred > 64 || r.narena > 16 ||
      reds.any redReserved || arenas.any arenaReserved then 1
  else
    match r.spread with
    | none => 2
    | some c =>
      if (r.candidates c).isEmpty then 3
      else if r.text.toNat % 256 ≠ 0 || r.textsz == 0 || r.textsz.toNat % 4 ≠ 0 || r.entry.toNat % 4 ≠ 0 ||
          !r.entry.ult r.textsz || r.nteams.toNat > 0x7FFFFFFF || r.nteams.toNat * r.gangs > 0xFFFFFFFF ||
          r.depaddr.toNat % 8 ≠ 0 || r.cpladdr.toNat % 8 ≠ 0 || r.crecaddr.toNat % 16 ≠ 0 || r.bsbase.toNat % 64 ≠ 0 ||
          r.inlbase.toNat % 256 ≠ 0 || (r.nred ≠ 0 && r.redtab.toNat % 32 ≠ 0) ||
          (r.narena ≠ 0 && r.arenatab.toNat % 32 ≠ 0) || reds.any (fun d => redBad (redOf d)) || arenas.any arenaBad then 4
      else if r.front && !sup then 5
      else if laxer then 6
      else 0

/-! ## Reading -/

/-- Pieces of 32 bytes. -/
def pieces32 : Nat → List Byte → List (List Byte)
  | 0, _ => []
  | n + 1, bs => bs.take 32 :: pieces32 n (bs.drop 32)

/-- Reading the descriptors that a record names (R357, R363): none of a table that is not aligned. -/
def State.readDescs (s : State) (ag : Agent) (va : DWord) (n : Nat) : Except (AFault × DWord) (List (List Byte)) × State :=
  if n = 0 ∨ va.toNat % 32 ≠ 0 then (.ok [], s)
  else
    match s.loadBlock ag va (2 * n) with
    | (.error e, s) => (.error e, s)
    | (.ok bs, s) => (.ok (pieces32 n bs), s)

/-- Reading both tables. -/
def State.readTables (s : State) (ag : Agent) (r : LRec) : Except (AFault × DWord) (List (List Byte) × List (List Byte)) × State :=
  match s.readDescs ag r.redtab r.nred with
  | (.error e, s) => (.error e, s)
  | (.ok a, s) =>
    match s.readDescs ag r.arenatab r.narena with
    | (.error e, s) => (.error e, s)
    | (.ok b, s) => (.ok (a, b), s)

/-! ## Accepting (R300 to R302) -/

/-- Room for one more launch: 64 in a host queue, 256 in the pool of a context's device launches (R300). -/
def State.launchRoom (s : State) (num : Nat) (host : Bool) (queue : Nat) : Bool :=
  let own := s.launches.filter fun l => l.ctx == num && l.host == host
  if host then decide ((own.filter fun l => l.r.queue == queue && l.st == .queued).length < 64)
  else decide ((own.filter fun l => l.nextTeam < l.r.nteams.toNat).length < 256)

/-- The cursor of a launch at its start: the last candidate (R306). -/
def LRec.cursor0 (r : LRec) : Nat := match r.spread with | some c => (r.candidates c).getLastD 0 | none => 0

/-- A host launch as accepted, in its queue. -/
def Launch.accepted (lkey num : Nat) (lid : Word) (r : LRec) (seed : DWord) (mode : Nat) : Launch :=
  { lkey := lkey, lid := lid, ctx := num, host := true, root := lkey, up := none, r := r, raw := [], seed := seed, mode := mode,
    issuer := none, issuerTeam := none, base := [], st := .queued, nextTeam := 0, cursor := r.cursor0, freed := 0,
    trapped := false, reds := [], arenas := [], finals := [], cursors := List.replicate 64 0, turnMasks := [], backing := [],
    inlines := [], flogUsed := 0 }

/-- A launch that a gang issues as a device launch (R301, R370). -/
def Launch.under (l : Launch) (s : State) (g : Gang) : Launch :=
  { l with host := false, root := s.rootLaunch g.lkey, up := some g.lkey, issuer := some g.gid,
           issuerTeam := (s.teamOf g).map (·.tkey), base := g.ped.levels }

/-- The launch id that a context gives next. -/
def Context.nextLid (c : Context) : Word := if c.lidCtr = 0xFFFFFFFF then 1 else c.lidCtr + 1

/-- A launch joins its queue with the context's next id (R300, R302). -/
def State.accept (s : State) (num : Nat) (bs : List Byte) (reds arenas : List (List Byte)) (seed : DWord) (mode : Nat)
    (host : Bool) (issuer : Option Gang) : State :=
  let lid := match s.ctx? num with | some c => c.lidCtr | none => 1
  let l := { Launch.accepted s.fresh num lid (lrecOf bs) seed mode with
             raw := captureSeed bs seed, reds := reds.map redOf, arenas := arenas.map arenaOf }
  let l := match issuer with | some g => if host then l else l.under s g | none => l
  ({ s with launches := s.launches ++ [l], fresh := s.fresh + 1 } : State).modCtx num fun c => { c with lidCtr := c.nextLid }

/-- The mode of a launch (R14, R298). -/
def modeFor (r : LRec) (host : Bool) (issuer : Nat) : Nat := if r.mode = 3 then (if host then 0 else issuer) else r.mode
/-- A device launch whose mode is laxer than its issuer's (R299). -/
def modeLaxer (r : LRec) (host : Bool) (issuer : Nat) : Bool :=
  !host && ((r.mode == 2 && issuer ≤ 1) || (r.mode == 0 && issuer == 1))

/-- Whether a gang runs a context's front program (R319). -/
def State.isFront (s : State) (g : Gang) : Bool :=
  match s.ctx? g.ctx with
  | some c => c.front.gid == some g.gid
  | none => false

/-- LAUNCH (R300 to R302). -/
def execLaunch (a : BitVec 7) (s : State) : Out :=
  withCur s fun c g =>
    gatherAll c g s 0
      (sGuard c g s [(pairNo a, 2)]
        (let sa := pairNo a
         let va := g.s2 sa
         let ag := { agentOf s c g with ped := { g.ped with mode := 2 } }
         if va.toNat % 256 ≠ 0 then uniFault c g 5 va (.align, 0) s
         else
           match s.loadBlock ag va 16 with
           | (.error e, s) => uniFault c g 5 e.2 e.1 s
           | (.ok bs, s) =>
             let r := lrecOf bs
             match s.readTables ag r with
             | (.error e, s) => uniFault c g 5 e.2 e.1 s
             | (.ok (reds, arenas), s) =>
               let host := r.front || s.isFront g
               let st := launchStatus bs reds arenas (s.sup g) (modeLaxer r host g.ped.mode)
               if st ≠ 0 then done c (s.modGang c.gid fun g => (g.setS (sa + 2) (BitVec.ofNat 32 st)).setS (sa + 3) 0)
               else if !host && g.ped.depth + 3 > 16 then trapPed c g .pedDepth g.ped.depth s
               else if !host && overRank g.ped.last.1 1 then trapPed c g .pedRank g.ped.depth s
               else if !s.launchRoom g.ctx host r.queue then waitFor c 4 [] s
               else
                 let lid := match s.ctx? g.ctx with | some x => x.lidCtr | none => 1
                 let s := s.releaseLv g.core 2
                 let s := s.accept g.ctx bs reds arenas (if r.seedsrc then r.seed else g.seed) (modeFor r host g.ped.mode) host (some g)
                 let s := if host then s
                   else (s.setPed g.gid (g.ped.setLast (g.ped.last.1 + 1, g.ped.last.2))).modGang g.gid fun g =>
                     { g with outstanding := g.outstanding + 1 }
                 done c (s.modGang c.gid fun g => (g.setS (sa + 2) 0).setS (sa + 3) lid)))

/-! ## LAUNCH_START (R303) -/

/-- Whether a queued launch's predecessors have completed (R303). -/
def State.headOfQueue (s : State) (l : Launch) : Bool :=
  !l.host || !(s.launches.any fun k => k.host && k.ctx == l.ctx && k.r.queue == l.r.queue && k.lkey < l.lkey)

/-- Whether a context runs. -/
def State.running (s : State) (num : Nat) : Bool := match s.ctx? num with | some c => c.running | none => false

/-- Whether restored teams or gangs of a context wait for placement, ahead of every unplaced team (R412). -/
def State.restoring (s : State) (num : Nat) : Bool := s.saved.any fun x => x.num == num && x.pending

/-- The dependence counter of a launch: reached, not yet, or not readable (R303). -/
def State.depends (s : State) (l : Launch) : Option Bool × State :=
  if l.r.depaddr = 0 then (some true, s)
  else
    let ag := s.ownAgent l.lkey 0
    match served ag l.r.depaddr.toNat (fun s => match s.checkVa ag l.r.depaddr false (fun t => isHbm t.pa && !t.lattice) with
        | (.error e, s) => (.error (e, 0), s)
        | (.ok t, s) => (.ok t, s)) s with
    | (.error _, s) => (none, s)
    | (.ok t, s) =>
      let r := s.locRd 0 3 t 8
      (if r.1.2.isSome then none else some (l.r.depval.ule r.1.1), r.2)

/-- Invalidation of a launch's text in every instruction cache (R188). -/
def State.dropText (s : State) (l : Launch) : State :=
  let hit := fun (x : ILine) => (List.range ((l.r.textsz.toNat + 65535) / 65536 + 1)).any fun k =>
    match walk s (l.r.text.toNat + 65536 * k) 4 (s.rootOf l.ctx) with
    | some f => f.phys ≤ 128 * x.line && 128 * x.line < f.phys + f.size
    | none => false
  { s with icache := s.icache.filter fun x => !hit x }

/-- LAUNCH_START (R303): a queued launch whose turn has come and whose counter is reached starts; one whose counter
cannot be read starts no gang and will complete with STATUS 2. -/
def execLaunchStart (lkey : Nat) (s : State) : Out :=
  match s.launch? lkey with
  | none => .next s
  | some l =>
    if l.st != .queued || !s.running l.ctx || !s.headOfQueue l then .next s
    else
      match s.depends l with
      | (some true, s) => .next ((s.dropText l).modLaunch lkey fun l => { l with st := .started })
      | (some false, s) => .next s
      | (none, s) =>
        .next (s.modLaunch lkey fun l => { l with st := .started, nextTeam := l.r.nteams.toNat, reds := [], trapped := true })

/-! ## TEAM_PLACEMENT (R303 to R307) -/

/-- What a core holds now. -/
def State.loadOf (s : State) (core : Nat) : Load :=
  let gs := s.residents core
  let ts := s.teams.filter (·.cores.contains core)
  { teams := ts.length, gangs := gs.length, fibres := (gs.map (·.width)).sum,
    granules := (ts.map fun t => (t.granules + t.cores.length - 1) / t.cores.length).sum,
    parts := (List.range 4).map fun p => let own := gs.filter (·.part == p); (own.length, regsUsed own) }

/-- The partitions of a team's gangs on the cores of a candidate, by place, if it has room there (R304, R305). -/
def State.placesOn (s : State) (w v g t c first : Nat) : Option (List (List Nat)) :=
  (List.range c).mapM fun i => (s.loadOf (first + i)).room w v (shareOf g c i) ((t + c - 1) / c)

/-- The candidates of the lowest unplaced team in the order in which they are tried (R306, R307). -/
def Launch.tries (l : Launch) (c : Nat) : List Nat :=
  let cs := l.r.candidates c
  if l.r.scatter then
    (List.range cs.length).map fun a =>
      cs.getD ((pmix l.seed (BitVec.ofNat 64 l.nextTeam) (BitVec.ofNat 64 a)).toNat % cs.length) 0
  else cs.filter (fun k => l.cursor < k) ++ cs.filter (fun k => !decide (l.cursor < k))

/-- The cores of a launch's candidates; of a quad that a spread team may take, all four (R303). -/
def LRec.reach (r : LRec) : List Nat :=
  match r.spread with
  | some c => if c = 1 then r.candidates c else (r.candidates c).flatMap fun k => (List.range 4).map (k + ·)
  | none => []

/-- A started launch with an unplaced team. -/
def Launch.unplaced (l : Launch) : Bool := l.st == .started && l.nextTeam < l.r.nteams.toNat

/-- A launch that competes for room: started, or startable, with an unplaced team (R303). -/
def State.competes (s : State) (l : Launch) : Bool :=
  s.running l.ctx && decide (l.nextTeam < l.r.nteams.toNat) &&
    (l.st == .started || (l.st == .queued && s.headOfQueue l && (s.depends l).1 == some true))

/-- Cores closed to a launch: those of the candidates of the launches before it that compete for room (R303). -/
def State.closed (s : State) (l : Launch) : List Nat :=
  (s.launches.filter fun k => k.lkey != l.lkey &&
    (k.r.prio < l.r.prio || (k.r.prio == l.r.prio && (k.lid.ult l.lid || (k.lid == l.lid && k.lkey < l.lkey)))) &&
    s.competes k).flatMap fun k => k.r.reach

/-- The root gangs of a team, by gang index (R301, R304, R305). -/
def teamGangs (l : Launch) (tkey t first c : Nat) (places : List (List Nat)) : List GangInit :=
  (List.range l.r.gangs).map fun g =>
    { lkey := l.lkey, ctx := l.ctx, team := some tkey, parent := none, rank := BitVec.ofNat 32 (t * l.r.gangs + g),
      core := first + g % c, part := (places.getD (g % c) []).getD (g / c) 0, width := widthOf l.r.wcode, vregs := l.r.vregs,
      ped := { mode := l.mode, root := true, devl := !l.host, lid := l.lid,
               levels := l.base ++ [(BitVec.ofNat 32 t, 0), (BitVec.ofNat 32 g, 0), (0, 0)] }
      args := l.r.args, pc := l.r.text + l.r.entry.setWidth 64, nred := l.reds.length, statarm := 0, seed := l.seed
      tvec := l.r.tvec &&& tvecBits, gangId := BitVec.ofNat 32 g, teamId := BitVec.ofNat 32 t, prio := l.r.prio }

/-- The lowest free team slot of a core, 0 to 31 (R194, R304). -/
def State.freeTslot (s : State) (core : Nat) : Nat :=
  ((List.range 32).find? fun k => !s.teams.any fun t => (t.cores.zip t.tslots).contains (core, k)).getD 0

/-- A team is placed: its slot, reservation and root gangs. -/
def State.placeTeam (s : State) (l : Launch) (first c : Nat) (places : List (List Nat)) : State :=
  let tkey := s.fresh
  let t : Team :=
    { tkey := tkey, lkey := l.lkey, teamId := BitVec.ofNat 32 l.nextTeam, cores := (List.range c).map (first + ·),
      tslots := (List.range c).map fun i => s.freeTslot (first + i), granules := l.r.tiles, phase := 0, broken := false, tiles := [], evq := [] }
  let s := { s with teams := s.teams ++ [t], fresh := s.fresh + 1 }
  let s := (teamGangs l tkey l.nextTeam first c places).foldl State.addGang s
  s.modLaunch l.lkey fun l => { l with nextTeam := l.nextTeam + 1, cursor := first }

/-- TEAM_PLACEMENT (R303, R306, R307): the lowest unplaced team of a launch goes to the first candidate with room. -/
def execTeamPlacement (lkey : Nat) (s : State) : Out :=
  match s.launch? lkey with
  | none => .next s
  | some l =>
    match (if l.unplaced && s.running l.ctx && !s.restoring l.ctx then l.r.spread else none) with
    | none => .next s
    | some c =>
      let closed := s.closed l
      let one := fun k => if (List.range c).any (fun i => closed.contains (k + i)) then none
        else (s.placesOn (widthOf l.r.wcode) l.r.vregs l.r.gangs l.r.tiles c k).map fun p => (k, p)
      match (l.tries c).findSome? one with
      | none => .next s
      | some (k, p) => .next (s.placeTeam l k c p)

/-! ## LAUNCH_COMPLETE (R309, R362) -/

/-- Every gang, task and nested launch of a launch is gone (R309). -/
def State.launchDone (s : State) (l : Launch) : Bool :=
  l.st == .started && l.nextTeam ≥ l.r.nteams.toNat && !(s.gangs.any (·.lkey == l.lkey)) &&
    !(s.deques.any (·.task.lkey == l.lkey)) && l.backing.isEmpty && !(s.launches.any fun k => k.up == some l.lkey) &&
    !(s.cmds.any (·.lkey == l.lkey)) && !s.restoring l.ctx

/-- Writing the elements of a result: whether every write was made, and the state. -/
def State.writeElems (s : State) (ag : Agent) (n : Nat) (va : DWord) : List DWord → Bool × State
  | [] => (true, s)
  | x :: xs =>
    let a := s.ownWrite ag va (bytesOf n x.toNat)
    let b := a.2.writeElems ag n (va + BitVec.ofNat 64 n) xs
    (a.1 && b.1, b.2)

/-- The reducer results of a launch (R362): whether every write was made, the flags, the state. -/
def State.writeResults (s : State) (ag : Agent) (fs : List Final) : Nat → List Reducer → Bool × Flags × State
  | _, [] => (true, 0, s)
  | k, r :: rs =>
    let x := launchResult s ag.lkey fs k r
    let w := if x.2.2 then (false, s) else s.writeElems ag (if r.type = 1 then 8 else 4) r.result x.1
    let t := w.2.writeResults ag fs (k + 1) rs
    (w.1 && t.1, x.2.1 ||| t.2.1, t.2.2)

/-- A launch whose record waits for event-queue space (R309). -/
def Launch.posting (l : Launch) : Bool :=
  match l.st with
  | .posting _ _ => true
  | _ => false

/-- A launch leaves the device: its issuer's frame has one child less, and a root launch's filter is emptied (R295, R373). -/
def State.endLaunch (s : State) (l : Launch) (inv : Flags) : State :=
  let s := { s with launches := s.launches.filter (·.lkey != l.lkey) }
  let s := if l.root = l.lkey then
      { s with filter := s.filter.filter (·.root != l.lkey), strands := s.strands.filter (·.root != l.lkey) }
    else s
  match l.issuer with
  | none => s
  | some k => s.modGang k fun g =>
      { g with outstanding := g.outstanding - 1, finals := g.finals ++ [{ rank := 0, views := [], stat := inv }] }

/-- Posting a launch's record to its issuer's queue, or keeping it while the queue is full (R309). -/
def State.postLaunch (s : State) (l : Launch) (rec : BitVec 128) (inv : Flags) : State :=
  match (if l.r.ev then l.issuerTeam else none) with
  | none => s.endLaunch l inv
  | some k =>
    if !s.teamLive k then s.endLaunch l inv
    else if s.queueFull k then s.modLaunch l.lkey fun l => { l with st := .posting rec inv }
    else (s.post k rec (if l.r.cplscope = 3 then 3 else 2)).endLaunch l inv

/-- LAUNCH_COMPLETE (R309): results, counter, record, then the post. -/
def execLaunchComplete (lkey : Nat) (s : State) : Out :=
  match s.launch? lkey with
  | none => .next s
  | some l =>
    match l.st with
    | .posting rec inv => .next (s.postLaunch l rec inv)
    | _ =>
      if !s.launchDone l then .next s
      else
        let ag := s.ownAgent lkey 0
        let scope := if l.r.cplscope = 3 then 3 else 2
        let w := s.writeResults ag l.finals 0 l.reds
        let s := w.2.2
        let n : Except AFault DWord × State := if l.r.cpladdr = 0 then (.ok 0, s) else s.bumpCounter ag l.r.cpladdr scope false
        let s := n.2
        let cval := match n.1 with | .ok v => loWord v | .error _ => 0
        let bad := l.trapped || !w.1 || (match n.1 with | .ok _ => false | .error _ => true)
        let note := fun (b : Bool) => recordOf (if b then 2 else 0) 0 l.r.nteams.toNat l.lid cval
        let x := if l.r.crecaddr = 0 then (true, s) else s.ownWrite ag l.r.crecaddr (bytesOf 16 (note bad).toNat)
        .next (x.2.postLaunch l (note (bad || !x.1)) w.2.1)

end Sys2Proof.Machine
end

