-- ==== Sys2Proof/Machine/Tables.lean ====
section
/-! DEFINITION. Pedigrees, arenas, reducers, ordered sequences (R359 to R369), and the events of views, the race filter,
migration, zero-fill and page walks (R181, R361, R365, R372, R374, R383). -/
namespace Sys2Proof.Machine

/-! ## Pedigrees (R368, R369) -/

/-- PEDRD (R368). -/
def execPedrd (a : BitVec 8) (s : State) : Out :=
  withCur s fun c g => done c (s.modGang c.gid fun h => h.setSs a.toNat g.ped.words)

/-- Reading pieces of 8 bytes as a uniform load; a piece that faults leaves no reader entry of those before it (R385). -/
def State.loadPieces (s : State) (ag : Agent) (va : DWord) : Nat → Except (AFault × DWord) (List Byte) × State
  | 0 => (.ok [], s)
  | n + 1 =>
    match s.loadVa ag va 8 false (fun _ => true) with
    | (.error e, s) => (.error (e, va), s)
    | (.ok (bs, tr), t) =>
      match t.loadPieces ag (va + 8) n with
      | (.error e, t) => (.error e, t.unrecord s [tr.pa / 16])
      | (.ok r, s) => (.ok (bs ++ r), s)

/-- The image's word 0 is malformed (R88, R369). -/
def pedBad (bs : List Byte) : Bool :=
  let h := rdN bs 0 4
  h % 32 == 0 || h % 32 > 16 || h / 32 % 8 != 0 || h / 2 ^ 12 != 0

/-- The result of PEDCMP (R369). -/
def pedCompare (x y : List (Word × Word)) : Nat :=
  if x = y then 0 else if precedes x y then 1 else if precedes y x then 2 else 3

/-- PEDCMP (R369). -/
def execPedcmp (a : BitVec 7) (s : State) : Out :=
  withCur s fun c g =>
    sGuard c g s [(pairNo a, 2)]
      (let va := g.s2 (pairNo a)
       if va.toNat % 8 ≠ 0 then uniFault c g 5 va (.align, 0) s
       else
         match s.loadPieces (agentOf s c g) va 17 with
         | (.error e, s) => uniFault c g 5 e.2 e.1 s
         | (.ok bs, s) =>
           let r := if pedBad bs then 4 else pedCompare g.ped.levels (pedOf bs 0).levels
           done c (s.modGang c.gid fun g => g.setS (pairNo a + 2) (BitVec.ofNat 32 r)))

/-! ## PALLOC (R364) -/

/-- The terms of an arena address: the number x, or the term that fails. -/
def arenaTerms (levels : List (Word × Word)) : Nat → List (Nat × Nat) → Nat → Except Nat Nat
  | _, [], x => .ok x
  | j, (lev, wid) :: ts, x =>
    if lev ≤ levels.length then
      let r := (levels.getD (lev - 1) (0, 0)).1.toNat
      if r ≥ 2 ^ wid - 1 then .error j else arenaTerms levels (j + 1) ts (x * 2 ^ wid + r)
    else arenaTerms levels (j + 1) ts (x * 2 ^ wid + (2 ^ wid - 1))

/-- The address of the next slot of an arena for a gang, or the term that fails: 4 for the counter or the top. -/
def Arena.next (a : Arena) (levels : List (Word × Word)) (n : Nat) : Except Nat Nat :=
  match arenaTerms levels 0 a.terms 0 with
  | .error j => .error j
  | .ok x =>
    if n ≥ 2 ^ a.cbits then .error 4
    else
      let addr := a.base.toNat + (x * 2 ^ a.cbits + n) * 2 ^ a.slog2
      if addr + 2 ^ a.slog2 > 2 ^ 57 then .error 4 else .ok addr

/-- PALLOC (R364). -/
def execPalloc (a : BitVec 7) (s : State) : Out :=
  syncCmd s (pairNo a) 1 fun c g ps =>
    let w := (ps.getD 0 0).toNat
    match (match s.launch? g.lkey with | some l => l.arenas[w]? | none => none) with
    | none => trapIllegal c g c.main s
    | some x =>
      if w ≥ 16 then trapIllegal c g c.main s
      else
        let n := g.arena.getD w 0
        match x.next g.ped.levels n.toNat with
        | .error j => trapBatch c g .allocRange 0 (w + 16 * j) s
        | .ok addr =>
          done c (s.modGang c.gid fun g =>
            { (g.setS2 (pairNo a) (BitVec.ofNat 64 addr)) with arena := g.arena.set w (n + 1) })

/-! ## Reducers (R359, R360) -/

/-- One fibre's contribution to a view. -/
def rupdFibre (c : Cur) (r : Reducer) (a b : Nat) (f : Fibre) (v : View) : Except (Cause × Nat) (View × Flags) := do
  f.chk a (if r.type = 1 then 2 else 1)
  bChk c f b 1
  let e := (bVal c f b).toNat
  if e > r.count then .error (.regRange, 0)
  else if v.bad.contains e then .error (.eccUncorr, 6 * 2 ^ 28)
  else
    let x := contribElem r.type (if r.type = 1 then f.v2 a else (f.v a).setWidth 64)
    let z := combElem r.type (v.elems.getD e (identElem r.type)) x
    return ({ v with elems := v.elems.set e z.1 }, z.2)

/-- The contributions in ascending FIX: the view, the flags, the faults. -/
def rupdFold (c : Cur) (r : Reducer) (a b : Nat) (g : Gang) : List Nat → View → View × Flags × List FFault
  | [], v => (v, 0, [])
  | i :: is, v =>
    match rupdFibre c r a b (g.fibre i) v with
    | .ok x =>
      let t := rupdFold c r a b g is x.1
      (t.1, x.2 ||| t.2.1, t.2.2)
    | .error e =>
      let t := rupdFold c r a b g is v
      (t.1, t.2.1, { fix := i, cause := e.1, addr := 0, info := e.2 } :: t.2.2)

/-- RUPD (R359): an FSUM32 reducer gathers the gang with WK 11 (R48). -/
def execRupd (gd : BitVec 4) (n a b : BitVec 6) (s : State) : Out :=
  withCur s fun c g =>
    match (s.redsOf g.lkey)[n.toNat]? with
    | none => trapIllegal c g c.main s
    | some r =>
      if r.type = 1 ∧ a.toNat % 2 = 1 then trapIllegal c g c.main s
      else
        let run : Out :=
          let act := actGd c g gd
          if act.isEmpty then done c s
          else
            match s.giveViews c.gid [(n.toNat, r)] with
            | none => trapBatch c g .tileNospace 0 256 s
            | some s =>
              match (match s.gang? c.gid with | some g => g.view n.toNat | none => none) with
              | none => done c s
              | some v =>
                let x := rupdFold c r a.toNat b.toNat g act { v with elems := s.viewElems g.lkey r v }
                finishFibres c 2 x.2.2 (s.modGang c.gid fun g => (g.setView n.toNat (some x.1)).flags x.2.1).storeViews
        if r.type = 2 then gatherAll c g s 11 run else run

/-- The elements of a gang's view, wherever it lies. -/
def State.viewOf (s : State) (g : Gang) (n : Nat) (r : Reducer) : List VElem :=
  match g.view n with
  | some v => s.viewElems g.lkey r v
  | none => List.replicate (r.count + 1) (identElem r.type)

/-- The checks of the stores of RVIEW with MEM, n elements of w bytes: their translations, or the first failure, which
leaves nothing recorded (R202, R360). -/
def State.rviewChecks (s : State) (ag : Agent) (w : Nat) (va : DWord) : Nat → Except (DWord × AFault) (List Tr) × State
  | 0 => (.ok [], s)
  | n + 1 =>
    match s.storeCheck ag va w (fun _ => true) with
    | (.error e, s) => (.error (va, e), s)
    | (.ok t, u) =>
      match u.rviewChecks ag w (va + BitVec.ofNat 64 w) n with
      | (.error e, u) => (.error e, u.unrecord s [t.pa / 16])
      | (.ok ts, s) => (.ok (t :: ts), s)

/-- The stores of RVIEW with MEM, element by element (R360). -/
def State.rviewStores (s : State) (core w : Nat) : List Tr → List VElem → State
  | t :: ts, x :: xs => (s.store core t (bytesOf w (elemOut x).toNat) false).rviewStores core w ts xs
  | _, _ => s

/-- RVIEW (R360). -/
def execRview (a : BitVec 8) (m : BitVec 1) (s : State) : Out :=
  syncCmd s a.toNat 1 fun c g ps =>
    let sa := a.toNat
    let n := (ps.getD 0 0).toNat
    match (s.redsOf g.lkey)[n]? with
    | none => trapIllegal c g c.main s
    | some r =>
      if n ≥ 64 ∨ (m = 0 ∧ r.type = 1 ∧ sa % 2 = 1) then trapIllegal c g c.main s
      else
        let bad := fun (p : Nat → Bool) => (g.view n).any (·.bad.any p)
        let t := s.useView g n r
        let xs := t.viewOf ((t.gang? c.gid).getD g) n r
        let ecc : Out := trapBatch c g .eccUncorr 0 (6 * 2 ^ 28 + lowFix g.width c.memb) s
        if m = 0 then
          sGuard c g s [(sa + 1, 1)]
            (let e := (g.s (sa + 1)).toNat
             if e > r.count then trapBatch c g .regRange 0 1 s
             else if bad (· == e) then ecc
             else
               let v := elemOut (xs.getD e (identElem r.type))
               done c (t.modGang c.gid fun g => if r.type = 1 then g.setS2 (sa + 2) v else g.setS (sa + 2) (loWord v)))
        else
          sGuard c g s [(sa + 2, 2)]
            (let w := if r.type = 1 then 8 else 4
             match s.rviewChecks (agentOf s c g) w (g.s2 (sa + 2)) xs.length with
             | (.error e, s) => uniFault c g 1 e.1 e.2 s
             | (.ok ts, u) =>
               if bad (fun _ => true) then ecc
               else done c (((u.useView g n r).payOwed c.gid).rviewStores g.core w ts xs))

/-- VIEW_SPILL (R361): a view moves to the backing area, or comes back, when there is room. -/
def execViewSpill (gid red : Nat) (out : Bool) (s : State) : Out :=
  match s.gang? gid with
  | none => .next s
  | some g =>
    match g.view red, (s.redsOf g.lkey)[red]? with
    | some v, some r =>
      if v.spill == out then .next s
      else if !out then .next (s.useView g red r)
      else if s.backingRoom g.lkey r.room then .next (s.spillView g.lkey v.core v.loc)
      else .next s
    | _, _ => .next s

/-! ## OSKIP (R367) -/

/-- OSKIP (R367). -/
def execOskip (a : BitVec 8) (s : State) : Out :=
  withCur s fun c g =>
    gatherAll c g s 0
      (sGuard c g s [(a.toNat, 1)]
        (let q := (g.s a.toNat).toNat
         if q ≥ 64 then trapIllegal c g c.main s
         else if !g.ped.root then trapBatch c g .ordNotRoot 0 0 s
         else if g.turnTaken q then trapBatch c g .ordNotRoot 0 256 s
         else done c (s.takeTurn g q)))

/-! ## Events of the tables -/

/-- RACE_CHECK (R372, R375): the home slice checks an access of a gang's strand. The accesses of instructions and engines
make this check themselves; a conflict that is found here alone is written to the fault log. -/
def execRaceCheck (gid pa : Nat) (mask : Half) (rd : Bool) (s : State) : Out :=
  match s.gang? gid with
  | none => .next s
  | some g =>
    let ag : Agent := { core := g.core, ctx := g.ctx, lkey := g.lkey, gid := gid, ped := g.ped, epc := 0 }
    if !isHbm pa || isLat pa || mask == 0 then .next s
    else
      match s.filterCheck ag (pa / 16) mask rd with
      | (none, s) => .next s
      | (some e, s) => .next (s.logRace ag 0 (pa / 16) mask rd e)

/-- A filter entry that is its home slice's own moves to its launch's spill region, at the lowest free place, while the
region has room (R374). -/
def State.spillEntry (s : State) (e : FEntry) : State :=
  match s.launch? e.root with
  | none => s
  | some l =>
    let used := (s.filter.filter (·.root == e.root)).filterMap (·.spilled)
    let k := ((List.range (used.length + 1)).find? fun k => !used.contains k).getD 0
    if e.spilled.isSome || 16 * (k + 1) > l.r.filtcap * 1024 then s
    else s.setFilter (s.filter.map fun x => if x == e then { x with spilled := some k } else x)

/-- A strand-table entry in the spill region: pedigree, id, count and whether it has ended (log 80). -/
def Strand.bytes (x : Strand) : List Byte :=
  wordBytes x.ped.words ++ bytesOf 4 x.sid ++ bytesOf 4 x.entries ++ bytesOf 16 (if x.ended then 1 else 0)

/-- The filter entries and the strand table of a root launch go to its spill region (R410): the entries from its start, the
strands from its end, as far as it has room. -/
def State.spillTables (s : State) (root : Nat) : State :=
  match s.launch? root with
  | none => s
  | some l =>
    let s := (s.filter.filter fun e => e.root == root && e.spilled.isNone).foldl State.spillEntry s
    let low := 16 * (s.filter.filter fun e => e.root == root && e.spilled.isSome).length
    let cap := l.r.filtcap * 1024
    (s.strands.filter (·.root == root)).foldr (fun x (r : Nat × State) =>
      let off := cap - 160 * (r.1 + 1)
      if low + 160 * (r.1 + 1) ≤ cap then (r.1 + 1, r.2.firmWrs l.ctx (l.r.filtbase.toNat + off) 11 x.bytes) else r) (0, s) |>.2

/-- FILTER_SPILL (R374): the entries of a sector move to the spill region of their launch. -/
def execFilterSpill (sect : Nat) (s : State) : Out :=
  .next ((s.filter.filter fun e => e.sect == sect && e.spilled.isNone).foldl State.spillEntry s)

/-! ## Room for filter entries (R371 to R374) -/

/-- The levels of the live strands of a root launch (R373). Of a fan, and of the teams not yet placed, the first stands
for all: no strand that has ended is ordered differently to the others. -/
def State.liveLevels (s : State) (root : Nat) : List (List (Word × Word)) :=
  let gs := s.gangs ++ s.saved.flatMap (·.gangs)
  (gs.filter fun g => s.rootLaunch g.lkey == root).map (·.ped.levels) ++
  (((s.deques ++ s.saved.flatMap (·.deques)).map (·.task) ++ s.launches.flatMap (·.backing) ++ gs.filterMap (·.inlineFan)).filter
    fun e => s.rootLaunch e.lkey == root).map (fun e => e.base ++ [(e.rank0, e.flr), (0, 0)]) ++
  (s.launches.filter fun l => l.root == root && decide (l.nextTeam < l.r.nteams.toNat)).map
    fun l => l.base ++ [(BitVec.ofNat 32 l.nextTeam, 0), (0, 0), (0, 0)]

/-- Whether R373 lets an entry be dropped: its strand has ended and precedes every live strand. -/
def State.droppable (s : State) (e : FEntry) : Bool :=
  s.launches.any (·.lkey == e.root) && s.strands.any (fun x => x.root == e.root && x.sid == e.sid && x.ended) &&
    (s.liveLevels e.root).all fun z => precedes (s.strandPed e.root e.sid) z

/-- Entries that may be dropped are dropped, and with them the strands that end so (R371, R373). -/
def State.dropEntries (s : State) : State :=
  ({ s with filter := s.filter.filter fun e => !s.droppable e } : State).recount

/-- The home slice of a sector: the slices of a die follow those of the die before it (R180). -/
def sliceOf (sect : Nat) : Nat := 40 * homeDie (16 * sect) + 16 * sect % 2 ^ 48 / 128 % 40

/-- The entries that a home slice holds itself. -/
def State.inSlice (s : State) (k : Nat) : Nat := (s.filter.filter fun e => e.spilled.isNone && sliceOf e.sect == k).length

/-- Whether one of the home slices without room has gained entries (R374). -/
def State.filterOver (full : List Nat) (before s : State) : Bool :=
  full.any fun k => decide (s.inSlice k > before.inSlice k)

/-- A unit that has gone from s to t stands if the home slices have room for its filter entries, once those that may be
dropped are dropped; otherwise nothing of it is performed and its batch waits with WK 12 (R372, R374). -/
def State.admitted (c : Cur) (full : List Nat) (s t : State) : State :=
  if !State.filterOver full s t then t
  else if !State.filterOver full s t.dropEntries then t.dropEntries
  else (s.modGang c.gid (·.waitBatch c.memb 12 [] c.next)).settle c.gid

/-- MIGRATE_SERVICE (R181): firmware takes a host-owned page over. -/
def execMigrateService (num : Nat) (va : DWord) (s : State) : Out :=
  match walk s va.toNat 4 (s.rootOf num) with
  | some l => if bit l.pte 4 && Config.canMigrate (l.paOf 0 va.toNat) then .next (s.migrate num va.toNat) else .next s
  | none => .next s

/-- ARENA_ZERO_FILL (R365): an unmapped page of an arena of the context becomes a zeroed page of the device. -/
def execArenaZeroFill (num : Nat) (va : DWord) (s : State) : Out :=
  if s.inArena num va.toNat && (walk s va.toNat 4 (s.rootOf num)).isNone then
    match s.zeroFill num va.toNat with
    | some s => .next s
    | none => .next s
  else .next s

/-- PAGE_WALK (R383): a core comes to hold the translation of an address. -/
def execPageWalk (num core : Nat) (va : DWord) (s : State) : Out :=
  match s.tlbFind core num va.toNat, walk s va.toNat 4 (s.rootOf num) with
  | none, some l => .next (s.tlbFill core num l)
  | _, _ => .next s

end Sys2Proof.Machine
end

