-- ==== Sys2Proof/Machine/Host.lean ====
section
/-! DEFINITION. The outside of the device: boot, contexts and the front program (R317 to R319, R331), the management
interface (R332), host reads and writes (R181, R223, R320 to R322), links and remote windows (R324, R325). -/
namespace Sys2Proof.Machine

/-- Boot is complete and the module has power. -/
def State.up (s : State) : Bool := s.booted && !s.shutdown

/-! ## Boot (R331) -/

/-- POWER_ON_BOOT (R331): the machine as reset leaves it; firmware with a good signature boots, other firmware leaves the
module in recovery mode. The flash keeps its contents; the straps choose PCIe or CXL (R323). -/
def execPowerOnBoot (strap0 strap1 : Bool) (s : State) : Out :=
  if s.up then .next s
  else
    let t : State := { State.reset with sigOk := s.sigOk, agenda := s.agenda, out := s.out,
                                        io := [{ IoDie.reset with cxl := strap0 }, { IoDie.reset with cxl := strap1 }] }
    .next (if s.sigOk then { t with booted := true } else { t with recovery := true })

/-- HOST_CONFIGURATION_REQUEST (R331): retry status until boot completes; in recovery mode no answer. -/
def execHostConfigurationRequest (port : Nat) (s : State) : Out :=
  if s.recovery || s.shutdown then .next s
  else .next { s with out := s.out ++ [if s.booted then .configOk port else .configRetry port] }

/-- Whether a submission area lies in device HBM (R317): a ring of four pages outside the lattice partition, and a lattice
page within it. -/
def ringOk (ringPA latOff : Nat) : Bool :=
  isHbm ringPA && ringPA % 65536 == 0 && decide (ringPA % 2 ^ 48 + 262144 ≤ latBase) && latOff % 65536 == 0 &&
    decide (latBase + latOff + 65536 ≤ 0x1800000000)

/-- CONTEXT_CREATE (R317, R319, R398): a new context of a 16-bit number, whose POSTED and DONE cells hold 0 in every replica;
the place of its submission area is reported. -/
def execContextCreate (num : Nat) (sup : Bool) (ptroot seed : DWord) (ringPA latOff : Nat) (s : State) : Out :=
  if !s.up || (s.ctx? num).isSome || num ≥ 65536 || !ringOk ringPA latOff then .next s
  else
    let x : Context :=
      { num := num, supervisor := sup, ptroot := ptroot, running := true, ring := ringPA, lat := latOff, lidCtr := 1,
        shapes := [], patterns := [], front := { k := 0, seed := seed, gid := none } }
    let m := (List.range 8).foldl (fun m d => Memory.clear m (latPa d latOff) 65536) s.mem
    .next { s with contexts := s.contexts ++ [x], mem := m, out := s.out ++ [.submission num ringPA latOff] }

/-! ## The management interface (R332) -/

/-- MGMT_SET_POWER_CAP (R332): from 1,200 W to 2,600 W. -/
def execMgmtSetPowerCap (watts : Nat) (s : State) : Out :=
  .next (if 1200 ≤ watts ∧ watts ≤ 2600 then { s with powerCap := watts } else s)

/-- MGMT_REPORT_STATUS (R332). Power and temperatures are what the sensors give. -/
def execMgmtReportStatus (s : State) : Out :=
  let t := (List.range 8).map (Config.sensorTemp s.clock)
  .next { s with out := s.out ++ [.status (Config.sensorPower s.clock) t s.eccCorrected] }

/-- MGMT_TRAIN_PORT (R324, R332). -/
def execMgmtTrainPort (iod port : Nat) (ok : Bool) (s : State) : Out :=
  .next (if s.up && ok then s.modIo iod fun d => { d with portUp := d.portUp.set port true } else s)

/-- MGMT_FIRMWARE_UPDATE (R331, R332): the flash holds new firmware, whose signature the next power-on checks. -/
def execMgmtFirmwareUpdate (sigOk : Bool) (s : State) : Out := .next { s with sigOk := sigOk }

/-- Lowering the core and L2 clock by a step of 25 MHz. -/
def State.slower (s : State) : State := { s with mhz := if 25 < s.mhz then s.mhz - 25 else s.mhz }

/-- THERMAL_THROTTLE (R332): from 95 degrees. -/
def execThermalThrottle (_die celsius : Nat) (s : State) : Out :=
  .next (if s.up && 95 ≤ celsius then { s.slower with throttled := true } else s)

/-- THERMAL_SHUTDOWN (R332): from 110 degrees. -/
def execThermalShutdown (_die celsius : Nat) (s : State) : Out :=
  .next (if 110 ≤ celsius then { s with shutdown := true } else s)

/-- POWER_CAP_CLOCK_STEP (R9, R332): a step down, or back up to the nominal clock. -/
def execPowerCapClockStep (down : Bool) (s : State) : Out :=
  .next (if down then s.slower else { s with mhz := min 1900 (s.mhz + 25), throttled := false })

/-! ## The front program (R318, R319) -/

/-- The front program of a replacement: its launch stands in no queue and has one gang, of width 8 with 32 registers. -/
def frontRec (text : DWord) (textsz entry : Word) (args seed : DWord) : LRec :=
  { text := text, textsz := textsz, entry := entry, args := args, nteams := 1, wcode := 0, gangs := 1, vregs := 32, mode := 0,
    scatter := false, prio := 0, front := true, seedsrc := true, queue := 16, tiles := 0, seed := seed, cmask := 0,
    depaddr := 0, depval := 0, cpladdr := 0, crecaddr := 0, cplscope := 0, ev := false, tvec := 0, bsbase := 0, bscap := 0,
    inlcap := 0, inlbase := 0, redtab := 0, nred := 0, narena := 0, arenatab := 0, viewbase := 0, viewcap := 0,
    filtcap := 0, filtbase := 0, flogbase := 0, flogcap := 0 }

/-- A launch of a replacement front program, placed on the management core of CD0 (core 160). -/
def State.startFront (s : State) (x : Context) (r : LRec) : State :=
  let l : Launch := { Launch.accepted s.fresh x.num x.lidCtr r x.front.seed 0 with st := .started, nextTeam := 1, cursor := 0 }
  let g : GangInit :=
    { lkey := l.lkey, ctx := x.num, team := none, parent := none, rank := 0, core := 160, part := 0, width := 8, vregs := 32,
      ped := { mode := 0, root := true, devl := false, lid := l.lid, levels := [(0, 0), (0, 0), (0, 0)] }, args := r.args,
      pc := r.text + r.entry.setWidth 64, nred := 0, statarm := 0, seed := x.front.seed, tvec := 0, gangId := 0, teamId := 0,
      prio := 0 }
  let s : State := { s with launches := s.launches ++ [l], fresh := s.fresh + 1 }
  let gid := s.fresh
  (s.addGang g).modCtx x.num fun y =>
    { y with lidCtr := y.nextLid, front := { y.front with gid := some gid } }

/-- MGMT_REPLACE_FRONT_PROGRAM (R319, R332): the program in force ends and the new one starts at its entry, with SEED at
the context seed. -/
def execMgmtReplaceFrontProgram (num : Nat) (text : DWord) (textsz entry : Word) (args : DWord) (s : State) : Out :=
  match s.ctx? num with
  | none => .next s
  | some x =>
    if !s.up then .next s
    else
      let s := match x.front.gid with | some g => s.killGang g | none => s
      .next (s.startFront x (frontRec text textsz entry args x.front.seed))

/-- POSTED of a context at CD0's replica. -/
def State.posted (s : State) (x : Context) : Nat := (s.homeNum (latPa 0 x.lat) 8).toNat

/-- Whether the firmware's front program of a context has a block to launch. -/
def State.frontReady (s : State) (x : Context) : Bool :=
  s.up && x.running && x.front.gid.isNone && decide (x.front.k + 1 ≤ s.posted x)

/-- DONE of a context is joined with k + 1, a SYS release, and the loop goes on (R319). -/
def State.frontDone (s : State) (x : Context) : State :=
  (((s.releaseLv 160 3).latJoin 0 (x.lat + 8) 17 (BitVec.ofNat 64 (x.front.k + 1))).modCtx x.num fun y =>
    { y with front := { y.front with k := y.front.k + 1 } })

/-- One turn of the firmware's front program (R319): it waits while POSTED has not reached k + 1, while the block's queue
is full (R300), and while the block's tables cannot be read; a host-owned page of them is migrated. -/
def State.frontStep (s : State) (num : Nat) : State :=
  match s.ctx? num with
  | none => s
  | some x =>
    if !s.frontReady x then s
    else
      let s := s.acquireLv 160 3
      let at_ := x.ring + 256 * (x.front.k % 1024)
      let bs := s.homeRd at_ 256
      let r := lrecOf bs
      let ag : Agent := { core := 160, ctx := num, lkey := 0, gid := 0,
                          ped := { mode := 2, root := true, devl := false, lid := 0, levels := [] }, epc := 0 }
      match s.readTables ag r with
      | (.error e, s) => if e.1.1 = .migrate then s.migrateBy 160 num e.2.toNat else s
      | (.ok (reds, arenas), s) =>
        let st := launchStatus bs reds arenas x.supervisor false
        if st ≠ 0 then (s.homeWr (at_ + 248) [BitVec.ofNat 8 st]).frontDone x
        else if !s.launchRoom num true r.queue then s
        else
          (s.accept num bs reds arenas (if r.seedsrc then r.seed else x.front.seed) (modeFor r true 0) true none).frontDone x

/-! ## Host writes (R181, R320) -/

/-- Whether an address lies in the ring of some context. -/
def State.inRing (s : State) (pa : Nat) : Bool := s.contexts.any fun c => c.ring ≤ pa && pa < c.ring + 262144

/-- The type of the lattice page of an HBM address, if it lies on one: a page of a context's submission area or one that a
page table maps. -/
def State.latType (s : State) (pa : Nat) : Option Nat :=
  if !isLat pa then none
  else if s.contexts.any fun c => c.lat ≤ pa % 2 ^ 48 - latBase && pa % 2 ^ 48 - latBase < c.lat + 65536 then some 17
  else (s.pages.find? fun l => l.lattice && l.phys % 2 ^ 48 ≤ pa % 2 ^ 48 && pa % 2 ^ 48 < l.phys % 2 ^ 48 + l.size).map fun l => ptePfmt l.pte

/-- The replica that serves a host port (R199): CD0's through IOD0, CD4's through IOD1. -/
def portDie (port : Nat) : Nat := if port = 0 then 0 else 4

/-- A host's join of one cell or slot: into the replica that serves the port, and sent to every other die as Feldspar
sends a join (R181, R198). -/
def State.hostJoin (s : State) (port off pf : Nat) (v : DWord) : State :=
  let d0 := portDie port
  let old := s.homeNum (latPa d0 off) (joinBytes pf)
  let s := if cellJoin pf old v = old then s else s.homeWr (latPa d0 off) (bytesOf (joinBytes pf) (cellJoin pf old v).toNat)
  { s with latSends := s.latSends ++ (((List.range 8).filter (· != d0)).map
      fun d => ({ src := d0, sect := off / 16, pfmt := pf, dst := d, gang := none } : LatSend)) }

/-- A host write to a lattice page (R181): whole cells are joined, and the bytes of partly covered cells are discarded. -/
def State.hostLattice (s : State) (port pa pf : Nat) (bs : List Byte) (rid : Half) : State :=
  let n := joinBytes pf
  let off := pa % 2 ^ 48 - latBase
  let first := (off + n - 1) / n * n
  let cells := (off + bs.length - first) / n
  let s := if off + bs.length < first then s
    else (List.range cells).foldl (fun s k =>
      s.hostJoin port (first + n * k) pf (BitVec.ofNat 64 (numOf ((bs.drop (first - off + n * k)).take n)))) s
  if off % n ≠ 0 then s.logDiscard port pa 1 rid bs.length
  else if bs.length % n ≠ 0 then s.logDiscard port (pa + bs.length / n * n) 1 rid bs.length
  else s

/-- A host write within one 64 KiB page. -/
def State.hostStore (s : State) (port pa : Nat) (bs : List Byte) (rid : Half) : State :=
  if regionOf pa = 8 then s.mmioWr port pa bs rid
  else if regionOf pa = 10 then (if inWindow pa then s else s.homeWr pa bs)
  else if !isHbm pa then s
  else
    match s.latType pa with
    | some pf => s.hostLattice port pa pf bs rid
    | none =>
      let own := match s.pageAt pa with | some l => bit l.pte 4 | none => false
      if own || s.inRing pa then s.homeWr pa bs else s.logDiscard port pa 0 rid bs.length

/-- A write that crosses pages of 64 KiB acts page by page. -/
def State.hostStores (s : State) (port pa : Nat) (rid : Half) : Nat → List Byte → State
  | 0, _ => s
  | n + 1, bs =>
    if bs.isEmpty then s
    else
      let k := 65536 - pa % 65536
      (s.hostStore port pa (bs.take k) rid).hostStores port (pa + k) rid n (bs.drop k)

/-- HOST_WRITE (R181). -/
def execHostWrite (port : Nat) (pa : Nat) (bytes : List Byte) (rid : Half) (s : State) : Out :=
  .next (if s.up then s.hostStores port pa rid (bytes.length / 65536 + 2) bytes else s)

/-- The bytes of a host read (R223): the home slice, or the replica that serves the port. -/
def State.hostBytes (s : State) (port pa n : Nat) : List Byte :=
  if regionOf pa = 8 then s.mmioRd pa n
  else if isLat pa then s.homeRd (latPa (portDie port) (pa % 2 ^ 48 - latBase)) n
  else s.homeRd pa n

/-- HOST_READ (R223). -/
def execHostRead (port : Nat) (pa n : Nat) (s : State) : Out :=
  .next (if s.up then { s with out := s.out ++ [.readData port pa (s.hostBytes port pa n)] } else s)

/-! ## MMIO writes (R321, R322) -/

/-- ERRCLR (R321). -/
def execErrclr (iod : Nat) (val : DWord) (s : State) : Out := 
  .next (if s.up then s.modIo iod fun d => d.errclr val else s)

/-- WIN_ENTRY_WRITE (R321). -/
def execWinEntryWrite (iod w : Nat) (hi : Bool) (val : DWord) (s : State) : Out :=
  .next (if s.up then s.modIo iod fun d => { d with win := d.win.modify w fun e => winWrite e hi val } else s)

/-- LATTICE_BROADCAST_WRITE (R322). -/
def execLatticeBroadcastWrite (port iod : Nat) (off : Nat) (bytes : List Byte) (rid : Half) (s : State) : Out :=
  .next (if s.up then s.broadcast port (8 * 2 ^ 48 + iod * 2 ^ 40 + 0x1000000000 + off) off bytes rid else s)

/-- MMIO_REGISTER_WRITE (R321). -/
def execMmioRegisterWrite (port iod : Nat) (off : Nat) (bytes : List Byte) (rid : Half) (s : State) : Out :=
  .next (if s.up then s.mmioWr port (8 * 2 ^ 48 + iod * 2 ^ 40 + off) bytes rid else s)

/-! ## Links (R324, R325) -/

/-- CLOLY_FLIT_RECEIVE (R324): a good flit is taken in order; a flit that fails its CRC is asked for again. -/
def execClolyFlitReceive (iod port : Nat) (crcOk : Bool) (payload : List Byte) (s : State) : Out :=
  if !(s.iod iod).portUp.getD port false then .next s
  else if crcOk then .next (s.modIo iod fun d => { d with rx := d.rx ++ [(port, payload)] })
  else
    let t := s.modIo iod fun d => { d with replays := d.replays + 1 }
    .next { t with out := t.out ++ [.replay iod port] }

/-- CLOLY_LINK_DOWN (R324). -/
def execClolyLinkDown (iod port : Nat) (s : State) : Out :=
  .next (s.modIo iod fun d => { d with portUp := d.portUp.set port false })

/-- Whether n bytes from an address lie in HBM, lattice partitions included, or in a region of the I/O dies. -/
def remoteOk (pa n : Nat) : Bool :=
  (isHbm pa && decide (pa % 2 ^ 48 + n ≤ 0x1800000000)) || regionOf pa == 8 || regionOf pa == 10

/-- REMOTE_WINDOW_ACCESS (R325): another module's access, performed at its home slice, or by the I/O die; an address that
does not exist is answered as failed. -/
def execRemoteWindowAccess (pa : Nat) (wr : Option (List Byte)) (n : Nat) (s : State) : Out :=
  if !s.up then .next s
  else if !remoteOk pa (match wr with | some bs => bs.length | none => n) then .next { s with out := s.out ++ [.windowFail pa] }
  else
    match wr with
    | some bs => .next (if isHbm pa then s.homeWr pa bs else s.ioWr pa bs)
    | none => .next { s with out := s.out ++ [.windowData pa (if isHbm pa then s.homeRd pa n else s.ioRd pa n)] }

end Sys2Proof.Machine
end

