-- ==== Sys2Proof/Machine/Device.lean ====
section
/-! DEFINITION. What the device does by itself: lattice arrivals and rounds (R198, R249), re-reads of waited-for locations
(R241, R242, R377), the wait-for walk (R378 to R380, R407), and ECC errors (R406). -/
namespace Sys2Proof.Machine

/-! ## Lattice (R198, R249) -/

/-- LATTICE_EXCHANGE_ROUND (R198), once its boundary has come. -/
def execLatticeExchangeRound (s : State) : Out := .next (if s.clock ≥ s.boundary then s.latRound else s)

/-- FELDSPAR_JOIN_ARRIVAL (R198, R249): the oldest direct send arrives. -/
def execFeldsparJoinArrival (s : State) : Out :=
  match s.latSends with
  | [] => .next s
  | e :: es => .next (({ s with latSends := es } : State).latArrive e.src e.sect e.pfmt e.dst)

/-- LSYNC_COMPLETE (R249): no join of the gang is on its way any more. -/
def execLsyncComplete (gid : Nat) (s : State) : Out :=
  match s.gang? gid with
  | none => .next s
  | some g =>
    if s.latSends.any fun e => e.gang == some gid then .next s
    else
      match g.batches.find? fun b => b.st == .waiting 9 && b.cap == [0] with
      | none => .next s
      | some b => .next (s.moveBatch gid b.memb b.next)

/-! ## Re-reads (R241, R242, R248, R284, R290) -/

/-- The unit of a waiting batch, as far as a re-read needs it. -/
def Cur.resume (gid : Nat) (b : Batch) : Cur :=
  { gid := gid, base := b.pc, word := b.next - 4, next := b.next, main := 0, memb := b.memb, himm := none, hmod := none,
    hgrd := none, hseq := none, tgts := [], reads := [], raced := false }

/-- A waiting batch reads its location again: a WAITA, a CWAIT or an LWAIT. -/
def rereadBatch (s : State) (g : Gang) (b : Batch) : Out :=
  let c := Cur.resume g.gid b
  match b.st, b.cap with
  | .waiting 8, [cnd, va, v, wide, scope] => waitRead c g s cnd.toNat va v (wide == 1) scope.toNat
  | .waiting 4, [va, target, scope] => cwaitRead c g s va target scope.toNat
  | .waiting 9, [_, d, a, base, x] => lwaitOver c g s d.toNat (a.setWidth 6) base (x.setWidth 1)
  | _, _ => .next s

/-- Whether a batch waits. -/
def Batch.waits (b : Batch) : Bool :=
  match b.st with
  | .waiting _ => true
  | _ => false

/-- The re-reads of some batches of a gang, one after another, of those that still wait. -/
def State.rereads (s : State) (gid : Nat) : List Batch → Out
  | [] => .next s
  | b :: bs =>
    match s.gang? gid with
    | none => .next s
    | some g =>
      match g.batches.find? fun x => x.memb == b.memb && x.pc == b.pc && x.waits with
      | none => s.rereads gid bs
      | some x =>
        match rereadBatch s g x with
        | .next s => s.rereads gid bs
        | r => r

/-- The re-read of those batches of a gang that wait at an address and that p admits, or of a pending task entry with that
key. -/
def State.reread (s : State) (gid : Nat) (pc : DWord) (p : Batch → Bool) : Out :=
  match s.gang? gid with
  | some g => s.rereads gid (g.batches.filter fun b => g.behind.isEmpty && b.pc == pc && b.waits && p b)
  | none =>
    match s.pendings.find? (·.2.key == gid) with
    | some d => .next (s.readEntry d.1 d.2)
    | none => .next s

/-- Whether a waiting batch, or a pending task entry with that key, holds a monitor entry or a watch. -/
def State.watched (s : State) (gid : Nat) (pc : DWord) (memb : Mask) : Bool :=
  s.monitors.any (fun m => m.gid == gid && (m.kind == 2 || (m.pc == pc && m.memb == memb))) ||
    s.watches.any fun m => m.gid == gid && m.pc == pc && m.memb == memb

/-- MONITOR_REREAD (R241). -/
def execMonitorReread (gid : Nat) (pc : DWord) (s : State) : Out := s.reread gid pc fun _ => true

/-- WAIT_POLL (R242): only a waiter without an entry polls. -/
def execWaitPoll (gid : Nat) (pc : DWord) (s : State) : Out :=
  if s.watched gid pc 0 then .next s else s.reread gid pc fun b => !s.watched gid pc b.memb

/-! ## The wait-for tables and the walk (R378 to R380, R407) -/

/-- The live gangs of a team. -/
def State.teamNodes (s : State) (k : Nat) : List WNode :=
  match s.team? k with
  | none => []
  | some t => (s.gangs.filter fun g => g.lkey == t.lkey && g.teamId == t.teamId && !g.exited).map fun g => .gang g.gid

/-- Commands in flight that p admits. -/
def State.cmdNodes (s : State) (p : Command → Bool) : List WNode := (s.cmds.filter fun m => m.inFlight && p m).map fun m => .cmd m.cid

/-- A gang all of whose batches wait. -/
def Gang.allWait (g : Gang) : Bool :=
  !g.exited && g.trap.isNone && !g.batches.isEmpty && g.batches.all fun b => match b.st with | .waiting _ => true | _ => false

/-- The gangs of a launch that have not exited and do not stand in an inline record. -/
def State.gangsOf (s : State) (lkey : Nat) : List Gang := s.gangs.filter fun x => x.lkey == lkey && !x.exited && x.inlined.isNone

/-- The gangs of the teams with a given key. -/
def State.teamsNodes (s : State) (ks : List Nat) : List WNode := ks.eraseDups.flatMap s.teamNodes

/-- The nested launches of a gang that have not completed: their gangs, and those whose record a full queue holds (R309). -/
def State.nested (s : State) (gid : Nat) : List WNode :=
  (s.launches.filter (·.issuer == some gid)).flatMap fun l =>
    (if l.posting then [.launch l.lkey] else []) ++ (s.gangs.filter (·.lkey == l.lkey)).map fun g => .gang g.gid

/-- The known signallers of a waiting batch (R379). A filter wait counts once every gang of its launch waits (R374). A gang
is no signaller of its own wait on a slot that a command in flight names (log 79). -/
def State.signallers (s : State) (g : Gang) (b : Batch) : List WNode :=
  match b.st, b.cap with
  | .waiting 2, _ =>
    match g.team with
    | some t => ((s.rootsOf t).filter fun r => !r.arrived && !r.exited).map fun r => .gang r.gid
    | none => []
  | .waiting 3, [k] =>
    if k = 3 then [] else (s.gangs.filter (·.parent == some g.gid)).map (fun x => .gang x.gid) ++ s.nested g.gid
  | .waiting 5, [h] =>
    if h = 0x100 then
      s.teamsNodes ((s.teams.filter fun t => t.tiles.any fun x => x.lvl == 2 && x.core == g.core).map (·.tkey))
    else s.cmdNodes fun m => m.tkey == g.team && m.tiles.contains h.toNat
  | .waiting 6, [h] =>
    let ts := s.teamsNodes ((s.slots.filter (·.core == g.core)).map (·.tkey))
    let busy := h ≠ 0x100 && s.cmds.any fun m =>
      m.inFlight && m.tkey == g.team && m.core == g.core && (m.fills ++ m.reads).contains h.toNat
    if busy then ts.filter (· != .gang g.gid) else ts
  | .waiting 7, _ => s.cmdNodes fun m => m.gid == g.gid && m.ev
  | .waiting 10, [q] =>
    match s.launch? g.lkey with
    | some l => (s.gangs.filter fun x => x.lkey == g.lkey && x.ped.root && decide (linIndex l x = l.cursors.getD q.toNat 0)).map
        fun x => .gang x.gid
    | none => []
  | .waiting 12, _ =>
    let gs := ((s.gangsOf g.lkey).map (·.gid)).eraseDups
    if (s.gangsOf g.lkey).all Gang.allWait then (if gs = [g.gid] then gs else gs.filter (· != g.gid)).map .gang else []
  | _, _ => []

/-- The edges of an agent that waits. A record that a full queue holds waits for the gangs of the issuing team, as a held
completion does (R309). -/
def State.edges (s : State) : WNode → List WNode
  | .gang gid =>
    match s.gang? gid with
    | some g => if g.allWait then g.batches.flatMap (s.signallers g) else []
    | none => []
  | .cmd cid =>
    match s.cmd? cid with
    | none => []
    | some m =>
      match m.st with
      | .queued =>
        if s.mayStart m then [] else s.cmdNodes fun o => o.cid != cid && o.tkey == m.tkey && o.tiles.any (m.tiles.contains ·)
      | .heldDone => match m.tkey with | some k => s.teamNodes k | none => []
      | _ => []
  | .launch k =>
    match s.launch? k with
    | some l => if l.posting then (match l.issuerTeam with | some t => s.teamNodes t | none => []) else []
    | none => []

/-! ### The entries (R378) -/

/-- SIG of a waiting batch: known gangs, known engines, unknown. -/
def sigOf (b : Batch) : Nat :=
  match b.st, b.cap with
  | .waiting 3, [k] => if k = 3 then 2 else 0
  | .waiting 5, [h] => if h = 0x100 then 0 else 1
  | .waiting 7, _ => 1
  | .waiting 4, _ => 2
  | .waiting 8, _ => 2
  | .waiting 9, _ => 2
  | _, _ => 0

/-- OBJ of a waiting batch. -/
def objOf (g : Gang) (b : Batch) : WaitObj :=
  match b.st, b.cap with
  | .waiting 2, _ => .barrier (g.team.getD 0)
  | .waiting 3, _ => .frame g.gid
  | .waiting 4, va :: _ => .address va
  | .waiting 5, [h] => .tile h.toNat
  | .waiting 6, [h] => .slot h.toNat
  | .waiting 7, _ => .queue (g.team.getD 0)
  | .waiting 8, _ :: va :: _ => .address va
  | .waiting 9, _ :: _ :: _ :: va :: _ => .address va
  | .waiting 10, [q] => .cursor q.toNat
  | _, _ => .none

/-- The entry of an engine command that waits, held completions included. -/
def State.cmdWait (s : State) (m : Command) : Option WaitEnt :=
  let e := fun (sig : Nat) (o : WaitObj) =>
    ({ die := dieOf m.core, who := .cmd m.cid, lid := m.ped.lid, gslot := m.gid, wk := 15, sig := sig, obj := o } : WaitEnt)
  match m.st with
  | .queued =>
    if s.mayStart m then none
    else some (e 1 (match m.tiles, m.fills ++ m.reads with | h :: _, _ => .tile h | [], h :: _ => .slot h | [], [] => .none))
  | .heldDone => some (e 0 (.queue (m.tkey.getD 0)))
  | _ => none

/-- The wait-for tables (R378): an entry for every waiting batch, every waiting command, and every launch record that a full
queue holds. -/
def State.waitTable (s : State) : List WaitEnt :=
  (s.gangs.flatMap fun g => g.batches.filterMap fun b =>
    match b.st with
    | .waiting wk => some { die := dieOf g.core, who := .gang g.gid, lid := g.ped.lid, gslot := g.gid, wk := wk, sig := sigOf b,
                            obj := objOf g b }
    | _ => none) ++
  s.cmds.filterMap s.cmdWait ++
  (s.launches.filter Launch.posting).map fun l =>
    { die := 0, who := .launch l.lkey, lid := l.lid, gslot := l.issuer.getD 0, wk := 15, sig := 0,
      obj := .queue (l.issuerTeam.getD 0) }

/-! ### The walk (R380) -/

/-- A shortest cycle through v: paths stand with their newest member first. -/
def State.cycleAt (s : State) (v : WNode) : Nat → List (List WNode) → List WNode → Option (List WNode)
  | 0, _, _ => none
  | n + 1, paths, seen =>
    match paths.find? fun p => (s.edges (p.headD v)).contains v with
    | some p => some p.reverse
    | none =>
      let next := paths.flatMap fun p => (s.edges (p.headD v)).filterMap fun w => if seen.contains w then none else some (w :: p)
      if next.isEmpty then none else s.cycleAt v n next (seen ++ next.map fun p => p.headD v)

/-- Every agent. -/
def State.nodes (s : State) : List WNode := s.gangs.map (fun g => .gang g.gid) ++ s.cmds.map (fun m => .cmd m.cid) ++ s.launches.map fun l => .launch l.lkey

/-- The member after one in a cycle. -/
def nextIn (p : List WNode) (n : WNode) : WNode := (p ++ p).getD (indexOf (· == n) p + 1) n

/-- Whether an agent is a gang that waits for room in the filter. -/
def State.filterWaits (s : State) : WNode → Bool
  | .gang gid => s.gangs.any fun g => g.gid == gid && g.batches.any fun b => b.st == .waiting 12
  | _ => false

/-- The launches in which every gang waits for room in the filter (R374), each as a cycle of all its gangs. -/
def State.filterCycles (s : State) : List (List WNode) :=
  ((s.launches.map (·.lkey)).eraseDups.map fun k => (((s.gangsOf k).map (·.gid)).eraseDups).map WNode.gang).filter
    fun p => !p.isEmpty && p.all fun n => s.filterWaits n && (s.edges n).contains (nextIn p n)

/-- The cycles of known edges: launches that wait for room, then one through each agent that is in one, each set of
members once. -/
def State.cycles (s : State) : List (List WNode) :=
  s.nodes.foldl (fun r v =>
    match s.cycleAt v s.nodes.length [[v]] [v] with
    | none => r
    | some p => if r.any fun q => q.all (p.contains ·) && p.all (q.contains ·) then r else r ++ [p]) s.filterCycles

/-- Whether pedigree p is below q (R380): by LID, then level by level by rank and by floor, an absent level lower. -/
def pedBelow (p q : Ped) : Bool :=
  if p.lid ≠ q.lid then p.lid.ult q.lid else lev p.levels q.levels
where
  /-- Level by level. -/
  lev : List (Word × Word) → List (Word × Word) → Bool
    | [], [] => false
    | [], _ :: _ => true
    | _ :: _, [] => false
    | a :: as, b :: bs => if a = b then lev as bs else if a.1 = b.1 then a.2.ult b.2 else a.1.ult b.1

/-- The gang of a cycle with the greatest pedigree. -/
def State.greatest (s : State) (p : List WNode) : Option Gang :=
  (p.filterMap fun n => match n with | .gang g => s.gang? g | _ => none).foldl (fun r g =>
    match r with
    | none => some g
    | some a => if pedBelow a.ped g.ped then some g else some a) none

/-- The trap of a DEADLOCK report (R407): a known edge has no address. -/
def walkTrap (text : DWord) (b : Batch) (n : Nat) : Trap :=
  let wk := match b.st with | .waiting w => w | _ => 0
  { cause := Cause.word .deadlock, tepc := loWord (b.pc - text), tmask := b.memb, taddr := 0,
    tinfo := BitVec.ofNat 32 (wk + 256 * min n 255), bmask := b.memb, good := [], skip := b.next, held := none }

/-- DEADLOCK in one cycle, if it still stands. -/
def State.report (s : State) (p : List WNode) : State :=
  if !(p.all fun n => (s.edges n).contains (nextIn p n)) then s
  else
    match s.greatest p with
    | none => s
    | some g =>
      let bs := g.batches.filter fun b => (s.signallers g b).contains (nextIn p (.gang g.gid))
      match bs.foldl (fun (r : Option Batch) b => match r with
          | none => some b
          | some a => if b.pc.toNat < a.pc.toNat then some b else some a) none with
      | none => s
      | some b => (s.takeTrap g.gid b.pc (walkTrap (s.textOf g) b p.length)).settle g.gid

/-- WAIT_FOR_WALK (R380). -/
def execWaitForWalk (s : State) : Out := .next (s.cycles.foldl State.report s)

/-! ## ECC (R406) -/

/-- A corrected error is counted. -/
def State.eccSingle (s : State) : State := { s with eccCorrected := s.eccCorrected + 1 }
/-- A double-bit error in HBM. -/
def State.eccMem (s : State) (sect : Nat) : State := s.poisonHome sect (some 0)
/-- In an L1 sector. -/
def State.eccL1 (s : State) (core sect : Nat) : State :=
  { s with l1 := s.l1.map fun x => if x.own == core && x.sect == sect then { x with bad := some 2 } else x }
/-- In an L2 sector of a die: of a home slice, or of a copy of a remote line. -/
def State.eccL2 (s : State) (die sect : Nat) : State :=
  if homeDie (16 * sect) = die then s.poisonHome sect (some 1)
  else { s with l2 := s.l2.map fun x => if x.own == die && x.sect == sect then { x with bad := some 1 } else x }
/-- In a line of an instruction cache. -/
def State.eccInstr (s : State) (core line : Nat) : State :=
  { s with icache := s.icache.map fun x => if x.core == core && x.line == line then { x with bad := true } else x }
/-- In an allocation register of a fibre. -/
def State.eccReg (s : State) (gid fibre reg : Nat) : State :=
  s.modGang gid fun g => g.setFibre fibre { g.fibre fibre with bad := reg :: (g.fibre fibre).bad }
/-- In an S register. -/
def State.eccScalar (s : State) (gid reg : Nat) : State := s.modGang gid fun g => { g with poisonS := reg :: g.poisonS }
/-- In an element of a tile. -/
def State.eccTile (s : State) (tkey hnd elem : Nat) : State :=
  s.modTile (some tkey) hnd fun t => { t with poison := elem :: t.poison }
/-- In a byte of an operand slot. -/
def State.eccSlot (s : State) (core hnd byte : Nat) : State :=
  { s with slots := s.slots.map fun x => if x.core == core && x.hnd == hnd then { x with bad := byte :: x.bad } else x }
/-- In an element of a view. -/
def State.eccView (s : State) (gid red elem : Nat) : State :=
  s.modGang gid fun g => { g with views := g.views.modify red fun v => v.map fun x => { x with bad := elem :: x.bad } }
/-- In a table of the management core: every gang of the launch is killed, and the launch completes with STATUS 2. -/
def State.eccTable (s : State) (lkey : Nat) : State :=
  let s := s.modLaunch lkey fun l => { l with trapped := true }
  (s.gangs.filter fun g => g.lkey == lkey && !g.exited).foldl (fun s g => s.killGang g.gid) s

end Sys2Proof.Machine
end

