-- ==== Sys2Proof/Machine/Context.lean ====
section
/-! DEFINITION. Context switch: the context image (R414 to R417), CTXSV and CTXLD (R408 to R413) and the placement of what a
restore queues (R412). -/
namespace Sys2Proof.Machine

/-! ## Records of the image (R414 to R417) -/

/-- The 6 fields of a tile-table entry (R192). -/
def Tile.entry (t : Tile) : Nat :=
  1 + t.lvl % 4 * 2 + t.fmt % 16 * 2 ^ 3 + (t.rows - 1) % 256 * 2 ^ 7 + (t.cols - 1) % 256 * 2 ^ 15 +
    (if t.v then 2 ^ 23 else 0) + (if t.c then 2 ^ 24 else 0) + (if t.fresh then 2 ^ 25 else 0)

/-- Bytes of a tile's contents in the image: its granules, or 64 KiB for level A (R415). -/
def Tile.room (t : Tile) : Nat := if t.lvl = 2 then 65536 else 2048 * t.granules

/-- Elements packed into bytes, row by row. -/
def packElems (w : Nat) (els : List Nat) : List Byte :=
  if w ≥ 8 then els.flatMap fun x => bytesOf (w / 8) x
  else (List.range ((els.length * w + 7) / 8)).map fun i =>
    BitVec.ofNat 8 ((List.range (8 / w)).foldl (fun n k => n + els.getD (8 / w * i + k) 0 % 2 ^ w * 2 ^ (w * k)) 0)

/-- A tile's contents. -/
def Tile.bytes (t : Tile) : List Byte := padTo t.room (packElems t.w ((List.range (t.rows * t.cols)).map t.get))

/-- A tile of a handle with nothing in it. -/
def Tile.blank (hnd core : Nat) : Tile :=
  { hnd := hnd, lvl := 0, core := core, fmt := 0, rows := 1, cols := 1, v := false, c := false, fresh := false, serial := 0,
    data := [], poison := [], scope := 0 }

/-- A tile from its entry, over one that holds what the entry does not. -/
def Tile.ofEntry (b : Tile) (e : Nat) : Tile :=
  { b with lvl := e / 2 % 4, fmt := e / 8 % 16, rows := e / 2 ^ 7 % 256 + 1, cols := e / 2 ^ 15 % 256 + 1,
           v := e / 2 ^ 23 % 2 == 1, c := e / 2 ^ 24 % 2 == 1, fresh := e / 2 ^ 25 % 2 == 1 }

/-- A tile with its contents. -/
def Tile.ofBytes (t : Tile) (bs : List Byte) : Tile :=
  let w := t.w
  let el := fun k => rdN bs (k * w / 8) ((w + 7) / 8) / 2 ^ (k * w % 8) % 2 ^ w
  { t with data := (List.range (t.rows * t.cols)).map fun k => (k, BitVec.ofNat 32 (el k)) }

/-- An operand-slot entry with TEAM 0 (R194). -/
def Slot.entry (x : Slot) : Nat := x.st % 8 + x.kind % 4 * 2 ^ 3 + x.fmt % 16 * 2 ^ 5 + x.hnd % 16 * 2 ^ 14 + x.bmp.toNat * 2 ^ 18

/-- A slot from its entry and contents, over one that holds its core and holder. -/
def Slot.ofBytes (b : Slot) (e : Nat) (bs : List Byte) : Slot :=
  { b with st := e % 8, kind := e / 8 % 4, fmt := e / 2 ^ 5 % 16, hnd := e / 2 ^ 14 % 16, bmp := BitVec.ofNat 24 (e / 2 ^ 18),
           data := bs.take 12288 }

/-- The live tiles and the held slots of a team, in ascending handle. -/
def Team.byHnd (t : Team) : List Tile := (List.range 64).filterMap fun h => t.tiles.find? (·.hnd == h)
def slotsByHnd (xs : List Slot) : List Slot := (List.range 16).filterMap fun h => xs.find? (·.hnd == h)

/-- The size of a team record (R415). -/
def teamSize (t : Team) (xs : List Slot) : Nat := 0x800 + (t.byHnd.map Tile.room).sum + 12288 * (slotsByHnd xs).length

/-- A team record (R415); arrived is the mask of BARF. -/
def Team.bytes (t : Team) (xs : List Slot) (arrived : Mask) : List Byte :=
  let c := t.cores.length
  let place := fun core => indexOf (· == core) t.cores
  let head := bytesOf 4 t.teamId.toNat ++ bytesOf 4 t.phase ++ bytesOf 8 arrived.toNat ++
    bytesOf 4 ((c - 1) % 4 + t.granules % 2048 * 4 + (if t.broken then 2 ^ 13 else 0)) ++ bytesOf 4 t.evq.length ++
    bytesOf 24 ((List.range t.evq.length).foldl (fun n i => n + (t.evq.getD i (0, 0)).2 % 8 * 2 ^ (3 * i)) 0) ++
    bytesOf 16 ((t.byHnd.filter (·.lvl == 2)).foldl (fun n x => n + place x.core % 4 * 2 ^ (2 * x.hnd)) 0)
  let entry := fun h => match t.tiles.find? (·.hnd == h) with | some x => x.entry | none => 0
  let sentry := fun h => match xs.find? (·.hnd == h) with | some x => x.entry | none => 0
  padTo 0x100 head ++ (List.range 64).flatMap (fun h => bytesOf 4 (entry h)) ++
  padTo 0x200 ((List.range 16).flatMap fun h => bytesOf 8 (sentry h)) ++
  padTo 0x400 (t.evq.flatMap fun e => bytesOf 16 e.1.toNat) ++
  t.byHnd.flatMap Tile.bytes ++ (slotsByHnd xs).flatMap fun x => padTo 12288 x.data

/-- The tiles of a team record, without their contents, and the offset after their contents. -/
def recTiles (bs : List Byte) (base : Nat → Tile) (cores : List Nat) : List (Tile × Nat) × Nat :=
  let lv := rdN bs 0x30 16
  ((List.range 64).foldl (fun (r : List (Tile × Nat) × Nat) k =>
    let e := rdN bs (0x100 + 4 * k) 4
    if e % 2 = 0 then r
    else
      let t := (base k).ofEntry e
      let t := if t.lvl = 2 then { t with core := cores.getD (lv / 2 ^ (2 * k) % 4) t.core } else t
      (r.1 ++ [(t, r.2)], r.2 + t.room)) ([], 0x800))
/-- The handles of the held slots of a team record. -/
def recSlots (bs : List Byte) : List Nat := (List.range 16).filter fun k => rdN bs (0x200 + 8 * k) 8 % 8 != 0
/-- The size of a team record. -/
def recTeamSize (bs : List Byte) : Nat := up256 ((recTiles bs (Tile.blank · 0) []).2 + 12288 * (recSlots bs).length)

/-- A team from its record, over one that holds what the record does not: its number, launch and cores; the team and its
slots. -/
def Team.ofBytes (b : Team) (xs : List Slot) (bs : List Byte) : Team × List Slot :=
  let h := rdN bs 0x10 4
  let sc := rdN bs 0x18 24
  let c0 := b.cores.headD 0
  let ts := recTiles bs (fun k => (b.tiles.find? (·.hnd == k)).getD (Tile.blank k c0)) b.cores
  let hs := recSlots bs
  let slots := (List.range hs.length).map fun i =>
    let k := hs.getD i 0
    let x : Slot := (xs.find? (·.hnd == k)).getD
      { core := c0, tkey := b.tkey, tslot := 0, hnd := k, st := 0, kind := 0, fmt := 0, bmp := 0, data := [], bad := [], scope := 0 }
    x.ofBytes (rdN bs (0x200 + 8 * k) 8) ((bs.drop (ts.2 + 12288 * i)).take 12288)
  ({ b with teamId := rdW bs 0, phase := rdN bs 4 4, granules := h / 4 % 2048, broken := h / 2 ^ 13 % 2 == 1,
            tiles := ts.1.map fun e => e.1.ofBytes ((bs.drop e.2).take e.1.room),
            evq := (List.range (rdN bs 0x14 4)).map fun i => (BitVec.ofNat 128 (rdN bs (0x400 + 16 * i) 16), sc / 2 ^ (3 * i) % 8) }, slots)

/-- A generator context's 96 words (R344). The levels of the image count from the outermost loop. -/
def GenCtx.words (k : GenCtx) : List Word :=
  let ls := k.loops.reverse
  let w0 := k.pc % 128 + k.sec % 4 * 2 ^ 7 + ls.length % 8 * 2 ^ 9 + k.sbuf.length % 128 * 2 ^ 12 + k.mode % 4 * 2 ^ 19 + 2 ^ 22 +
    (if k.phase then 2 ^ 23 else 0)
  let lev := fun i => ls.getD i (0, 0, 0)
  let z := fun n (l : List Word) => (l ++ List.replicate (n - l.length) 0).take n
  [BitVec.ofNat 32 w0, k.outer, BitVec.ofNat 32 k.out.length, BitVec.ofNat 32 k.steps, k.last] ++ z 8 k.g ++
  (List.range 4).flatMap (fun i => [(lev i).1, (lev i).2.1]) ++
  [BitVec.ofNat 32 ((List.range 4).foldl (fun n i => n + (lev i).2.2 % 128 * 2 ^ (8 * i)) 0), BitVec.ofNat 32 k.prog0,
   BitVec.ofNat 32 k.prog1] ++ List.replicate 8 0 ++ z 64 (k.sbuf.map (BitVec.ofNat 32))

/-- A generator context from its words; what the engine holds beside them is formed again (Command.rebuild). -/
def GenCtx.ofBytes (bs : List Byte) : GenCtx :=
  let w0 := rdN bs 0 4
  let w := fun i => rdW bs (4 * i)
  { pc := w0 % 128, sec := w0 / 2 ^ 7 % 4, mode := w0 / 2 ^ 19 % 4, phase := w0 / 2 ^ 23 % 2 == 1, outer := w 1,
    steps := rdN bs 12 4, last := w 4, g := rdWs bs 20 8,
    loops := ((List.range (w0 / 2 ^ 9 % 8)).map fun i => (w (13 + 2 * i), w (14 + 2 * i), rdN bs 84 4 / 2 ^ (8 * i) % 128)).reverse,
    sbuf := (rdWs bs 128 (w0 / 2 ^ 12 % 128)).map (·.toNat), out := [], row := [], bases := [], acc := [],
    prog0 := rdN bs 88 4, prog1 := rdN bs 92 4 }

/-- The state of a command record (R417). -/
def Command.code (m : Command) : Nat :=
  match m.st with
  | .queued => 0
  | .started => 1
  | .performed => 3
  | .heldDone => 3
  | _ => 2

/-- A command record (R417). A suspended command that has run nothing yet stands at the beginning of its context. -/
def Command.bytes (m : Command) (gangOff : Nat) : List Byte :=
  let k := m.code
  let note := if k = 2 then wordBytes [loWord m.faddr, hiWord m.faddr, m.finfo] else if k = 3 then bytesOf 16 m.record.toNat else []
  padTo 0x20 (bytesOf 4 (k + m.opc % 64 * 4 + m.fn % 16 * 2 ^ 8 + m.x % 64 * 2 ^ 12) ++ bytesOf 4 m.unitOff.toNat ++
    bytesOf 4 gangOff ++ bytesOf 4 m.seq ++ bytesOf 8 m.cnt.toNat ++ bytesOf 4 m.hmod.toNat ++
    bytesOf 4 ((if k = 2 then m.fcause.toNat else m.status) % 256 + m.count % 2 ^ 24 * 256)) ++
  padTo 0x20 note ++ padTo 0x40 (wordBytes m.params) ++ padTo 0x100 m.pattern ++ padTo 0x40 m.shape ++
  padTo 0x40 [] ++ padTo 0x180 (if k = 1 then wordBytes (m.gen.getD m.genStart).words else []) ++ padTo 0x80 []

/-- Which held command a record of state 2 names: a note to deliver, an increment that failed at its counter, or a stop. -/
def heldSt (m : Command) : CmdSt :=
  if m.fcause = Cause.word .compressOvf then .heldNote else if m.hasCnt && m.faddr == m.cnt then .heldIncr else .heldFault

/-- Bytes that a command captured, or none for zeros. -/
def captured (bs : List Byte) : List Byte := if bs.all (· == 0) then [] else bs

/-- A command with nothing in it. -/
def Command.blank : Command :=
  { cid := 0, gid := 0, core := 0, tkey := none, lkey := 0, opc := 0, fn := 0, x := 0, params := [], hmod := 0, hasCnt := false,
    cnt := 0, owns := false, after := false, unitOff := 0, seq := 0, ped := { mode := 2, root := false, devl := false, lid := 0, levels := [] },
    shape := [], pattern := [], st := .queued, gen := none, status := 0, count := 0, aux := 0, cval := 0, flags := 0, note := false,
    fcause := 0, faddr := 0, finfo := 0 }

/-- A command from its record, over one that holds what the record does not: its number, gang and strand, its flags, and the
bits of a COUNT above the 24 of the record. -/
def Command.ofBytes (b : Command) (bs : List Byte) : Command :=
  let h := rdN bs 0 4
  let k := h % 4
  let n := rdN bs 28 4
  let rec_ := rdN bs 32 16
  let count := if k = 3 then rec_ / 2 ^ 32 % 2 ^ 32 else if b.count % 2 ^ 24 = n / 256 then b.count else n / 256
  let m : Command :=
    { b with
      opc := h / 4 % 64, fn := h / 2 ^ 8 % 16, x := h / 2 ^ 12 % 64, unitOff := rdW bs 4, seq := rdN bs 12 4
      cnt := BitVec.ofNat 64 (rdN bs 16 8), hasCnt := b.hasCnt || rdN bs 16 8 != 0, hmod := BitVec.ofNat 22 (rdN bs 24 4)
      params := rdWs bs 0x40 16, pattern := captured ((bs.drop 0x80).take 256), shape := captured ((bs.drop 0x180).take 64)
      status := if k = 2 then b.status else if k = 3 then rec_ % 256 else n % 256, count := count
      aux := if k = 3 then BitVec.ofNat 32 (rec_ / 2 ^ 64) else b.aux
      fcause := if k = 2 then BitVec.ofNat 32 (n % 256) else 0, faddr := if k = 2 then BitVec.ofNat 64 (rdN bs 32 8) else 0
      finfo := if k = 2 then rdW bs 40 else 0, gen := none }
  let m := { m with st := if k = 0 then .queued else if k = 1 then .started else if k = 3 then .heldDone else heldSt m }
  if k = 1 then { m with gen := some (m.rebuild (GenCtx.ofBytes ((bs.drop 0x200).take 384))) } else m

/-! ## The image (R414) -/

/-- The records of one launch of a context, in the order of its section. -/
structure Section where
  l : Launch
  teams : List (Team × List Slot)
  gangs : List Gang
  tasks : List DequeEnt
  cmds : List Command

/-- What an image holds: launches of the directory with their records, and the queues. -/
structure Content where
  secs : List Section
  queues : List (List Launch)

/-- What CTXSV saves of a context: the launches that have started, and the queues. A launch of a context's front program,
and the pool of device launches that have not started (R300), stay on the device (log 56). -/
def State.content (s : State) (n : Nat) : Content :=
  let ls := s.launches.filter fun l => l.ctx == n && l.r.queue < 16
  let sec := fun (l : Launch) =>
    ({ l := l, teams := (s.teams.filter (·.lkey == l.lkey)).map fun t => (t, s.slots.filter (·.tkey == t.tkey)),
       gangs := s.gangs.filter (·.lkey == l.lkey), tasks := s.deques.filter (·.task.lkey == l.lkey),
       cmds := s.cmds.filter (·.lkey == l.lkey) } : Section)
  { secs := (ls.filter fun l => l.st != .queued).map sec
    queues := (List.range 16).map fun q => ls.filter fun l => l.host && l.st == .queued && l.r.queue == q }

/-- Sizes of the parts of a section: teams, gangs, tasks, commands. -/
def Section.sizes (x : Section) : Nat × Nat × Nat × Nat :=
  ((x.teams.map fun t => up256 (teamSize t.1 t.2)).sum, (x.gangs.map fun g => gangSize g.width g.vregs).sum,
   up256 (64 * x.tasks.length), 1024 * x.cmds.length)

/-- The size of a section. -/
def Section.size (x : Section) : Nat := let z := x.sizes; 0x400 + z.1 + z.2.1 + z.2.2.1 + z.2.2.2

/-- Running sums from an offset. -/
def runOffs (off : Nat) : List Nat → List Nat
  | [] => []
  | n :: ns => off :: runOffs (off + n) ns

/-- Offset of the launch directory. -/
def Content.ldOff (c : Content) : Nat := 512 + 256 * (c.queues.map (·.length)).sum
/-- Offsets of the launch sections. -/
def Content.offs (c : Content) : List Nat := runOffs (c.ldOff + up256 (8 * c.secs.length)) (c.secs.map Section.size)
/-- The size of the image. -/
def Content.size (c : Content) : Nat := c.ldOff + up256 (8 * c.secs.length) + (c.secs.map Section.size).sum

/-- The sections with their offsets. -/
def Content.placed (c : Content) : List (Section × Nat) := c.secs.zip c.offs
/-- The offset of each team record and of each gang record. -/
def Content.teamOffs (c : Content) : List (Nat × Nat) :=
  c.placed.flatMap fun e => (e.1.teams.map (·.1.tkey)).zip (runOffs (e.2 + 0x400) (e.1.teams.map fun t => up256 (teamSize t.1 t.2)))
def Content.gangOffs (c : Content) : List (Nat × Nat) :=
  c.placed.flatMap fun e => (e.1.gangs.map (·.gid)).zip (runOffs (e.2 + 0x400 + e.1.sizes.1) (e.1.gangs.map fun g => gangSize g.width g.vregs))

/-- Looking an offset up; 0 where there is none. -/
def offOf (l : List (Nat × Nat)) (k : Option Nat) : Nat :=
  match k with
  | none => 0
  | some k => match l.find? (·.1 == k) with | some e => e.2 | none => 0

/-- A launch section (R414). -/
def Section.bytes (c : Content) (x : Section) (off : Nat) : List Byte :=
  let l := x.l
  let z := x.sizes
  let go := c.gangOffs
  let teamAt := c.teamOffs
  let t0 := off + 0x400
  let arrived := fun (t : Team) => maskOfList ((x.gangs.filter fun g => g.team == some t.tkey && g.arrived).map (·.gangId.toNat))
  padTo 0x100 l.raw ++
  padTo 0x40 (bytesOf 4 l.lid.toNat ++ bytesOf 4 l.nextTeam ++ bytesOf 4 l.cursor ++ bytesOf 4 l.freed ++ bytesOf 4 (offOf go l.issuer)) ++
  padTo 0x40 (bytesOf 4 x.teams.length ++ bytesOf 4 x.gangs.length ++ bytesOf 4 x.tasks.length ++ bytesOf 4 x.cmds.length ++
    bytesOf 8 t0 ++ bytesOf 8 (t0 + z.1) ++ bytesOf 8 (t0 + z.1 + z.2.1) ++ bytesOf 8 (t0 + z.1 + z.2.1 + z.2.2.1)) ++
  padTo 0x80 [] ++ padTo 0x200 (l.cursors.flatMap fun k => bytesOf 8 k) ++
  x.teams.flatMap (fun t => let b := t.1.bytes t.2 (arrived t.1); padTo (up256 b.length) b) ++
  x.gangs.flatMap (fun g => g.bytes (offOf teamAt g.team) (offOf go g.parent) g.inlined.isSome) ++
  padTo z.2.2.1 (x.tasks.flatMap fun d => d.task.bytes (offOf go (some d.task.parent))) ++
  x.cmds.flatMap fun m => m.bytes (offOf go (some m.gid))

/-- The whole image (R414). -/
def Content.bytes (c : Content) (num : Nat) (ptroot : DWord) : List Byte :=
  padTo 0x100 (bytesOf 4 1 ++ bytesOf 4 (num % 65536) ++ bytesOf 8 c.size ++ bytesOf 8 ptroot.toNat ++ bytesOf 8 512 ++
    bytesOf 4 c.secs.length ++ bytesOf 4 0 ++ bytesOf 8 c.ldOff ++ c.queues.flatMap fun q => bytesOf 4 q.length) ++
  padTo 0x100 [] ++ c.queues.flatMap (fun q => q.flatMap fun l => padTo 0x100 l.raw) ++
  padTo (up256 (8 * c.secs.length)) (c.offs.flatMap fun o => bytesOf 8 o) ++ c.placed.flatMap fun e => e.1.bytes c e.2

/-! ## CTXSV (R408 to R411) -/

/-- Whether all bytes of a range are zero. -/
def zeros (bs : List Byte) (off n : Nat) : Bool := ((bs.drop off).take n).all (· == 0)

/-- A started command runs to its completion; an IXG command stops where it is (R345, R411). -/
def State.finish (s : State) (cid : Nat) : Nat → State
  | 0 => s
  | n + 1 =>
    match s.cmd? cid with
    | none => s
    | some m =>
      match m.st with
      | .performed => s.completeCmd m
      | .started =>
        if takesCtx m.opc m.fn then s
        else
          let t : State := match s.snap with
            | some x =>
              if x.cid = cid then
                match (if x.cut then execSnapBlockCopy s else execSnapCut s) with
                | .next t => t
                | _ => s
              else s.perform m
            | none => s.perform m
          t.finish cid n
      | _ => s

/-- Steps that suffice for any command. -/
def State.finishFuel (s : State) : Nat := match s.snap with | some x => x.blocks.length + 8 | none => 2 ^ 20 + 8

/-- Restored teams and gangs that are not yet placed count as the context's again. -/
def State.gather (s : State) (n : Nat) : State :=
  match s.saved.find? fun x => x.num == n && x.pending with
  | none => s
  | some x =>
    { s with gangs := s.gangs ++ x.gangs, teams := s.teams ++ x.teams, deques := s.deques ++ x.deques, cmds := s.cmds ++ x.cmds,
             slots := s.slots ++ x.slots, saved := s.saved.filter fun y => !(y.num == n) }

/-- The launches of a context, but not its front program's. -/
def State.ctxLaunches (s : State) (n : Nat) : List Launch := s.launches.filter fun l => l.ctx == n && l.r.queue < 16

/-- The context comes to rest (R410, R411): started commands complete, views, filter entries and strand tables are spilled,
its cores release at DEV scope, and its monitor entries and watches are free. -/
def State.quiesce (s : State) (n : Nat) : State :=
  let s := s.gather n
  let ks := (s.ctxLaunches n).map (·.lkey)
  let s := (s.cmds.filter fun m => ks.contains m.lkey).foldl (fun s m => s.finish m.cid s.finishFuel) s
  let s := ks.foldl (fun s k => (s.spillAll k).spillTables k) s
  let gs := s.gangs.filter fun g => ks.contains g.lkey
  let s := gs.foldl (fun s g => s.releaseLv g.core 2) s
  let who := gs.map (·.gid) ++ (s.pendings.filter fun d => ks.contains d.2.lkey).map (·.2.key)
  { s with
    gangs := s.gangs.map fun g => if ks.contains g.lkey then { g with ibuf := none, owed := 0 } else g
    monitors := s.monitors.filter fun m => !who.contains m.gid
    watches := s.watches.filter fun m => !who.contains m.gid }

/-- The lattice sectors that a context's pages reach, in the replicas of the dies of its gangs: all that hold a byte other
than 0 in some replica, since a join may have made one 0 (R216). -/
def State.latSaved (s : State) (n : Nat) : List (Nat × List Byte) :=
  match s.ctx? n with
  | none => []
  | some x =>
    let pages := (leaves s 4 x.ptroot.toNat 0).filter Leaf.lattice
    let dies := ((s.gangs.filter (·.ctx == n)).map fun g => dieOf g.core).eraseDups
    let offs := ((s.mem.filter fun m => isLat m.1 &&
      pages.any fun l => l.phys % 2 ^ 48 ≤ m.1 % 2 ^ 48 && m.1 % 2 ^ 48 < l.phys % 2 ^ 48 + l.size).map
        fun m => (m.1 % 2 ^ 48 - latBase) / 16).eraseDups
    dies.flatMap fun d => offs.map fun k => (latPa d (16 * k), s.homeRd (latPa d (16 * k)) 16)

/-- The context leaves the device; the H40 keeps the records as they stood. -/
def State.unload (s : State) (n : Nat) : State :=
  let ls := s.ctxLaunches n
  let mine := fun lkey => ls.any (·.lkey == lkey)
  let ts := s.teams.filter fun t => mine t.lkey
  let x : SavedCtx :=
    { num := n, gangs := s.gangs.filter fun g => mine g.lkey, teams := ts, launches := ls,
      deques := s.deques.filter fun d => mine d.task.lkey, cmds := s.cmds.filter fun m => mine m.lkey,
      slots := s.slots.filter fun y => ts.any (·.tkey == y.tkey), lat := s.latSaved n, pending := false }
  ({ s with gangs := s.gangs.filter fun g => !mine g.lkey, teams := s.teams.filter fun t => !mine t.lkey,
            launches := s.launches.filter fun l => !mine l.lkey, deques := s.deques.filter fun d => !mine d.task.lkey,
            cmds := s.cmds.filter fun m => !mine m.lkey, slots := s.slots.filter fun y => !(ts.any (·.tkey == y.tkey)),
            saved := x :: s.saved.filter fun y => !(y.num == n) } : State).modCtx n fun c => { c with running := false }

/-- The image's pages: each is translated and checked for the access; the first failure, or the physical addresses. -/
def State.imagePages (s : State) (ag : Agent) (base : DWord) (wr : Bool) : List Nat → Except (AFault × DWord) (List Nat) × State
  | [] => (.ok [], s)
  | k :: ks =>
    let va := base + BitVec.ofNat 64 (65536 * k)
    match served ag va.toNat (fun s => match s.checkVa ag va wr (fun t => isHbm t.pa && !t.lattice) with
        | (.error e, s) => (.error (e, 0), s)
        | (.ok t, s) => (.ok t, s)) s with
    | (.error e, s) => (.error (e, va), s)
    | (.ok t, s) =>
      match s.imagePages ag base wr ks with
      | (.error e, s) => (.error e, s)
      | (.ok ps, s) => (.ok (t.pa :: ps), s)

/-- Writing an image over its pages. -/
def State.putImage (s : State) : List Nat → List Byte → State
  | [], _ => s
  | p :: ps, bs => (s.homeWr p (bs.take 65536)).putImage ps (bs.drop 65536)

/-- The pages of n bytes. -/
def pagesOf (n : Nat) : List Nat := List.range ((n + 65535) / 65536)

/-- A context descriptor (R409). -/
structure CtxDesc where
  num : Nat
  base : DWord
  cap : Nat
  bad : Bool

/-- The descriptor's fields (R409); an image base that is no multiple of 65,536 counts as a field set wrongly. -/
def descOf (bs : List Byte) : CtxDesc :=
  { num := rdN bs 0 2, base := BitVec.ofNat 64 (rdN bs 8 8), cap := rdN bs 16 8,
    bad := !zeros bs 2 2 || !zeros bs 32 32 || rdN bs 8 8 % 65536 != 0 }

/-- STATUS and, where it is given, IMGUSED are written, and the instruction completes. -/
def ctxDone (c : Cur) (g : Gang) (va : DWord) (st : Nat) (used : Option Nat) (s : State) : Out :=
  let ag := { agentOf s c g with ped := { g.ped with mode := 2 } }
  let w := fun (s : State) a bs => (s.storeVa ag a bs false).2
  let s := match used with | some n => w s (va + 24) (bytesOf 8 n) | none => s
  done c (w s (va + 4) (bytesOf 4 st))

/-- CTXSV and CTXLD up to their action (R408, R409): the mode, the descriptor's read, its reserved fields. -/
def ctxOp (s : State) (sb : BitVec 7) (act : Cur → Gang → DWord → CtxDesc → State → Out) : Out :=
  withCur s fun c g =>
    if !s.sup g then trapWord c g .prot s
    else
      sGuard c g s [(pairNo sb, 2)]
        (let va := g.s2 (pairNo sb)
         let ag := { agentOf s c g with ped := { g.ped with mode := 2 } }
         if va.toNat % 64 ≠ 0 then uniFault c g 5 va (.align, 0) s
         else
           match s.loadBlock ag va 4 with
           | (.error e, s) => uniFault c g 5 e.2 e.1 s
           | (.ok bs, s) =>
             match s.storeCheck ag va 16 (fun _ => true) with
             | (.error e, s) => uniFault c g 5 va e s
             | (.ok _, s) =>
               let d := descOf bs
               if d.bad then ctxDone c g va 4 none s else act c g va d s)

/-- CTXSV (R410). -/
def execCtxsv (sb : BitVec 7) (s : State) : Out :=
  ctxOp s sb fun c g va d s =>
    match s.ctx? d.num with
    | none => ctxDone c g va 2 none s
    | some x =>
      if !x.running || d.num = g.ctx then ctxDone c g va 2 none s
      else
        let need := ((s.gather d.num).content d.num).size
        if need > d.cap then ctxDone c g va 1 (some need) s
        else
          let t := s.quiesce d.num
          let k := t.content d.num
          match t.imagePages (agentOf t c g) d.base true (pagesOf k.size) with
          | (.error e, _) => uniFault c g 5 e.2 e.1 s
          | (.ok ps, t) => ctxDone c g va 0 (some need) ((t.putImage ps (k.bytes d.num x.ptroot)).unload d.num)

/-! ## CTXLD (R412) -/

/-- Offsets of n records from one on, each of a size that its bytes give; none when one goes past the end. -/
def recOffs (bs : List Byte) (used : Nat) (size : List Byte → Nat) (low : Nat) : Nat → Nat → Option (List Nat)
  | 0, _ => some []
  | n + 1, off =>
    let k := size (bs.drop off)
    if off + max k low > used then none else (recOffs bs used size low n (off + k)).map (off :: ·)

/-- The size of a gang record, by its first word. -/
def recGangSize (bs : List Byte) : Nat := let h := rdN bs 0 4; gangSize (widthOf h) (8 * (h / 4 % 32 + 1))

/-- Where the records of a launch section stand. -/
structure SecOffs where
  teams : List Nat
  gangs : List Nat
  tasks : List Nat
  cmds : List Nat

/-- The record offsets of a section, none where they leave the image. -/
def secOffs (bs : List Byte) (used off : Nat) : Option SecOffs :=
  let n := fun i => rdN bs (off + 0x140 + 4 * i) 4
  let o := fun i => rdN bs (off + 0x150 + 8 * i) 8
  match recOffs bs used recTeamSize 0x800 (n 0) (o 0), recOffs bs used recGangSize 0x1300 (n 1) (o 1),
      recOffs bs used (fun _ => 64) 64 (n 2) (o 2), recOffs bs used (fun _ => 1024) 1024 (n 3) (o 3) with
  | some a, some b, some c, some d => some { teams := a, gangs := b, tasks := c, cmds := d }
  | _, _, _, _ => none

/-- Whether bits [lo + n - 1 : lo] of a word are zero. -/
def bitsZero (bs : List Byte) (off lo n : Nat) : Bool := rdN bs off 4 / 2 ^ lo % 2 ^ n == 0

/-- The reserved fields of a team record, and the count of its event queue (R415). -/
def teamRecOk (bs : List Byte) : Bool :=
  bitsZero bs 0x10 14 18 && zeros bs 0x40 0xC0 && zeros bs 0x280 0x180 && decide (rdN bs 0x14 4 ≤ 64) &&
    (List.range 64).all (fun k => bitsZero bs (0x100 + 4 * k) 26 6) && (List.range 16).all fun k => rdN bs (0x200 + 8 * k) 8 / 2 ^ 42 == 0
/-- The reserved fields of a gang record, and the count of its pending traps (R416). -/
def gangRecOk (bs : List Byte) : Bool :=
  let h := rdN bs 0 4
  h / 2 ^ 17 == 0 && decide (h / 2 ^ 9 % 128 ≤ 64) && zeros bs 0x20 0x20 && zeros bs 0xC8 0x38 && zeros bs 0x938 8 &&
    zeros bs 0x978 8 && zeros bs 0x9C0 0x40 && !pedBad (bs.drop 0x40) &&
    (List.range (widthOf h)).all fun i => bitsZero bs (0x1300 + 8 * i) 22 10
/-- The reserved bits of a task entry (R292). -/
def taskRecOk (bs : List Byte) : Bool :=
  let n := numOf (bs.take 64)
  n / 2 ^ 105 % 2 ^ 7 == 0 && n / 2 ^ 403 == 0
/-- The reserved fields of a command record (R417). -/
def cmdRecOk (bs : List Byte) : Bool := bitsZero bs 0 18 14 && zeros bs 0x1C0 0x40 && zeros bs 0x380 0x80

/-- The checks of a launch section (R414): its reserved words, its offsets, its records, and the records they name. -/
def secOk (bs : List Byte) (used off : Nat) (links : List Nat × List Nat) : Bool :=
  let o := fun i => rdN bs (off + 0x150 + 8 * i) 8
  let at_ := fun (f : List Byte → Bool) (l : List Nat) => l.all fun k => f (bs.drop k)
  let names := fun (l : List Nat) k => k == 0 || l.contains k
  off % 256 == 0 && decide (off + 0x400 ≤ used) && zeros bs (off + 0x114) 0x2C && zeros bs (off + 0x170) 0x90 &&
    names links.2 (rdN bs (off + 0x110) 4) && (List.range 4).all (fun i => o i % 256 == 0) &&
    match secOffs bs used off with
    | none => false
    | some z =>
      at_ teamRecOk z.teams && at_ gangRecOk z.gangs && at_ taskRecOk z.tasks && at_ cmdRecOk z.cmds &&
        z.gangs.all (fun k => names links.1 (rdN bs (k + 8) 4) && names links.2 (rdN bs (k + 12) 4)) &&
        z.cmds.all fun k => links.2.contains (rdN bs (k + 8) 4)

/-- The launch sections of an image. -/
def imageSecs (bs : List Byte) : List Nat := (List.range (rdN bs 32 4)).map fun i => rdN bs (rdN bs 40 8 + 8 * i) 8
/-- The offsets of all team records and of all gang records. -/
def imageLinks (bs : List Byte) (used : Nat) : List Nat × List Nat :=
  (imageSecs bs).foldl (fun r o => match secOffs bs used o with
    | some z => (r.1 ++ z.teams, r.2 ++ z.gangs)
    | none => r) ([], [])

/-- The layout checks of an image (R414). -/
def imageOk (bs : List Byte) (used : Nat) : Bool :=
  let n := rdN bs 32 4
  let q := rdN bs 24 8
  let ld := rdN bs 40 8
  let nq := ((List.range 16).map fun k => rdN bs (48 + 4 * k) 4).sum
  rdN bs 0 4 == 1 && zeros bs 6 2 && zeros bs 36 4 && zeros bs 112 144 && q % 256 == 0 && ld % 256 == 0 &&
    decide (q + 256 * nq ≤ used) && decide (ld + 8 * n ≤ used) &&
    (imageSecs bs).all fun o => secOk bs used o (imageLinks bs used)

/-! ### Reading an image

Every record is read from the image alone. What no record holds comes from the record of the same launch, team, gang, task
or command that the H40 kept at the save, where there is one: what a waiting instruction captured, the final views of
drained children, and the like (log 56). A record without one takes its number from its offset in the image. -/

/-- What a restore reads its records with: the state, the context, what was kept at the save, the image, its links. -/
structure Reader where
  s : State
  num : Nat
  x : SavedCtx
  bs : List Byte
  links : List Nat × List Nat

/-- The number of a record that has no kept one. -/
def Reader.fresh (r : Reader) (off : Nat) : Nat := r.s.fresh + off
/-- The image from an offset. -/
def Reader.at_ (r : Reader) (off : Nat) : List Byte := r.bs.drop off

/-- The descriptors of a table of a launch, as memory holds them. -/
def Reader.descs (r : Reader) (va : DWord) (n : Nat) : List (List Byte) :=
  (List.range n).map fun k => (List.range 32).map fun b => r.s.firmRd r.num (va.toNat + 32 * k + b)

/-- A launch from its record: the kept one with that record, or a new one. -/
def Reader.launch (r : Reader) (off : Nat) (lid : Option Word) : Launch :=
  let raw := (r.at_ off).take 256
  match r.x.launches.find? fun l => l.raw == raw && (lid.isNone || lid == some l.lid) && lid.isNone == (l.st == .queued) with
  | some l => l
  | none =>
    let c := lrecOf raw
    let next := match r.s.ctx? r.num with | some y => y.lidCtr | none => 1
    { Launch.accepted (r.fresh off) r.num (lid.getD next) c c.seed (modeFor c true 0) with
      raw := raw, reds := (r.descs c.redtab c.nred).map redOf, arenas := (r.descs c.arenatab c.narena).map arenaOf }

/-- The launch of a section. -/
def Reader.secLaunch (r : Reader) (o : Nat) : Launch :=
  let b := r.at_ o
  { r.launch o (some (rdW b 0x100)) with
    st := match (r.launch o (some (rdW b 0x100))).st with | .queued => .started | t => t
    nextTeam := rdN b 0x104 4, cursor := rdN b 0x108 4, freed := rdN b 0x10C 4
    cursors := (List.range 64).map fun k => rdN b (0x200 + 8 * k) 8 }

/-- The kept team of a record, and its number. -/
def Reader.keptTeam (r : Reader) (l : Launch) (off : Nat) : Option Team :=
  r.x.teams.find? fun t => t.lkey == l.lkey && t.teamId == rdW (r.at_ off) 0
def Reader.tkey (r : Reader) (l : Launch) (off : Nat) : Nat := ((r.keptTeam l off).map (·.tkey)).getD (r.fresh off)

/-- The kept gang of a record, and its number. -/
def Reader.keptGang (r : Reader) (l : Launch) (off : Nat) : Option Gang :=
  r.x.gangs.find? fun g => g.lkey == l.lkey && g.ped == pedOf (r.at_ off) 0x40 && g.gangId == rdW (r.at_ off) 4
def Reader.gid (r : Reader) (l : Launch) (off : Nat) : Nat := ((r.keptGang l off).map (·.gid)).getD (r.fresh off)

/-- The launches of the image's sections, each with the records of its section. -/
def Reader.secs (r : Reader) : List (Launch × SecOffs) :=
  (imageSecs r.bs).filterMap fun o => (secOffs r.bs r.bs.length o).map fun z => (r.secLaunch o, z)
/-- The number of the team or gang whose record stands at an offset. -/
def Reader.teamAt (r : Reader) (off : Nat) : Option Nat :=
  (r.secs.find? fun e => e.2.teams.contains off).map fun e => r.tkey e.1 off
def Reader.gangAt (r : Reader) (off : Nat) : Option Nat :=
  (r.secs.find? fun e => e.2.gangs.contains off).map fun e => r.gid e.1 off

/-- The team to whose root gang a gang record leads, by its record's offset (R291). -/
def Reader.rootTeam (r : Reader) : Nat → Nat → Nat
  | 0, _ => 0
  | n + 1, off => if rdN (r.at_ off) 8 4 ≠ 0 then rdN (r.at_ off) 8 4 else r.rootTeam n (rdN (r.at_ off) 12 4)

/-- The rank that a gang has among the children of its frame, or among the root gangs of its launch. -/
def rankOf (l : Launch) (p : Ped) (team gang : Word) : Word :=
  if p.root then BitVec.ofNat 32 (team.toNat * l.r.gangs + gang.toNat) else (p.levels.getD (p.levels.length - 2) (0, 0)).1

/-- A gang of a section. Whether it has arrived at the barrier is its team's record's to say; one whose wait must be
evaluated anew arrives again. -/
def Reader.gang (r : Reader) (l : Launch) (off : Nat) : Gang :=
  let b := r.at_ off
  let root := r.rootTeam 16 off
  let k := rdN b 8 4
  let base := (r.keptGang l off).getD
    { Gang.blank with gid := r.fresh off, lkey := l.lkey, ctx := r.num, teamId := rdW (r.at_ root) 0,
                      rank := rankOf l (pedOf b 0x40) (rdW (r.at_ root) 0) (rdW b 4), views := List.replicate l.reds.length none }
  let g := Gang.ofBytes r.s base b
  let held := g.batches.any fun x => x.st == .waiting 2 && !x.cap.isEmpty
  { g with
    team := if k = 0 then none else r.teamAt k
    parent := if rdN b 12 4 = 0 then none else r.gangAt (rdN b 12 4)
    arrived := held && k != 0 && rdN (r.at_ k) 8 8 / 2 ^ (g.gangId.toNat % 64) % 2 == 1
    inlined := if rdN b 0 4 / 2 ^ 16 % 2 = 1 then some (g.inlined.getD 0) else none, ibuf := none }

/-- A team of a section with its slots; the cores of one that was not kept are those of its gangs. -/
def Reader.team (r : Reader) (l : Launch) (gs : List Gang) (off : Nat) : Team × List Slot :=
  let b := r.at_ off
  let c := rdN b 0x10 4 % 4 + 1
  let key := r.tkey l off
  let first := match gs.find? (·.team == some key) with | some g => g.core - g.gangId.toNat % c | none => 0
  let base := (r.keptTeam l off).getD
    { tkey := key, lkey := l.lkey, teamId := 0, cores := (List.range c).map (first + ·), tslots := List.replicate c 0, granules := 0,
      phase := 0, broken := false, tiles := [], evq := [] }
  base.ofBytes (r.x.slots.filter (·.tkey == key)) b

/-- A task of a section; what its entry does not hold is its parent's (R291, R292). -/
def Reader.task (r : Reader) (l : Launch) (gs : List Gang) (off : Nat) : DequeEnt :=
  let b := (r.at_ off).take 64
  let p := gs.find? fun g => r.gangAt (numOf b / 2 ^ 240 % 2 ^ 32) == some g.gid
  let g := p.getD Gang.blank
  let e := TaskEntry.ofBytes (spawnEntry r.s g 0 0 0 false 1 0) b
  let e := { e with key := r.fresh off, lkey := l.lkey, parent := g.gid }
  match r.x.deques.find? fun d => d.task.lkey == l.lkey && d.task.parent == g.gid && d.task.rank0 == e.rank0 with
  | some d => { d with task := TaskEntry.ofBytes d.task b }
  | none => { core := g.core, part := g.part, task := e }

/-- A command of a section. A fill owns its slot when the slot is filling and no fill before it does. -/
def Reader.cmd (r : Reader) (l : Launch) (gs : List Gang) (slots : List Slot) (before : List Command) (off : Nat) : Command :=
  let b := r.at_ off
  let g := (gs.find? fun g => r.gangAt (rdN b 8 4) == some g.gid).getD Gang.blank
  let seq := rdN b 12 4
  match r.x.cmds.find? fun m => m.gid == g.gid && m.seq == seq && m.unitOff == rdW b 4 with
  | some m => Command.ofBytes m b
  | none =>
    let m := Command.ofBytes { Command.blank with cid := r.fresh off, gid := g.gid, core := g.core, tkey := g.team, lkey := l.lkey, ped := g.ped } b
    let filling := m.fills.any fun h => slots.any fun x => some x.tkey == m.tkey && x.core == m.core && x.hnd == h && x.st == 2
    let first := !(before.any fun o => o.gid == m.gid && o.owns && o.fills == m.fills)
    { m with owns := filling && first, after := filling && !first }

/-- A gang's traps name the commands whose faults they deliver, and its next command follows those it has issued. -/
def linkHeld (ms : List Command) (g : Gang) : Gang :=
  let own := ms.filter (·.gid == g.gid)
  let link := fun (t : Trap) =>
    if t.held.isSome then t
    else match own.find? fun m => m.isHeld && m.fcause == t.cause && m.unitOff == t.tepc && m.faddr == t.taddr with
      | some m => { t with held := some (if m.st == .heldFault then .cmd m.cid else .incr m.cid) }
      | none => t
  { g with trap := g.trap.map link, pending := g.pending.map link, cmdSeq := own.foldl (fun n m => max n (m.seq + 1)) g.cmdSeq }

/-- A gang whose state lies in an inline record names the child that runs in its place. -/
def linkInline (gs : List Gang) (g : Gang) : Gang :=
  match g.inlined with
  | none => g
  | some k =>
    if gs.any (·.gid == k) then g
    else { g with inlined := (gs.find? fun x => x.parent == some g.gid && x.core == g.core && x.part == g.part).map (·.gid) }

/-- What a restore brings back. -/
structure Restored where
  launches : List Launch
  y : SavedCtx

/-- A device launch takes its issuer and root from the gang that its section names (R370, R414). -/
def Reader.linkLaunch (r : Reader) (gs : List Gang) (o : Nat) (l : Launch) : Launch :=
  let k := rdN (r.at_ o) 0x110 4
  match (if k = 0 then none else gs.find? fun g => r.gangAt k == some g.gid) with
  | none => l
  | some g =>
    if l.host then
      let base := match gs.find? fun x => x.lkey == l.lkey && x.ped.root with
        | some x => x.ped.levels.take (x.ped.levels.length - 3)
        | none => g.ped.levels
      { l.under r.s g with base := base, issuerTeam := g.team, mode := g.ped.mode }
    else { l with issuer := some g.gid, issuerTeam := g.team }

/-- The launches, teams, gangs, tasks and commands of an image. -/
def Reader.all (r : Reader) : Restored :=
  let zs := r.secs
  let gs := zs.flatMap fun e => e.2.gangs.map (r.gang e.1)
  let ts := zs.flatMap fun e => e.2.teams.map (r.team e.1 gs)
  let slots := ts.flatMap (·.2)
  let ms := zs.foldl (fun ms e => e.2.cmds.foldl (fun ms o => ms ++ [r.cmd e.1 gs slots ms o]) ms) []
  let qo := rdN r.bs 24 8
  let queued := (List.range (((List.range 16).map fun k => rdN r.bs (48 + 4 * k) 4).sum)).map fun i => r.launch (qo + 256 * i) none
  let secLs := (imageSecs r.bs).zip (zs.map (·.1)) |>.map fun e => r.linkLaunch gs e.1 e.2
  { launches := secLs ++ queued ++ r.x.launches.filter fun l => !l.host && l.st == .queued,
    y := { num := r.num, gangs := (gs.map (linkHeld ms)).map (linkInline gs), teams := ts.map (·.1), launches := [],
           deques := zs.flatMap fun e => e.2.tasks.map (r.task e.1 gs), cmds := ms, slots := slots, lat := r.x.lat, pending := true } }

/-- The views of a gang that is not placed yet are at hand: their places in the backing area may be used by others until
then. -/
def State.fetchGang (s : State) (g : Gang) : Gang :=
  let rs := s.redsOf g.lkey
  let get := fun (r : Reducer) (v : View) => { v with elems := s.viewElems g.lkey r v }
  { g with views := mapV get g.views rs, finals := g.finals.map fun f => { f with views := mapV get f.views rs } }

/-- A restore: launches return to their queues, and teams and gangs are queued for placement. -/
def State.reload (s : State) (x : Restored) (used : Nat) (ptroot : DWord) : State :=
  let s : State := { s with launches := s.launches ++ x.launches, fresh := s.fresh + used }
  let y := { x.y with gangs := x.y.gangs.map s.fetchGang }
  ({ s with saved := y :: s.saved.filter fun z => !(z.num == y.num) } : State).modCtx y.num fun k =>
    { k with running := true, ptroot := ptroot }

/-- What the H40 kept of a saved context; nothing where the image comes from elsewhere. -/
def State.kept (s : State) (n : Nat) : SavedCtx :=
  (s.saved.find? (·.num == n)).getD
    { num := n, gangs := [], teams := [], launches := [], deques := [], cmds := [], slots := [], lat := [], pending := false }

/-- CTXLD (R412). -/
def execCtxld (sb : BitVec 7) (s : State) : Out :=
  ctxOp s sb fun c g va d s =>
    match s.ctx? d.num with
    | none => ctxDone c g va 2 none s
    | some x =>
      if x.running then ctxDone c g va 2 none s
      else
        let ag := agentOf s c g
        match s.imagePages ag d.base false [0] with
        | (.error e, s) => uniFault c g 5 e.2 e.1 s
        | (.ok p0, s) =>
          let head := s.homeRd (p0.headD 0) 256
          let used := rdN head 8 8
          if rdN head 4 2 ≠ d.num then ctxDone c g va 2 none s
          else if used > d.cap ∨ used < 512 then ctxDone c g va 3 none s
          else
            match s.imagePages ag d.base false (pagesOf used) with
            | (.error e, s) => uniFault c g 5 e.2 e.1 s
            | (.ok ps, s) =>
              let bs := (ps.flatMap fun p => s.homeRd p 65536).take used
              if imageOk bs used then
                let r : Reader := { s := s, num := d.num, x := s.kept d.num, bs := bs, links := imageLinks bs used }
                ctxDone c g va 0 (some used) (s.reload r.all used (BitVec.ofNat 64 (rdN bs 16 8)))
              else ctxDone c g va 3 none s

/-! ## Placement after a restore (R412) -/

/-- The lattice sectors of its old die that a gang on another die waits for (R216). -/
def behindOf (lat : List (Nat × List Byte)) (old new : Nat) : List (Nat × List Byte) :=
  if old = new then []
  else (lat.filter fun e => homeDie e.1 == old).map fun e => (e.1 % 2 ^ 48 - latBase, e.2)

/-- Whether a die's replica holds a sector's cells, or more. -/
def State.holds (s : State) (die : Nat) (e : Nat × List Byte) : Bool :=
  match s.latType (latPa die e.1) with
  | none => true
  | some pf =>
    (List.range (16 / joinBytes pf)).all fun k =>
      let n := joinBytes pf
      let v := s.homeNum (latPa die (e.1 + n * k)) n
      cellJoin pf v (BitVec.ofNat 64 (numOf ((e.2.drop (n * k)).take n))) == v

/-- Whether the replica of a gang's die holds all that the gang's old die held (R216). -/
def State.caughtUp (s : State) (g : Gang) : Bool := g.behind.all (s.holds (dieOf g.core))

/-- A gang arrives on a core. Aging restarts, and demotion has ended (R410, R412). -/
def Gang.arrive (g : Gang) (lat : List (Nat × List Byte)) (core part now : Nat) : Gang :=
  { g with core := core, part := part, behind := behindOf lat (dieOf g.core) (dieOf core),
           sched := { g.sched with since := now, raised := 0, demoted := false, hist := [], reads := [] } }

/-- The placed gangs of a list whose die has caught up go on: their waits read their locations at once (R216, R242, R412). -/
def State.goOn (s : State) : List Nat → Out
  | [] => .next s
  | k :: ks =>
    match s.gang? k with
    | none => s.goOn ks
    | some g =>
      if s.caughtUp g then
        match (s.modGang k fun g => { g with behind := [] }).rereads k (g.batches.filter Batch.waits) with
        | .next s => s.goOn ks
        | r => r
      else s.goOn ks

/-- Whether the tiles of level A and the slots of a team fit a candidate (R191, R412). -/
def State.teamFits (s : State) (t : Team) (xs : List Slot) (first : Nat) : Bool :=
  (List.range t.cores.length).all fun i =>
    let old := t.cores.getD i 0
    let a := (t.tiles.filter fun x => x.lvl == 2 && x.core == old).length
    let n := (xs.filter (·.core == old)).length
    decide (s.accsUsed (first + i) + a ≤ 4) && decide ((s.slots.filter (·.core == first + i)).length + n ≤ 16)

/-- What is left of a saved context that is being restored. -/
def State.setSaved (s : State) (y : SavedCtx) : State :=
  { s with saved := s.saved.map fun z => if z.num == y.num && z.pending then y else z }

/-- A team with its gangs arrives on the cores from a first one: its tiles, slots, commands and views with it. -/
def State.placeSaved (s : State) (x : SavedCtx) (t : Team) (first : Nat) (places : List (List Nat)) : Out :=
  let c := t.cores.length
  let place := fun core => indexOf (· == core) t.cores
  let gs := x.gangs.filter fun g => g.team == some t.tkey
  let put := fun (g : Gang) =>
    let k := g.gangId.toNat
    g.arrive x.lat (first + k % c) ((places.getD (k % c) []).getD (k / c) 0) s.clock
  let ms := x.cmds.filter fun m => gs.any (·.gid == m.gid)
  let xs := x.slots.filter (·.tkey == t.tkey)
  let y : SavedCtx :=
    { x with teams := x.teams.filter (·.tkey != t.tkey), gangs := x.gangs.filter fun g => g.team != some t.tkey,
             cmds := x.cmds.filter fun m => !(gs.any (·.gid == m.gid)), slots := x.slots.filter (·.tkey != t.tkey) }
  let tslots := (List.range c).map fun i => s.freeTslot (first + i)
  let u : Team :=
    { t with cores := (List.range c).map (first + ·), tslots := tslots
             tiles := t.tiles.map fun z => if z.lvl = 1 then z else { z with core := first + place z.core } }
  let s := (List.range c).foldl (fun s i => s.acquireLv (first + i) 2) s
  let s : State :=
    { s with teams := s.teams ++ [u], gangs := s.gangs ++ gs.map put
             slots := s.slots ++ xs.map fun z => { z with core := first + place z.core, tslot := tslots.getD (place z.core) 0 }
             cmds := s.cmds ++ ms.map fun m => { m with core := first + place m.core } }
  ((s.setSaved y).packBacking t.lkey).goOn (gs.map (·.gid))

/-- Placing the first team of a restored context that fits somewhere, or with a core named, that fits there (R412). -/
def State.restoreTeam (s : State) (x : SavedCtx) (at_ : Option Nat) : Option Out :=
  x.teams.findSome? fun t =>
    match s.launch? t.lkey with
    | none => none
    | some l =>
      let c := t.cores.length
      ((l.tries c).filter fun k => at_.isNone || at_ == some k).findSome? fun k =>
        if !s.teamFits t (x.slots.filter (·.tkey == t.tkey)) k then none
        else (s.placesOn (widthOf l.r.wcode) l.r.vregs l.r.gangs t.granules c k).map fun p => s.placeSaved x t k p

/-- The first core and partition with room for a gang without a team, or with a core named, a partition of it. -/
def State.anyPlace (s : State) (w v : Nat) (at_ : Option Nat) : Option (Nat × Nat) :=
  ((List.range 160).filter fun k => at_.isNone || at_ == some k).findSome? fun core =>
    ((List.range 4).find? fun p => s.partRoom core p w v).map fun p => (core, p)

/-- A gang without a team arrives once its parent has; a child that runs inline takes its parent's place (R293). -/
def State.restoreGang (s : State) (x : SavedCtx) (at_ : Option Nat) : Option Out :=
  x.gangs.findSome? fun g =>
    let p := match g.parent with | some p => s.gang? p | none => none
    if g.team.isSome || (g.parent.isSome && p.isNone) then none
    else
      let inl := match p with
        | some q => if q.inlined = some g.gid then some (q.core, q.part) else none
        | none => none
      (inl.orElse fun _ => s.anyPlace g.width g.vregs at_).map fun e =>
        let y : SavedCtx :=
          { x with gangs := x.gangs.filter (·.gid != g.gid), cmds := x.cmds.filter (·.gid != g.gid) }
        let ms := (x.cmds.filter (·.gid == g.gid)).map fun m => { m with core := e.1 }
        let s := s.acquireLv e.1 2
        let s : State := { s with gangs := s.gangs ++ [g.arrive x.lat e.1 e.2 s.clock], cmds := s.cmds ++ ms }
        ((s.setSaved y).packBacking g.lkey).goOn [g.gid]

/-- The partition whose deque takes a restored entry: its parent's, else one of another gang of the context, else any with
room (R412). -/
def State.dequeFor (s : State) (num : Nat) (e : DequeEnt) : Option (Nat × Nat) :=
  let own := (s.gangs.filter (·.gid == e.task.parent)) ++ s.gangs.filter (·.ctx == num)
  (own.map (fun (g : Gang) => (g.core, g.part)) ++ (List.range 640).map fun k => (k / 4, k % 4)).find? fun p => (s.deque p.1 p.2).length < 64

/-- Deque entries return to deques; those for which no deque has room wait. -/
def State.restoreDeques (s : State) (num : Nat) : List DequeEnt → List DequeEnt × State
  | [] => ([], s)
  | e :: es =>
    match s.dequeFor num e with
    | some p => ({ s with deques := s.deques ++ [{ e with core := p.1, part := p.2 }] } : State).restoreDeques num es
    | none => (e :: es, s)

/-- Once every team and gang is placed, deque entries return to deques, pending ones read their counters at once (R242,
R290), and the restore is over. -/
def State.restoreRest (s : State) (x : SavedCtx) : State :=
  let r := s.restoreDeques x.num x.deques
  let s := if r.1.isEmpty then { r.2 with saved := r.2.saved.filter fun z => !(z.num == x.num) }
    else r.2.setSaved { x with deques := r.1 }
  (s.pendings.filter fun d => s.ctxOf d.2.lkey == x.num).foldl (fun s d => s.readEntry d.1 d.2) s

/-- The next team, then the next gang, of a restored context is placed, on a named core if there is one. -/
def State.restoreNext (s : State) (x : SavedCtx) (at_ : Option Nat) : Out :=
  match (s.restoreTeam x at_).orElse fun _ => s.restoreGang x at_ with
  | some r => r
  | none => .next (if x.teams.isEmpty && x.gangs.isEmpty then s.restoreRest x else s)

/-- CONTEXT_RESTORE_PLACEMENT (R412): gangs for which a replica has caught up go on, and the next team or gang of a
restored context is placed. -/
def execContextRestorePlacement (num : Nat) (s : State) : Out :=
  match s.goOn ((s.gangs.filter fun g => g.ctx == num && !g.behind.isEmpty).map (·.gid)) with
  | .next s =>
    match s.saved.find? fun x => x.num == num && x.pending with
    | none => .next s
    | some x => s.restoreNext x none
  | r => r

/-- The placement of a restored context's next team or gang on a named core: R412 leaves the choice to the H40. -/
def State.restoreAt (s : State) (num core : Nat) : Out :=
  match s.saved.find? fun x => x.num == num && x.pending with
  | none => .next s
  | some x => s.restoreNext x (some core)

end Sys2Proof.Machine
end

