-- ==== Sys2Proof/Machine/Int.lean ====
section
/-! DEFINITION. Integer and predicate vector instructions (R100 to R115). -/
namespace Sys2Proof.Machine

/-- SHL of R102. -/
def shl32 (a : Word) (n : Nat) : Word := if n ≥ 32 then 0 else a <<< n
/-- SHR of R102. -/
def shr32 (a : Word) (n : Nat) : Word := if n ≥ 32 then 0 else a >>> n
/-- SHA of R102. -/
def sha32 (a : Word) (n : Nat) : Word := a.sshiftRight (min n 31)
/-- ROT of R102: rotate left by the amount modulo 32. -/
def rot32 (a : Word) (n : Nat) : Word := a.rotateLeft (n % 32)
def shl64v (a : DWord) (n : Nat) : DWord := if n ≥ 64 then 0 else a <<< n
def shr64v (a : DWord) (n : Nat) : DWord := if n ≥ 64 then 0 else a >>> n
def sha64v (a : DWord) (n : Nat) : DWord := a.sshiftRight (min n 63)
/-- The high word of a signed product (R103). -/
def mulhS (a b : Word) : Word := BitVec.ofInt 32 (a.toInt * b.toInt / 4294967296)
/-- The high word of an unsigned product. -/
def mulhN (a b : Word) : Word := BitVec.ofNat 32 (a.toNat * b.toNat / 4294967296)
def minS (a b : Word) : Word := if a.sle b then a else b
def minN (a b : Word) : Word := if a.ule b then a else b
def maxS (a b : Word) : Word := if a.sle b then b else a
def maxN (a b : Word) : Word := if a.ule b then b else a
/-- Byte i of a word (R25). -/
def byteOf (a : Word) (i : Nat) : Nat := a.toNat / 2 ^ (8 * i) % 256
/-- Half i of a word (R25). -/
def halfOf (a : Word) (i : Nat) : Nat := a.toNat / 2 ^ (16 * i) % 65536
/-- The count of 1 bits in the lowest n bits. -/
def popBits (x : Nat) : Nat → Nat
  | 0 => 0
  | n + 1 => x % 2 + popBits (x / 2) n
/-- POPC (R104). -/
def popc32 (a : Word) : Word := BitVec.ofNat 32 (popBits a.toNat 32)
/-- CLZ (R104). -/
def clz32 (a : Word) : Word := if a = 0 then 32 else BitVec.ofNat 32 (31 - a.toNat.log2)
/-- BREV (R104). -/
def brev32 (a : Word) : Word := a.reverse
/-- IABS (R104). -/
def iabs32 (a : Word) : Word × Flags :=
  if a = 0x80000000 then (0x7FFFFFFF, fSAT) else (if a.msb then -a else a, 0)
/-- BFX (R105). -/
def bfx (sgn : Bool) (a b : Word) : Word :=
  let pos := byteOf b 0
  let len := byteOf b 1
  if len = 0 ∨ pos > 31 then 0
  else
    let len := min len (32 - pos)
    let f := a.toNat / 2 ^ pos % 2 ^ len
    if sgn then wordOfInt (sInt len f) else BitVec.ofNat 32 f
/-- One result byte of PRMT (R106). -/
def prmtByte (sel a b : Word) (i : Nat) : Nat :=
  let k := sel.toNat / 2 ^ (4 * i) % 16
  let x := (b.toNat * 4294967296 + a.toNat) / 2 ^ (8 * (k % 8)) % 256
  if k ≥ 8 then (if x ≥ 128 then 255 else 0) else x
/-- PRMT (R106): bytes of b:a chosen by the old value of D. -/
def prmt32 (sel a b : Word) : Word :=
  BitVec.ofNat 32 (prmtByte sel a b 0 + 256 * prmtByte sel a b 1 + 65536 * prmtByte sel a b 2 + 16777216 * prmtByte sel a b 3)
/-- |x - y| of two numbers. -/
def absDiff (x y : Nat) : Nat := if x ≥ y then x - y else y - x
/-- ISAD (R104). -/
def isad32 (a b : Word) : Word :=
  BitVec.ofNat 32 (((List.range 4).map fun i => absDiff (byteOf a i) (byteOf b i)).sum)
/-- BFI (R112). -/
def bfi32 (a b c : Word) : Word :=
  let pos := byteOf c 0
  let len := byteOf c 1
  if len = 0 ∨ pos > 31 then a
  else
    let len := min len (32 - pos)
    let m := (2 ^ len - 1) * 2 ^ pos
    (a &&& ~~~BitVec.ofNat 32 m) ||| BitVec.ofNat 32 (b.toNat % 2 ^ len * 2 ^ pos)
/-- IMADH.S and IMADH.N (R111). -/
def imadhS (a b c : Word) : Word := BitVec.ofInt 32 ((a.toInt * b.toInt + c.toInt) / 4294967296)
def imadhN (a b c : Word) : Word := BitVec.ofNat 32 ((a.toNat * b.toNat + c.toNat) / 4294967296)
/-- A packed dot product added to c (R113). -/
def dotInt (c : Word) (ps : List Int) : Word := BitVec.ofInt 32 (ps.foldl (· + ·) (c.toNat : Int))
def dp4S8 (a b c : Word) : Word := dotInt c ((List.range 4).map fun i => sInt 8 (byteOf a i) * sInt 8 (byteOf b i))
def dp4N8 (a b c : Word) : Word := dotInt c ((List.range 4).map fun i => ((byteOf a i * byteOf b i : Nat) : Int))
def dp2S16 (a b c : Word) : Word := dotInt c ((List.range 2).map fun i => sInt 16 (halfOf a i) * sInt 16 (halfOf b i))

/-- IADD (R103). -/
def execIadd (g : BitVec 4) (d a b : BitVec 6) (s : State) : Out := vr s g d a b (· + ·)
/-- ISUB (R103). -/
def execIsub (g : BitVec 4) (d a b : BitVec 6) (s : State) : Out := vr s g d a b (· - ·)
/-- IMUL (R103). -/
def execImul (g : BitVec 4) (d a b : BitVec 6) (s : State) : Out := vr s g d a b (· * ·)
/-- IMULH.S (R103). -/
def execImulhS (g : BitVec 4) (d a b : BitVec 6) (s : State) : Out := vr s g d a b mulhS
/-- IMULH.N (R103). -/
def execImulhN (g : BitVec 4) (d a b : BitVec 6) (s : State) : Out := vr s g d a b mulhN
/-- IAND (R103). -/
def execIand (g : BitVec 4) (d a b : BitVec 6) (s : State) : Out := vr s g d a b (· &&& ·)
/-- IOR (R103). -/
def execIor (g : BitVec 4) (d a b : BitVec 6) (s : State) : Out := vr s g d a b (· ||| ·)
/-- IXOR (R103). -/
def execIxor (g : BitVec 4) (d a b : BitVec 6) (s : State) : Out := vr s g d a b (· ^^^ ·)
/-- IANDN (R103). -/
def execIandn (g : BitVec 4) (d a b : BitVec 6) (s : State) : Out := vr s g d a b (fun x y => x &&& ~~~y)
/-- SHL (R103). -/
def execShl (g : BitVec 4) (d a b : BitVec 6) (s : State) : Out := vr s g d a b (fun x y => shl32 x y.toNat)
/-- SHR (R103). -/
def execShr (g : BitVec 4) (d a b : BitVec 6) (s : State) : Out := vr s g d a b (fun x y => shr32 x y.toNat)
/-- SHA (R103). -/
def execSha (g : BitVec 4) (d a b : BitVec 6) (s : State) : Out := vr s g d a b (fun x y => sha32 x y.toNat)
/-- IMIN.S (R103). -/
def execIminS (g : BitVec 4) (d a b : BitVec 6) (s : State) : Out := vr s g d a b minS
/-- IMIN.N (R103). -/
def execIminN (g : BitVec 4) (d a b : BitVec 6) (s : State) : Out := vr s g d a b minN
/-- IMAX.S (R103). -/
def execImaxS (g : BitVec 4) (d a b : BitVec 6) (s : State) : Out := vr s g d a b maxS
/-- IMAX.N (R103). -/
def execImaxN (g : BitVec 4) (d a b : BitVec 6) (s : State) : Out := vr s g d a b maxN
/-- IADD.64 (R104). -/
def execIadd64 (g : BitVec 4) (d a b : BitVec 5) (s : State) : Out := vr64 s g d a b (· + ·)
/-- ISUB.64 (R104). -/
def execIsub64 (g : BitVec 4) (d a b : BitVec 5) (s : State) : Out := vr64 s g d a b (· - ·)
/-- SHL.64 (R102, R104). -/
def execShl64 (g : BitVec 4) (d a : BitVec 5) (b : BitVec 6) (s : State) : Out := vrShift64 s g d a b shl64v
/-- SHR.64 (R102, R104). -/
def execShr64 (g : BitVec 4) (d a : BitVec 5) (b : BitVec 6) (s : State) : Out := vrShift64 s g d a b shr64v
/-- SHA.64 (R102, R104). -/
def execSha64 (g : BitVec 4) (d a : BitVec 5) (b : BitVec 6) (s : State) : Out := vrShift64 s g d a b sha64v
/-- IABS (R104). -/
def execIabs (g : BitVec 4) (d a : BitVec 6) (s : State) : Out := vu s g d a iabs32
/-- INEG (R104). -/
def execIneg (g : BitVec 4) (d a : BitVec 6) (s : State) : Out := vu s g d a fun x => (-x, 0)
/-- POPC (R104). -/
def execPopc (g : BitVec 4) (d a : BitVec 6) (s : State) : Out := vu s g d a fun x => (popc32 x, 0)
/-- CLZ (R104). -/
def execClz (g : BitVec 4) (d a : BitVec 6) (s : State) : Out := vu s g d a fun x => (clz32 x, 0)
/-- BREV (R104). -/
def execBrev (g : BitVec 4) (d a : BitVec 6) (s : State) : Out := vu s g d a fun x => (brev32 x, 0)
/-- BFX.N (R105). -/
def execBfxN (g : BitVec 4) (d a b : BitVec 6) (s : State) : Out := vr s g d a b (bfx false)
/-- BFX.S (R105). -/
def execBfxS (g : BitVec 4) (d a b : BitVec 6) (s : State) : Out := vr s g d a b (bfx true)
/-- PRMT reads the old D as selector (R106). -/
def execPrmt (g : BitVec 4) (d a b : BitVec 6) (s : State) : Out :=
  vecGd s g fun c _ _ f => do
    f.chk d.toNat 1; f.chk a.toNat 1; bChk c f b.toNat 1
    return (f.setV d.toNat (prmt32 (f.v d.toNat) (f.v a.toNat) (bVal c f b.toNat)), 0)
/-- ISAD (R104). -/
def execIsad (g : BitVec 4) (d a b : BitVec 6) (s : State) : Out := vr s g d a b isad32
/-- MOV (R104): bits move unchanged (R36). -/
def execMov (g : BitVec 4) (d a : BitVec 6) (s : State) : Out := vu s g d a fun x => (x, 0)
/-- SEL uses GD as its selector and executes in every active fibre (R101, R104). -/
def execSel (g : BitVec 4) (d a b : BitVec 6) (s : State) : Out :=
  vecAll s fun c _ _ f => do
    f.chkD d.toNat 1; f.chk a.toNat 1; bChk c f b.toNat 1
    return (f.setV d.toNat (if guardOf g f then f.v a.toNat else bVal c f b.toNat), 0)
/-- IADDI (R107). -/
def execIaddi (g : BitVec 4) (d a : BitVec 6) (i : BitVec 10) (s : State) : Out := vi s g d a (fun c => immVI c true i) (· + ·)
/-- IANDI (R107). -/
def execIandi (g : BitVec 4) (d a : BitVec 6) (i : BitVec 10) (s : State) : Out := vi s g d a (fun c => immVI c false i) (· &&& ·)
/-- IORI (R107). -/
def execIori (g : BitVec 4) (d a : BitVec 6) (i : BitVec 10) (s : State) : Out := vi s g d a (fun c => immVI c false i) (· ||| ·)
/-- IXORI (R107). -/
def execIxori (g : BitVec 4) (d a : BitVec 6) (i : BitVec 10) (s : State) : Out := vi s g d a (fun c => immVI c false i) (· ^^^ ·)
/-- ISHI.SHL (R108). -/
def execIshiShl (g : BitVec 4) (d a i : BitVec 6) (s : State) : Out := vu s g d a fun x => (shl32 x i.toNat, 0)
/-- ISHI.SHR (R108). -/
def execIshiShr (g : BitVec 4) (d a i : BitVec 6) (s : State) : Out := vu s g d a fun x => (shr32 x i.toNat, 0)
/-- ISHI.SHA (R108). -/
def execIshiSha (g : BitVec 4) (d a i : BitVec 6) (s : State) : Out := vu s g d a fun x => (sha32 x i.toNat, 0)
/-- ISHI.ROT (R108). -/
def execIshiRot (g : BitVec 4) (d a i : BitVec 6) (s : State) : Out := vu s g d a fun x => (rot32 x i.toNat, 0)
/-- The immediate of IMOVI: A:I10 sign-extended, or HV << 10 | I10 (R66, R69, R109). -/
def immMovi (c : Cur) (i : BitVec 16) : Word :=
  match c.himm with
  | some h => h ++ i.setWidth 10
  | none => i.signExtend 32
/-- IMOVI (R109). -/
def execImovi (g : BitVec 4) (d : BitVec 6) (i : BitVec 16) (s : State) : Out :=
  vecGd s g fun c _ _ f => do
    f.chkD d.toNat 1
    return (f.setV d.toNat (immMovi c i), 0)
/-- ICMP (R110): codes 10 to 13 compare pairs. -/
def execIcmp (cc : BitVec 4) (p q : BitVec 3) (a b : BitVec 6) (s : State) : Out :=
  vecHg s fun c _ _ f =>
    if 10 ≤ cc.toNat ∧ cc.toNat ≤ 13 then do
      f.chk a.toNat 2; bChk c f b.toNat 2
      return (f.setPP p q (cmpDWord cc.toNat (f.v2 a.toNat) (bVal2 c f b.toNat)), 0)
    else do
      f.chk a.toNat 1; bChk c f b.toNat 1
      return (f.setPP p q (cmpWord cc.toNat (f.v a.toNat) (bVal c f b.toNat)), 0)
/-- IMAD (R111). -/
def execImad (d a b k : BitVec 6) (s : State) : Out := v4 s d a b k fun x y z => x * y + z
/-- IMADH.S (R111). -/
def execImadhS (d a b k : BitVec 6) (s : State) : Out := v4 s d a b k imadhS
/-- IMADH.N (R111). -/
def execImadhN (d a b k : BitVec 6) (s : State) : Out := v4 s d a b k imadhN
/-- IMAD.W: D and C pairs (R111). -/
def execImadW (d : BitVec 5) (a b : BitVec 6) (k : BitVec 5) (s : State) : Out :=
  vecHg s fun c _ _ f => do
    f.chkD (pairNo d) 2; f.chk a.toNat 1; bChk c f b.toNat 1; f.chk (pairNo k) 2
    let x := (f.v a.toNat).signExtend 64 * (bVal c f b.toNat).signExtend 64 + f.v2 (pairNo k)
    return (f.setV2 (pairNo d) x, 0)
/-- BFI (R112). -/
def execBfi (d a b k : BitVec 6) (s : State) : Out := v4 s d a b k bfi32
/-- DP4.S8 (R113). -/
def execDp4S8 (d a b k : BitVec 6) (s : State) : Out := v4 s d a b k dp4S8
/-- DP4.N8 (R113). -/
def execDp4N8 (d a b k : BitVec 6) (s : State) : Out := v4 s d a b k dp4N8
/-- DP2.S16 (R113). -/
def execDp2S16 (d a b k : BitVec 6) (s : State) : Out := v4 s d a b k dp2S16
/-- IADD.S (R114). -/
def execIaddS (g : BitVec 4) (d a : BitVec 6) (n : BitVec 8) (s : State) : Out := vs s g d a n (· + ·)
/-- IMUL.S (R114). -/
def execImulS (g : BitVec 4) (d a : BitVec 6) (n : BitVec 8) (s : State) : Out := vs s g d a n (· * ·)
/-- IAND.S (R114). -/
def execIandS (g : BitVec 4) (d a : BitVec 6) (n : BitVec 8) (s : State) : Out := vs s g d a n (· &&& ·)
/-- MOV.S (R114): A is no operand. -/
def execMovS (g : BitVec 4) (d : BitVec 6) (n : BitVec 8) (s : State) : Out :=
  vecSc s g n fun _ g _ f => do
    f.chkD d.toNat 1
    return (f.setV d.toNat (g.s n.toNat), 0)

/-- A predicate operation over the active fibres (R115). -/
def predOp (s : State) (d : BitVec 3) (op : Fibre → Bool) : Out :=
  vecAll s fun _ _ _ f => .ok (f.pset d.toNat (op f), 0)
/-- A predicate source with its negate bit (R115). -/
def Fibre.pneg (f : Fibre) (a : BitVec 3) (n : BitVec 1) : Bool := f.pget a.toNat != (n == 1)
/-- PAND (R115). -/
def execPand (d a b : BitVec 3) (n m : BitVec 1) (s : State) : Out := predOp s d fun f => f.pneg a n && f.pneg b m
/-- POR (R115). -/
def execPor (d a b : BitVec 3) (n m : BitVec 1) (s : State) : Out := predOp s d fun f => f.pneg a n || f.pneg b m
/-- PXOR (R115). -/
def execPxor (d a b : BitVec 3) (n m : BitVec 1) (s : State) : Out := predOp s d fun f => f.pneg a n != f.pneg b m
/-- PMOV (R115). -/
def execPmov (d a : BitVec 3) (n : BitVec 1) (s : State) : Out := predOp s d fun f => f.pneg a n

end Sys2Proof.Machine
end

