-- ==== Sys2Proof/Machine/Cross.lean ====
section
/-! DEFINITION. Cross-fibre instructions (R166 to R176). -/
namespace Sys2Proof.Machine

/-- The member set of a cross-fibre instruction (R166). -/
def members (c : Cur) (g : Gang) (k : BitVec 3) : Mask :=
  if k = 7 then c.memb else g.mget k.toNat &&& g.live

/-- A cross-fibre instruction: it waits with WK 0 while a fibre of K is in another batch, else it executes once over K.
A fibre whose own check fails supplies no source (R166, R167). -/
def xf (s : State) (k : BitVec 3) (chk : Fibre → FRes Unit) (body : Cur → (Nat → Bool) → Mask → Body) : Out :=
  withCur s fun c g =>
    let K := members c g k
    if K &&& ~~~c.memb != 0 then waitFor c 0 [k.setWidth 64] s
    else
      let avail := fun j => bit K j && j < g.width && (chk (g.fibre j)).isOk
      vecOver s c g (fibresOf g.width K) fun g i f => do
        chk f
        body c avail K g i f

/-- a of fibre j, or the value an unavailable source reads as. -/
def srcOf (g : Gang) (avail : Nat → Bool) (a : Nat) (dflt : Word) (j : Nat) : Word :=
  if avail j then (g.fibre j).v a else dflt

/-- A shuffle: fibre i reads fibre j, when j is the number of a fibre (R169). -/
def shuffle (s : State) (k : BitVec 3) (d a : BitVec 6) (b : Option (BitVec 6)) (from_ : Nat → Word → Int) : Out :=
  xf s k (fun f => do
      f.chkD d.toNat 1; f.chk a.toNat 1
      match b with
      | some b => f.chk b.toNat 1
      | none => .ok ())
    fun _ avail _ g i f =>
      let j := from_ i (match b with | some b => f.v b.toNat | none => 0)
      .ok (f.setV d.toNat (if 0 ≤ j ∧ j < g.width then srcOf g avail a.toNat 0 j.toNat else 0), 0)

/-- SHFL (R169). -/
def execShfl (k : BitVec 3) (d a b : BitVec 6) (s : State) : Out := shuffle s k d a (some b) fun _ x => (x.toNat : Int)
/-- SHFLX (R169). -/
def execShflx (k : BitVec 3) (d a i : BitVec 6) (s : State) : Out := shuffle s k d a none fun f _ => (f ^^^ i.toNat : Nat)
/-- SHFLU (R169). -/
def execShflu (k : BitVec 3) (d a b : BitVec 6) (s : State) : Out := shuffle s k d a (some b) fun f x => (f : Int) - x.toNat
/-- SHFLD (R169). -/
def execShfld (k : BitVec 3) (d a b : BitVec 6) (s : State) : Out := shuffle s k d a (some b) fun f x => (f : Int) + x.toNat

/-- One level of the tree of R44: neighbours are combined. -/
def pairUp (op : Word → Word → Word × Flags) : List Word → List Word × Flags
  | x :: y :: r =>
    let z := op x y
    let t := pairUp op r
    (z.1 :: t.1, z.2 ||| t.2)
  | r => (r, 0)

/-- The tree of R44; n levels at most. -/
def treeFold (op : Word → Word → Word × Flags) : Nat → List Word → Word × Flags
  | 0, xs => (xs.headD 0, 0)
  | n + 1, xs =>
    let l := pairUp op xs
    let r := treeFold op n l.1
    (r.1, l.2 ||| r.2)

/-- RDX (R44, R170). -/
def rdx (s : State) (k : BitVec 3) (d a : BitVec 6) (ident : Word) (op : Word → Word → Word × Flags) : Out :=
  xf s k (fun f => do f.chkD d.toNat 1; f.chk a.toNat 1) fun _ avail _ g _ f =>
    let r := treeFold op 6 ((List.range g.width).map (srcOf g avail a.toNat ident))
    .ok (f.setV d.toNat r.1, r.2)

/-- RDX.IADD (R170). -/
def execRdxIadd (k : BitVec 3) (d a : BitVec 6) (s : State) : Out := rdx s k d a 0 fun x y => (x + y, 0)
/-- RDX.IMIN.S (R170). -/
def execRdxIminS (k : BitVec 3) (d a : BitVec 6) (s : State) : Out := rdx s k d a 0x7FFFFFFF fun x y => (minS x y, 0)
/-- RDX.IMAX.S (R170). -/
def execRdxImaxS (k : BitVec 3) (d a : BitVec 6) (s : State) : Out := rdx s k d a 0x80000000 fun x y => (maxS x y, 0)
/-- RDX.FADD (R170). -/
def execRdxFadd (k : BitVec 3) (d a : BitVec 6) (s : State) : Out := rdx s k d a 0x80000000 fadd32
/-- RDX.FMIN (R170). -/
def execRdxFmin (k : BitVec 3) (d a : BitVec 6) (s : State) : Out := rdx s k d a nan32 fun x y => (fmin32 x y, 0)
/-- RDX.FMAX (R170). -/
def execRdxFmax (k : BitVec 3) (d a : BitVec 6) (s : State) : Out := rdx s k d a nan32 fun x y => (fmax32 x y, 0)

/-- The inclusive folds of R45, one for each value, with the flags of the steps. -/
def scanFold (op : Word → Word → Word × Flags) (acc : Word) : List Word → List Word × Flags
  | [] => ([], 0)
  | x :: xs =>
    let z := op acc x
    let r := scanFold op z.1 xs
    (z.1 :: r.1, z.2 ||| r.2)

/-- SCAN (R45, R170); the exclusive forms give fibre i the fold up to fibre i - 1. The spec does not say which steps an
exclusive scan performs: the model's choice is every step up to fibre W - 2, so a step sets its flags although no fibre of
K receives its result, and the last fibre's own addition is no step (log 72). -/
def scan (s : State) (k : BitVec 3) (d a : BitVec 6) (excl : Bool) (ident : Word) (op : Word → Word → Word × Flags) : Out :=
  xf s k (fun f => do f.chkD d.toNat 1; f.chk a.toNat 1) fun _ avail _ g i f =>
    let r := scanFold op ident ((List.range (if excl then g.width - 1 else g.width)).map (srcOf g avail a.toNat ident))
    .ok (f.setV d.toNat ((if excl then ident :: r.1 else r.1).getD i 0), r.2)

/-- SCAN.IADD (R170). -/
def execScanIadd (k : BitVec 3) (d a : BitVec 6) (s : State) : Out := scan s k d a false 0 fun x y => (x + y, 0)
/-- SCAN.IADDX (R170). -/
def execScanIaddx (k : BitVec 3) (d a : BitVec 6) (s : State) : Out := scan s k d a true 0 fun x y => (x + y, 0)
/-- SCAN.FADD (R170). -/
def execScanFadd (k : BitVec 3) (d a : BitVec 6) (s : State) : Out := scan s k d a false 0x80000000 fadd32
/-- SCAN.FADDX (R170). -/
def execScanFaddx (k : BitVec 3) (d a : BitVec 6) (s : State) : Out := scan s k d a true 0x80000000 fadd32

/-- MATCH (R171): the fibres of K with an equal word. -/
def execXmatch (k : BitVec 3) (d : BitVec 5) (a : BitVec 6) (s : State) : Out :=
  xf s k (fun f => do f.chkD (pairNo d) 2; f.chk a.toNat 1) fun _ avail K g i f =>
    .ok (f.setV2 (pairNo d) (maskOfList ((fibresOf g.width K).filter fun j =>
      srcOf g avail a.toNat 0 j == srcOf g avail a.toNat 0 i)), 0)

/-- The source of an XSHF for a fibre (R172): the fibre it names and the register A + r there; none where that fibre is
not available. Its own check fails beyond register 63 or the named fibre's allocation. -/
def xshfSrc (g : Gang) (avail : Nat → Bool) (a b : Nat) (f : Fibre) : FRes (Option (Nat × Nat)) :=
  let x := (f.v b).toNat
  let j := x % 64
  let n := a + x / 256 % 64
  if n > 63 then .error (.regRange, 0)
  else if j < g.width && avail j then do
    (g.fibre j).chk n 1
    return some (j, n)
  else .ok none

/-- XSHF (R172): register A + r of fibre j, from that fibre's own window. A fibre that fails its own check of A + r is
unavailable to the others (R167); the check is made against the fibres that pass their other checks (log 72). -/
def execXshf (k : BitVec 3) (d a b : BitVec 6) (s : State) : Out :=
  xf s k (fun f => do f.chkD d.toNat 1; f.chk b.toNat 1) fun _ avail _ g _ f => do
    match ← xshfSrc g avail a.toNat b.toNat f with
    | some (j, n) =>
      let up := (xshfSrc g avail a.toNat b.toNat (g.fibre j)).isOk
      return (f.setV d.toNat (if up then (g.fibre j).v n else 0), 0)
    | none => return (f.setV d.toNat 0, 0)

/-- A vote over K (R173): the predicates of its fibres, and the write of the gang. -/
def vote (s : State) (k : BitVec 3) (a : BitVec 4) (f : Gang → List (Nat × Bool) → Gang) : Out :=
  withCur s fun c g =>
    let K := members c g k
    if K &&& ~~~c.memb != 0 then waitFor c 0 [k.setWidth 64] s
    else
      let xs := (fibresOf g.width K).map fun i => (i, guardOf a (g.fibre i))
      done c (s.modGang c.gid fun g => f g xs)

/-- VOTE.ANY (R173). -/
def execVoteAny (k q : BitVec 3) (a : BitVec 4) (s : State) : Out :=
  vote s k a fun g xs => g.qset q.toNat (xs.any (·.2))
/-- VOTE.ALL (R173). -/
def execVoteAll (k q : BitVec 3) (a : BitVec 4) (s : State) : Out :=
  vote s k a fun g xs => g.qset q.toNat (xs.all (·.2))
/-- VOTE.EQ (R173). -/
def execVoteEq (k q : BitVec 3) (a : BitVec 4) (s : State) : Out :=
  vote s k a fun g xs => g.qset q.toNat (xs.all (·.2) || xs.all (!·.2))
/-- VOTE.BAL (R96, R173). -/
def execVoteBal (k d : BitVec 3) (a : BitVec 4) (s : State) : Out :=
  vote s k a fun g xs => g.mset d.toNat (maskOfList ((xs.filter (·.2)).map (·.1)))

/-- BCAST (R174): the word of the lowest-numbered fibre of K, 0 when K is empty or that fibre is unavailable. -/
def execBcast (k : BitVec 3) (d a : BitVec 6) (s : State) : Out :=
  withCur s fun c g =>
    let K := members c g k
    if K &&& ~~~c.memb != 0 then waitFor c 0 [k.setWidth 64] s
    else
      let fs := fibresOf g.width K
      let bad := fs.filterMap fun i =>
        match (g.fibre i).chk a.toNat 1 with
        | .ok _ => none
        | .error (cause, info) => some { fix := i, cause := cause, addr := 0, info := info : FFault }
      let x := match fs with
        | i :: _ => if (bad.any (·.fix == i)) then 0 else (g.fibre i).v a.toNat
        | [] => 0
      finishFibres c 0 bad
        (if fs.isEmpty || bad.length < fs.length then s.modGang c.gid (·.setS d.toNat x) else s)

/-- The owner of work item w and its number there, from the counts of the fibres (R175). -/
def rbalOf (w j : Nat) : List Nat → Word × Word
  | [] => (0xFFFFFFFF, BitVec.ofNat 32 w)
  | n :: ns => if w < n then (BitVec.ofNat 32 j, BitVec.ofNat 32 w) else rbalOf (w - n) (j + 1) ns

/-- RBAL (R175). -/
def execRbal (k : BitVec 3) (d : BitVec 5) (a b : BitVec 6) (s : State) : Out :=
  xf s k (fun f => do f.chkD (pairNo d) 2; f.chk a.toNat 1; f.chk b.toNat 1) fun _ avail _ g _ f =>
    let cs := (List.range g.width).map fun j => (srcOf g avail a.toNat 0 j).toNat
    let r := rbalOf (f.v b.toNat).toNat 0 cs
    .ok (f.setV2 (pairNo d) (pairOf r.1 r.2), 0)

/-- FIDX (R176). -/
def execFidx (d : BitVec 6) (s : State) : Out :=
  vecAll s fun _ _ i f => do
    f.chkD d.toNat 1
    return (f.setV d.toNat (BitVec.ofNat 32 i), 0)

end Sys2Proof.Machine
end

