-- ==== Sys2Proof/Machine/Float.lean ====
section
/-! DEFINITION. Floating-point and conversion instructions (R123 to R149). -/
namespace Sys2Proof.Machine

/-- A pattern and its flags as a word and its flags. -/
def wordRes (r : Nat × Flags) : Word × Flags := (BitVec.ofNat 32 r.1, r.2)

/-- FADD under a mode (R126). -/
def opFadd (m : RMode) (dr a b : Word) : Word × Flags := wordRes (f32.fadd m dr a.toNat b.toNat)
/-- FSUB. -/
def opFsub (m : RMode) (dr a b : Word) : Word × Flags := wordRes (f32.fsub m dr a.toNat b.toNat)
/-- FMUL. -/
def opFmul (m : RMode) (dr a b : Word) : Word × Flags := wordRes (f32.fmul m dr a.toNat b.toNat)
/-- FDIV. -/
def opFdiv (m : RMode) (dr a b : Word) : Word × Flags := wordRes (f32.fdiv m dr a.toNat b.toNat)
/-- FABD: |a - b|, an exact zero being +0. -/
def opFabd (m : RMode) (dr a b : Word) : Word × Flags := enc32 m dr ((dec32 a).add false (dec32 b).neg).abs
/-- FCSGN: magnitude of a, sign of b. -/
def opFcsgn (a b : Word) : Word := if (dec32 a).isNan then nan32 else withSign a b

/-- FADD (R126). -/
def execFadd (g : BitVec 4) (d a b : BitVec 6) (s : State) : Out := vrRound s g d a b opFadd
/-- FSUB (R126). -/
def execFsub (g : BitVec 4) (d a b : BitVec 6) (s : State) : Out := vrRound s g d a b opFsub
/-- FMUL (R126). -/
def execFmul (g : BitVec 4) (d a b : BitVec 6) (s : State) : Out := vrRound s g d a b opFmul
/-- FDIV (R126). -/
def execFdiv (g : BitVec 4) (d a b : BitVec 6) (s : State) : Out := vrRound s g d a b opFdiv
/-- FMIN (R38, R126). -/
def execFmin (g : BitVec 4) (d a b : BitVec 6) (s : State) : Out := vr s g d a b fmin32
/-- FMAX (R38, R126). -/
def execFmax (g : BitVec 4) (d a b : BitVec 6) (s : State) : Out := vr s g d a b fmax32
/-- FCSGN (R126). -/
def execFcsgn (g : BitVec 4) (d a b : BitVec 6) (s : State) : Out := vr s g d a b opFcsgn
/-- FABD (R126). -/
def execFabd (g : BitVec 4) (d a b : BitVec 6) (s : State) : Out := vrRound s g d a b opFabd

/-- An operation on two 16-bit lanes, lane 0 first, one draw a lane under RS (R127). -/
def pairOp (s : State) (gd : BitVec 4) (d a b : BitVec 6) (op : RMode → Word → Nat → Nat → Nat × Flags) : Out :=
  vecGd s gd fun c g i f => do
    f.chkD d.toNat 1; f.chk a.toNat 1; bChk c f b.toNat 1
    let m := modeOf c
    let x := (f.v a.toNat).toNat
    let y := (bVal c f b.toNat).toNat
    let lo := op m (drawK s g i f 0) (x % 65536) (y % 65536)
    let hi := op m (drawK s g i f 1) (x / 65536) (y / 65536)
    return ((f.drewIf m 2).setV d.toNat (BitVec.ofNat 32 (lo.1 + 65536 * hi.1)), lo.2 ||| hi.2)

/-- HADD2 (R127). -/
def execHadd2 (g : BitVec 4) (d a b : BitVec 6) (s : State) : Out := pairOp s g d a b f16.fadd
/-- HSUB2 (R127). -/
def execHsub2 (g : BitVec 4) (d a b : BitVec 6) (s : State) : Out := pairOp s g d a b f16.fsub
/-- HMUL2 (R127). -/
def execHmul2 (g : BitVec 4) (d a b : BitVec 6) (s : State) : Out := pairOp s g d a b f16.fmul
/-- HMIN2 (R127): the mode changes no lane but RS takes its draws. -/
def execHmin2 (g : BitVec 4) (d a b : BitVec 6) (s : State) : Out := pairOp s g d a b fun _ _ x y => (f16.fminmax false x y, 0)
/-- HMAX2 (R127). -/
def execHmax2 (g : BitVec 4) (d a b : BitVec 6) (s : State) : Out := pairOp s g d a b fun _ _ x y => (f16.fminmax true x y, 0)
/-- BADD2 (R127). -/
def execBadd2 (g : BitVec 4) (d a b : BitVec 6) (s : State) : Out := pairOp s g d a b bf16.fadd
/-- BSUB2 (R127). -/
def execBsub2 (g : BitVec 4) (d a b : BitVec 6) (s : State) : Out := pairOp s g d a b bf16.fsub
/-- BMUL2 (R127). -/
def execBmul2 (g : BitVec 4) (d a b : BitVec 6) (s : State) : Out := pairOp s g d a b bf16.fmul
/-- BMIN2 (R127). -/
def execBmin2 (g : BitVec 4) (d a b : BitVec 6) (s : State) : Out := pairOp s g d a b fun _ _ x y => (bf16.fminmax false x y, 0)
/-- BMAX2 (R127). -/
def execBmax2 (g : BitVec 4) (d a b : BitVec 6) (s : State) : Out := pairOp s g d a b fun _ _ x y => (bf16.fminmax true x y, 0)

/-- The exact value of a fused form (R128): np negates the product, nc the addend, nr the sum. -/
def fused (rd np nc nr : Bool) (x y z : Ex) : Ex :=
  let p := x.mul y
  let p := if np then p.neg else p
  let z := if nc then z.neg else z
  let r := p.add rd z
  if nr then r.neg else r

/-- A fused multiply-add on single registers, rounded once (R128). -/
def fma4 (s : State) (d a b k : BitVec 6) (np nc nr : Bool) : Out :=
  vecHg s fun c g i f => do
    f.chkD d.toNat 1; f.chk a.toNat 1; bChk c f b.toNat 1; f.chk k.toNat 1
    let m := modeOf c
    let r := enc32 m (drawOf s g i f)
      (fused (m = .rd) np nc nr (dec32 (f.v a.toNat)) (dec32 (bVal c f b.toNat)) (dec32 (f.v k.toNat)))
    return ((f.drewIf m 1).setV d.toNat r.1, r.2)

/-- FFMA (R128). -/
def execFfma (d a b k : BitVec 6) (s : State) : Out := fma4 s d a b k false false false
/-- FFMS (R128). -/
def execFfms (d a b k : BitVec 6) (s : State) : Out := fma4 s d a b k false true false
/-- FFNMA (R128). -/
def execFfnma (d a b k : BitVec 6) (s : State) : Out := fma4 s d a b k false false true
/-- FFNMS (R128). -/
def execFfnms (d a b k : BitVec 6) (s : State) : Out := fma4 s d a b k true false false

/-- A fused multiply-add in two 16-bit lanes (R129, FN 0 and 1). -/
def pairFma (s : State) (fm : Fmt) (d a b k : BitVec 6) : Out :=
  vecHg s fun c g i f => do
    f.chkD d.toNat 1; f.chk a.toNat 1; bChk c f b.toNat 1; f.chk k.toNat 1
    let m := modeOf c
    let x := (f.v a.toNat).toNat
    let y := (bVal c f b.toNat).toNat
    let z := (f.v k.toNat).toNat
    let lane := fun (dr : Word) (x y z : Nat) =>
      fm.arith m dr (fused (m = .rd) false false false (fm.decode x) (fm.decode y) (fm.decode z))
    let lo := lane (drawK s g i f 0) (x % 65536) (y % 65536) (z % 65536)
    let hi := lane (drawK s g i f 1) (x / 65536) (y / 65536) (z / 65536)
    return ((f.drewIf m 2).setV d.toNat (BitVec.ofNat 32 (lo.1 + 65536 * hi.1)), lo.2 ||| hi.2)

/-- Infinities of opposite signs. -/
def Ex.opposed : Ex → Ex → Bool
  | .inf s, .inf t => s != t
  | _, _ => false

/-- The exact sum of two products and an addend (R43, R129): infinite products of opposite signs, or an infinite product
opposed by an infinite addend, give NaN with INV whatever the third term is. -/
def dotSum (rd : Bool) (p q k : Ex) : Ex :=
  if p.opposed q || p.opposed k || q.opposed k then .nan true else (p.add rd q).add rd k

/-- Both products and an F32 addend, summed exactly and rounded once (R129, FN 2 and 3). -/
def dotFma (s : State) (fm : Fmt) (d a b k : BitVec 6) : Out :=
  vecHg s fun c g i f => do
    f.chkD d.toNat 1; f.chk a.toNat 1; bChk c f b.toNat 1; f.chk k.toNat 1
    let m := modeOf c
    let x := (f.v a.toNat).toNat
    let y := (bVal c f b.toNat).toNat
    let rd := decide (m = .rd)
    let p0 := (fm.decode (x % 65536)).mul (fm.decode (y % 65536))
    let p1 := (fm.decode (x / 65536)).mul (fm.decode (y / 65536))
    let r := enc32 m (drawOf s g i f) (dotSum rd p0 p1 (dec32 (f.v k.toNat)))
    return ((f.drewIf m 1).setV d.toNat r.1, r.2)

/-- HFMA2 (R129). -/
def execHfma2 (d a b k : BitVec 6) (s : State) : Out := pairFma s f16 d a b k
/-- BFMA2 (R129). -/
def execBfma2 (d a b k : BitVec 6) (s : State) : Out := pairFma s bf16 d a b k
/-- HFMA2.F32 (R43, R129). -/
def execHfma2F32 (d a b k : BitVec 6) (s : State) : Out := dotFma s f16 d a b k
/-- BFMA2.F32 (R43, R129). -/
def execBfma2F32 (d a b k : BitVec 6) (s : State) : Out := dotFma s bf16 d a b k

/-- FCMP (R131). -/
def execFcmp (cc : BitVec 4) (p q : BitVec 3) (a b : BitVec 6) (s : State) : Out :=
  vecHg s fun c _ _ f => do
    f.chk a.toNat 1; bChk c f b.toNat 1
    return (f.setPP p q (cmpFloat cc.toNat (f.v a.toNat) (bVal c f b.toNat)), 0)

/-- FRCP (R138, R144). -/
def execFrcp (g : BitVec 4) (d a : BitVec 6) (s : State) : Out := vu s g d a frcp32
/-- FRSQ (R139, R144). -/
def execFrsq (g : BitVec 4) (d a : BitVec 6) (s : State) : Out := vu s g d a frsq32
/-- FSQRT (R133), the one FSPEC code that accepts RND. -/
def execFsqrt (g : BitVec 4) (d a : BitVec 6) (s : State) : Out :=
  vecGd s g fun c g i f => do
    f.chkD d.toNat 1; f.chk a.toNat 1
    let m := modeOf c
    let r := fsqrt32 m (drawOf s g i f) (f.v a.toNat)
    return ((f.drewIf m 1).setV d.toNat r.1, r.2)
/-- FEX2 (R140, R144). -/
def execFex2 (g : BitVec 4) (d a : BitVec 6) (s : State) : Out := vu s g d a fex232
/-- FLG2 (R141, R144). -/
def execFlg2 (g : BitVec 4) (d a : BitVec 6) (s : State) : Out := vu s g d a flg232
/-- FSIN (R142, R144). -/
def execFsin (g : BitVec 4) (d a : BitVec 6) (s : State) : Out := vu s g d a fsin32
/-- FCOS (R142, R144). -/
def execFcos (g : BitVec 4) (d a : BitVec 6) (s : State) : Out := vu s g d a fcos32
/-- FTANH (R143, R144). -/
def execFtanh (g : BitVec 4) (d a : BitVec 6) (s : State) : Out := vu s g d a ftanh32
/-- FRND.RN (R134). -/
def execFrndRn (g : BitVec 4) (d a : BitVec 6) (s : State) : Out := vu s g d a fun x => (frnd32 .rn x, 0)
/-- FRND.RZ (R134). -/
def execFrndRz (g : BitVec 4) (d a : BitVec 6) (s : State) : Out := vu s g d a fun x => (frnd32 .rz x, 0)
/-- FRND.RU (R134). -/
def execFrndRu (g : BitVec 4) (d a : BitVec 6) (s : State) : Out := vu s g d a fun x => (frnd32 .ru x, 0)
/-- FRND.RD (R134). -/
def execFrndRd (g : BitVec 4) (d a : BitVec 6) (s : State) : Out := vu s g d a fun x => (frnd32 .rd x, 0)
/-- FCLASS (R135). -/
def execFclass (g : BitVec 4) (d a : BitVec 6) (s : State) : Out := vu s g d a fun x => (fclass32 x, 0)
/-- FLDEXP (R136). -/
def execFldexp (g : BitVec 4) (d a b : BitVec 6) (s : State) : Out := vr s g d a b fun x n => ldexp32 x n.toInt
/-- FFREXP.M (R136): m with 0.5 <= |m| < 1. -/
def frexpM (a : Word) : Word :=
  match dec32 a with
  | .nan _ => nan32
  | .val _ _ _ _ => ldexp32 (split32 a).1 (-1)
  | _ => a
/-- FFREXP.E (R136). -/
def frexpE (a : Word) : Word :=
  match dec32 a with
  | .val _ _ _ _ => wordOfInt ((split32 a).2 + 1)
  | _ => 0
/-- FFREXP.M (R136). -/
def execFfrexpM (g : BitVec 4) (d a : BitVec 6) (s : State) : Out := vu s g d a fun x => (frexpM x, 0)
/-- FFREXP.E (R136). -/
def execFfrexpE (g : BitVec 4) (d a : BitVec 6) (s : State) : Out := vu s g d a fun x => (frexpE x, 0)

/-- A vector-scalar operation that rounds (R130). -/
def vsRound (s : State) (gd : BitVec 4) (d a : BitVec 6) (n : BitVec 8)
    (op : RMode → Word → Word → Word → Word × Flags) : Out :=
  vecSc s gd n fun c g i f => do
    f.chkD d.toNat 1; f.chk a.toNat 1
    let m := modeOf c
    let r := op m (drawOf s g i f) (f.v a.toNat) (g.s n.toNat)
    return ((f.drewIf m 1).setV d.toNat r.1, r.2)
/-- FADD.S (R130). -/
def execFaddS (g : BitVec 4) (d a : BitVec 6) (n : BitVec 8) (s : State) : Out := vsRound s g d a n opFadd
/-- FMUL.S (R130). -/
def execFmulS (g : BitVec 4) (d a : BitVec 6) (n : BitVec 8) (s : State) : Out := vsRound s g d a n opFmul
/-- FMAX.S (R130). -/
def execFmaxS (g : BitVec 4) (d a : BitVec 6) (n : BitVec 8) (s : State) : Out := vs s g d a n fmax32
/-- FMIN.S (R130). -/
def execFminS (g : BitVec 4) (d a : BitVec 6) (n : BitVec 8) (s : State) : Out := vs s g d a n fmin32

/-- A CVT conversion (R79, R147, R148): registers of source and destination, elements, their widths as they are packed,
whether an element takes a draw under RS, and the conversion of one element. -/
structure CvtSpec where
  ns : Nat
  nd : Nat
  n : Nat
  sw : Nat
  dw : Nat
  draws : Bool
  f : RMode → Word → Nat → Nat × Flags

/-- An element widened to F32 (class W). -/
def cvtW (code : Nat) : RMode → Word → Nat → Nat × Flags := fun _ _ x => let r := widen code x; (r.1.toNat, r.2)
/-- A float narrowed into a float format (class F). -/
def cvtF (src dst : Fmt) : RMode → Word → Nat → Nat × Flags := fun m dr x => dst.narrow m .conv dr (src.decode x)
/-- An F32 converted to an integer of a range, in w bits of the register (class I). -/
def cvtI (lo hi : Int) (w : Nat) : RMode → Word → Nat → Nat × Flags := fun m dr x =>
  let r := (f32.decode x).toInt lo hi m .conv dr
  ((BitVec.ofInt w r.1).toNat, r.2)
/-- An integer converted to F32 (class G). -/
def cvtG (v : Nat → Int) : RMode → Word → Nat → Nat × Flags := fun m dr x => f32.narrow m .conv dr (.ofInt (v x))
/-- An S32 clamped into an integer range (class N). -/
def cvtN (lo hi : Int) (w : Nat) : RMode → Word → Nat → Nat × Flags := fun _ _ x =>
  let r := clampInt lo hi (sInt 32 x)
  ((BitVec.ofInt w r.1).toNat, r.2)
/-- An S8 mapped to a T2 code, with SAT above magnitude 1 (R147). -/
def cvtT2 : RMode → Word → Nat → Nat × Flags := fun _ _ x =>
  let v := sInt 8 x
  (if v > 0 then 1 else if v < 0 then 3 else 0, flagIf (v.natAbs > 1) fSAT)
/-- A T2 code to S8 (R28). -/
def cvtFromT2 : RMode → Word → Nat → Nat × Flags := fun _ _ x => let r := t2Val x; ((BitVec.ofInt 8 r.1).toNat, r.2)

/-- The conversion a code names. -/
def cvtSpec (code : Nat) : CvtSpec :=
  match code with
  | 0x01 => ⟨1, 1, 1, 16, 32, false, cvtW 2⟩
  | 0x02 => ⟨1, 1, 1, 16, 32, false, cvtW 3⟩
  | 0x03 => ⟨1, 1, 1, 8, 32, false, cvtW 4⟩
  | 0x04 => ⟨1, 1, 1, 8, 32, false, cvtW 5⟩
  | 0x05 => ⟨1, 1, 1, 32, 16, true, cvtF f32 f16⟩
  | 0x06 => ⟨1, 1, 1, 32, 16, true, cvtF f32 bf16⟩
  | 0x07 => ⟨1, 1, 1, 32, 8, true, cvtF f32 f8a⟩
  | 0x08 => ⟨1, 1, 1, 32, 8, true, cvtF f32 f8b⟩
  | 0x09 => ⟨2, 1, 2, 32, 16, true, cvtF f32 f16⟩
  | 0x0A => ⟨2, 1, 2, 32, 16, true, cvtF f32 bf16⟩
  | 0x0B => ⟨4, 1, 4, 32, 8, true, cvtF f32 f8a⟩
  | 0x0C => ⟨4, 1, 4, 32, 8, true, cvtF f32 f8b⟩
  | 0x0D => ⟨1, 2, 2, 16, 32, false, cvtW 2⟩
  | 0x0E => ⟨1, 2, 2, 16, 32, false, cvtW 3⟩
  | 0x0F => ⟨1, 4, 4, 8, 32, false, cvtW 4⟩
  | 0x10 => ⟨1, 4, 4, 8, 32, false, cvtW 5⟩
  | 0x11 => ⟨1, 1, 1, 32, 32, true, cvtI (-2147483648) 2147483647 32⟩
  | 0x12 => ⟨1, 1, 1, 32, 32, true, cvtI 0 4294967295 32⟩
  | 0x13 => ⟨1, 1, 1, 32, 32, true, cvtG (sInt 32)⟩
  | 0x14 => ⟨1, 1, 1, 32, 32, true, cvtG (fun x => (x : Int))⟩
  | 0x15 => ⟨1, 2, 1, 32, 64, true, cvtI (-9223372036854775808) 9223372036854775807 64⟩
  | 0x16 => ⟨2, 1, 1, 64, 32, true, cvtG (sInt 64)⟩
  | 0x17 => ⟨1, 1, 1, 32, 32, true, cvtI (-32768) 32767 32⟩
  | 0x18 => ⟨1, 1, 1, 32, 32, true, cvtI (-128) 127 32⟩
  | 0x19 => ⟨1, 1, 1, 32, 32, true, cvtI 0 255 32⟩
  | 0x1A => ⟨4, 1, 4, 32, 8, false, cvtN (-128) 127 8⟩
  | 0x1B => ⟨4, 1, 4, 32, 8, false, cvtN 0 255 8⟩
  | 0x1C => ⟨1, 4, 4, 8, 32, false, fun _ _ x => ((wordOfInt (sInt 8 x)).toNat, 0)⟩
  | 0x1D => ⟨2, 1, 2, 32, 16, false, cvtN (-32768) 32767 16⟩
  | 0x1E => ⟨4, 1, 16, 8, 2, false, cvtT2⟩
  | 0x1F => ⟨1, 4, 16, 2, 8, false, cvtFromT2⟩
  | 0x20 => ⟨1, 1, 1, 16, 16, true, cvtF bf16 f16⟩
  | _ => ⟨1, 1, 1, 16, 16, true, cvtF f16 bf16⟩

/-- The number that consecutive registers hold, the first lowest (R3). -/
def packWords (f : Fibre) (n : Nat) : Nat → Nat
  | 0 => 0
  | k + 1 => (f.v n).toNat + 4294967296 * packWords f (n + 1) k
/-- A number as k words, the lowest first. -/
def unpackWords (x : Nat) : Nat → List Word
  | 0 => []
  | k + 1 => BitVec.ofNat 32 x :: unpackWords (x / 4294967296) k

/-- The elements of a conversion in ascending order, with the flags they set (R148). -/
def cvtElems (sp : CvtSpec) (m : RMode) (dr : Nat → Word) (src : Nat) : Nat → Nat × Flags
  | 0 => (0, 0)
  | k + 1 =>
    let r := cvtElems sp m dr src k
    let e := sp.f m (dr k) (src / 2 ^ (sp.sw * k) % 2 ^ sp.sw)
    (r.1 + e.1 * 2 ^ (sp.dw * k), r.2 ||| e.2)

/-- CVT (R146 to R148): B holds the code and FN the mode. -/
def execCvt (g : BitVec 4) (d a b : BitVec 6) (r : BitVec 4) (s : State) : Out :=
  vecGd s g fun _ g i f => do
    let sp := cvtSpec b.toNat
    f.chkD d.toNat sp.nd; f.chk a.toNat sp.ns
    let m := rmode r.toNat
    let x := cvtElems sp m (drawK s g i f) (packWords f a.toNat sp.ns) sp.n
    return ((if sp.draws then f.drewIf m sp.n else f).setVs d.toNat (unpackWords x.1 sp.nd), x.2)

end Sys2Proof.Machine
end

