-- ==== Sys2Proof/Machine/Scalar.lean ====
section
/-! DEFINITION. Scalar, mask and uniform-predicate instructions (R116 to R121). -/
namespace Sys2Proof.Machine

/-- SADD (R117). -/
def execSadd (d a b : BitVec 8) (s : State) : Out := sr s d a b (· + ·)
/-- SSUB (R117). -/
def execSsub (d a b : BitVec 8) (s : State) : Out := sr s d a b (· - ·)
/-- SMUL (R117). -/
def execSmul (d a b : BitVec 8) (s : State) : Out := sr s d a b (· * ·)
/-- SMULH.N (R117). -/
def execSmulhN (d a b : BitVec 8) (s : State) : Out := sr s d a b mulhN
/-- SAND (R117). -/
def execSand (d a b : BitVec 8) (s : State) : Out := sr s d a b (· &&& ·)
/-- SOR (R117). -/
def execSor (d a b : BitVec 8) (s : State) : Out := sr s d a b (· ||| ·)
/-- SXOR (R117). -/
def execSxor (d a b : BitVec 8) (s : State) : Out := sr s d a b (· ^^^ ·)
/-- SANDN (R117). -/
def execSandn (d a b : BitVec 8) (s : State) : Out := sr s d a b fun x y => x &&& ~~~y
/-- SSHL (R117). -/
def execSshl (d a b : BitVec 8) (s : State) : Out := sr s d a b fun x y => shl32 x y.toNat
/-- SSHR (R117). -/
def execSshr (d a b : BitVec 8) (s : State) : Out := sr s d a b fun x y => shr32 x y.toNat
/-- SSHA (R117). -/
def execSsha (d a b : BitVec 8) (s : State) : Out := sr s d a b fun x y => sha32 x y.toNat
/-- SROT (R117). -/
def execSrot (d a b : BitVec 8) (s : State) : Out := sr s d a b fun x y => rot32 x y.toNat
/-- SMIN.S (R117). -/
def execSminS (d a b : BitVec 8) (s : State) : Out := sr s d a b minS
/-- SMIN.N (R117). -/
def execSminN (d a b : BitVec 8) (s : State) : Out := sr s d a b minN
/-- SMAX.S (R117). -/
def execSmaxS (d a b : BitVec 8) (s : State) : Out := sr s d a b maxS
/-- SMAX.N (R117). -/
def execSmaxN (d a b : BitVec 8) (s : State) : Out := sr s d a b maxN
/-- SADD.64 (R118). -/
def execSadd64 (d a b : BitVec 7) (s : State) : Out := sr64 s d a b (· + ·)
/-- SSUB.64 (R118). -/
def execSsub64 (d a b : BitVec 7) (s : State) : Out := sr64 s d a b (· - ·)
/-- SMOV (R118). -/
def execSmov (d a : BitVec 8) (s : State) : Out :=
  uni s (fun _ => [(a.toNat, 1)]) fun _ g => g.setS d.toNat (g.s a.toNat)
/-- SSEL (R118): a if Q0 is 1, else b. -/
def execSsel (d a b : BitVec 8) (s : State) : Out :=
  uni s (fun c => (a.toNat, 1) :: sBsrc c b.toNat 1) fun c g =>
    g.setS d.toNat (if g.qget 0 then g.s a.toNat else sB c g b.toNat)
/-- The condition of SCMP (R119): codes 10 and 11 compare pairs, 12 is TST. -/
def scmpCond (c : Cur) (g : Gang) (cc a b : Nat) : Bool :=
  if cc = 10 then cmpDWord 10 (g.s2 a) (sB2 c g b)
  else if cc = 11 then cmpDWord 13 (g.s2 a) (sB2 c g b)
  else cmpWord (if cc = 12 then 14 else cc) (g.s a) (sB c g b)
/-- SCMP (R119): Qd receives the condition and Qc its complement. -/
def execScmp (cc : BitVec 4) (p q : BitVec 3) (a b : BitVec 8) (s : State) : Out :=
  let n := if cc = 10 ∨ cc = 11 then 2 else 1
  uni s (fun c => (a.toNat, n) :: sBsrc c b.toNat n) fun c g =>
    let x := scmpCond c g cc.toNat a.toNat b.toNat
    (g.qset p.toNat x).qset q.toNat (!x)
/-- SADDI (R120). -/
def execSaddi (d a : BitVec 8) (i : BitVec 10) (s : State) : Out :=
  uni s (fun _ => [(a.toNat, 1)]) fun c g => g.setS d.toNat (g.s a.toNat + immVI c true i)
/-- SMOVI (R120). -/
def execSmovi (d : BitVec 8) (i : BitVec 18) (s : State) : Out :=
  uni s (fun _ => []) fun _ g => g.setS d.toNat (i.signExtend 32)
/-- SMOVH (R120): bits 31:14 of D are replaced. -/
def execSmovh (d : BitVec 8) (i : BitVec 18) (s : State) : Out :=
  uni s (fun _ => [(d.toNat, 1)]) fun _ g => g.setS d.toNat (g.s d.toNat &&& 0x3FFF ||| i.setWidth 32 <<< 14)

/-- A MASK word that reads no S register. -/
def mk (s : State) (f : Gang → Gang) : Out := uni s (fun _ => []) fun _ g => f g

/-- MAND (R121). -/
def execMand (d a b : BitVec 3) (s : State) : Out := mk s fun g => g.mset d.toNat (g.mget a.toNat &&& g.mget b.toNat)
/-- MOR (R121). -/
def execMor (d a b : BitVec 3) (s : State) : Out := mk s fun g => g.mset d.toNat (g.mget a.toNat ||| g.mget b.toNat)
/-- MXOR (R121). -/
def execMxor (d a b : BitVec 3) (s : State) : Out := mk s fun g => g.mset d.toNat (g.mget a.toNat ^^^ g.mget b.toNat)
/-- MANDN (R121). -/
def execMandn (d a b : BitVec 3) (s : State) : Out := mk s fun g => g.mset d.toNat (g.mget a.toNat &&& ~~~g.mget b.toNat)
/-- MNOT (R121). -/
def execMnot (d a : BitVec 3) (s : State) : Out := mk s fun g => g.mset d.toNat (~~~g.mget a.toNat)
/-- MPOPC (R121). -/
def execMpopc (a : BitVec 3) (n : BitVec 8) (s : State) : Out :=
  mk s fun g => g.setS n.toNat (BitVec.ofNat 32 (popBits (g.mget a.toNat).toNat 64))
/-- MFFS (R121): 64 when the mask is 0. -/
def execMffs (a : BitVec 3) (n : BitVec 8) (s : State) : Out :=
  mk s fun g => g.setS n.toNat (BitVec.ofNat 32 ((fibresOf 64 (g.mget a.toNat)).headD 64))
/-- MTOS (R121). -/
def execMtos (a : BitVec 3) (n : BitVec 7) (s : State) : Out := mk s fun g => g.setS2 (pairNo n) (g.mget a.toNat)
/-- STOM (R121). -/
def execStom (d : BitVec 3) (n : BitVec 7) (s : State) : Out :=
  uni s (fun _ => [(pairNo n, 2)]) fun _ g => g.mset d.toNat (g.s2 (pairNo n))
/-- MQ (R121). -/
def execMq (d a b : BitVec 3) (s : State) : Out :=
  mk s fun g => g.qset d.toNat (g.mget a.toNat &&& g.mget b.toNat != 0)
/-- QAND (R121). -/
def execQand (d a b : BitVec 3) (s : State) : Out := mk s fun g => g.qset d.toNat (g.qget a.toNat && g.qget b.toNat)
/-- QOR (R121). -/
def execQor (d a b : BitVec 3) (s : State) : Out := mk s fun g => g.qset d.toNat (g.qget a.toNat || g.qget b.toNat)
/-- QNOT (R121). -/
def execQnot (d a : BitVec 3) (s : State) : Out := mk s fun g => g.qset d.toNat (!g.qget a.toNat)

end Sys2Proof.Machine
end

