-- ==== Sys2Proof/Machine/Trap.lean ====
section
/-! DEFINITION. TRET, the return from a trap (R165, R258, R400, R403). Taking a trap is State.takeTrap of Machine/Ops. -/
namespace Sys2Proof.Machine

/-- The fibres of the trap batch that stand at a TRET beside the issuing batch, and the greatest action (R403). -/
def Gang.tretGroup (g : Gang) (c : Cur) (a : Nat) : Nat × Mask :=
  g.batches.foldl (fun r b => match b.st, b.cap with
    | .waiting 0, [k, n] => if k = 8 && g.inTrap b.memb then (max r.1 n.toNat, r.2 ||| b.memb) else r
    | _, _ => r) (a, c.memb)

/-- The trap is no longer active: its fibres are in no batch. -/
def Gang.leaveTrap (g : Gang) (t : Trap) : Gang := { (g.unbatch t.bmask) with trap := none }

/-- Placing the groups of fibres that completed the faulting unit. -/
def Gang.placeAll (g : Gang) (gs : List (DWord × Mask)) : Gang := gs.foldl (fun g e => g.place e.1 e.2) g

/-- The oldest pending trap becomes active (R400). -/
def Gang.nextTrap (g : Gang) : Gang :=
  match g.pending with
  | t :: ts => if g.exited || g.trap.isSome then g else ({ g with pending := ts } : Gang).activate t
  | [] => g

/-- A turn held open by the unit that faulted is complete once TRET does not execute the unit again (R237). -/
def State.closeTurn (s : State) (g : Gang) (pc : DWord) : State :=
  match g.openTurn with
  | some (q, u) => if u = pc then s.takeTurn g q else s
  | none => s

/-- TRET's action on a trap that a unit raised (R165). -/
def State.tretUnit (s : State) (g : Gang) (t : Trap) (action : Nat) : State :=
  let pc := s.textOf g + t.tepc.setWidth 64
  let s := s.modGang g.gid fun g => (g.leaveTrap t).placeAll t.good
  match action with
  | 0 => s.modGang g.gid (·.place pc t.tmask)
  | 1 => (s.closeTurn g pc).modGang g.gid (·.place t.skip t.tmask)
  | _ => (s.closeTurn g pc).killFibres g.gid t.tmask

/-- TRET's action on a held engine fault (R165, R258): retry and skip act on the command, and the batch executes again
the unit of the delivery. -/
def State.tretHeld (s : State) (g : Gang) (t : Trap) (h : Held) (action : Nat) : State :=
  let s := s.settleHeld h (action == 0)
  let s := s.modGang g.gid fun g => g.leaveTrap t
  if action ≤ 1 then s.modGang g.gid (·.place t.skip t.bmask) else s.killFibres g.gid t.bmask

/-- TRET (R165, R403): it gathers the trap batch, acts, and lets the oldest pending trap become active. -/
def execTret (a : BitVec 2) (s : State) : Out :=
  withCur s fun c g =>
    match (if g.inTrap c.memb then g.trap else none) with
    | none => trapIllegal c g c.main s
    | some t =>
      let r := g.tretGroup c a.toNat
      if t.bmask &&& g.live &&& ~~~r.2 ≠ 0 then waitFor c 0 [8, a.setWidth 64] s
      else if r.1 = 3 then .next ((s.killGang c.gid).settle c.gid)
      else
        let s := match t.held with
          | some h => s.tretHeld g t h r.1
          | none => s.tretUnit g t r.1
        .next ((s.modGang c.gid Gang.nextTrap).settle c.gid)

end Sys2Proof.Machine
end

