-- ==== Sys2Proof/Machine/Dispatch.lean ====
section
/-! DEFINITION. One arm for each constructor of Instr: a direct call of its meaning. -/
namespace Sys2Proof.Machine

def exec (i : Instr) (s : State) : Host.Outcome State Fault Refusal :=
  match i with
  | .nop => Sys2Proof.Machine.execNop s
  | .exit => Sys2Proof.Machine.execExit s
  | .yield => Sys2Proof.Machine.execYield s
  | .waitb m => Sys2Proof.Machine.execWaitb m s
  | .bkpt c => Sys2Proof.Machine.execBkpt c s
  | .trap c => Sys2Proof.Machine.execTrap c s
  | .tret a => Sys2Proof.Machine.execTret a s
  | .iadd g d a b => Sys2Proof.Machine.execIadd g d a b s
  | .isub g d a b => Sys2Proof.Machine.execIsub g d a b s
  | .imul g d a b => Sys2Proof.Machine.execImul g d a b s
  | .imulhS g d a b => Sys2Proof.Machine.execImulhS g d a b s
  | .imulhN g d a b => Sys2Proof.Machine.execImulhN g d a b s
  | .iand g d a b => Sys2Proof.Machine.execIand g d a b s
  | .ior g d a b => Sys2Proof.Machine.execIor g d a b s
  | .ixor g d a b => Sys2Proof.Machine.execIxor g d a b s
  | .iandn g d a b => Sys2Proof.Machine.execIandn g d a b s
  | .shl g d a b => Sys2Proof.Machine.execShl g d a b s
  | .shr g d a b => Sys2Proof.Machine.execShr g d a b s
  | .sha g d a b => Sys2Proof.Machine.execSha g d a b s
  | .iminS g d a b => Sys2Proof.Machine.execIminS g d a b s
  | .iminN g d a b => Sys2Proof.Machine.execIminN g d a b s
  | .imaxS g d a b => Sys2Proof.Machine.execImaxS g d a b s
  | .imaxN g d a b => Sys2Proof.Machine.execImaxN g d a b s
  | .iadd64 g d a b => Sys2Proof.Machine.execIadd64 g d a b s
  | .isub64 g d a b => Sys2Proof.Machine.execIsub64 g d a b s
  | .shl64 g d a b => Sys2Proof.Machine.execShl64 g d a b s
  | .shr64 g d a b => Sys2Proof.Machine.execShr64 g d a b s
  | .sha64 g d a b => Sys2Proof.Machine.execSha64 g d a b s
  | .iabs g d a => Sys2Proof.Machine.execIabs g d a s
  | .ineg g d a => Sys2Proof.Machine.execIneg g d a s
  | .popc g d a => Sys2Proof.Machine.execPopc g d a s
  | .clz g d a => Sys2Proof.Machine.execClz g d a s
  | .brev g d a => Sys2Proof.Machine.execBrev g d a s
  | .bfxN g d a b => Sys2Proof.Machine.execBfxN g d a b s
  | .bfxS g d a b => Sys2Proof.Machine.execBfxS g d a b s
  | .prmt g d a b => Sys2Proof.Machine.execPrmt g d a b s
  | .isad g d a b => Sys2Proof.Machine.execIsad g d a b s
  | .mov g d a => Sys2Proof.Machine.execMov g d a s
  | .sel g d a b => Sys2Proof.Machine.execSel g d a b s
  | .iaddi g d a xi => Sys2Proof.Machine.execIaddi g d a xi s
  | .iandi g d a xi => Sys2Proof.Machine.execIandi g d a xi s
  | .iori g d a xi => Sys2Proof.Machine.execIori g d a xi s
  | .ixori g d a xi => Sys2Proof.Machine.execIxori g d a xi s
  | .ishiShl g d a xi => Sys2Proof.Machine.execIshiShl g d a xi s
  | .ishiShr g d a xi => Sys2Proof.Machine.execIshiShr g d a xi s
  | .ishiSha g d a xi => Sys2Proof.Machine.execIshiSha g d a xi s
  | .ishiRot g d a xi => Sys2Proof.Machine.execIshiRot g d a xi s
  | .imovi g d xi => Sys2Proof.Machine.execImovi g d xi s
  | .icmp c p q a b => Sys2Proof.Machine.execIcmp c p q a b s
  | .imad d a b c => Sys2Proof.Machine.execImad d a b c s
  | .imadhS d a b c => Sys2Proof.Machine.execImadhS d a b c s
  | .imadhN d a b c => Sys2Proof.Machine.execImadhN d a b c s
  | .imadW d a b c => Sys2Proof.Machine.execImadW d a b c s
  | .bfi d a b c => Sys2Proof.Machine.execBfi d a b c s
  | .dp4S8 d a b c => Sys2Proof.Machine.execDp4S8 d a b c s
  | .dp4N8 d a b c => Sys2Proof.Machine.execDp4N8 d a b c s
  | .dp2S16 d a b c => Sys2Proof.Machine.execDp2S16 d a b c s
  | .fadd g d a b => Sys2Proof.Machine.execFadd g d a b s
  | .fsub g d a b => Sys2Proof.Machine.execFsub g d a b s
  | .fmul g d a b => Sys2Proof.Machine.execFmul g d a b s
  | .fdiv g d a b => Sys2Proof.Machine.execFdiv g d a b s
  | .fmin g d a b => Sys2Proof.Machine.execFmin g d a b s
  | .fmax g d a b => Sys2Proof.Machine.execFmax g d a b s
  | .fcsgn g d a b => Sys2Proof.Machine.execFcsgn g d a b s
  | .fabd g d a b => Sys2Proof.Machine.execFabd g d a b s
  | .hadd2 g d a b => Sys2Proof.Machine.execHadd2 g d a b s
  | .hsub2 g d a b => Sys2Proof.Machine.execHsub2 g d a b s
  | .hmul2 g d a b => Sys2Proof.Machine.execHmul2 g d a b s
  | .hmin2 g d a b => Sys2Proof.Machine.execHmin2 g d a b s
  | .hmax2 g d a b => Sys2Proof.Machine.execHmax2 g d a b s
  | .badd2 g d a b => Sys2Proof.Machine.execBadd2 g d a b s
  | .bsub2 g d a b => Sys2Proof.Machine.execBsub2 g d a b s
  | .bmul2 g d a b => Sys2Proof.Machine.execBmul2 g d a b s
  | .bmin2 g d a b => Sys2Proof.Machine.execBmin2 g d a b s
  | .bmax2 g d a b => Sys2Proof.Machine.execBmax2 g d a b s
  | .ffma d a b c => Sys2Proof.Machine.execFfma d a b c s
  | .ffms d a b c => Sys2Proof.Machine.execFfms d a b c s
  | .ffnma d a b c => Sys2Proof.Machine.execFfnma d a b c s
  | .ffnms d a b c => Sys2Proof.Machine.execFfnms d a b c s
  | .hfma2 d a b c => Sys2Proof.Machine.execHfma2 d a b c s
  | .bfma2 d a b c => Sys2Proof.Machine.execBfma2 d a b c s
  | .hfma2F32 d a b c => Sys2Proof.Machine.execHfma2F32 d a b c s
  | .bfma2F32 d a b c => Sys2Proof.Machine.execBfma2F32 d a b c s
  | .fcmp c p q a b => Sys2Proof.Machine.execFcmp c p q a b s
  | .frcp g d a => Sys2Proof.Machine.execFrcp g d a s
  | .frsq g d a => Sys2Proof.Machine.execFrsq g d a s
  | .fsqrt g d a => Sys2Proof.Machine.execFsqrt g d a s
  | .fex2 g d a => Sys2Proof.Machine.execFex2 g d a s
  | .flg2 g d a => Sys2Proof.Machine.execFlg2 g d a s
  | .fsin g d a => Sys2Proof.Machine.execFsin g d a s
  | .fcos g d a => Sys2Proof.Machine.execFcos g d a s
  | .ftanh g d a => Sys2Proof.Machine.execFtanh g d a s
  | .frndRn g d a => Sys2Proof.Machine.execFrndRn g d a s
  | .frndRz g d a => Sys2Proof.Machine.execFrndRz g d a s
  | .frndRu g d a => Sys2Proof.Machine.execFrndRu g d a s
  | .frndRd g d a => Sys2Proof.Machine.execFrndRd g d a s
  | .fclass g d a => Sys2Proof.Machine.execFclass g d a s
  | .fldexp g d a b => Sys2Proof.Machine.execFldexp g d a b s
  | .ffrexpM g d a => Sys2Proof.Machine.execFfrexpM g d a s
  | .ffrexpE g d a => Sys2Proof.Machine.execFfrexpE g d a s
  | .cvt g d a b r => Sys2Proof.Machine.execCvt g d a b r s
  | .faddS g d a xs => Sys2Proof.Machine.execFaddS g d a xs s
  | .fmulS g d a xs => Sys2Proof.Machine.execFmulS g d a xs s
  | .fmaxS g d a xs => Sys2Proof.Machine.execFmaxS g d a xs s
  | .fminS g d a xs => Sys2Proof.Machine.execFminS g d a xs s
  | .iaddS g d a xs => Sys2Proof.Machine.execIaddS g d a xs s
  | .imulS g d a xs => Sys2Proof.Machine.execImulS g d a xs s
  | .iandS g d a xs => Sys2Proof.Machine.execIandS g d a xs s
  | .movS g d xs => Sys2Proof.Machine.execMovS g d xs s
  | .pand d a b n m => Sys2Proof.Machine.execPand d a b n m s
  | .por d a b n m => Sys2Proof.Machine.execPor d a b n m s
  | .pxor d a b n m => Sys2Proof.Machine.execPxor d a b n m s
  | .pmov d a n => Sys2Proof.Machine.execPmov d a n s
  | .shfl m d a b => Sys2Proof.Machine.execShfl m d a b s
  | .shflx m d a xi => Sys2Proof.Machine.execShflx m d a xi s
  | .shflu m d a b => Sys2Proof.Machine.execShflu m d a b s
  | .shfld m d a b => Sys2Proof.Machine.execShfld m d a b s
  | .rdxIadd m d a => Sys2Proof.Machine.execRdxIadd m d a s
  | .rdxIminS m d a => Sys2Proof.Machine.execRdxIminS m d a s
  | .rdxImaxS m d a => Sys2Proof.Machine.execRdxImaxS m d a s
  | .rdxFadd m d a => Sys2Proof.Machine.execRdxFadd m d a s
  | .rdxFmin m d a => Sys2Proof.Machine.execRdxFmin m d a s
  | .rdxFmax m d a => Sys2Proof.Machine.execRdxFmax m d a s
  | .scanIadd m d a => Sys2Proof.Machine.execScanIadd m d a s
  | .scanIaddx m d a => Sys2Proof.Machine.execScanIaddx m d a s
  | .scanFadd m d a => Sys2Proof.Machine.execScanFadd m d a s
  | .scanFaddx m d a => Sys2Proof.Machine.execScanFaddx m d a s
  | .xmatch m d a => Sys2Proof.Machine.execXmatch m d a s
  | .xshf m d a b => Sys2Proof.Machine.execXshf m d a b s
  | .voteAny m q a => Sys2Proof.Machine.execVoteAny m q a s
  | .voteAll m q a => Sys2Proof.Machine.execVoteAll m q a s
  | .voteEq m q a => Sys2Proof.Machine.execVoteEq m q a s
  | .voteBal m d a => Sys2Proof.Machine.execVoteBal m d a s
  | .bcast m d a => Sys2Proof.Machine.execBcast m d a s
  | .rbal m d a b => Sys2Proof.Machine.execRbal m d a b s
  | .fidx d => Sys2Proof.Machine.execFidx d s
  | .sadd d a b => Sys2Proof.Machine.execSadd d a b s
  | .ssub d a b => Sys2Proof.Machine.execSsub d a b s
  | .smul d a b => Sys2Proof.Machine.execSmul d a b s
  | .smulhN d a b => Sys2Proof.Machine.execSmulhN d a b s
  | .sand d a b => Sys2Proof.Machine.execSand d a b s
  | .sor d a b => Sys2Proof.Machine.execSor d a b s
  | .sxor d a b => Sys2Proof.Machine.execSxor d a b s
  | .sandn d a b => Sys2Proof.Machine.execSandn d a b s
  | .sshl d a b => Sys2Proof.Machine.execSshl d a b s
  | .sshr d a b => Sys2Proof.Machine.execSshr d a b s
  | .ssha d a b => Sys2Proof.Machine.execSsha d a b s
  | .srot d a b => Sys2Proof.Machine.execSrot d a b s
  | .sminS d a b => Sys2Proof.Machine.execSminS d a b s
  | .sminN d a b => Sys2Proof.Machine.execSminN d a b s
  | .smaxS d a b => Sys2Proof.Machine.execSmaxS d a b s
  | .smaxN d a b => Sys2Proof.Machine.execSmaxN d a b s
  | .sadd64 d a b => Sys2Proof.Machine.execSadd64 d a b s
  | .ssub64 d a b => Sys2Proof.Machine.execSsub64 d a b s
  | .smov d a => Sys2Proof.Machine.execSmov d a s
  | .ssel d a b => Sys2Proof.Machine.execSsel d a b s
  | .scmp c p q a b => Sys2Proof.Machine.execScmp c p q a b s
  | .saddi d a xi => Sys2Proof.Machine.execSaddi d a xi s
  | .smovi d xi => Sys2Proof.Machine.execSmovi d xi s
  | .smovh d xi => Sys2Proof.Machine.execSmovh d xi s
  | .mand d a b => Sys2Proof.Machine.execMand d a b s
  | .mor d a b => Sys2Proof.Machine.execMor d a b s
  | .mxor d a b => Sys2Proof.Machine.execMxor d a b s
  | .mandn d a b => Sys2Proof.Machine.execMandn d a b s
  | .mnot d a => Sys2Proof.Machine.execMnot d a s
  | .mpopc a xs => Sys2Proof.Machine.execMpopc a xs s
  | .mffs a xs => Sys2Proof.Machine.execMffs a xs s
  | .mtos a xs => Sys2Proof.Machine.execMtos a xs s
  | .stom d xs => Sys2Proof.Machine.execStom d xs s
  | .mq d a b => Sys2Proof.Machine.execMq d a b s
  | .qand d a b => Sys2Proof.Machine.execQand d a b s
  | .qor d a b => Sys2Proof.Machine.execQor d a b s
  | .qnot d a => Sys2Proof.Machine.execQnot d a s
  | .bra g o => Sys2Proof.Machine.execBra g o s
  | .bru g o => Sys2Proof.Machine.execBru g o s
  | .brm n a b c d => Sys2Proof.Machine.execBrm n a b c d s
  | .call g o => Sys2Proof.Machine.execCall g o s
  | .brx g a => Sys2Proof.Machine.execBrx g a s
  | .ret g => Sys2Proof.Machine.execRet g s
  | .callx g a => Sys2Proof.Machine.execCallx g a s
  | .winset g xi => Sys2Proof.Machine.execWinset g xi s
  | .winadd g xi => Sys2Proof.Machine.execWinadd g xi s
  | .ld g d a p z => Sys2Proof.Machine.execLd g d a p z s
  | .ldv g d a z => Sys2Proof.Machine.execLdv g d a z s
  | .st g d a p z => Sys2Proof.Machine.execSt g d a p z s
  | .stv g d a z => Sys2Proof.Machine.execStv g d a z s
  | .lds d p z o => Sys2Proof.Machine.execLds d p z o s
  | .sts d p z o => Sys2Proof.Machine.execSts d p z o s
  | .atomIadd d a p k => Sys2Proof.Machine.execAtomIadd d a p k s
  | .atomIminS d a p k => Sys2Proof.Machine.execAtomIminS d a p k s
  | .atomIminN d a p k => Sys2Proof.Machine.execAtomIminN d a p k s
  | .atomImaxS d a p k => Sys2Proof.Machine.execAtomImaxS d a p k s
  | .atomImaxN d a p k => Sys2Proof.Machine.execAtomImaxN d a p k s
  | .atomAnd d a p k => Sys2Proof.Machine.execAtomAnd d a p k s
  | .atomOr d a p k => Sys2Proof.Machine.execAtomOr d a p k s
  | .atomXor d a p k => Sys2Proof.Machine.execAtomXor d a p k s
  | .atomExch d a p k => Sys2Proof.Machine.execAtomExch d a p k s
  | .atomCas d a p k => Sys2Proof.Machine.execAtomCas d a p k s
  | .atomIadd64 d a p k => Sys2Proof.Machine.execAtomIadd64 d a p k s
  | .atomCas64 d a p k => Sys2Proof.Machine.execAtomCas64 d a p k s
  | .atomFadd d a p k => Sys2Proof.Machine.execAtomFadd d a p k s
  | .atomFmin d a p k => Sys2Proof.Machine.execAtomFmin d a p k s
  | .atomFmax d a p k => Sys2Proof.Machine.execAtomFmax d a p k s
  | .atomOrd f d a p => Sys2Proof.Machine.execAtomOrd f d a p s
  | .redIadd d a p k => Sys2Proof.Machine.execRedIadd d a p k s
  | .redIminS d a p k => Sys2Proof.Machine.execRedIminS d a p k s
  | .redIminN d a p k => Sys2Proof.Machine.execRedIminN d a p k s
  | .redImaxS d a p k => Sys2Proof.Machine.execRedImaxS d a p k s
  | .redImaxN d a p k => Sys2Proof.Machine.execRedImaxN d a p k s
  | .redAnd d a p k => Sys2Proof.Machine.execRedAnd d a p k s
  | .redOr d a p k => Sys2Proof.Machine.execRedOr d a p k s
  | .redXor d a p k => Sys2Proof.Machine.execRedXor d a p k s
  | .redExch d a p k => Sys2Proof.Machine.execRedExch d a p k s
  | .redCas d a p k => Sys2Proof.Machine.execRedCas d a p k s
  | .redIadd64 d a p k => Sys2Proof.Machine.execRedIadd64 d a p k s
  | .redCas64 d a p k => Sys2Proof.Machine.execRedCas64 d a p k s
  | .redFadd d a p k => Sys2Proof.Machine.execRedFadd d a p k s
  | .redFmin d a p k => Sys2Proof.Machine.execRedFmin d a p k s
  | .redFmax d a p k => Sys2Proof.Machine.execRedFmax d a p k s
  | .redOrd f d a p => Sys2Proof.Machine.execRedOrd f d a p s
  | .fenceRel k => Sys2Proof.Machine.execFenceRel k s
  | .fenceAcq k => Sys2Proof.Machine.execFenceAcq k s
  | .fenceAr k => Sys2Proof.Machine.execFenceAr k s
  | .fenceSc k => Sys2Proof.Machine.execFenceSc k s
  | .fencePkg => Sys2Proof.Machine.execFencePkg s
  | .waita c xs v z k => Sys2Proof.Machine.execWaita c xs v z k s
  | .ljoin d a p x => Sys2Proof.Machine.execLjoin d a p x s
  | .lstc d a p x => Sys2Proof.Machine.execLstc d a p x s
  | .lld d a p => Sys2Proof.Machine.execLld d a p s
  | .lwait d a p x => Sys2Proof.Machine.execLwait d a p x s
  | .lsync => Sys2Proof.Machine.execLsync s
  | .talloc xs => Sys2Proof.Machine.execTalloc xs s
  | .tfree xs => Sys2Proof.Machine.execTfree xs s
  | .ttag xs => Sys2Proof.Machine.execTtag xs s
  | .twait xs => Sys2Proof.Machine.execTwait xs s
  | .tld xs t e => Sys2Proof.Machine.execTld xs t e s
  | .tst xs t e => Sys2Proof.Machine.execTst xs t e s
  | .tldt xs t e => Sys2Proof.Machine.execTldt xs t e s
  | .tcopy xs t e x => Sys2Proof.Machine.execTcopy xs t e x s
  | .tfill xs t e => Sys2Proof.Machine.execTfill xs t e s
  | .tstc xs t e => Sys2Proof.Machine.execTstc xs t e s
  | .tldc xs t e => Sys2Proof.Machine.execTldc xs t e s
  | .tcvt xs t e => Sys2Proof.Machine.execTcvt xs t e s
  | .trd d a xs z => Sys2Proof.Machine.execTrd d a xs z s
  | .twr d a xs z => Sys2Proof.Machine.execTwr d a xs z s
  | .trdt d a xs z => Sys2Proof.Machine.execTrdt d a xs z s
  | .tatom d a xs o => Sys2Proof.Machine.execTatom d a xs o s
  | .oclaim xs => Sys2Proof.Machine.execOclaim xs s
  | .orel xs => Sys2Proof.Machine.execOrel xs s
  | .ofill xs t e => Sys2Proof.Machine.execOfill xs t e s
  | .ofillS24 xs t e => Sys2Proof.Machine.execOfillS24 xs t e s
  | .ofillG xs t e => Sys2Proof.Machine.execOfillG xs t e s
  | .owait xs => Sys2Proof.Machine.execOwait xs s
  | .mma xs t e => Sys2Proof.Machine.execMma xs t e s
  | .mmas xs t e => Sys2Proof.Machine.execMmas xs t e s
  | .mmat xs t e => Sys2Proof.Machine.execMmat xs t e s
  | .spmm xs t e => Sys2Proof.Machine.execSpmm xs t e s
  | .pgen xs t e v => Sys2Proof.Machine.execPgen xs t e v s
  | .pgenMat xs t e => Sys2Proof.Machine.execPgenMat xs t e s
  | .pmerge xs t e k n => Sys2Proof.Machine.execPmerge xs t e k n s
  | .pload xs => Sys2Proof.Machine.execPload xs s
  | .pfree xs => Sys2Proof.Machine.execPfree xs s
  | .stream xs t e m => Sys2Proof.Machine.execStream xs t e m s
  | .hcopy xs t e b => Sys2Proof.Machine.execHcopy xs t e b s
  | .snap xs t e => Sys2Proof.Machine.execSnap xs t e s
  | .cwait xs => Sys2Proof.Machine.execCwait xs s
  | .evpop xs n => Sys2Proof.Machine.execEvpop xs n s
  | .shdef xs => Sys2Proof.Machine.execShdef xs s
  | .shfree xs => Sys2Proof.Machine.execShfree xs s
  | .spawn xs => Sys2Proof.Machine.execSpawn xs s
  | .spawnn xs => Sys2Proof.Machine.execSpawnn xs s
  | .spawna xs t => Sys2Proof.Machine.execSpawna xs t s
  | .sync => Sys2Proof.Machine.execSync s
  | .launch xs => Sys2Proof.Machine.execLaunch xs s
  | .barf d => Sys2Proof.Machine.execBarf d s
  | .pedrd xs => Sys2Proof.Machine.execPedrd xs s
  | .pedcmp xs => Sys2Proof.Machine.execPedcmp xs s
  | .palloc xs => Sys2Proof.Machine.execPalloc xs s
  | .rview xs m => Sys2Proof.Machine.execRview xs m s
  | .oskip xs => Sys2Proof.Machine.execOskip xs s
  | .prio xs => Sys2Proof.Machine.execPrio xs s
  | .prand g d => Sys2Proof.Machine.execPrand g d s
  | .prandf g d => Sys2Proof.Machine.execPrandf g d s
  | .rupd g d a b => Sys2Proof.Machine.execRupd g d a b s
  | .csrr xs c => Sys2Proof.Machine.execCsrr xs c s
  | .csrw xs c => Sys2Proof.Machine.execCsrw xs c s
  | .csrwStat xs => Sys2Proof.Machine.execCsrwStat xs s
  | .csrwSeed xs => Sys2Proof.Machine.execCsrwSeed xs s
  | .csrwLxs xs => Sys2Proof.Machine.execCsrwLxs xs s
  | .csrwLxp xs => Sys2Proof.Machine.execCsrwLxp xs s
  | .csrwCpyshare xs => Sys2Proof.Machine.execCsrwCpyshare xs s
  | .csrwPerfsel xs k => Sys2Proof.Machine.execCsrwPerfsel xs k s
  | .csrwLxt xs k => Sys2Proof.Machine.execCsrwLxt xs k s
  | .clock xs => Sys2Proof.Machine.execClock xs s
  | .locq xs => Sys2Proof.Machine.execLocq xs s
  | .perfrd xs k => Sys2Proof.Machine.execPerfrd xs k s
  | .tlbinv xs => Sys2Proof.Machine.execTlbinv xs s
  | .ctxsv xs => Sys2Proof.Machine.execCtxsv xs s
  | .ctxld xs => Sys2Proof.Machine.execCtxld xs s
  | .himm h => Sys2Proof.Machine.execHimm h s
  | .hmod n t v k c o r m => Sys2Proof.Machine.execHmod n t v k c o r m s
  | .hgrd g => Sys2Proof.Machine.execHgrd g s
  | .htgt h => Sys2Proof.Machine.execHtgt h s
  | .hseq xs => Sys2Proof.Machine.execHseq xs s
  | .powerOnBoot strap0 strap1 => Sys2Proof.Machine.execPowerOnBoot strap0 strap1 s
  | .contextCreate num sup ptroot seed ringPA latOff => Sys2Proof.Machine.execContextCreate num sup ptroot seed ringPA latOff s
  | .mgmtSetPowerCap watts => Sys2Proof.Machine.execMgmtSetPowerCap watts s
  | .mgmtReportStatus => Sys2Proof.Machine.execMgmtReportStatus s
  | .mgmtReplaceFrontProgram num text textsz entry args => Sys2Proof.Machine.execMgmtReplaceFrontProgram num text textsz entry args s
  | .mgmtTrainPort iod port ok => Sys2Proof.Machine.execMgmtTrainPort iod port ok s
  | .mgmtFirmwareUpdate sigOk => Sys2Proof.Machine.execMgmtFirmwareUpdate sigOk s
  | .thermalThrottle die celsius => Sys2Proof.Machine.execThermalThrottle die celsius s
  | .thermalShutdown die celsius => Sys2Proof.Machine.execThermalShutdown die celsius s
  | .hostWrite port pa bytes rid => Sys2Proof.Machine.execHostWrite port pa bytes rid s
  | .hostRead port pa n => Sys2Proof.Machine.execHostRead port pa n s
  | .errclr iod val => Sys2Proof.Machine.execErrclr iod val s
  | .winEntryWrite iod w hi val => Sys2Proof.Machine.execWinEntryWrite iod w hi val s
  | .latticeBroadcastWrite port iod off bytes rid => Sys2Proof.Machine.execLatticeBroadcastWrite port iod off bytes rid s
  | .mmioRegisterWrite port iod off bytes rid => Sys2Proof.Machine.execMmioRegisterWrite port iod off bytes rid s
  | .clolyFlitReceive iod port crcOk payload => Sys2Proof.Machine.execClolyFlitReceive iod port crcOk payload s
  | .clolyLinkDown iod port => Sys2Proof.Machine.execClolyLinkDown iod port s
  | .remoteWindowAccess pa wr n => Sys2Proof.Machine.execRemoteWindowAccess pa wr n s
  | .latticeExchangeRound => Sys2Proof.Machine.execLatticeExchangeRound s
  | .feldsparJoinArrival => Sys2Proof.Machine.execFeldsparJoinArrival s
  | .lsyncComplete gid => Sys2Proof.Machine.execLsyncComplete gid s
  | .monitorReread gid pc => Sys2Proof.Machine.execMonitorReread gid pc s
  | .waitPoll gid pc => Sys2Proof.Machine.execWaitPoll gid pc s
  | .waitForWalk => Sys2Proof.Machine.execWaitForWalk s
  | .agingPromotion gid => Sys2Proof.Machine.execAgingPromotion gid s
  | .taskStart core part => Sys2Proof.Machine.execTaskStart core part s
  | .gangDrain gid => Sys2Proof.Machine.execGangDrain gid s
  | .syncComplete gid => Sys2Proof.Machine.execSyncComplete gid s
  | .barfPhaseComplete tkey => Sys2Proof.Machine.execBarfPhaseComplete tkey s
  | .launchStart lkey => Sys2Proof.Machine.execLaunchStart lkey s
  | .teamPlacement lkey => Sys2Proof.Machine.execTeamPlacement lkey s
  | .launchComplete lkey => Sys2Proof.Machine.execLaunchComplete lkey s
  | .engineCommandStart cid => Sys2Proof.Machine.execEngineCommandStart cid s
  | .engineCommandCompletion cid => Sys2Proof.Machine.execEngineCommandCompletion cid s
  | .snapCut => Sys2Proof.Machine.execSnapCut s
  | .snapBlockCopy => Sys2Proof.Machine.execSnapBlockCopy s
  | .raceCheck gid pa mask rd => Sys2Proof.Machine.execRaceCheck gid pa mask rd s
  | .filterSpill sect => Sys2Proof.Machine.execFilterSpill sect s
  | .migrateService num va => Sys2Proof.Machine.execMigrateService num va s
  | .arenaZeroFill num va => Sys2Proof.Machine.execArenaZeroFill num va s
  | .pageWalk num core va => Sys2Proof.Machine.execPageWalk num core va s
  | .viewSpill gid red out => Sys2Proof.Machine.execViewSpill gid red out s
  | .contextRestorePlacement num => Sys2Proof.Machine.execContextRestorePlacement num s
  | .illegalWord w => Sys2Proof.Machine.execIllegalWord w s
  | .powerCapClockStep down => Sys2Proof.Machine.execPowerCapClockStep down s
  | .hostConfigurationRequest port => Sys2Proof.Machine.execHostConfigurationRequest port s

end Sys2Proof.Machine
end

