-- ==== Sys2Proof/Machine/Issue.lean ====
section
/-! DEFINITION. Issuing a unit of a batch (R67, R74, R78, R91 to R94), and the other acts of State.agenda. -/
namespace Sys2Proof.Machine

/-- A wait whose object is tested by trying its unit: a queue, space, a tag, a slot, an event, a sequence, an LSYNC, and
every wait that a restored context takes up (R92, R412). When the unit would go on, the batch is ready again. -/
def retries (wk : Nat) (cap : List DWord) : Bool :=
  cap.isEmpty || wk == 5 || wk == 6 || wk == 7 || wk == 10 || wk == 12 || (wk == 9 && cap == [0]) || (wk == 3 && cap == [3])

/-- Whether a batch can be taken for issue: ready, or of the active trap (R90, R92, R399, R400). -/
def Gang.canIssue (g : Gang) (b : Batch) : Bool :=
  match b.st with
  | .ready => true
  | .trapped => g.inTrap b.memb
  | .waiting wk => retries wk b.cap

/-- The words of a unit act in turn: hints, targets, main word (R67, R74). -/
noncomputable def runWords : List Word → State → Out
  | [], s => .next s
  | w :: ws, s =>
    match decodeWord w.toNat with
    | none => exec (.illegalWord w) s
    | some i =>
      match exec i s with
      | .next s => runWords ws s
      | r => r

/-- A fetched unit acts: ILLEGAL for one that breaks a rule, otherwise its words (R67, R75, R76). -/
noncomputable def runUnit (u : UnitWords) (s : State) : Out :=
  match unitBad u with
  | some w => exec (.illegalWord w) s
  | none => runWords (u.hints ++ u.tgts ++ [u.main]) s

/-- Issuing the unit of a batch, while some home slices may have no room for filter entries. -/
noncomputable def issueBatch (s : State) (g : Gang) (b : Batch) (full : List Nat) : Out :=
  let c := Cur.start g.gid b
  match s.fetchUnit c g [] b.pc (s.hintLimit g) with
  | (.error e, s) => fetchTrap s c e
  | (.ok u, s) =>
    let c := { c with word := u.at_, next := u.next, main := u.main }
    let s := if b.waits then s else s.onIssue c g b.pc u.main
    match runUnit u { s with cur := some c } with
    | .next t =>
      let t := State.admitted c full { s with cur := some c } t
      .next (if b.waits then t else t.afterIssue g b.pc (match t.cur with | some c => c.reads | none => []))
    | r => r

/-- Whether the unit of a waiting batch would go on, were it executed now: the object of its wait is satisfied (R92). -/
noncomputable def State.satisfied (s : State) (g : Gang) (full : List Nat) (b : Batch) : Bool :=
  match issueBatch s g b full with
  | .next t =>
    match t.gang? g.gid with
    | some h => !(h.batches.any fun x => x.memb == b.memb && x.pc == b.pc && x.waits)
    | none => true
  | _ => true

/-- A batch whose wait is satisfied returns to ST = 1, and merges with one that is ready at its PC (R92). -/
def Gang.rouse (g : Gang) (b : Batch) : Gang := (g.unbatch b.memb).place b.pc b.memb

/-- The class of the unit at a batch; one that cannot be fetched counts as class U. -/
def State.classOf (s : State) (g : Gang) (b : Batch) : Nat :=
  match (s.fetchUnit (Cur.start g.gid b) g [] b.pc (s.hintLimit g)).1 with
  | .ok u => issueClass u.main
  | .error _ => 2

/-- An ordinary batch yields to a ready trap batch of its gang whose unit is of the same class (R93, R402). -/
def State.yields (s : State) (g : Gang) (b : Batch) : Bool :=
  b.st != .trapped && g.batches.any fun t => t.st == .trapped && g.inTrap t.memb && s.classOf g t == s.classOf g b

/-- The unit of the batch of a gang at a PC: of the trap batch or the ready batch there it issues; a waiting one is made
ready when its wait is satisfied; otherwise a wait on memory is read again. -/
noncomputable def issueUnit (s : State) (gid : Nat) (pc : DWord) (full : List Nat) : Out :=
  match s.gang? gid with
  | none => .next s
  | some g =>
    if !s.running g.ctx || !g.behind.isEmpty || g.exited || g.inlined.isSome then .next s
    else
      let here := g.batches.filter fun b => b.pc == pc && g.canIssue b
      match (here.find? fun b => b.st == .trapped).orElse fun _ => here.find? fun b => !b.waits with
      | some b => if s.yields g b then .next s else issueBatch s g b full
      | none =>
        match here.find? (s.satisfied g full) with
        | some b => .next ((s.modGang gid (·.rouse b)).settle gid)
        | none => exec (.monitorReread gid pc) s

/-- A launch for whose lowest unplaced team a candidate has room. -/
def State.placeable (s : State) : Option Nat :=
  (s.launches.find? fun l => match execTeamPlacement l.lkey s with
    | .next t => t.teams.length != s.teams.length
    | _ => false).map (·.lkey)

/-- What happens when an event has been chosen: while a team can be placed, no gang's slot is returned and no task takes
room, and the placement happens first. The first wave of a launch is thus whole, as R306 and R418 have it (log 81). -/
noncomputable def State.dueFirst (s : State) (i : Instr) : Instr :=
  let first := match s.placeable with | some k => .teamPlacement k | none => i
  match i with
  | .gangDrain _ => first
  | .taskStart _ _ => first
  | _ => i

/-- An act of a device that has power. -/
noncomputable def runAct (a : Act) (s : State) : Out :=
  match a with
  | .unit gid pc full => if s.up then issueUnit s gid pc full else .next s
  | .event i => exec (s.dueFirst i) s
  | .tick n => .next { s with clock := s.clock + n }
  | .front num => .next (s.frontStep num)
  | .evictL1 core sect => .next (s.evictL1 core sect)
  | .evictQuad quad sect => .next (s.evictQuad quad sect)
  | .evictL2 die sect => .next (s.evictL2 die sect)
  | .evictLate die sect dies => .next (s.evictLate die sect dies)
  | .restoreAt num core => s.restoreAt num core
  | .evictI core line => .next { s with icache := s.icache.filter fun l => !(l.core == core && l.line == line) }
  | .evictTlb core ctx base => .next { s with tlb := s.tlb.filter fun e => !(e.core == core && e.ctx == ctx && e.base == base) }
  | .eccSingle => .next s.eccSingle
  | .eccMem sect => .next (s.eccMem sect)
  | .eccL1 core sect => .next (s.eccL1 core sect)
  | .eccL2 die sect => .next (s.eccL2 die sect)
  | .eccInstr core line => .next (s.eccInstr core line)
  | .eccReg gid fibre reg => .next (s.eccReg gid fibre reg)
  | .eccScalar gid reg => .next (s.eccScalar gid reg)
  | .eccTile tkey hnd elem => .next (s.eccTile tkey hnd elem)
  | .eccSlot core hnd byte => .next (s.eccSlot core hnd byte)
  | .eccView gid red elem => .next (s.eccView gid red elem)
  | .eccTable lkey => .next (s.eccTable lkey)

/-- The device clock has moved from a to b: the cycles of the core clock between them are counted, with no fraction lost
(event 1, R9, R394, R395). -/
def State.cycles_ (s : State) (a b : Nat) : State :=
  (s.perfsel.filter fun e => e.2.2 == 1).foldl (fun s e =>
    s.perfSet e.1 e.2.1 (s.perfGet e.1 e.2.1 + BitVec.ofNat 32 (b * s.mhz / 1900 - a * s.mhz / 1900))) s

/-- A gang that cannot issue has not waited to issue (R313). -/
def State.noteSince (s : State) : State :=
  { s with gangs := s.gangs.map fun g => if g.eligible then g else { g with sched := { g.sched with since := s.clock } } }

/-- The end of a step: no unit is being executed, the clock has moved on, cycles are counted, gangs return from demotion
(R314), and the wait-for tables hold an entry for every wait (R378). -/
def closeStep (before s : State) : State :=
  let s := (State.promote before (({ s with cur := none, clock := s.clock + 1 } : State).cycles_ before.clock (s.clock + 1))).noteSince
  { s with wrote := [], waits := s.waitTable }

end Sys2Proof.Machine
end

