-- ==== Sys2Proof/Machine/Place.lean ====
section
/-! DEFINITION. A small machine around one word, for State.withFetchWord: a supervisor context, its page tables, a
launch of one gang of eight fibres, and the word at its entry (log 6). -/
namespace Sys2Proof.Machine

/-- Where the word lies, in both address spaces. -/
def placeVa : Nat := 0x10000
def placePa : Nat := 0x100000

/-- The page tables: levels 4 to 0 at 0x1000 to 0x5000, one executable page of text at placePa. -/
def placeTables (m : List Host.Cell) : List Host.Cell :=
  let put := fun m a v => Memory.writes m a (bytesOf 8 v)
  put (put (put (put (put m 0x1000 0x2001) 0x2000 0x3001) 0x3000 0x4001) 0x4000 0x5001) 0x5008 (placePa + 15)

/-- The launch record. -/
def placeRec : LRec :=
  { text := BitVec.ofNat 64 placeVa, textsz := 0x10000, entry := 0, args := 0, nteams := 1, wcode := 0, gangs := 1,
    vregs := 64, mode := 2, scatter := false, prio := 1, front := false, seedsrc := true, queue := 0, tiles := 0,
    seed := 0, cmask := BitVec.allOnes 160, depaddr := 0, depval := 0, cpladdr := 0, crecaddr := 0, cplscope := 0,
    ev := false, tvec := 0, bsbase := 0, bscap := 0, inlcap := 0, inlbase := 0, redtab := 0, nred := 0, narena := 0,
    arenatab := 0, viewbase := 0, viewcap := 0, filtcap := 0, filtbase := 0, flogbase := 0, flogcap := 0 }

/-- The launch, started. -/
def placeLaunch : Launch :=
  { lkey := 1, lid := 1, ctx := 0, host := true, root := 1, up := none, r := placeRec, raw := [], seed := 0, mode := 2,
    issuer := none, issuerTeam := none, base := [], st := .started, nextTeam := 1, cursor := 0, freed := 0,
    trapped := false, reds := [], arenas := [], finals := [], cursors := List.replicate 64 0, turnMasks := [],
    backing := [], inlines := [], flogUsed := 0 }

/-- A fibre as created. -/
def Fibre.fresh (vregs : Nat) : Fibre :=
  { regs := List.replicate vregs 0, wb := 0, p := 0, drw := 0, bad := [] }

/-- Issue selection state as created. -/
def Sched.fresh (now : Nat) : Sched :=
  { last := 0, since := now, raised := 0, demoted := false, hist := [], reads := [], lastPc := none }

/-- The gang, with one batch of all its fibres at the word. -/
def placeGang (now : Nat) : Gang :=
  { gid := 1, lkey := 1, ctx := 0, team := some 1, parent := none, rank := 0, core := 0, part := 0, width := 8,
    vregs := 64, sregs := List.replicate 256 0, q := 0, m := List.replicate 7 0, live := maskLow 8,
    ped := { mode := 2, root := true, devl := false, lid := 1, levels := [(0, 0), (0, 0), (0, 0)] }, arena := List.replicate 16 0,
    views := [], stat := 0, statarm := 0, seed := 0, tvec := 0, gangId := 0, teamId := 0, prio := 1, tcause := 0,
    tepc := 0, tmask := 0, tmaskh := 0, taddr := 0, taddrh := 0, tinfo := 0,
    batches := [{ memb := maskLow 8, pc := BitVec.ofNat 64 placeVa, st := .ready, passed := 0, cap := [], next := 0, polled := false }],
    trap := none, pending := [], fibres := List.replicate 8 (Fibre.fresh 64), turns := 0, openTurn := none,
    outstanding := 0, finals := [], arrived := false, cmdSeq := 0, joined := [], ibuf := none,
    sched := Sched.fresh now, exited := false, inlined := none, inlineFan := none, poisonS := [], behind := [], owed := 0 }

/-- The machine with that gang and the word at its PC, so that the next step issues it. -/
def State.placeWord (s : State) (w : Nat) : State :=
  let m := Memory.writes (placeTables s.mem) placePa (bytesOf 8 (w % 2 ^ 32))
  { s with
    booted := true, shutdown := false, boundary := if s.clock ≥ s.boundary then s.clock + 1 else s.boundary
    mem := m, icache := [], tlb := [], snap := none
    poison := s.poison.filter fun e => !(0x100 ≤ e.1 && e.1 < 0x600) && !(placePa / 16 ≤ e.1 && e.1 < placePa / 16 + 8)
    contexts := [{ num := 0, supervisor := true, ptroot := 0x1000, running := true, ring := 0x200000, lat := 0,
                   lidCtr := 2, shapes := [], patterns := [], front := { k := 0, seed := 0, gid := none } }]
    launches := [placeLaunch]
    teams := [{ tkey := 1, lkey := 1, teamId := 0, cores := [0], tslots := [0], granules := 0, phase := 0, broken := false,
                tiles := [], evq := [] }]
    gangs := [placeGang s.clock], fresh := max s.fresh 2
    agenda := [.unit 1 (BitVec.ofNat 64 placeVa) []], cur := none }

end Sys2Proof.Machine
end

