-- ==== Sys2Proof/Machine/Policy.lean ====
section
/-! DEFINITION. What moves next when the agenda is empty: one fixed choice among those that the manual allows (log 2). -/
namespace Sys2Proof.Machine

/-! ## Choosing a unit (R93, R312 to R314) -/

/-- The batches of a gang that can be issued for the first time. -/
def State.readyOf (s : State) (g : Gang) : List Batch :=
  if !s.running g.ctx || !g.behind.isEmpty || g.exited || g.inlined.isSome then []
  else g.batches.filter fun b => g.canIssue b && !b.waits

/-- The batch with the lowest PC. -/
def lowestPc (bs : List Batch) : Option Batch :=
  bs.foldl (fun r b => match r with
    | none => some b
    | some a => if b.pc.toNat < a.pc.toNat then some b else some a) none

/-- Whether all words of the unit at a batch lie in the gang's instruction buffer (R93). -/
def State.near (s : State) (g : Gang) (b : Batch) : Bool :=
  g.ibuf == some (blockOf b.pc) &&
    match (s.fetchUnit (Cur.start g.gid b) g [] b.pc (s.hintLimit g)).1 with
    | .ok u => blockOf (u.next - 4) == blockOf b.pc
    | .error _ => true

/-- Steps 1 to 4 of R93 over batches: one passed over 64 times, the one issued last if it is in the buffer, the lowest in
the buffer, the lowest. The spec does not say which of several batches passed over 64 times goes first, nor which group of
a batch that split is the batch issued last: the model takes the first in the table's order, which holds the group of
the highest FIX first (log 75). -/
def pickFrom (near : Batch → Bool) (bs : List Batch) : Option Batch :=
  (bs.find? fun b => b.passed ≥ 64).orElse fun _ =>
  (bs.find? fun b => b.passed == 0 && near b).orElse fun _ =>
  (lowestPc (bs.filter near)).orElse fun _ => lowestPc bs

/-- The batch that a gang issues (R93): of the trap batches, and otherwise of the ordinary ones. -/
def State.pickBatch (s : State) (g : Gang) (bs : List Batch) : Option Batch :=
  (pickFrom (s.near g) (bs.filter (·.st == .trapped))).orElse fun _ => pickFrom (s.near g) bs

/-- The priority of a gang for selection: 0 class T, 1 to 4 levels 0 to 3, 5 class D, lowered by aging (R312 to R314). -/
def levelOf (g : Gang) (b : Batch) : Nat :=
  if b.st == .trapped then 0 else 1 + ((if g.sched.demoted then 4 else g.prio) - g.sched.raised)

/-- A unit that could issue: gang, batch, class. -/
abbrev Ready := Gang × Batch × Nat

/-- Every gang's choice for each class, among its ready batches whose unit is of that class (R93, R312). -/
def State.choices (s : State) : List Ready :=
  s.gangs.flatMap fun g =>
    let bs := (s.readyOf g).map fun b => (b, s.classOf g b)
    (List.range 3).filterMap fun k =>
      (s.pickBatch g ((bs.filter (·.2 == k)).map (·.1))).map fun b => (g, b, k)

/-- Whether the gang issued last in a class of its partition. -/
def State.wasLast (s : State) (g : Gang) (k : Nat) : Bool := s.lastIn.contains (g.core, g.part, k, g.gid)

/-- Whether x comes before y in the selection of their partition and class (R312); trap batches are served in turn, the one
that has waited longest first (R315, R402). -/
def State.before (s : State) (x y : Ready) : Bool :=
  let lx := levelOf x.1 x.2.1
  let ly := levelOf y.1 y.2.1
  if lx ≠ ly then decide (lx < ly)
  else if lx = 0 then decide (x.1.sched.last ≤ y.1.sched.last)
  else if s.wasLast x.1 x.2.2 then true
  else if s.wasLast y.1 y.2.2 then false
  else decide (x.1.sched.last ≤ y.1.sched.last)

/-- The units that R312 takes: of each partition and class the first. -/
def State.taken (s : State) : List Ready :=
  let cs := s.choices
  cs.filter fun x => cs.all fun y =>
    !(y.1.core == x.1.core && y.1.part == x.1.part && y.2.2 == x.2.2) || y.1.gid == x.1.gid || s.before x y

/-- One of them: of the gang that has issued nothing for longest. -/
def State.nextUnit (s : State) : Option Act :=
  (s.taken.foldl (fun (r : Option Ready) x => match r with
    | none => some x
    | some a => if x.1.sched.last < a.1.sched.last then some x else some a) none).map fun x => .unit x.1.gid x.2.1.pc []

/-! ## What the device does by itself -/

/-- The cores in the order in which a ready task is offered to them: those of the dies that hold tasks, then the others, so
that every ready task is started once some partition has room for it (R315). -/
def State.startCores (s : State) : List Nat :=
  let dies := (s.deques.map fun d => dieOf d.core).eraseDups
  (List.range 160).filter (fun k => dies.contains (dieOf k)) ++ (List.range 160).filter fun k => !dies.contains (dieOf k)

/-- The events that may be due, in the order in which they are tried. -/
noncomputable def State.due (s : State) : List Act :=
  let gs := s.gangs.flatMap fun g => [Instr.gangDrain g.gid, Instr.syncComplete g.gid, Instr.lsyncComplete g.gid]
  let ls := s.launches.flatMap fun l => [Instr.launchComplete l.lkey, Instr.launchStart l.lkey, Instr.teamPlacement l.lkey]
  let ms := s.cmds.flatMap fun m => [Instr.engineCommandCompletion m.cid, Instr.engineCommandStart m.cid]
  let cores := if s.deques.any (fun d => !d.task.pend) || s.launches.any (fun l => !l.backing.isEmpty) then s.startCores else []
  let ks := cores.flatMap fun k => (List.range 4).map fun p => Instr.taskStart k p
  let fs := if s.gangs.any fun g => g.batches.any fun b => b.st == .waiting 12 then
    (s.filter.filter fun e => e.spilled.isNone).map fun e => Instr.filterSpill e.sect else []
  let rs := ((s.saved.filter (·.pending)).map (·.num) ++ (s.gangs.filter fun g => !g.behind.isEmpty).map (·.ctx)).eraseDups.map
    Instr.contextRestorePlacement
  ((gs ++ s.teams.map (fun t => Instr.barfPhaseComplete t.tkey) ++ ms ++ [Instr.snapCut, Instr.snapBlockCopy, Instr.feldsparJoinArrival] ++
    ls ++ rs ++ fs ++ ks).map Act.event) ++ s.contexts.map fun c => .front c.num

/-- The events of the clock: the walk every 100 microseconds, and aging (R313, R380). -/
noncomputable def State.timed (s : State) : List Act :=
  (if s.clock % 190000 = 0 then [.event .waitForWalk] else []) ++ s.gangs.map fun g => .event (.agingPromotion g.gid)

/-- The waits that may be over: a watched location, an unwatched one every 512 cycles, a wait that is tried again. -/
noncomputable def State.tries (s : State) : List Act :=
  (s.gangs.flatMap fun g => (g.batches.filter Batch.waits).filterMap fun b =>
    if g.canIssue b then some (.unit g.gid b.pc [])
    else if s.watched g.gid b.pc b.memb then some (.event (.monitorReread g.gid b.pc))
    else if s.clock % 512 = 0 then some (.event (.waitPoll g.gid b.pc)) else none) ++
  s.pendings.filterMap fun d =>
    if s.watched d.2.key 0 0 then some (.event (.monitorReread d.2.key 0))
    else if s.clock % 512 = 0 then some (.event (.waitPoll d.2.key 0)) else none

/-- A state without its caches and search counts, which an event that comes to nothing may change. -/
def State.bare (s : State) : State := { s with cur := none, searches := [], l1 := [], quads := [], l2 := [], icache := [], tlb := [], perf := [], wrote := [], waits := [] }

/-- Whether an act changes the state. -/
noncomputable def State.changes (s : State) (a : Act) : Bool :=
  match runAct a s with
  | .next t => decide (t.bare ≠ s.bare)
  | _ => false

/-- The batches of all gangs and the pending entries, without the order in which they stand. -/
def State.waiters (s : State) (gid : Nat) (pc : DWord) : Bool :=
  (s.gangs.any fun g => g.gid == gid && g.batches.any fun b => b.pc == pc && b.waits) ||
    s.pendings.any (·.2.key == gid)

/-- Whether an act ends the wait that it tries. -/
noncomputable def State.ends (s : State) (a : Act) : Bool :=
  match a, runAct a s with
  | .unit gid pc _, .next t => !t.waiters gid pc
  | .event (.monitorReread gid pc), .next t => !t.waiters gid pc
  | .event (.waitPoll gid pc), .next t => !t.waiters gid pc
  | _, _ => false

/-- The act that the device takes by itself. -/
noncomputable def policy (s : State) : Act :=
  if !s.up then
    (if s.recovery || s.shutdown then .tick 1 else .event (.powerOnBoot false false))
  else
    match s.due.find? s.changes with
    | some a => a
    | none =>
      match s.timed.find? s.changes with
      | some a => a
      | none =>
        match s.tries.find? s.ends with
        | some a => a
        | none =>
          match s.nextUnit with
          | some a => a
          | none => .tick 1

end Sys2Proof.Machine
end

