-- ==== Sys2Proof/Machine/Step.lean ====
section
/-! DEFINITION. One step of the H40: an exchange round when its boundary has come, otherwise the first act of the agenda,
otherwise the act that the policy picks (logs 2, 5). -/
namespace Sys2Proof.Machine

/-- The act that a state takes, and the state without it. -/
noncomputable def nextAct (s : State) : Act × State :=
  if s.clock ≥ s.boundary then (.event .latticeExchangeRound, s)
  else
    match s.agenda with
    | a :: r => (a, { s with agenda := r })
    | [] => (policy s, s)

/-- One step: the next act happens. -/
noncomputable def step (s : State) : Host.Outcome State Fault Refusal :=
  match runAct (nextAct s).1 (nextAct s).2 with
  | .next t => .next (closeStep s t)
  | r => r

/-- The machine with a word where the next step fetches (log 6). Every instruction's row has 32 bits. -/
def State.withFetchWord (s : State) (_nbits w : Nat) : State := s.placeWord w

end Sys2Proof.Machine
end

