-- ==== Sys2Proof/Machine/Asm.lean ====
section
/-! DEFINITION. The assembly language of the manual, line by line (R80 to R83, and the assembly forms of the
instruction chapters): characters to tokens, 64-bit expressions, operand forms, mnemonics with their modifiers, and the
words of one instruction unit with the hints it needs. -/
namespace Sys2Proof.Asm
open Sys2Proof.Machine

abbrev Name := List Char

/-! ## Tokens and expressions -/

/-- A token: an identifier, an integer, a character of its own, or a word that is none of these. -/
inductive Tok where
  | name (s : Name)
  | num (n : Nat)
  | sym (c : Char)
  | bad
  deriving DecidableEq, Repr

def isLetter (c : Char) : Bool := ('a' ≤ c && c ≤ 'z') || ('A' ≤ c && c ≤ 'Z') || c == '_'
def isDigit (c : Char) : Bool := '0' ≤ c && c ≤ '9'
def isWord (c : Char) : Bool := isLetter c || isDigit c
def isSpace (c : Char) : Bool := c == ' ' || c == '\t' || c == '\r'
/-- Letter case does not count in mnemonics, modifiers and register names. -/
def upc (c : Char) : Char := if 'a' ≤ c && c ≤ 'z' then Char.ofNat (c.toNat - 32) else c
def up (s : Name) : Name := s.map upc
def trim (s : Name) : Name := ((s.dropWhile isSpace).reverse.dropWhile isSpace).reverse

/-- An identifier: a letter or underscore, then letters, digits and underscores. -/
def isIdent : Name → Bool
  | c :: cs => isLetter c && cs.all isWord
  | [] => false

/-- The value of a digit in a base. -/
def digit (base : Nat) (c : Char) : Option Nat :=
  let v := if isDigit c then c.toNat - 48 else if 'A' ≤ c && c ≤ 'F' then c.toNat - 55 else 99
  if v < base then some v else none

/-- The value of a list of digits. -/
def digits (base : Nat) : Name → Nat → Option Nat
  | [], v => some v
  | c :: cs, v =>
    match digit base c with
    | some d => digits base cs (v * base + d)
    | none => none

/-- Digits in a base, at least one. -/
def digits1 (base : Nat) (s : Name) : Option Nat := if s.isEmpty then none else digits base s 0

/-- An integer: decimal, 0x or 0b, with underscores, and for a decimal a suffix K, M or G; below 2^64. -/
def parseNum (s : Name) : Option Nat :=
  let r :=
    match (up s).filter (· != '_') with
    | '0' :: 'X' :: t => digits1 16 t
    | '0' :: 'B' :: t => digits1 2 t
    | t =>
      match t.reverse with
      | 'K' :: u => (digits1 10 u.reverse).map (· * 2 ^ 10)
      | 'M' :: u => (digits1 10 u.reverse).map (· * 2 ^ 20)
      | 'G' :: u => (digits1 10 u.reverse).map (· * 2 ^ 30)
      | _ => digits1 10 t
  match r with
  | some n => if n < 2 ^ 64 then some n else none
  | none => none

/-- A word of letters, digits and underscores as a token. -/
def wordTok (w : Name) : Tok :=
  if isIdent w then .name w
  else
    match parseNum w with
    | some n => .num n
    | none => .bad

/-- Tokens of a text; w is the word being read, reversed. -/
def lex : Name → Name → List Tok
  | [], w => if w.isEmpty then [] else [wordTok w.reverse]
  | c :: cs, w =>
    if isWord c then lex cs (c :: w)
    else
      (if w.isEmpty then [] else [wordTok w.reverse]) ++
      (if isSpace c then lex cs [] else .sym (if c == '−' then '-' else if c == '×' then '*' else c) :: lex cs [])

/-- The symbols an expression may name. -/
abbrev Syms := List (Name × DWord)
def Syms.find (y : Syms) (s : Name) : Option DWord := (y.lookup s)

/-- Reading an expression (64-bit values): level 0 shifts, 1 sums, 2 products, 3 atoms; acc is the value to the left.
The first number bounds the depth. -/
def expr (sy : Name → Option DWord) : Nat → Nat → Option DWord → List Tok → Option (DWord × List Tok)
  | 0, _, _, _ => none
  | n + 1, lv, none, ts =>
    if lv < 3 then
      match expr sy n (lv + 1) none ts with
      | some (v, r) => expr sy n lv (some v) r
      | none => none
    else
      match ts with
      | .num v :: r => some (BitVec.ofNat 64 v, r)
      | .name x :: r =>
        match sy x with
        | some v => some (v, r)
        | none => none
      | .sym '-' :: r =>
        match expr sy n 3 none r with
        | some (v, r) => some (-v, r)
        | none => none
      | .sym '(' :: r =>
        match expr sy n 0 none r with
        | some (v, .sym ')' :: r) => some (v, r)
        | _ => none
      | _ => none
  | n + 1, lv, some v, ts =>
    let next := fun (f : DWord → DWord) (r : List Tok) => expr sy n lv (some (f v)) r
    match lv, ts with
    | 0, .sym '<' :: .sym '<' :: r =>
      match expr sy n 1 none r with
      | some (w, r) => next (fun v => if w.toNat < 64 then v <<< w.toNat else 0) r
      | none => none
    | 0, .sym '>' :: .sym '>' :: r =>
      match expr sy n 1 none r with
      | some (w, r) => next (fun v => if w.toNat < 64 then v >>> w.toNat else 0) r
      | none => none
    | 1, .sym '+' :: r =>
      match expr sy n 2 none r with
      | some (w, r) => next (· + w) r
      | none => none
    | 1, .sym '-' :: r =>
      match expr sy n 2 none r with
      | some (w, r) => next (· - w) r
      | none => none
    | 2, .sym '*' :: r =>
      match expr sy n 3 none r with
      | some (w, r) => next (· * w) r
      | none => none
    | _, _ => some (v, ts)

/-! ## One line -/

/-- What assembling one line may look at: whether value-dependent rules are enforced, the symbols, the address of the
line's first word, and the judgement of a finished unit. -/
structure Env where
  strict : Bool
  syms : Syms
  here : DWord
  legal : UnitWords → Option Word

/-- A symbol's value; while addresses are still being settled an unknown one counts as 0. -/
def Env.sym (e : Env) (s : Name) : Option DWord :=
  match e.syms.find s with
  | some v => some v
  | none => if e.strict then none else some 0

/-- A value-dependent rule. -/
def Env.chk (e : Env) (b : Bool) : Option Unit := if b || !e.strict then some () else none

/-- A whole operand as an expression. -/
def Env.val (e : Env) (ts : List Tok) : Option DWord :=
  match expr e.sym (8 * ts.length + 8) 0 none ts with
  | some (v, []) => some v
  | _ => none

/-- An expression from lo to hi, read as a signed 64-bit value. -/
def Env.int (e : Env) (lo hi : Int) (ts : List Tok) : Option DWord := do
  let v ← e.val ts
  e.chk (decide (lo ≤ v.toInt) && decide (v.toInt ≤ hi))
  pure v

/-- An unsigned expression up to hi. -/
def Env.nat (e : Env) (hi : Nat) (ts : List Tok) : Option Nat := (e.int 0 hi ts).map (·.toNat)

/-! ## Operands (R80) -/

/-- A register name: its letter and its number. -/
def regOf (s : Name) : Option (Char × Nat) :=
  match up s with
  | c :: ds =>
    match (digits1 10 ds) with
    | some n =>
      let lim := if c == 'V' then 64 else if c == 'S' then 256
        else if c == 'P' || c == 'Q' || c == 'M' || c == 'G' || c == 'C' then 8 else 0
      if n < lim then some (c, n) else none
    | none => none
  | [] => none

/-- A register of a kind, by its name. -/
def regNo (k : Char) (s : Name) : Option Nat :=
  match regOf s with
  | some (c, n) => if c == k then some n else none
  | none => none

/-- A register operand of n registers: its first register, or the whole group. -/
def reg (k : Char) (n : Nat) : List Tok → Option Nat
  | [.name x] => regNo k x
  | [.name x, .sym ':', .name y] => do
    let a ← regNo k x
    let b ← regNo k y
    if n > 1 && b + 1 == a + n then pure a else none
  | _ => none

/-- Whether an operand is written as a register of a program (G and C name registers of pattern words only). -/
def isReg : List Tok → Bool
  | .name x :: _ =>
    match regOf x with
    | some (c, _) => c != 'G' && c != 'C'
    | none => false
  | _ => false

/-- A predicate source with an optional `!`: bit 3 is the negation. -/
def predSrc : List Tok → Option Nat
  | [.sym '!', .name x] => (regNo 'P' x).map (· + 8)
  | [.name x] => regNo 'P' x
  | _ => none

/-- A bracketed operand. -/
def bracket : List Tok → Option (List Tok)
  | .sym '[' :: r =>
    match r.reverse with
    | .sym ']' :: m => some m.reverse
    | _ => none
  | _ => none

/-- An even pair in an address: the first register. -/
def pairOf (k : Char) (x y : Name) : Option Nat :=
  match regNo k x, regNo k y with
  | some a, some b => if b == a + 1 && a % 2 == 0 then some a else none
  | _, _ => none

/-- What follows a register or pair in an address: nothing, or a signed expression. -/
def Env.disp (e : Env) : List Tok → Option DWord
  | [] => some 0
  | .sym '+' :: r => e.val r
  | .sym '-' :: r => e.val (.num 0 :: .sym '-' :: r)
  | _ => none

/-- `[Sb:Sb+1 + Va + disp]`: the scalar pair, A and the displacement. -/
def Env.memSV (e : Env) (ts : List Tok) : Option (Nat × Nat × DWord) :=
  match bracket ts with
  | some (.name x :: .sym ':' :: .name y :: .sym '+' :: .name z :: r) => do
    let p ← pairOf 'S' x y
    let a ← regNo 'V' z
    let d ← e.disp r
    pure (p, a, d)
  | _ => none

/-- `[Va:Va+1 + disp]`. -/
def Env.memV (e : Env) (ts : List Tok) : Option (Nat × DWord) :=
  match bracket ts with
  | some (.name x :: .sym ':' :: .name y :: r) => do
    let a ← pairOf 'V' x y
    let d ← e.disp r
    pure (a, d)
  | _ => none

/-- `[Sb:Sb+1 + off]`. -/
def Env.memS (e : Env) (ts : List Tok) : Option (Nat × DWord) :=
  match bracket ts with
  | some (.name x :: .sym ':' :: .name y :: c :: r) => do
    let p ← pairOf 'S' x y
    let d ← e.disp (c :: r)
    pure (p, d)
  | _ => none

/-! ## Modifiers (R81) -/

/-- The modifiers of a mnemonic, each given at most once. -/
structure Mods where
  rnd : Option Nat := none
  scope : Option Nat := none
  cache : Option Nat := none
  order : Option Nat := none
  t : Option Nat := none
  con : Option Nat := none
  mem : Option Nat := none
  ord : Option Nat := none
  size : Option Nat := none
  deriving DecidableEq, Repr

/-- The place of a name in a list of names. -/
def place (l : List String) (s : Name) : Option Nat := l.findIdx? fun x => x.toList == s

def rndNames : List String := ["RN", "RZ", "RU", "RD", "RS", "RNA"]
def scopeNames : List String := ["TEAM", "DIE", "DEV", "SYS", "GANG"]
def sizeNames : List String := ["N8", "S8", "N16", "S16", "B32", "B64", "B128", "TY"]

/-- Setting a modifier that is not set. -/
def once (o : Option Nat) (v : Nat) : Option (Option Nat) := if o.isNone then some (some v) else none

/-- Adding one modifier. -/
def Env.addMod (e : Env) (m : Mods) (s : Name) : Option Mods :=
  let u := up s
  match u with
  | 'O' :: 'R' :: 'D' :: '=' :: _ => do
    let v ← e.nat 63 (lex (s.drop 4) [])
    let x ← once m.ord v
    pure { m with ord := x }
  | _ =>
    match place rndNames u with
    | some v => (once m.rnd v).map fun x => { m with rnd := x }
    | none =>
    match place scopeNames u with
    | some v => (once m.scope v).map fun x => { m with scope := x }
    | none =>
    match place sizeNames u with
    | some v => (once m.size v).map fun x => { m with size := x }
    | none =>
    match place ["STRM", "L2", "KEEP"] u with
    | some v => (once m.cache (v + 1)).map fun x => { m with cache := x }
    | none =>
    match place ["ACQ", "REL", "AR"] u with
    | some v => (once m.order (v + 1)).map fun x => { m with order := x }
    | none =>
    match place ["M0", "M1", "M2", "M3", "M4", "M5", "M6"] u with
    | some v => (once m.mem v).map fun x => { m with mem := x }
    | none =>
    match place ["T", "CONSUME"] u with
    | some 0 => (once m.t 1).map fun x => { m with t := x }
    | some _ => (once m.con 1).map fun x => { m with con := x }
    | none => none

/-- Adding modifiers in turn. -/
def Env.addMods (e : Env) : List Name → Mods → Option Mods
  | [], m => some m
  | s :: r, m =>
    match e.addMod m s with
    | some m => e.addMods r m
    | none => none

/-- The HMOD value of the modifiers that the base word does not carry (R70, R82). -/
def Mods.hmod (m : Mods) : Option Nat :=
  let f := fun (o : Option Nat) => o.getD 0
  if m.rnd.isSome || m.scope.isSome || m.cache.isSome || m.order.isSome || m.t.isSome || m.con.isSome then
    some (f m.con * 2 ^ 13 + f m.t * 2 ^ 12 + (if m.scope.isSome then 2 ^ 11 else 0) + f m.scope * 2 ^ 8 + f m.cache * 2 ^ 6 +
      f m.order * 2 ^ 4 + (if m.rnd.isSome then 8 else 0) + f m.rnd)
  else none

/-! ## Mnemonics -/

/-- The operand forms of the instruction chapters. -/
inductive Kind where
  /-- Vd, Va, Vb with group lengths; no Vb when the last is 0, no Va when the middle is 0 (R103, R104, R126, R392). -/
  | vr (d a b : Nat)
  /-- BFX, with the four-operand form of R105. -/
  | bfx
  /-- CVT.mode.code (R146). -/
  | cvt
  | rupd
  /-- Cross-fibre Vd, Va[, Vb] (R169 to R175). -/
  | xf (d b : Nat)
  | shflx | voteQ | voteM | bcast | fidx
  /-- Vector immediate; whether the short field is signed (R107). -/
  | vi (signed : Bool)
  | ishi | imovi
  /-- Compares, with the length of the sources (R110, R119). -/
  | cp (n : Nat)
  | sc (n : Nat)
  | v4 (d c : Nat)
  | vs | movs | pr3 | pr2
  | sr (n : Nat)
  | smov | saddi | smovi | smovh
  /-- MASK: letters of the register operands after one another, in fields d, a, b (R121). -/
  | mk (ks : List Char)
  /-- MPOPC, MFFS, MTOS: Sn, Ma, and STOM: Md, Sn. -/
  | mkS (n : Nat)
  | stom
  | bra | bru | brm | brx | ret
  | win (signed : Bool)
  | ld | st | ldv | stv | lds | sts
  /-- ATOM and RED with their width in registers (R234). -/
  | am (atom : Bool) (n : Nat)
  | fence | fencePkg | waita
  /-- LJOIN and LSTC, LLD, LWAIT (R243): the ORDER that X[0] stands for, 0 for none. -/
  | latSt | latLd (ord : Nat)
  /-- ENG commands with their options (R251). -/
  | eng (opts : List (String × Nat))
  | barf | prio
  | trd | twr | tatom
  | csrr | csrw
  /-- SYS words with one scalar operand of n registers (R98). -/
  | sysS (n : Nat)
  | perfrd
  /-- CTRL payloads up to a value (R159). -/
  | ct (hi : Nat)
  | bare
  /-- An explicit hint (R82). -/
  | hint
  | htgt
  deriving DecidableEq, Repr

/-- A mnemonic: its parts, its form and its base word. -/
abbrev Row := List Name × Kind × Nat

/-- Splitting at a character. -/
def splitOn (c : Char) : Name → Name → List Name
  | [], w => [w.reverse]
  | x :: xs, w => if x == c then w.reverse :: splitOn c xs [] else splitOn c xs (x :: w)

/-- Mnemonics of one form whose words differ by a constant. -/
def rows (k : Kind) (base stp : Nat) (names : List String) : List Row :=
  names.zipIdx.map fun x => (splitOn '.' x.1.toList [], k, base + stp * x.2)

/-- One mnemonic with a suffix list: compares, waits and atomics. -/
def suffixed (pre : String) (k : Kind) (base stp : Nat) (names : List String) : List Row :=
  names.zipIdx.map fun x => (pre.toList :: splitOn '.' x.1.toList [], k, base + stp * x.2)

def vectorRows : List Row :=
  rows (.vr 1 1 1) 0x08000000 1 ["IADD", "ISUB", "IMUL", "IMULH.S", "IMULH.N", "IAND", "IOR", "IXOR", "IANDN", "SHL", "SHR",
    "SHA", "IMIN.S", "IMIN.N", "IMAX.S", "IMAX.N"] ++
  rows (.vr 2 2 2) 0x0C000000 1 ["IADD.64", "ISUB.64"] ++
  rows (.vr 2 2 1) 0x0C000002 1 ["SHL.64", "SHR.64", "SHA.64"] ++
  rows (.vr 1 1 0) 0x0C000005 1 ["IABS", "INEG", "POPC", "CLZ", "BREV"] ++
  rows .bfx 0x0C00000A 1 ["BFX.N", "BFX.S"] ++
  rows (.vr 1 1 1) 0x0C00000C 1 ["PRMT", "ISAD"] ++
  rows (.vr 1 1 0) 0x0C00000E 1 ["MOV"] ++
  rows (.vr 1 1 1) 0x0C00000F 1 ["SEL"] ++
  rows (.vi true) 0x10000000 1 ["IADDI"] ++
  rows (.vi false) 0x14000000 0x04000000 ["IANDI", "IORI", "IXORI"] ++
  rows .ishi 0x20000000 0x100 ["ISHI.SHL", "ISHI.SHR", "ISHI.SHA", "ISHI.ROT"] ++
  rows .imovi 0x24000000 1 ["IMOVI"] ++
  suffixed "ICMP" (.cp 1) 0x28000000 0x400000 ["EQ", "NE", "LT.S", "LE.S", "GT.S", "GE.S", "LT.N", "LE.N", "GT.N", "GE.N"] ++
  suffixed "ICMP" (.cp 2) 0x2A800000 0x400000 ["EQ.64", "NE.64", "LT.S64", "LT.N64"] ++
  suffixed "ICMP" (.cp 1) 0x2B800000 0x400000 ["TST", "TSTZ"] ++
  rows (.v4 1 1) 0x2C000000 1 ["IMAD", "IMADH.S", "IMADH.N"] ++
  rows (.v4 2 2) 0x2C000003 1 ["IMAD.W"] ++
  rows (.v4 1 1) 0x30000000 1 ["BFI", "DP4.S8", "DP4.N8", "DP2.S16"] ++
  rows (.vr 1 1 1) 0x34000000 1 ["FADD", "FSUB", "FMUL", "FDIV", "FMIN", "FMAX", "FCSGN", "FABD"] ++
  rows (.vr 1 1 1) 0x38000000 1 ["HADD2", "HSUB2", "HMUL2", "HMIN2", "HMAX2"] ++
  rows (.vr 1 1 1) 0x38000008 1 ["BADD2", "BSUB2", "BMUL2", "BMIN2", "BMAX2"] ++
  rows (.v4 1 1) 0x3C000000 1 ["FFMA", "FFMS", "FFNMA", "FFNMS"] ++
  rows (.v4 1 1) 0x40000000 1 ["HFMA2", "BFMA2", "HFMA2.F32", "BFMA2.F32"] ++
  suffixed "FCMP" (.cp 1) 0x44000000 0x400000 ["EQ", "NE", "LT", "LE", "GT", "GE", "NUM", "NAN", "EQU", "NEU", "LTU", "LEU",
    "GTU", "GEU", "TLT", "TEQ"] ++
  rows (.vr 1 1 0) 0x48000000 1 ["FRCP", "FRSQ", "FSQRT", "FEX2", "FLG2", "FSIN", "FCOS", "FTANH", "FRND.RN", "FRND.RZ",
    "FRND.RU", "FRND.RD", "FCLASS"] ++
  rows (.vr 1 1 1) 0x4800000D 1 ["FLDEXP"] ++
  rows (.vr 1 1 0) 0x4800000E 1 ["FFREXP.M", "FFREXP.E"] ++
  rows .cvt 0x4C000000 1 ["CVT"] ++
  rows .vs 0x50000000 1 ["FADD.S", "FMUL.S", "FMAX.S", "FMIN.S"] ++
  rows .vs 0x54000000 1 ["IADD.S", "IMUL.S", "IAND.S"] ++
  rows .movs 0x54000003 1 ["MOV.S"] ++
  rows .pr3 0x58000000 0x400000 ["PAND", "POR", "PXOR"] ++
  rows .pr2 0x58C00000 1 ["PMOV"]

def gangRows : List Row :=
  rows (.xf 1 1) 0x5C000000 2 ["SHFL", "SHFLU"] ++
  rows .shflx 0x5C000001 1 ["SHFLX"] ++
  rows (.xf 1 1) 0x5C000003 12 ["SHFLD", "XSHF"] ++
  rows (.xf 1 0) 0x5C000004 1 ["RDX.IADD", "RDX.IMIN.S", "RDX.IMAX.S", "RDX.FADD", "RDX.FMIN", "RDX.FMAX", "SCAN.IADD",
    "SCAN.IADDX", "SCAN.FADD", "SCAN.FADDX"] ++
  rows (.xf 2 0) 0x5C00000E 1 ["MATCH"] ++
  rows .voteQ 0x60000000 1 ["VOTE.ANY", "VOTE.ALL", "VOTE.EQ"] ++
  rows .voteM 0x60000003 1 ["VOTE.BAL"] ++
  rows .bcast 0x60000004 1 ["BCAST"] ++
  rows (.xf 2 1) 0x60000005 1 ["RBAL"] ++
  rows .fidx 0x61C00006 1 ["FIDX"] ++
  rows (.sr 1) 0x64000000 0x01000000 ["SADD", "SSUB", "SMUL", "SMULH.N", "SAND", "SOR", "SXOR", "SANDN", "SSHL", "SSHR",
    "SSHA", "SROT", "SMIN.S", "SMIN.N", "SMAX.S", "SMAX.N"] ++
  rows (.sr 2) 0x74000000 0x01000000 ["SADD.64", "SSUB.64"] ++
  rows .smov 0x76000000 1 ["SMOV"] ++
  rows (.sr 1) 0x77000000 1 ["SSEL"] ++
  suffixed "SCMP" (.sc 1) 0x78000000 0x400000 ["EQ", "NE", "LT.S", "LE.S", "GT.S", "GE.S", "LT.N", "LE.N", "GT.N", "GE.N"] ++
  suffixed "SCMP" (.sc 2) 0x7A800000 0x400000 ["EQ.64", "LT.N64"] ++
  suffixed "SCMP" (.sc 1) 0x7B000000 0x400000 ["TST"] ++
  rows .saddi 0x7C000000 1 ["SADDI"] ++ rows .smovi 0x80000000 1 ["SMOVI"] ++ rows .smovh 0x84000000 1 ["SMOVH"] ++
  rows (.mk ['M', 'M', 'M']) 0x88000000 0x400000 ["MAND", "MOR", "MXOR", "MANDN"] ++
  rows (.mk ['M', 'M']) 0x89000000 1 ["MNOT"] ++
  rows (.mkS 1) 0x89400000 0x400000 ["MPOPC", "MFFS"] ++
  rows (.mkS 2) 0x89C00000 1 ["MTOS"] ++ rows .stom 0x8A000000 1 ["STOM"] ++
  rows (.mk ['Q', 'M', 'M']) 0x8A400000 1 ["MQ"] ++
  rows (.mk ['Q', 'Q', 'Q']) 0x8A800000 0x400000 ["QAND", "QOR"] ++
  rows (.mk ['Q', 'Q']) 0x8B000000 1 ["QNOT"] ++
  rows .bra 0x8C000000 0x0C000000 ["BRA", "CALL"] ++ rows .bru 0x90000000 1 ["BRU"] ++ rows .brm 0x94000000 1 ["BRM"] ++
  rows .brx 0x9C000000 2 ["BRX", "CALLX"] ++ rows .ret 0x9C000001 1 ["RET"] ++
  rows (.win false) 0xA0000000 1 ["WINSET"] ++ rows (.win true) 0xA0100000 1 ["WINADD"] ++
  rows .bare 0x04000000 0x400000 ["NOP", "EXIT", "YIELD"] ++
  rows (.ct 7) 0x04C00000 1 ["WAITB"] ++ rows (.ct 0xFFFF) 0x05000000 0x400000 ["BKPT", "TRAP"] ++
  rows (.ct 3) 0x05800000 1 ["TRET"]

/-- ATOM or RED (R234). -/
def atomRows (pre : String) (atom : Bool) (base : Nat) : List Row :=
  suffixed pre (.am atom 1) base 0x400000 ["IADD", "IMIN.S", "IMIN.N", "IMAX.S", "IMAX.N", "AND", "OR", "XOR", "EXCH"] ++
  suffixed pre (.am atom 2) (base + 0x2400000) 0x400000 ["CAS", "IADD.64"] ++
  suffixed pre (.am atom 4) (base + 0x2C00000) 1 ["CAS.64"] ++
  suffixed pre (.am atom 1) (base + 0x3000000) 0x400000 ["FADD", "FMIN", "FMAX"]

def memoryRows : List Row :=
  rows .ld 0xA4000000 1 ["LD"] ++ rows .ldv 0xA8000000 1 ["LDV"] ++ rows .st 0xAC000000 1 ["ST"] ++
  rows .stv 0xB0000000 1 ["STV"] ++ rows .lds 0xB4000000 1 ["LDS"] ++ rows .sts 0xB8000000 1 ["STS"] ++
  atomRows "ATOM" true 0xBC000000 ++ atomRows "RED" false 0xC0000000 ++
  suffixed "FENCE" .fence 0xC4000000 0x400000 ["REL", "ACQ", "AR", "SC"] ++ suffixed "FENCE" .fencePkg 0xC5000000 1 ["PKG"] ++
  suffixed "WAITA" .waita 0xC8000000 0x400000 ["EQ", "NE", "LT.S", "LE.S", "GT.S", "GE.S", "LT.N", "LE.N", "GT.N", "GE.N",
    "ANYSET", "ALLCLR"] ++
  rows .latSt 0xCC000000 0x400000 ["LJOIN", "LSTC"] ++ rows (.latLd 0) 0xCC800000 1 ["LLD"] ++
  rows (.latLd 1) 0xCCC00000 1 ["LWAIT"] ++ rows .bare 0xCD000000 1 ["LSYNC"]

def engineRows : List Row :=
  let ev := ("EV", 32)
  rows (.eng []) 0xD0000000 0x400000 ["TALLOC", "TFREE", "TTAG", "TWAIT"] ++
  rows (.eng [ev]) 0xD1000000 0x400000 ["TLD", "TST", "TLDT"] ++
  rows (.eng [ev, ("T", 1)]) 0xD1C00000 1 ["TCOPY"] ++
  rows (.eng [ev]) 0xD2000000 0x400000 ["TFILL", "TSTC", "TLDC", "TCVT"] ++
  rows .trd 0xD4000000 0x02000000 ["TRD", "TRDT"] ++ rows .twr 0xD5000000 1 ["TWR"] ++
  suffixed "TATOM" .tatom 0xD7000000 1 ["IADD", "IMIN.S", "IMIN.N", "IMAX.S", "IMAX.N", "AND", "OR", "XOR", "EXCH", "FADD",
    "FMIN", "FMAX"] ++
  rows (.eng []) 0xD8000000 0x400000 ["OCLAIM", "OREL"] ++
  rows (.eng [ev]) 0xD8800000 0x400000 ["OFILL", "OFILL.S24", "OFILL.G"] ++ rows (.eng []) 0xD9400000 1 ["OWAIT"] ++
  rows (.eng [ev]) 0xDC000000 0x400000 ["MMA", "MMAS", "MMAT", "SPMM"] ++
  rows (.eng [ev, ("MAT", 1), ("VI", 2)]) 0xE0000000 1 ["PGEN"] ++
  rows (.eng [ev, ("AND", 1), ("KZ", 2)]) 0xE0400000 1 ["PMERGE"] ++
  rows (.eng []) 0xE0800000 0x400000 ["PLOAD", "PFREE"] ++
  rows (.eng [ev, ("MEM", 1)]) 0xE4000000 1 ["STREAM"] ++ rows (.eng [ev, ("BG", 1)]) 0xE4400000 1 ["HCOPY"] ++
  rows (.eng [ev]) 0xE4800000 1 ["SNAP"] ++ rows (.eng []) 0xE4C00000 1 ["CWAIT"] ++
  rows (.eng [("NB", 1)]) 0xE5000000 1 ["EVPOP"] ++ rows (.eng []) 0xE5400000 0x400000 ["SHDEF", "SHFREE"] ++
  rows (.eng []) 0xE8000000 0x400000 ["SPAWN", "SPAWNN", "SPAWNA"] ++ rows .bare 0xE8C00000 1 ["SYNC"] ++
  rows (.eng []) 0xE9000000 1 ["LAUNCH"] ++ rows .barf 0xE9400000 1 ["BARF"] ++
  rows (.eng []) 0xE9800000 0x400000 ["PEDRD", "PEDCMP", "PALLOC"] ++
  rows (.eng [("MEM", 1)]) 0xEA400000 1 ["RVIEW"] ++ rows (.eng []) 0xEA800000 1 ["OSKIP"] ++
  rows .prio 0xEAC00000 1 ["PRIO"] ++
  rows (.vr 1 0 0) 0xEC000000 1 ["PRAND", "PRANDF"] ++ rows .rupd 0xEC000002 1 ["RUPD"] ++
  rows .csrr 0xF0000000 1 ["CSRR"] ++ rows .csrw 0xF0400000 1 ["CSRW"] ++
  rows (.sysS 2) 0xF0800000 1 ["CLOCK"] ++ rows (.sysS 1) 0xF0C00000 1 ["LOCQ"] ++ rows .perfrd 0xF1000000 1 ["PERFRD"] ++
  rows (.sysS 2) 0xF1400000 0x400000 ["TLBINV", "CTXSV", "CTXLD"] ++
  rows .hint 0xFC000000 0x400000 ["HIMM", "HMOD", "HGRD"] ++ rows .htgt 0xFCC00000 1 ["HTGT"] ++
  rows .hint 0xFD000000 1 ["HSEQ"]

def allRows : List Row := vectorRows ++ gangRows ++ memoryRows ++ engineRows

/-- What follows the parts of a name in the parts of a written mnemonic. -/
def restOf : List Name → List Name → Option (List Name)
  | [], ws => some ws
  | p :: ps, w :: ws => if p == up w then restOf ps ws else none
  | _ :: _, [] => none

/-- The mnemonic with the most parts that a written one begins with, and the parts that follow it. -/
def mnemonic (ws : List Name) : Option (Kind × Nat × List Name) :=
  (allRows.foldl (fun (best : Option (Nat × Kind × Nat × List Name)) r =>
    match restOf r.1 ws with
    | none => best
    | some t =>
      match best with
      | some b => if b.1 < r.1.length then some (r.1.length, r.2.1, r.2.2, t) else best
      | none => some (r.1.length, r.2.1, r.2.2, t)) none).map (·.2)

/-- CVT names (R146) from code 1, with the lengths of D and A (R79). -/
def cvtNames : List (String × Nat × Nat) :=
  [("F32_F16", 1, 1), ("F32_BF16", 1, 1), ("F32_F8A", 1, 1), ("F32_F8B", 1, 1), ("F16_F32", 1, 1), ("BF16_F32", 1, 1),
   ("F8A_F32", 1, 1), ("F8B_F32", 1, 1), ("F16X2_F32", 1, 2), ("BF16X2_F32", 1, 2), ("F8AX4_F32", 1, 4),
   ("F8BX4_F32", 1, 4), ("F32_F16X2", 2, 1), ("F32_BF16X2", 2, 1), ("F32_F8AX4", 4, 1), ("F32_F8BX4", 4, 1),
   ("S32_F32", 1, 1), ("N32_F32", 1, 1), ("F32_S32", 1, 1), ("F32_N32", 1, 1), ("S64_F32", 2, 1), ("F32_S64", 1, 2),
   ("S16_F32", 1, 1), ("S8_F32", 1, 1), ("N8_F32", 1, 1), ("S8X4_S32", 1, 4), ("N8X4_S32", 1, 4), ("S32_S8X4", 4, 1),
   ("S16X2_S32", 1, 2), ("T2X16_S8X16", 1, 4), ("S8X16_T2X16", 4, 1), ("F16_BF16", 1, 1), ("BF16_F16", 1, 1)]

/-- A conversion code by name or number, with the lengths of D and A. -/
def cvtCode (s : Name) : Option (Nat × Nat × Nat) :=
  match cvtNames.zipIdx.find? fun x => x.1.1.toList == up s with
  | some x => some (x.2 + 1, x.1.2.1, x.1.2.2)
  | none => (parseNum s).bind fun n => (cvtNames[n - 1]?).bind fun x => if n = 0 then none else some (n, x.2.1, x.2.2)

/-- CSR names (R97). -/
def csrNames : List (String × Nat) :=
  [("STAT", 0), ("STATARM", 1), ("SEED", 2), ("DETMODE", 3), ("WIDTH", 4), ("GANGID", 5), ("TEAMID", 6), ("NGANGS", 7),
   ("NTEAMS", 8), ("LAUNCHID", 9), ("DEPTH", 0x0A), ("LXS", 0x10), ("LXP", 0x11), ("CPYSHARE", 0x12), ("TVEC", 0x20),
   ("TCAUSE", 0x21), ("TEPC", 0x22), ("TMASK", 0x23), ("TMASKH", 0x24), ("TADDR", 0x25), ("TADDRH", 0x26), ("TINFO", 0x27)] ++
  ["PERFSEL0", "PERFSEL1", "PERFSEL2", "PERFSEL3", "PERFSEL4", "PERFSEL5", "PERFSEL6", "PERFSEL7", "PERFSEL8", "PERFSEL9",
   "PERFSEL10", "PERFSEL11", "PERFSEL12", "PERFSEL13", "PERFSEL14", "PERFSEL15"].zipIdx.map fun x => (x.1, 0x30 + x.2)

/-- A CSR by name or number. -/
def Env.csr (e : Env) (ts : List Tok) : Option Nat :=
  match ts with
  | [.name x] =>
    match csrNames.find? fun c => c.1.toList == up x with
    | some c => some c.2
    | none => e.nat 0xFFF ts
  | _ => e.nat 0xFFF ts

/-! ## Units (R82) -/

/-- The words of a unit as they are built. -/
structure Made where
  hseq : Option Nat := none
  hgrd : Option Nat := none
  hmod : Option Nat := none
  himm : Option Nat := none
  main : Nat
  tgts : List Nat := []
  deriving DecidableEq, Repr

/-- Hints in the order HSEQ, HGRD, HMOD, HIMM (R82). -/
def Made.hints (u : Made) : List Nat :=
  let h := fun (k : Nat) (o : Option Nat) => match o with | some v => [0xFC000000 + 0x400000 * k + v] | none => []
  h 4 u.hseq ++ h 2 u.hgrd ++ h 1 u.hmod ++ h 0 u.himm

/-- A value as the 22 bits of HIMM, when it is their sign extension. -/
def Env.hv (e : Env) (v : Int) : Option Nat := do
  e.chk (decide (-(2 : Int) ^ 21 ≤ v) && decide (v < 2 ^ 21))
  pure (v % 2 ^ 22).toNat

/-- Whether a value is a 32-bit one, read signed or unsigned (R83). -/
def is32 (v : DWord) : Bool := decide (-(2 : Int) ^ 31 ≤ v.toInt) && decide (v.toInt < 2 ^ 32)

/-- The B operand: a register, or an immediate that HIMM supplies with B = 0 (R69). wide: B is a pair. -/
def Env.opB (e : Env) (k : Char) (n : Nat) (ts : List Tok) : Option (Nat × Option Nat) :=
  if isReg ts then (reg k n ts).map fun b => (b, none)
  else do
    let v ← e.val ts
    e.chk (is32 v)
    let h ← e.hv (if n = 2 then v.toInt else (v.setWidth 32).toInt)
    pure (0, some h)

/-- The 32-bit immediate of VI and SI words: short field and HIMM value (R107, R120). -/
def Env.immI (e : Env) (lo hi : Int) (ts : List Tok) : Option (Nat × Option Nat) := do
  let v ← e.val ts
  e.chk (is32 v)
  if lo ≤ v.toInt ∧ v.toInt ≤ hi then pure (v.toNat % 1024, none)
  else pure (v.toNat % 1024, some (v.toNat / 1024 % 2 ^ 22))

/-- A branch's word offset from the word at `at_` (R62). -/
def Env.off (e : Env) (at_ : DWord) (ts : List Tok) : Option Nat := do
  let v ← e.val ts
  let d := (v - at_).toInt
  e.chk (decide (d % 4 = 0))
  e.hv (d / 4)

/-- Options joined by `+`: the sum of their X bits, each at most once (R251). -/
def options (l : List (String × Nat)) : List Tok → Nat → Option Nat
  | [.name x], s => pick x s
  | .name x :: .sym '+' :: r, s =>
    match pick x s with
    | some t => options l r t
    | none => none
  | _, _ => none
where
  pick (x : Name) (s : Nat) : Option Nat :=
    match l.find? fun o => o.1.toList == up x with
    | some o => if s / o.2 % 2 == 1 then none else some (s + o.2)
    | none => none

/-- Access size in registers (R63, R81). -/
def sizeRegs (z : Nat) : Nat := if z = 5 then 2 else if z = 6 then 4 else 1
/-- Access size in bytes. -/
def sizeBytes (z : Nat) : Nat := if z < 2 then 1 else if z < 4 then 2 else if z = 5 then 8 else if z = 6 then 16 else 4

/-- Which forms carry GD, which take HGRD, and which take a size, a member set or `.ORD`. -/
def Kind.gd : Kind → Bool
  | .vr .. | .bfx | .cvt | .rupd | .vi _ | .ishi | .imovi | .vs | .movs | .bra | .bru | .brx | .ret | .win _ | .ld | .st
  | .ldv | .stv => true
  | _ => false
def Kind.hgrd : Kind → Bool
  | .cp _ | .v4 .. | .am .. | .trd | .twr | .tatom => true
  | _ => false
def Kind.sized : Kind → Bool
  | .ld | .st | .ldv | .stv | .lds | .sts | .waita | .trd | .twr => true
  | _ => false
def Kind.memb : Kind → Bool
  | .xf .. | .shflx | .voteQ | .voteM | .bcast => true
  | _ => false

/-- The pair of a guard and a target of BRM: `?Pa L`, and whether a target is written. -/
def Env.brmPair (e : Env) (ts : List Tok) : Option (Nat × Option Nat) :=
  let go := fun (neg : Nat) (x : Name) (r : List Tok) => do
    let p ← regNo 'P' x
    if r.isEmpty then pure (p + neg, none)
    else do
      let o ← e.off e.here r
      pure (p + neg, some o)
  match ts with
  | .sym '?' :: .sym '!' :: .name x :: r => go 8 x r
  | .sym '?' :: .name x :: r => go 0 x r
  | _ => none

/-- A scalar-memory word: OFF8 when the offset is a multiple of the size up to 255 times it, else HIMM (R232). -/
def Env.smWord (e : Env) (base : Nat) (m : Mods) (dst mem : List Tok) : Option Made := do
  let z := m.size.getD 4
  let d ← reg 'S' (sizeRegs z) dst
  let (p, o) ← e.memS mem
  let n := sizeBytes z
  let w := base + d * 2 ^ 18 + p / 2 * 2 ^ 11 + (if z = 6 then 7 else z) * 2 ^ 8
  e.chk (z != 7)
  if o.toNat % n = 0 ∧ o.toNat ≤ 255 * n then pure { hmod := m.hmod, main := w + o.toNat / n }
  else do
    let h ← e.hv o.toInt
    pure { hmod := m.hmod, himm := some h, main := w }

/-- A displacement: no hint for 0 (R69, R82). -/
def Env.himmDisp (e : Env) (d : DWord) : Option (Option Nat) := if d = 0 then some none else (e.hv d.toInt).map some

/-- The unit that a written instruction stands for, its guard already placed in the base word where the form has one.
The forms are those of the instruction chapters. R105 names the form with four operands as BFX.N; the model takes it of BFX.S
too, by its own choice (log 82). -/
def Env.form (e : Env) (k : Kind) (w : Nat) (gd : Nat) (hg : Option Nat) (m : Mods) (ops : List (List Tok)) : Option Made :=
  let g := gd * 2 ^ 22
  let mb := m.mem.getD 7 * 2 ^ 22
  let hm := m.hmod
  match k, ops with
  | .vr nd 0 _, [x] => do
    let d ← reg 'V' nd x
    pure { hmod := hm, main := w + g + d * 2 ^ 16 }
  | .vr nd na 0, [x, y] => do
    let d ← reg 'V' nd x
    let a ← reg 'V' na y
    pure { hmod := hm, main := w + g + d * 2 ^ 16 + a * 2 ^ 10 }
  | .vr nd na nb, [x, y, z] => do
    let d ← reg 'V' nd x
    let a ← reg 'V' na y
    let (b, h) ← e.opB 'V' nb z
    if na = 0 ∨ nb = 0 then none
    else pure { hmod := hm, himm := h, main := w + g + d * 2 ^ 16 + a * 2 ^ 10 + b * 2 ^ 4 }
  | .bfx, [x, y, z] => do
    let d ← reg 'V' 1 x
    let a ← reg 'V' 1 y
    let (b, h) ← e.opB 'V' 1 z
    pure { hmod := hm, himm := h, main := w + g + d * 2 ^ 16 + a * 2 ^ 10 + b * 2 ^ 4 }
  | .bfx, [x, y, z, l] => do
    let d ← reg 'V' 1 x
    let a ← reg 'V' 1 y
    let p ← e.nat 255 z
    let n ← e.nat 255 l
    pure { hmod := hm, himm := some (n % 256 * 256 + p % 256), main := w + g + d * 2 ^ 16 + a * 2 ^ 10 }
  | .rupd, [x, y, z] => do
    let d ← e.nat 63 x
    let a ← if y.length = 3 then reg 'V' 2 y else reg 'V' 1 y
    let (b, h) ← e.opB 'V' 1 z
    pure { hmod := hm, himm := h, main := w + g + d * 2 ^ 16 + a * 2 ^ 10 + b * 2 ^ 4 }
  | .xf nd 0, [x, y] => do
    let d ← reg 'V' nd x
    let a ← reg 'V' 1 y
    pure { hmod := hm, main := w + mb + d * 2 ^ 16 + a * 2 ^ 10 }
  | .xf nd (_ + 1), [x, y, z] => do
    let d ← reg 'V' nd x
    let a ← reg 'V' 1 y
    let b ← reg 'V' 1 z
    pure { hmod := hm, main := w + mb + d * 2 ^ 16 + a * 2 ^ 10 + b * 2 ^ 4 }
  | .shflx, [x, y, z] => do
    let d ← reg 'V' 1 x
    let a ← reg 'V' 1 y
    let i ← e.nat 63 z
    pure { hmod := hm, main := w + mb + d * 2 ^ 16 + a * 2 ^ 10 + i % 64 * 2 ^ 4 }
  | .voteQ, [x, y] => do
    let d ← reg 'Q' 1 x
    let a ← predSrc y
    pure { hmod := hm, main := w + mb + d * 2 ^ 16 + a * 2 ^ 10 }
  | .voteM, [x, y] => do
    let d ← reg 'M' 1 x
    let a ← predSrc y
    pure { hmod := hm, main := w + mb + d * 2 ^ 16 + a * 2 ^ 10 }
  | .bcast, [x, y] => do
    let d ← reg 'S' 1 x
    let a ← reg 'V' 1 y
    if d < 64 then pure { hmod := hm, main := w + mb + d * 2 ^ 16 + a * 2 ^ 10 } else none
  | .fidx, [x] => do
    let d ← reg 'V' 1 x
    pure { hmod := hm, main := w + d * 2 ^ 16 }
  | .vi s, [x, y, z] => do
    let d ← reg 'V' 1 x
    let a ← reg 'V' 1 y
    let (i, h) ← if s then e.immI (-512) 511 z else e.immI 0 1023 z
    pure { hmod := hm, himm := h, main := w + g + d * 2 ^ 16 + a * 2 ^ 10 + i }
  | .ishi, [x, y, z] => do
    let d ← reg 'V' 1 x
    let a ← reg 'V' 1 y
    let i ← e.nat 63 z
    pure { hmod := hm, main := w + g + d * 2 ^ 16 + a * 2 ^ 10 + i % 64 }
  | .imovi, [x, z] => do
    let d ← reg 'V' 1 x
    let v ← e.val z
    e.chk (is32 v)
    if -32768 ≤ v.toInt ∧ v.toInt ≤ 32767 then pure { hmod := hm, main := w + g + d * 2 ^ 16 + v.toNat % 2 ^ 16 }
    else pure { hmod := hm, himm := some (v.toNat / 1024 % 2 ^ 22), main := w + g + d * 2 ^ 16 + v.toNat % 1024 }
  | .cp n, [p, x, y] => do
    let d ← reg 'P' 1 p
    let a ← reg 'V' n x
    let (b, h) ← e.opB 'V' n y
    pure { hgrd := hg, hmod := hm, himm := h, main := w + d * 2 ^ 19 + 7 * 2 ^ 16 + a * 2 ^ 10 + b * 2 ^ 4 }
  | .cp n, [p, q, x, y] => do
    let d ← reg 'P' 1 p
    let c ← reg 'P' 1 q
    let a ← reg 'V' n x
    let (b, h) ← e.opB 'V' n y
    pure { hgrd := hg, hmod := hm, himm := h, main := w + d * 2 ^ 19 + c * 2 ^ 16 + a * 2 ^ 10 + b * 2 ^ 4 }
  | .sc n, [p, x, y] => do
    let d ← reg 'Q' 1 p
    let a ← reg 'S' n x
    let (b, h) ← e.opB 'S' n y
    pure { hmod := hm, himm := h, main := w + d * 2 ^ 19 + 7 * 2 ^ 16 + a * 2 ^ 8 + b }
  | .sc n, [p, q, x, y] => do
    let d ← reg 'Q' 1 p
    let c ← reg 'Q' 1 q
    let a ← reg 'S' n x
    let (b, h) ← e.opB 'S' n y
    pure { hmod := hm, himm := h, main := w + d * 2 ^ 19 + c * 2 ^ 16 + a * 2 ^ 8 + b }
  | .v4 nd nc, [x, y, z, c] => do
    let d ← reg 'V' nd x
    let a ← reg 'V' 1 y
    let (b, h) ← e.opB 'V' 1 z
    let c ← reg 'V' nc c
    pure { hgrd := hg, hmod := hm, himm := h, main := w + d * 2 ^ 20 + a * 2 ^ 14 + b * 2 ^ 8 + c * 2 ^ 2 }
  | .vs, [x, y, z] => do
    let d ← reg 'V' 1 x
    let a ← reg 'V' 1 y
    let s ← reg 'S' 1 z
    pure { hmod := hm, main := w + g + d * 2 ^ 16 + a * 2 ^ 10 + s * 2 ^ 2 }
  | .movs, [x, z] => do
    let d ← reg 'V' 1 x
    let s ← reg 'S' 1 z
    pure { hmod := hm, main := w + g + d * 2 ^ 16 + s * 2 ^ 2 }
  | .pr3, [x, y, z] => do
    let d ← reg 'P' 1 x
    let a ← predSrc y
    let b ← predSrc z
    pure { hmod := hm, main := w + d * 2 ^ 19 + a % 8 * 2 ^ 16 + b % 8 * 2 ^ 13 + a / 8 * 2 ^ 12 + b / 8 * 2 ^ 11 }
  | .pr2, [x, y] => do
    let d ← reg 'P' 1 x
    let a ← predSrc y
    pure { hmod := hm, main := w + d * 2 ^ 19 + a % 8 * 2 ^ 16 + a / 8 * 2 ^ 12 }
  | .sr n, [x, y, z] => do
    let d ← reg 'S' n x
    let a ← reg 'S' n y
    let (b, h) ← e.opB 'S' n z
    pure { hmod := hm, himm := h, main := w + d * 2 ^ 16 + a * 2 ^ 8 + b }
  | .smov, [x, y] => do
    let d ← reg 'S' 1 x
    let a ← reg 'S' 1 y
    pure { hmod := hm, main := w + d * 2 ^ 16 + a * 2 ^ 8 }
  | .saddi, [x, y, z] => do
    let d ← reg 'S' 1 x
    let a ← reg 'S' 1 y
    let (i, h) ← e.immI (-512) 511 z
    pure { hmod := hm, himm := h, main := w + d * 2 ^ 18 + a * 2 ^ 10 + i }
  | .smovi, [x, z] => do
    let d ← reg 'S' 1 x
    let v ← e.int (-131072) 131071 z
    pure { hmod := hm, main := w + d * 2 ^ 18 + v.toNat % 2 ^ 18 }
  | .smovh, [x, z] => do
    let d ← reg 'S' 1 x
    let v ← e.nat 0x3FFFF z
    pure { hmod := hm, main := w + d * 2 ^ 18 + v % 2 ^ 18 }
  | .mk [k0, k1], [x, y] => do
    let d ← reg k0 1 x
    let a ← reg k1 1 y
    pure { hmod := hm, main := w + d * 2 ^ 19 + a * 2 ^ 16 }
  | .mk [k0, k1, k2], [x, y, z] => do
    let d ← reg k0 1 x
    let a ← reg k1 1 y
    let b ← reg k2 1 z
    pure { hmod := hm, main := w + d * 2 ^ 19 + a * 2 ^ 16 + b * 2 ^ 13 }
  | .mkS n, [x, y] => do
    let s ← reg 'S' n x
    let a ← reg 'M' 1 y
    pure { hmod := hm, main := w + a * 2 ^ 16 + s * 2 ^ 5 }
  | .stom, [x, y] => do
    let d ← reg 'M' 1 x
    let s ← reg 'S' 2 y
    pure { hmod := hm, main := w + d * 2 ^ 19 + s * 2 ^ 5 }
  | .bra, [x] => do
    let o ← e.off e.here x
    pure { hmod := hm, main := w + g + o }
  | .bru, [x] => do
    let o ← e.off e.here x
    pure { hmod := hm, main := w + g + o }
  | .brm, ops => do
    let ps ← ops.mapM e.brmPair
    let n := ps.length
    let f := fun i => ((ps[i]?).map (·.1)).getD 0
    let ts := ps.filterMap (·.2)
    if n = 0 ∨ n > 4 ∨ (ts.length ≠ n ∧ ts ≠ []) then none
    else pure { hmod := hm, main := w + (n - 1) * 2 ^ 24 + f 0 * 2 ^ 20 + f 1 * 2 ^ 16 + f 2 * 2 ^ 12 + f 3 * 2 ^ 8,
                tgts := ts.map (0xFCC00000 + ·) }
  | .brx, [x] => do
    let a ← reg 'V' 1 x
    pure { hmod := hm, main := w + g + a * 2 ^ 10 }
  | .ret, [] => some { hmod := hm, main := w + g }
  | .win s, [x] => do
    let v ← if s then e.int (-128) 127 x else e.int 0 255 x
    pure { hmod := hm, main := w + g + v.toNat % 256 * 2 ^ 12 }
  | .ld, [x, y] => do
    let z := m.size.getD 4
    let d ← reg 'V' (sizeRegs z) x
    let (p, a, o) ← e.memSV y
    let h ← e.himmDisp o
    pure { hmod := hm, himm := h, main := w + g + d * 2 ^ 16 + a * 2 ^ 10 + p / 2 * 2 ^ 3 + z }
  | .st, [y, x] => do
    let z := m.size.getD 4
    let d ← reg 'V' (sizeRegs z) x
    let (p, a, o) ← e.memSV y
    let h ← e.himmDisp o
    pure { hmod := hm, himm := h, main := w + g + d * 2 ^ 16 + a * 2 ^ 10 + p / 2 * 2 ^ 3 + z }
  | .ldv, [x, y] => do
    let z := m.size.getD 4
    let d ← reg 'V' (sizeRegs z) x
    let (a, o) ← e.memV y
    let h ← e.himmDisp o
    pure { hmod := hm, himm := h, main := w + g + d * 2 ^ 16 + a * 2 ^ 10 + z }
  | .stv, [y, x] => do
    let z := m.size.getD 4
    let d ← reg 'V' (sizeRegs z) x
    let (a, o) ← e.memV y
    let h ← e.himmDisp o
    pure { hmod := hm, himm := h, main := w + g + d * 2 ^ 16 + a * 2 ^ 10 + z }
  | .lds, [x, y] => e.smWord w m x y
  | .sts, [y, x] => e.smWord w m x y
  | .am atom n, [x, y] => do
    let d ← reg 'V' n (if atom then x else y)
    let (p, a, o) ← e.memSV (if atom then y else x)
    let sc := if m.ord.isSome then 4 else m.scope.getD 2
    let hm := (if m.ord.isSome then m else { m with scope := none }).hmod
    if o ≠ 0 ∨ (m.ord.isNone ∧ sc = 4) then none
    else pure { hseq := m.ord, hgrd := hg, hmod := hm, main := w + d * 2 ^ 16 + a * 2 ^ 10 + p / 2 * 2 ^ 3 + sc }
  | .fence, [] => some { hmod := ({ m with scope := none } : Mods).hmod, main := w + m.scope.getD 2 * 2 ^ 19 }
  | .fencePkg, [] => if m.scope.isSome then none else some { hmod := hm, main := w }
  | .waita, [x, y] =>
    match bracket x with
    | some [.name a, .sym ':', .name b] => do
      let p ← pairOf 'S' a b
      let v ← reg 'S' (sizeRegs (m.size.getD 4)) y
      pure { hmod := ({ m with scope := none } : Mods).hmod,
             main := w + p * 2 ^ 14 + v * 2 ^ 6 + m.size.getD 4 * 2 ^ 3 + m.scope.getD 2 }
    | _ => none
  | .latSt, [y, x] => do
    let d ← if x.length = 3 then reg 'V' 2 x else reg 'V' 1 x
    let (p, a, o) ← e.memSV y
    if o ≠ 0 ∨ (m.order.isSome ∧ m.order ≠ some 2) then none
    else pure { hmod := ({ m with order := none } : Mods).hmod,
                main := w + d * 2 ^ 16 + a * 2 ^ 10 + p / 2 * 2 ^ 3 + (if m.order.isSome then 1 else 0) }
  | .latLd r, [x, y] => do
    let d ← if x.length = 3 then reg 'V' 2 x else reg 'V' 1 x
    let (p, a, o) ← e.memSV y
    if o ≠ 0 ∨ (m.order.isSome ∧ (r = 0 ∨ m.order ≠ some r)) then none
    else pure { hmod := ({ m with order := none } : Mods).hmod,
                main := w + d * 2 ^ 16 + a * 2 ^ 10 + p / 2 * 2 ^ 3 + (if m.order.isSome then 1 else 0) }
  | .eng _, [x, y] => do
    let a ← reg 'S' 1 x
    let c ← reg 'S' 2 y
    if c % 2 = 1 then none else pure { hmod := hm, main := w + a * 2 ^ 14 + c / 2 * 2 ^ 7 }
  | .eng os, [x, y, z] => do
    let a ← reg 'S' 1 x
    let c ← reg 'S' 2 y
    let o ← options os z 0
    if c % 2 = 1 then none else pure { hmod := hm, main := w + a * 2 ^ 14 + c / 2 * 2 ^ 7 + o }
  | .barf, [] => some { hmod := hm, main := w + 7 }
  | .barf, [x] => (reg 'Q' 1 x).map fun q => { hmod := hm, main := w + q }
  | .prio, [x] => (reg 'S' 1 x).map fun a => { hmod := hm, main := w + a * 2 ^ 14 }
  | .trd, [x, y, z] => do
    let d ← reg 'V' 1 x
    let a ← reg 'V' 1 y
    let s ← reg 'S' 1 z
    if m.size.isSome ∧ m.size ≠ some 4 then none
    else pure { hgrd := hg, hmod := hm, main := w + d * 2 ^ 18 + a * 2 ^ 12 + s * 2 ^ 4 + (if m.size.isSome then 1 else 0) }
  | .twr, [y, z, x] => do
    let d ← reg 'V' 1 x
    let a ← reg 'V' 1 y
    let s ← reg 'S' 1 z
    if m.size.isSome ∧ m.size ≠ some 4 then none
    else pure { hgrd := hg, hmod := hm, main := w + d * 2 ^ 18 + a * 2 ^ 12 + s * 2 ^ 4 + (if m.size.isSome then 1 else 0) }
  | .tatom, [x, y, z] => do
    let d ← reg 'V' 1 x
    let a ← reg 'V' 1 y
    let s ← reg 'S' 1 z
    pure { hgrd := hg, hmod := hm, main := w + d * 2 ^ 18 + a * 2 ^ 12 + s * 2 ^ 4 }
  | .csrr, [x, y] => do
    let c ← e.csr y
    let s ← if x.length = 3 then reg 'S' 2 x else reg 'S' 1 x
    pure { hmod := hm, main := w + s * 2 ^ 14 + c % 4096 }
  | .csrw, [y, x] => do
    let c ← e.csr y
    let s ← if x.length = 3 then reg 'S' 2 x else reg 'S' 1 x
    pure { hmod := hm, main := w + s * 2 ^ 14 + c % 4096 }
  | .sysS n, [x] => (reg 'S' n x).map fun s => { hmod := hm, main := w + s * 2 ^ 14 }
  | .perfrd, [x, y] => do
    let s ← reg 'S' 1 x
    let k ← e.nat 15 y
    pure { hmod := hm, main := w + s * 2 ^ 14 + k % 16 }
  | .ct hi, [x] => do
    let v ← e.nat hi x
    pure { hmod := hm, main := w + v % (hi + 1) }
  | .bare, [] => some { hmod := hm, main := w }
  | .hint, [x] => do
    let v ← e.nat (2 ^ 22 - 1) x
    pure { hmod := hm, main := w + v % 2 ^ 22 }
  | _, _ => none

/-- A written line: label, guard, parts of the mnemonic, operands, and the raw text after a directive. -/
structure Line where
  label : Option Name
  /-- A guard's register and its negation. -/
  guard : Option (Bool × Name)
  parts : List Name
  ops : List (List Tok)
  raw : List Name
  deriving DecidableEq, Repr

/-- One instruction: guard, mnemonic with modifiers and operands (R81, R82). CVT's mode and code follow its name. -/
def Env.instr (e : Env) (l : Line) : Option Made := do
  let (k, base, rest) ← mnemonic l.parts
  let g ← match l.guard with
    | none => some none
    | some (neg, x) => do
      let n ← regNo (if k == .bru then 'Q' else 'P') x
      e.chk (!(neg && n == 7))
      if k.gd || k.hgrd then some (some (n + (if neg then 8 else 0))) else none
  let gd := if k.gd then g.getD 7 else 0
  match k, rest with
  | .cvt, mo :: co :: rest => do
    let r ← place rndNames (up mo)
    let (c, nd, na) ← cvtCode co
    let m ← e.addMods rest {}
    if m.size.isSome || m.mem.isSome || m.ord.isSome then none
    else
      match l.ops with
      | [x, y] => do
        let d ← reg 'V' nd x
        let a ← reg 'V' na y
        pure { hmod := m.hmod, main := base + gd * 2 ^ 22 + d * 2 ^ 16 + a * 2 ^ 10 + c * 2 ^ 4 + r }
      | _ => none
  | _, _ => do
    let m ← e.addMods rest {}
    let isAm := match k with | .am .. => true | _ => false
    if (m.size.isSome && !k.sized) || (m.mem.isSome && !k.memb) || (m.ord.isSome && !isAm) then none
    else e.form k base gd (if k.hgrd then g else none) m l.ops

/-- The words of a unit, with the explicit hints before it, refused when R75 makes any of them illegal (R83). open_:
explicit HTGT words are still to come. -/
def Env.words (e : Env) (pre : List Nat) (u : Made) (more : List Nat) : Option (List Nat) := do
  let hs := pre ++ u.hints
  let ts := u.tgts ++ more
  let w32 := fun (n : Nat) => (BitVec.ofNat 32 n : Word)
  e.chk (e.legal { hints := hs.map w32, main := w32 u.main, tgts := ts.map w32, at_ := e.here, next := e.here }).isNone
  pure (hs ++ [u.main] ++ ts)

/-! ## Reading a line -/

/-- Dropping a comment, from `//` or `;` to the end. -/
def uncomment : Name → Name
  | [] => []
  | ';' :: _ => []
  | '/' :: '/' :: _ => []
  | c :: cs => c :: uncomment cs

/-- Splitting at the commas. -/
def commas (s : Name) : List Name := if (trim s).isEmpty then [] else (splitOn ',' s []).map trim

/-- The label of a line, if it has one, and the rest. -/
def takeLabel (s : Name) : Option Name × Name :=
  let w := s.takeWhile isWord
  match (s.dropWhile isWord).dropWhile isSpace with
  | ':' :: r => if isIdent w then (some w, trim r) else (none, s)
  | _ => (none, s)

/-- The guard of a line, if it has one, and the rest. -/
def takeGuard (s : Name) : Option (Option (Bool × Name) × Name) :=
  match s with
  | '?' :: '!' :: r => if isIdent (r.takeWhile isWord) then some (some (true, r.takeWhile isWord), trim (r.dropWhile isWord)) else none
  | '?' :: r => if isIdent (r.takeWhile isWord) then some (some (false, r.takeWhile isWord), trim (r.dropWhile isWord)) else none
  | _ => some (none, s)

/-- Reading a line. -/
def readLine (s : Name) : Option Line := do
  let (lb, r) := takeLabel (trim (uncomment s))
  let (gu, r) ← takeGuard r
  let w := r.takeWhile fun c => !isSpace c
  let raw := commas (r.dropWhile fun c => !isSpace c)
  if w.isEmpty && gu.isSome then none
  else pure { label := lb, guard := gu, parts := if w.isEmpty then [] else splitOn '.' w [], ops := raw.map (lex · []), raw := raw }

end Sys2Proof.Asm
end

