-- ==== Sys2Proof/Machine/AsmFile.lean ====
section
/-! DEFINITION. The assembler over a whole source (R83, R84, R353): sections, labels, directives, pattern, shape,
reducer and arena records, entries and tasks, and the passes that settle every address. -/
namespace Sys2Proof.Asm
open Sys2Proof.Machine

/-! ## What a source gives -/

/-- The settings of an `.entry` or `.task` block (R84). -/
structure Block where
  name : Name
  isTask : Bool
  /-- Address of the first word after the opening directive. -/
  addr : DWord
  width : Option Nat := none
  vregs : Option Nat := none
  gangs : Nat := 1
  /-- Tile granules of 2 KiB. -/
  tiles : Nat := 0
  mode : Option Nat := none
  scatter : Bool := false
  args : Nat := 0
  /-- Reducer and arena descriptors, each 32 bytes as a number (R357, R363), and the count of sequences. -/
  reds : List Nat := []
  arenas : List Nat := []
  seqs : Nat := 0
  deriving DecidableEq, Repr

/-- A pattern being assembled (R333, R337). -/
structure PatBlock where
  name : Name
  /-- The 512 header bits but for the offsets and NWORDS. -/
  head : Nat := 0
  /-- FWDOFF, BASEOFF, INVOFF. -/
  offs : List (Option Nat) := [none, none, none]
  /-- The words, last first. -/
  words : List Nat := []
  deriving DecidableEq, Repr

/-- The state of a pass. -/
structure Pass where
  strict : Bool
  syms : Syms
  textBase : DWord
  dataBase : DWord
  legal : UnitWords → Option Word
  inText : Bool := true
  /-- The bytes of the sections, last first, and their lengths. -/
  text : List Byte := []
  textN : Nat := 0
  data : List Byte := []
  dataN : Nat := 0
  /-- Symbols defined so far, last first, and the names of entries and tasks. -/
  defs : Syms := []
  names : List Name := []
  blocks : List Block := []
  /-- Open blocks, innermost first, as places in blocks. -/
  stack : List Nat := []
  pat : Option PatBlock := none
  sawDir : Bool := false
  /-- Explicit hints before the next line's word. -/
  hints : List Nat := []
  /-- A BRM written without targets: its explicit hints, itself, its address, its explicit HTGT words and how many are
  still to come. -/
  brm : Option (List Nat × Made × DWord × List Nat × Nat) := none

/-- The address that the next output of the current section gets. -/
def Pass.here (p : Pass) : DWord :=
  if p.inText then p.textBase + BitVec.ofNat 64 p.textN else p.dataBase + BitVec.ofNat 64 p.dataN

def Pass.env (p : Pass) : Env := { strict := p.strict, syms := p.syms, here := p.here, legal := p.legal }

/-- Output to a section. -/
def Pass.outTo (p : Pass) (inText : Bool) (bs : List Byte) : Pass :=
  if inText then { p with text := bs.reverse ++ p.text, textN := p.textN + bs.length }
  else { p with data := bs.reverse ++ p.data, dataN := p.dataN + bs.length }

/-- Output to the current section. -/
def Pass.out (p : Pass) (bs : List Byte) : Pass := p.outTo p.inText bs

/-- A value-dependent rule. -/
def Pass.chk (p : Pass) (b : Bool) : Option Unit := p.env.chk b

/-- A name that is defined nowhere else (R83, R84). -/
def Pass.fresh (p : Pass) (x : Name) : Option Unit :=
  p.chk (isIdent x && (p.defs.lookup x).isNone && !p.names.contains x)

/-- Binding a symbol. -/
def Pass.bind (p : Pass) (x : Name) (v : DWord) : Option Pass := do
  p.fresh x
  pure { p with defs := (x, v) :: p.defs }

/-- Padding a section to a multiple of a power of two: NOP words in text, zeros in data (R84). -/
def Pass.pad (p : Pass) (inText : Bool) (n : Nat) : Option Pass :=
  let a := (if inText then p.textBase + BitVec.ofNat 64 p.textN else p.dataBase + BitVec.ofNat 64 p.dataN).toNat
  if n = 0 then some p
  else
    let k := (n - a % n) % n
    if inText then do
      p.chk (decide (k % 4 = 0))
      pure (p.outTo true ((List.range (k / 4)).flatMap fun _ => bytesOf 4 0x04000000))
    else some (p.outTo false (List.replicate k 0))

/-! ## Decimal text of `.f32` -/

/-- An F32 pattern from decimal text, rounded RN: sign, digits with an optional point, an optional exponent. -/
def f32Text (s : Name) : Option Nat :=
  let s := s.map fun c => if c == '−' then '-' else c
  let (neg, s) := match s with
    | '-' :: r => (true, r)
    | '+' :: r => (false, r)
    | r => (false, r)
  let m := s.takeWhile fun c => isDigit c || c == '.' || c == '_'
  let t := s.drop m.length
  let ex : Option Int := match t with
    | [] => some 0
    | c :: r =>
      if upc c == 'E' then
        match r with
        | '-' :: d => (digits1 10 d).map fun n => -(n : Int)
        | '+' :: d => (digits1 10 d).map fun n => (n : Int)
        | d => (digits1 10 d).map fun n => (n : Int)
      else none
  let ip := m.takeWhile (· != '.')
  let fp := (m.drop ip.length).drop 1
  match digits1 10 ((ip ++ fp).filter (· != '_')), ex with
  | some n, some x =>
    let x := x - ((fp.filter (· != '_')).length : Int)
    let e : Ex := if n = 0 then .zero neg
      else if 0 ≤ x then .val neg (n * 10 ^ x.toNat) 1 0 else .val neg n (10 ^ (-x).toNat) 0
    some (f32.arith .rn 0 e).1
  | _, _ => none

/-! ## Patterns (R337, R353) -/

/-- Pattern mnemonics by operation number. -/
def patOps : List String :=
  ["STOP", "MOV", "MOVI", "ADD", "SUB", "MUL", "MIN", "MAX", "SHL", "SHR", "AND", "DIVU", "REMU", "HASH", "EMIT", "EMITS",
   "FLUSH", "LOOP", "ENDL", "SKIPLT", "SKIPGE", "SKIPEQ", "EMITP", "RET"]

/-- An operand code: G0 to G7, C0 to C7. -/
def patArg : List Tok → Option Nat
  | [.name x] =>
    match regOf x with
    | some ('G', n) => some n
    | some ('C', n) => some (n + 8)
    | _ => none
  | _ => none

/-- One pattern word (R337). -/
def Pass.patWord (p : Pass) (parts : List Name) (ops : List (List Tok)) : Option Nat := do
  let x ← parts.head?
  let o ← if parts.length = 1 then place patOps (up x) else none
  let w := o * 2 ^ 11
  match ops with
  | [] => if o = 0 ∨ o = 16 ∨ o = 18 ∨ o = 23 then pure w else none
  | [a] => do
    let a ← patArg a
    if o = 14 ∨ o = 15 then pure (w + a * 2 ^ 4) else none
  | [a, b] =>
    if o = 2 then do
      let d ← reg 'G' 1 a
      let v ← p.env.nat 255 b
      pure (w + d * 2 ^ 8 + v % 256)
    else if o = 1 ∨ o = 17 then do
      let d ← reg 'G' 1 a
      let a ← patArg b
      pure (w + d * 2 ^ 8 + a * 2 ^ 4)
    else do
      let a ← patArg a
      let b ← patArg b
      if o = 22 then pure (w + a * 2 ^ 4 + b) else none
  | [a, b, c] =>
    if 19 ≤ o ∧ o ≤ 21 then do
      let a ← patArg a
      let b ← patArg b
      let n ← p.env.int 1 8 c
      pure (w + (n.toNat - 1) % 8 * 2 ^ 8 + a * 2 ^ 4 + b)
    else do
      let d ← reg 'G' 1 a
      let a ← patArg b
      let b ← patArg c
      if 3 ≤ o ∧ o ≤ 13 then pure (w + d * 2 ^ 8 + a * 2 ^ 4 + b) else none
  | _ => none

/-- Element format names (R24), by code, but for the reserved ones. -/
def fmtNames : List String :=
  ["RAW", "F32", "F16", "BF16", "F8A", "F8B", "S32", "N32", "S16", "N16", "S8", "N8", "T2", "S4"]

/-- A format by name. -/
def fmtCode : List Tok → Option Nat
  | [.name x] => place fmtNames (up x)
  | _ => none

/-- Setting a field of a number. -/
def setField (x lo len v : Nat) : Nat := x % 2 ^ lo + v % 2 ^ len * 2 ^ lo + x / 2 ^ (lo + len) * 2 ^ (lo + len)

/-- A directive of a pattern block: header fields (R333). -/
def Pass.patDir (p : Pass) (b : PatBlock) (d : Name) (ops : List (List Tok)) : Option PatBlock :=
  let e := p.env
  match place [".extent", ".values", ".degree", ".vfmt", ".unit", ".const"] d, ops with
  | some 0, [x, y] => do
    let n ← e.nat (2 ^ 32 - 1) x
    let k ← e.nat (2 ^ 32 - 1) y
    pure { b with head := setField (setField b.head 0 32 n) 32 32 k }
  | some 1, [x] => (e.nat (2 ^ 32 - 1) x).map fun n => { b with head := setField b.head 64 32 n }
  | some 2, [x] => (e.nat (2 ^ 32 - 1) x).map fun n => { b with head := setField b.head 96 32 n }
  | some 3, [x] => (fmtCode x).map fun n => { b with head := setField b.head 160 4 n }
  | some 4, [] => some { b with head := setField b.head 164 1 1 }
  | some 5, [x, y] => do
    let c ← reg 'C' 1 x
    let v ← e.val y
    e.chk (is32 v)
    pure { b with head := setField b.head (256 + 32 * c) 32 v.toNat }
  | _, _ => none

/-- The record of a pattern (R333): refused when PLOAD would refuse it, or with more than 96 words (R353). -/
def Pass.endPat (p : Pass) (b : PatBlock) : Option Pass := do
  let off := fun (k : Nat) => ((b.offs.getD k none).getD 0)
  let ws := b.words.reverse
  p.chk (decide (ws.length ≤ 96))
  let head := b.head + off 0 * 2 ^ 128 + off 1 * 2 ^ 136 + off 2 * 2 ^ 144 + ws.length % 128 * 2 ^ 152
  let bs := bytesOf 64 head ++ (List.range 96).flatMap fun i => bytesOf 2 (ws.getD i 0)
  p.chk (patBad bs).isNone
  let p ← p.pad false 64
  let q ← p.bind b.name (p.dataBase + BitVec.ofNat 64 p.dataN)
  pure { q.outTo false bs with pat := none }

/-- A line inside a pattern block. -/
def Pass.patLine (p : Pass) (b : PatBlock) (l : Line) : Option Pass := do
  let b ← match l.label with
    | none => some b
    | some x => do
      let k ← place ["FWD", "BASE", "INV"] x
      if (b.offs.getD k none).isSome then none
      else some { b with offs := b.offs.set k (some (32 + b.words.length)) }
  match l.parts, l.guard with
  | [], none => pure { p with pat := some b }
  | [] :: [d], none =>
    if d == "done".toList then p.endPat b
    else do
      let b ← p.patDir b ('.' :: d) l.ops
      pure { p with pat := some b }
  | ps, none => do
    let w ← p.patWord ps l.ops
    pure { p with pat := some { b with words := w :: b.words } }
  | _, some _ => none

/-! ## Shapes, reducers and arenas (R84, R261, R357, R363) -/

/-- Splitting tokens at the colons. -/
def colons : List Tok → List Tok → List (List Tok)
  | [], w => [w.reverse]
  | .sym ':' :: r, w => w.reverse :: colons r []
  | t :: r, w => colons r (t :: w)

/-- The terms of `key=…` among the arguments of a `.shape`, as expressions: none when it is given twice. -/
def Pass.terms (p : Pass) (key : String) (ops : List (List Tok)) : Option (Option (List DWord)) :=
  match ops.filter fun o => match o with | .name k :: .sym '=' :: _ => k == key.toList | _ => false with
  | [] => some none
  | [_ :: _ :: r] => ((colons r []).mapM p.env.val).map some
  | _ => none

/-- The 64-byte record of a `.shape`. -/
def Pass.shapeRec (p : Pass) (fmt base : List Tok) (ops : List (List Tok)) : Option (List Byte) := do
  let f ← fmtCode fmt
  let b ← p.env.val base
  let ex ← (← p.terms "ext" ops)
  let bx ← (← p.terms "box" ops)
  let st ← p.terms "str" ops
  let pd ← p.terms "pad" ops
  let cm ← p.terms "comp" ops
  let given := 2 + (if st.isSome then 1 else 0) + (if pd.isSome then 1 else 0) + (if cm.isSome then 1 else 0)
  let pad ← match pd with
    | none => some 0
    | some [v] => some v.toNat
    | some _ => none
  let strs ← match st, cm with
    | some _, some _ => none
    | some s, none => if s.length + 1 = ex.length then some (s.map (·.toNat)) else none
    | none, none => if ex.length = 1 then some [] else none
    | none, some [t, c] => some [t.toNat, c.toNat % 2 ^ 32]
    | none, some _ => none
  if given ≠ ops.length ∨ ex.length > 4 ∨ bx.length ≠ 2 then none
  else do
    let ext := fun k => ((ex[k]?).map (·.toNat)).getD 1
    let box := fun k => ((bx[k]?).map (·.toNat)).getD 1
    p.chk (decide (1 ≤ box 0) && decide (box 0 ≤ 256) && decide (1 ≤ box 1) && decide (box 1 ≤ 256))
    p.chk (ex.all fun v => decide (v.toNat < 2 ^ 32))
    p.chk (decide (pad < 2 ^ 32))
    p.chk (match cm with | some [_, c] => decide (c.toNat < 2 ^ 32) | _ => true)
    let x := b.toNat + ext 0 % 2 ^ 32 * 2 ^ 64 + ext 1 % 2 ^ 32 * 2 ^ 96 + ext 2 % 2 ^ 32 * 2 ^ 128 +
      ext 3 % 2 ^ 32 * 2 ^ 160 + strs.getD 0 0 * 2 ^ 192 + strs.getD 1 0 * 2 ^ 256 + strs.getD 2 0 * 2 ^ 320 +
      f * 2 ^ 384 + (ex.length - 1) * 2 ^ 388 + (if cm.isSome then 2 ^ 390 else 0) + (box 0 - 1) % 256 * 2 ^ 392 +
      (box 1 - 1) % 256 * 2 ^ 400 + pad % 2 ^ 32 * 2 ^ 416
    p.chk (shapeBad (bytesOf 64 x)).isNone
    pure (bytesOf 64 x)

/-- Reducer types by code (R357). -/
def redTypes : List String :=
  ["ISUM32", "ISUM64", "FSUM32", "XSUM32", "MINS32", "MAXS32", "MINF32", "MAXF32", "AND32", "OR32"]

/-- A reducer descriptor (R357). -/
def Pass.redDesc (p : Pass) (ty cnt res : List Tok) : Option Nat := do
  let t ← match ty with
    | [.name x] => place redTypes (up x)
    | _ => none
  let c ← p.env.int 1 (if t = 3 then 16 else 4096) cnt
  let r ← p.env.val res
  pure (t + (c.toNat - 1) % 4096 * 2 ^ 16 + r.toNat * 2 ^ 64)

/-- An arena descriptor (R363): the slot size in bytes gives SLOG2. -/
def Pass.arenaDesc (p : Pass) (base slot cb : List Tok) (lv : List (List Tok)) : Option Nat := do
  let b ← p.env.val base
  let s ← p.env.nat (2 ^ 24) slot
  let c ← p.env.nat 40 cb
  p.chk (decide (2 ^ s.log2 = s))
  let ls ← lv.mapM fun o =>
    match colons o [] with
    | [x, y] => do
      let l ← p.env.int 1 16 x
      let w ← p.env.int 1 32 y
      pure (l.toNat % 32 + w.toNat % 64 * 2 ^ 5)
    | _ => none
  if ls.length > 4 then none
  else pure (b.toNat + s.log2 * 2 ^ 64 + ls.length * 2 ^ 69 + c % 64 * 2 ^ 72 +
    (ls.zipIdx.map fun x => x.1 * 2 ^ (128 + 16 * x.2)).sum)

/-! ## Directives (R84) -/

/-- Changing the innermost open block. -/
def Pass.modTop (p : Pass) (f : Block → Block) : Option Pass := do
  let i ← p.stack.head?
  pure { p with blocks := p.blocks.modify i f }

/-- Changing the nearest open `.entry`. -/
def Pass.modEntry (p : Pass) (f : Block → Option Block) : Option Pass := do
  let i ← p.stack.find? fun i => match p.blocks[i]? with | some b => !b.isTask | none => false
  let b ← p.blocks[i]?
  let b ← f b
  pure { p with blocks := p.blocks.set i b }

/-- An identifier operand. -/
def nameOf : List Tok → Option Name
  | [.name x] => some x
  | _ => none

/-- The nearest open `.entry`. -/
def Pass.entry? (p : Pass) : Option Block :=
  (p.stack.filterMap fun i => p.blocks[i]?).find? fun b => !b.isTask

/-- A directive outside a pattern block. R84 does not say where `.args` may stand; it is a size of the entry, and the model
refuses it outside an `.entry` block, by its own choice (log 82). -/
def Pass.directive (p : Pass) (d : Name) (ops : List (List Tok)) (raw : List Name) : Option Pass := do
  let e := p.env
  let first := !p.sawDir
  let p := { p with sawDir := true }
  let s := String.ofList d
  p.chk (!first || s == "device")
  match s, ops with
  | "device", [[.name x]] => if first && up x == "H40".toList then some p else none
  | "entry", [[.name x]] => do
    p.fresh x
    some { p with names := x :: p.names, stack := p.blocks.length :: p.stack,
                  blocks := p.blocks ++ [{ name := x, isTask := false, addr := p.here }] }
  | "task", [[.name x]] => do
    p.fresh x
    some { p with names := x :: p.names, stack := p.blocks.length :: p.stack,
                  blocks := p.blocks ++ [{ name := x, isTask := true, addr := p.here }] }
  | "done", [] =>
    match p.stack with
    | _ :: r => some { p with stack := r }
    | [] => none
  | "width", [x] => do
    let n ← e.nat 64 x
    p.chk (n == 8 || n == 16 || n == 32 || n == 64)
    p.modTop fun b => { b with width := some n }
  | "vregs", [x] => do
    let n ← e.int 8 256 x
    p.chk (n.toNat % 8 == 0)
    p.modTop fun b => { b with vregs := some n.toNat }
  | "gangs", [x] => do
    let n ← e.int 1 64 x
    p.modEntry fun b => some { b with gangs := n.toNat }
  | "tiles", [x] => do
    let n ← e.nat (1536 * 2048) x
    p.modEntry fun b => some { b with tiles := (n + 2047) / 2048 }
  | "det", [] => p.modEntry fun b => if b.mode.isSome then none else some { b with mode := some 0 }
  | "detx", [] => p.modEntry fun b => if b.mode.isSome then none else some { b with mode := some 1 }
  | "free", [] => p.modEntry fun b => if b.mode.isSome then none else some { b with mode := some 2 }
  | "placement", [[.name x]] =>
    match place ["ROTATE", "SCATTER"] (up x) with
    | some k => p.modEntry fun b => some { b with scatter := k == 1 }
    | none => none
  | "args", [x] => do
    let n ← e.nat (2 ^ 32 - 1) x
    p.modEntry fun b => some { b with args := n }
  | "reducer", [[.name x], ty, cnt, res] => do
    let dsc ← p.redDesc ty cnt res
    let b ← p.entry?
    let p ← p.bind x (BitVec.ofNat 64 b.reds.length)
    p.modEntry fun b => if b.reds.length < 64 then some { b with reds := b.reds ++ [dsc] } else none
  | "arena", [.name x] :: base :: slot :: cb :: lv => do
    let dsc ← p.arenaDesc base slot cb lv
    let b ← p.entry?
    let p ← p.bind x (BitVec.ofNat 64 b.arenas.length)
    p.modEntry fun b => if b.arenas.length < 16 then some { b with arenas := b.arenas ++ [dsc] } else none
  | "sequence", [[.name x]] => do
    let b ← p.entry?
    let p ← p.bind x (BitVec.ofNat 64 b.seqs)
    p.modEntry fun b => if b.seqs < 64 then some { b with seqs := b.seqs + 1 } else none
  | "pattern", [[.name x]] => some { p with pat := some { name := x } }
  | "shape", [.name x] :: f :: base :: r => do
    let bs ← p.shapeRec f base r
    let p ← p.pad false 64
    let q ← p.bind x (p.dataBase + BitVec.ofNat 64 p.dataN)
    pure (q.outTo false bs)
  | "section", [[.name x]] =>
    match place ["DATA", "TEXT"] (up x) with
    | some k => some { p with inText := k == 1 }
    | none => none
  | "align", [x] => do
    let n ← e.nat (2 ^ 32) x
    p.chk (decide (n ≠ 0) && decide (2 ^ n.log2 = n))
    p.pad p.inText n
  | "word", o :: os => do
    let vs ← (o :: os).mapM fun x => e.int (-(2 : Int) ^ 31) (2 ^ 32 - 1) x
    pure (p.out (vs.flatMap fun v => bytesOf 4 (v.toNat % 2 ^ 32)))
  | "bytes", o :: os => do
    let vs ← (o :: os).mapM fun x => e.int (-128) 255 x
    pure (p.out (vs.flatMap fun v => bytesOf 1 (v.toNat % 256)))
  | "f32", _ :: _ => do
    let vs ← raw.mapM f32Text
    pure (p.out (vs.flatMap fun v => bytesOf 4 v))
  | _, _ => none

/-! ## Lines and passes -/

/-- The bytes of words. -/
def wordsBytes (ws : List Nat) : List Byte := ws.flatMap fun w => bytesOf 4 w

/-- An instruction line: explicit hints are kept for the next line's word, and a BRM without targets waits for its
explicit HTGT words (R82). -/
def Pass.instr (p : Pass) (l : Line) : Option Pass := do
  let (k, _, _) ← mnemonic l.parts
  p.chk (decide (p.here.toNat % 4 = 0))
  match p.brm with
  | some (pre, u, at_, ts, n) =>
    match k, l.ops, l.guard with
    | .htgt, [x], none => do
      let o ← p.env.off at_ x
      let ts := ts ++ [0xFCC00000 + o]
      if n = 1 then do
        let _ ← { p.env with here := at_ }.words pre u ts
        pure { p.out (wordsBytes [0xFCC00000 + o]) with brm := none }
      else pure { p.out (wordsBytes [0xFCC00000 + o]) with brm := some (pre, u, at_, ts, n - 1) }
    | _, _, _ => none
  | none =>
    if k = .htgt then none
    else do
      let u ← p.env.instr l
      if k = .hint then
        if l.guard.isSome then none
        else pure { p.out (wordsBytes [u.main]) with hints := p.hints ++ [u.main] }
      else if k = .brm ∧ u.tgts = [] then
        pure { p.out (wordsBytes [u.main]) with hints := [], brm := some (p.hints, u, p.here, [], u.main / 2 ^ 24 % 4 + 1) }
      else do
        let ws ← p.env.words p.hints u []
        pure { p.out (wordsBytes (ws.drop p.hints.length)) with hints := [] }

/-- One line. -/
def Pass.line (p : Pass) (l : Line) : Option Pass :=
  match p.pat with
  | some b => p.patLine b l
  | none => do
    let p ← match l.label with
      | none => some p
      | some x => p.bind x p.here
    match l.parts, l.guard with
    | [], _ => pure p
    | [] :: [d], none => if p.hints.isEmpty && p.brm.isNone then p.directive d l.ops l.raw else none
    | _, _ => p.instr l

/-- The lines in turn. -/
def Pass.lines : Pass → List Line → Option Pass
  | p, [] => some p
  | p, l :: ls =>
    match p.line l with
    | some p => p.lines ls
    | none => none

/-- The width and the registers of a block: its own, else those of the entry that most recently precedes a task, else
the defaults (R84). -/
def widthOf (bs : List Block) (i : Nat) : Nat × Nat :=
  let own := fun (b : Block) => (b.width.getD 64, b.vregs.getD 64)
  match bs[i]? with
  | none => (64, 64)
  | some b =>
    if b.isTask then
      let e := match (bs.take i).reverse.find? fun b => !b.isTask with
        | some e => own e
        | none => (64, 64)
      (b.width.getD e.1, b.vregs.getD e.2)
    else own b

/-- The width code of R287. -/
def wcode (w : Nat) : Nat := if w = 8 then 0 else if w = 16 then 1 else if w = 32 then 2 else 3

/-- DESC of R287. -/
def descOf (bs : List Block) (i : Nat) : Nat :=
  let w := widthOf bs i
  wcode w.1 + (w.2 / 8 - 1) * 4

/-- The end of a source: nothing left open, and `name_DESC` bound for every task. -/
def Pass.finish (p : Pass) : Option Pass :=
  if p.stack.isEmpty && p.pat.isNone && p.hints.isEmpty && p.brm.isNone then
    (List.range p.blocks.length).foldlM (fun (p : Pass) i =>
      match p.blocks[i]? with
      | some b =>
        if b.isTask then p.bind (b.name ++ "_DESC".toList) (BitVec.ofNat 64 (descOf p.blocks i)) else some p
      | none => some p) p
  else none

/-- Passes until every symbol keeps its value, then the one that enforces the rules. -/
def settle (start : Bool → Syms → Pass) (ls : List Line) : Nat → Syms → Option Pass
  | 0, _ => none
  | n + 1, y => do
    let p ← (start false y).lines ls
    let p ← p.finish
    if p.defs = y then do
      let q ← (start true y).lines ls
      q.finish
    else settle start ls n p.defs

/-! ## The result -/

/-- What the assembler hands to a loader. -/
structure Result where
  text : List Byte
  data : List Byte
  syms : Syms
  blocks : List Block
  deriving DecidableEq, Repr

/-- Assembling lines, with the judgement of a finished unit; none is a refusal, with no code (R83). -/
def assembleWith (legal : UnitWords → Option Word) (textBase dataBase : DWord) (src : List String) : Option Result := do
  let ls ← src.mapM fun l => readLine l.toList
  let p ← settle (fun strict y => { strict := strict, syms := y, textBase := textBase, dataBase := dataBase, legal := legal })
    ls 16 []
  pure { text := p.text.reverse, data := p.data.reverse, syms := p.defs.reverse, blocks := p.blocks }

/-- A CSRR or CSRW of a number at or above 0x800 that no rule assigns, or of PTROOT with an odd register: R75 makes the
word illegal, whoever would issue it. -/
noncomputable def noCsr (m : Word) : Bool :=
  let bad := fun (r : BitVec 8) (n : BitVec 12) => decide (0x800 ≤ n.toNat) && !(supCsr n.toNat && (!wideCsr n.toNat || even r))
  match decodeWord m.toNat with
  | some (.csrr r n) => bad r n
  | some (.csrw r n) => bad r n
  | _ => false

/-- What hizasm refuses of a finished unit (R83). -/
noncomputable def refused (u : UnitWords) : Option Word := if noCsr u.main then some u.main else unitBad u

/-- Assembling a source for a text base and a data base (R80 to R84, R353). -/
noncomputable def assemble (textBase dataBase : DWord) (src : List String) : Option Result :=
  assembleWith refused textBase dataBase src

/-- Word i of the text. -/
def Result.word (r : Result) (i : Nat) : Nat := numOf ((r.text.drop (4 * i)).take 4)

/-- The launch record's fields that the directives of an entry give (R84, R298), as the record's number: TEXT, TEXTSZ,
ENTRY, WCODE, GANGS, VREGS, MODE, PLACE, TILES, NRED, NARENA. The rest is the launching program's. -/
def Result.record (r : Result) (textBase : DWord) (i : Nat) : Option Nat := do
  let b ← r.blocks[i]?
  let w := widthOf r.blocks i
  if b.isTask then none
  else pure (textBase.toNat + r.text.length * 2 ^ 64 + (b.addr - textBase).toNat * 2 ^ 96 + wcode w.1 * 2 ^ 224 +
    (b.gangs - 1) * 2 ^ 226 + (w.2 / 8 - 1) * 2 ^ 232 + b.mode.getD 0 * 2 ^ 237 + (if b.scatter then 2 ^ 239 else 0) +
    b.tiles * 2 ^ 256 + b.reds.length * 2 ^ 1216 + b.arenas.length * 2 ^ 1224)

end Sys2Proof.Asm
end

