-- ==== Sys2Proof/Safety.lean ====
section
/-! DEFINITION. What counts as a safe run, and what the movements of batches, waits and traps may change. -/
namespace Sys2Proof.Safety
open Sys2Proof.Machine

/-- Memory in its canonical form, on the device and on the remote modules. -/
def MemOk (s : State) : Prop := Memory.wf s.mem = true ∧ Memory.wf s.remote = true

/-- Between two steps no unit is being executed. -/
def Idle (s : State) : Prop := s.cur = none

/-- A step neither stops nor is refused. -/
def Runs (s : State) : Prop := ∃ t, step s = .next t

/-- What the movement of a gang's batches, its waits, its traps and its end leave of it: all registers of its fibres,
its scalar registers, predicates and masks, its CSRs but the fault CSRs, and STAT but its BRK flag. -/
def gangRegs (g : Gang) : Gang :=
  { g with batches := [], live := 0, trap := none, pending := [], exited := false, turns := 0, openTurn := none,
           stat := g.stat ||| fBRK, tcause := 0, tepc := 0, tmask := 0, tmaskh := 0, taddr := 0, taddrh := 0, tinfo := 0 }

/-- A gang but for those movements of the gang k. -/
def gangBut (k : Nat) (g : Gang) : Gang := if g.gid = k then gangRegs g else g

/-- A team but for the mark of a broken barrier phase. -/
def teamBut (t : Team) : Team := { t with broken := false }

/-- A launch but for the mark of a trap and the cursors of its ordered sequences. -/
def launchBut (l : Launch) : Launch := { l with trapped := false, cursors := [], turnMasks := [] }

/-- From s to t only batches, waits, traps and the end of gang k have moved: memory, caches, contexts, other gangs, the
device's registers and every register of gang k but those of gangRegs are as before. -/
structure Quiet (k : Nat) (s t : State) : Prop where
  gangs : t.gangs.map (gangBut k) = s.gangs.map (gangBut k)
  teams : t.teams.map teamBut = s.teams.map teamBut
  launches : t.launches.map launchBut = s.launches.map launchBut
  rest : t = { s with gangs := t.gangs, teams := t.teams, launches := t.launches, cmds := t.cmds,
                      monitors := t.monitors, watches := t.watches }

end Sys2Proof.Safety
end

