-- ==== Sys2Proof/Certificates/Slice0/Obligations.lean ====
section
/-! DEFINITION. The statements for the provers, each a proposition of its own, and the few words they are said in. -/
namespace Sys2Proof.Claims
open Sys2Proof.Machine

/-- The unit c of gang g is being executed. -/
def Issuing (s : State) (c : Cur) (g : Gang) : Prop := s.cur = some c ∧ s.gang? c.gid = some g

/-- cnt V registers from n lie in the fibre's allocation and hold no poison (R58, R86, R406). -/
def readable (f : Fibre) (n cnt : Nat) : Bool :=
  decide (f.wb + n + cnt ≤ f.regs.length) && f.bad.all fun r => decide (r < f.wb + n ∨ f.wb + n + cnt ≤ r)

/-- cnt V registers from n lie in the fibre's allocation (R58, R86). -/
def writable (f : Fibre) (n cnt : Nat) : Bool := decide (f.wb + n + cnt ≤ f.regs.length)

/-- The B operand can be read: HIMM replaces it, or its registers can be read (R69). -/
def bReadable (c : Cur) (f : Fibre) (n cnt : Nat) : Bool := c.himm.isSome || readable f n cnt

/-- None of the S registers (first, count) holds poison (R406). -/
def sClean (g : Gang) (srcs : List (Nat × Nat)) : Bool :=
  g.poisonS.all fun r => srcs.all fun e => !(decide (e.1 ≤ r) && decide (r < e.1 + e.2))

/-- S register b can be read, or HIMM replaces it (R69, R116). -/
def sbClean (c : Cur) (g : Gang) (b n : Nat) : Bool := c.himm.isSome || sClean g [(b, n)]

/-- The unit completes with gang g become h: its batch stands at the next unit. -/
def completes (s : State) (c : Cur) (h : Gang) : State := advance c (s.modGang c.gid fun _ => h)

/-- A gang whose fibres of a list take new registers; the other fibres and all else of the gang stay. -/
def eachV (g : Gang) (act : List Nat) (upd : Nat → Fibre → Fibre) : Gang :=
  { g with fibres := g.fibres.mapIdx fun i f => if act.contains i then upd i f else f }

/-- The same for an instruction that also sets STAT flags (R40). -/
def eachF (g : Gang) (act : List Nat) (upd : Nat → Fibre → Fibre × Flags) : Gang :=
  { g with fibres := g.fibres.mapIdx fun i f => if act.contains i then (upd i f).1 else f,
           stat := act.foldl (fun a i => a ||| (upd i (g.fibre i)).2) g.stat }

/-- A word with a guard and the registers D, A, B of format VR. -/
abbrev VrWord := BitVec 4 → BitVec 6 → BitVec 6 → BitVec 6 → Instr

/-- A word with a guard and the registers D and A. -/
abbrev VuWord := BitVec 4 → BitVec 6 → BitVec 6 → Instr

/-- A word with the registers D, A, B, C of format V4. -/
abbrev V4Word := BitVec 6 → BitVec 6 → BitVec 6 → BitVec 6 → Instr

/-- The operands of a two-operand word can be read and its destination written, in every executing fibre. -/
def okDAB (c : Cur) (g : Gang) (act : List Nat) (d a b n : Nat) : Bool :=
  act.all fun i => writable (g.fibre i) d n && readable (g.fibre i) a n && bReadable c (g.fibre i) b n

/-- The same for a word with D and A. -/
def okDA (g : Gang) (act : List Nat) (d a n : Nat) : Bool :=
  act.all fun i => writable (g.fibre i) d n && readable (g.fibre i) a n

/-- The same for a word with D, A, B and C. -/
def okDABC (c : Cur) (g : Gang) (act : List Nat) (d a b k : Nat) : Bool :=
  act.all fun i => writable (g.fibre i) d 1 && readable (g.fibre i) a 1 && bReadable c (g.fibre i) b 1 && readable (g.fibre i) k 1

/-- The draws that n roundings take: n under RS, none in another mode (R33). -/
def drawn (m : RMode) (f : Fibre) (n : Nat) : Fibre := if m = .rs then { f with drw := f.drw + BitVec.ofNat 32 n } else f

end Sys2Proof.Claims

open Sys2Proof Sys2Proof.Machine Sys2Proof.Claims

/-! ## Integer and predicate instructions -/

/-- R101 to R106: every two-operand integer word, in every executing fibre, writes to D the value of the rule's table. -/
def Sys2Proof.Claims.IntegerTwoOperand : Prop :=
  ∀ (s : State) (c : Cur) (g : Gang) (gd : BitVec 4) (d a b : BitVec 6), Issuing s c g →
    okDAB c g (actGd c g gd) d.toNat a.toNat b.toNat 1 = true →
    ∀ p ∈ ([(.iadd, fun x y => x + y), (.isub, fun x y => x - y), (.imul, fun x y => x * y),
        (.imulhS, fun x y => BitVec.ofInt 32 (x.toInt * y.toInt / 2 ^ 32)),
        (.imulhN, fun x y => BitVec.ofNat 32 (x.toNat * y.toNat / 2 ^ 32)),
        (.iand, fun x y => x &&& y), (.ior, fun x y => x ||| y), (.ixor, fun x y => x ^^^ y),
        (.iandn, fun x y => x &&& ~~~y),
        (.shl, fun x y => if y.toNat ≥ 32 then 0 else x <<< y.toNat),
        (.shr, fun x y => if y.toNat ≥ 32 then 0 else x >>> y.toNat),
        (.sha, fun x y => x.sshiftRight (min y.toNat 31)),
        (.iminS, fun x y => if x.toInt ≤ y.toInt then x else y), (.iminN, fun x y => if x.toNat ≤ y.toNat then x else y),
        (.imaxS, fun x y => if x.toInt ≤ y.toInt then y else x), (.imaxN, fun x y => if x.toNat ≤ y.toNat then y else x),
        (.bfxN, bfx false), (.bfxS, bfx true), (.isad, isad32)] : List (VrWord × (Word → Word → Word))),
      exec (p.1 gd d a b) s = .next (completes s c (eachV g (actGd c g gd) fun _ f =>
        f.setV d.toNat (p.2 (f.v a.toNat) (bVal c f b.toNat))))

/-- R101, R102, R104: the forms on pairs, whose fields hold register numbers halved, and the 64-bit shifts. -/
def Sys2Proof.Claims.IntegerPairs : Prop :=
  ∀ (s : State) (c : Cur) (g : Gang) (gd : BitVec 4) (d a b : BitVec 5) (n : BitVec 6), Issuing s c g →
    (okDAB c g (actGd c g gd) (2 * d.toNat) (2 * a.toNat) (2 * b.toNat) 2 = true →
      ∀ p ∈ ([(.iadd64, fun x y => x + y), (.isub64, fun x y => x - y)] :
          List ((BitVec 4 → BitVec 5 → BitVec 5 → BitVec 5 → Instr) × (DWord → DWord → DWord))),
        exec (p.1 gd d a b) s = .next (completes s c (eachV g (actGd c g gd) fun _ f =>
          f.setV2 (2 * d.toNat) (p.2 (f.v2 (2 * a.toNat)) (bVal2 c f (2 * b.toNat)))))) ∧
    (((actGd c g gd).all fun i => writable (g.fibre i) (2 * d.toNat) 2 && readable (g.fibre i) (2 * a.toNat) 2 &&
        bReadable c (g.fibre i) n.toNat 1) = true →
      ∀ p ∈ ([(.shl64, fun x k => if k ≥ 64 then 0 else x <<< k), (.shr64, fun x k => if k ≥ 64 then 0 else x >>> k),
          (.sha64, fun x k => x.sshiftRight (min k 63))] :
          List ((BitVec 4 → BitVec 5 → BitVec 5 → BitVec 6 → Instr) × (DWord → Nat → DWord))),
        exec (p.1 gd d a n) s = .next (completes s c (eachV g (actGd c g gd) fun _ f =>
          f.setV2 (2 * d.toNat) (p.2 (f.v2 (2 * a.toNat)) (bVal c f n.toNat).toNat))))

/-- R101 to R106: the two-operand integer words, of words and of pairs. -/
def Obligations.IntegerBinary : Prop := Sys2Proof.Claims.IntegerTwoOperand ∧ Sys2Proof.Claims.IntegerPairs

/-- R104, R107 to R109: the unary forms, IABS with its SAT flag, and the immediate forms; IMOVI reads no register. -/
def Sys2Proof.Claims.IntegerUnaryAndImmediate : Prop :=
  ∀ (s : State) (c : Cur) (g : Gang) (gd : BitVec 4) (d a : BitVec 6), Issuing s c g →
    (okDA g (actGd c g gd) d.toNat a.toNat 1 = true →
      (∀ p ∈ ([(.ineg, fun x => 0 - x), (.popc, popc32), (.clz, clz32), (.brev, fun x => x.reverse), (.mov, fun x => x)] :
          List (VuWord × (Word → Word))),
        exec (p.1 gd d a) s = .next (completes s c (eachV g (actGd c g gd) fun _ f =>
          f.setV d.toNat (p.2 (f.v a.toNat))))) ∧
      exec (.iabs gd d a) s = .next (completes s c (eachF g (actGd c g gd) fun _ f =>
        if f.v a.toNat = 0x80000000 then (f.setV d.toNat 0x7FFFFFFF, fSAT)
        else (f.setV d.toNat (BitVec.ofNat 32 (f.v a.toNat).toInt.natAbs), 0))) ∧
      (∀ i : BitVec 10, ∀ p ∈ ([(.iaddi, fun x => x + immVI c true i), (.iandi, fun x => x &&& immVI c false i),
          (.iori, fun x => x ||| immVI c false i), (.ixori, fun x => x ^^^ immVI c false i)] :
          List ((BitVec 4 → BitVec 6 → BitVec 6 → BitVec 10 → Instr) × (Word → Word))),
        exec (p.1 gd d a i) s = .next (completes s c (eachV g (actGd c g gd) fun _ f =>
          f.setV d.toNat (p.2 (f.v a.toNat))))) ∧
      (∀ n : BitVec 6, ∀ p ∈ ([(.ishiShl, fun x => if n.toNat ≥ 32 then 0 else x <<< n.toNat),
          (.ishiShr, fun x => if n.toNat ≥ 32 then 0 else x >>> n.toNat),
          (.ishiSha, fun x => x.sshiftRight (min n.toNat 31)), (.ishiRot, fun x => x.rotateLeft (n.toNat % 32))] :
          List ((BitVec 4 → BitVec 6 → BitVec 6 → BitVec 6 → Instr) × (Word → Word))),
        exec (p.1 gd d a n) s = .next (completes s c (eachV g (actGd c g gd) fun _ f =>
          f.setV d.toNat (p.2 (f.v a.toNat)))))) ∧
    (∀ i : BitVec 16, (∀ k ∈ actGd c g gd, writable (g.fibre k) d.toNat 1 = true) →
      exec (.imovi gd d i) s = .next (completes s c (eachV g (actGd c g gd) fun _ f =>
        f.setV d.toNat (match c.himm with | some h => h ++ i.setWidth 10 | none => i.signExtend 32))))

/-- R101, R104, R106: PRMT reads the old D; SEL executes in every active fibre, its guard choosing the source. -/
def Obligations.PermuteAndSelect : Prop :=
  ∀ (s : State) (c : Cur) (g : Gang) (gd : BitVec 4) (d a b : BitVec 6), Issuing s c g →
    ((okDAB c g (actGd c g gd) d.toNat a.toNat b.toNat 1 && (actGd c g gd).all fun i => readable (g.fibre i) d.toNat 1) = true →
      exec (.prmt gd d a b) s = .next (completes s c (eachV g (actGd c g gd) fun _ f =>
        f.setV d.toNat (prmt32 (f.v d.toNat) (f.v a.toNat) (bVal c f b.toNat))))) ∧
    (okDAB c g (fibresOf g.width c.memb) d.toNat a.toNat b.toNat 1 = true →
      exec (.sel gd d a b) s = .next (completes s c (eachV g (fibresOf g.width c.memb) fun _ f =>
        f.setV d.toNat (if guardOf gd f then f.v a.toNat else bVal c f b.toNat))))

/-- R111 to R113: the words of three operands, guarded by HGRD only. -/
def Sys2Proof.Claims.IntegerThreeOperand : Prop :=
  ∀ (s : State) (c : Cur) (g : Gang) (d a b k : BitVec 6) (dw kw : BitVec 5), Issuing s c g →
    (okDABC c g (actHg c g) d.toNat a.toNat b.toNat k.toNat = true →
      ∀ p ∈ ([(.imad, fun x y z => x * y + z),
          (.imadhS, fun x y z => BitVec.ofInt 32 ((x.toInt * y.toInt + z.toInt) / 2 ^ 32)),
          (.imadhN, fun x y z => BitVec.ofNat 32 ((x.toNat * y.toNat + z.toNat) / 2 ^ 32)),
          (.bfi, bfi32),
          (.dp4S8, fun x y z => BitVec.ofInt 32 (z.toInt + ((List.range 4).map fun i => sInt 8 (byteOf x i) * sInt 8 (byteOf y i)).sum)),
          (.dp4N8, fun x y z => BitVec.ofNat 32 (z.toNat + ((List.range 4).map fun i => byteOf x i * byteOf y i).sum)),
          (.dp2S16, fun x y z => BitVec.ofInt 32 (z.toInt + ((List.range 2).map fun i => sInt 16 (halfOf x i) * sInt 16 (halfOf y i)).sum))] :
          List (V4Word × (Word → Word → Word → Word))),
        exec (p.1 d a b k) s = .next (completes s c (eachV g (actHg c g) fun _ f =>
          f.setV d.toNat (p.2 (f.v a.toNat) (bVal c f b.toNat) (f.v k.toNat))))) ∧
    (((actHg c g).all fun i => writable (g.fibre i) (2 * dw.toNat) 2 && readable (g.fibre i) a.toNat 1 &&
        bReadable c (g.fibre i) b.toNat 1 && readable (g.fibre i) (2 * kw.toNat) 2) = true →
      exec (.imadW dw a b kw) s = .next (completes s c (eachV g (actHg c g) fun _ f =>
        f.setV2 (2 * dw.toNat) (BitVec.ofInt 64 ((f.v a.toNat).toInt * (bVal c f b.toNat).toInt + (f.v2 (2 * kw.toNat)).toInt)))))

/-- R104, R107 to R109, R111 to R113: the integer words of one operand, with an immediate, and of three operands. -/
def Obligations.IntegerUnaryAndTernary : Prop := Sys2Proof.Claims.IntegerUnaryAndImmediate ∧ Sys2Proof.Claims.IntegerThreeOperand

/-- R114, R130: a vector word with a scalar operand reads S[n] for every executing fibre; MOV.S reads no V register;
the rounded forms take the unit's mode. What an exact operation and one rounding give is log 69. -/
def Obligations.VectorScalar : Prop :=
  ∀ (s : State) (c : Cur) (g : Gang) (gd : BitVec 4) (d a : BitVec 6) (n : BitVec 8), Issuing s c g →
    sClean g [(n.toNat, 1)] = true →
    (okDA g (actGd c g gd) d.toNat a.toNat 1 = true →
      (∀ p ∈ ([(.iaddS, fun x y => x + y), (.imulS, fun x y => x * y), (.iandS, fun x y => x &&& y), (.fmaxS, fmax32), (.fminS, fmin32)] :
          List ((BitVec 4 → BitVec 6 → BitVec 6 → BitVec 8 → Instr) × (Word → Word → Word))),
        exec (p.1 gd d a n) s = .next (completes s c (eachV g (actGd c g gd) fun _ f =>
          f.setV d.toNat (p.2 (f.v a.toNat) (g.s n.toNat))))) ∧
      (∀ p ∈ ([(.faddS, fun m x y => x.add (m = .rd) y), (.fmulS, fun _ x y => x.mul y)] :
          List ((BitVec 4 → BitVec 6 → BitVec 6 → BitVec 8 → Instr) × (RMode → Ex → Ex → Ex))),
        exec (p.1 gd d a n) s = .next (completes s c (eachF g (actGd c g gd) fun i f =>
          let r := enc32 (modeOf c) (drawOf s g i f) (p.2 (modeOf c) (dec32 (f.v a.toNat)) (dec32 (g.s n.toNat)))
          ((drawn (modeOf c) f 1).setV d.toNat r.1, r.2))))) ∧
    (((actGd c g gd).all fun i => writable (g.fibre i) d.toNat 1) = true →
      exec (.movS gd d n) s = .next (completes s c (eachV g (actGd c g gd) fun _ f => f.setV d.toNat (g.s n.toNat))))

/-- R61, R110, R131: a compare writes its condition to Pd and the complement to Pc; a write of P7 is discarded. -/
def Sys2Proof.Claims.Compare : Prop :=
  ∀ (s : State) (c : Cur) (g : Gang) (cc : BitVec 4) (p q : BitVec 3) (a b : BitVec 6), Issuing s c g →
    (((actHg c g).all fun i => readable (g.fibre i) a.toNat (if 10 ≤ cc.toNat ∧ cc.toNat ≤ 13 then 2 else 1) &&
        bReadable c (g.fibre i) b.toNat (if 10 ≤ cc.toNat ∧ cc.toNat ≤ 13 then 2 else 1)) = true →
    exec (.icmp cc p q a b) s = .next (completes s c (eachV g (actHg c g) fun _ f =>
      let x := f.v a.toNat
      let y := bVal c f b.toNat
      let u := f.v2 a.toNat
      let w := bVal2 c f b.toNat
      let r : Bool := match cc.toNat with
        | 0 => x == y | 1 => x != y | 2 => decide (x.toInt < y.toInt) | 3 => decide (x.toInt ≤ y.toInt)
        | 4 => decide (x.toInt > y.toInt) | 5 => decide (x.toInt ≥ y.toInt) | 6 => decide (x.toNat < y.toNat)
        | 7 => decide (x.toNat ≤ y.toNat) | 8 => decide (x.toNat > y.toNat) | 9 => decide (x.toNat ≥ y.toNat)
        | 10 => u == w | 11 => u != w | 12 => decide (u.toInt < w.toInt) | 13 => decide (u.toNat < w.toNat)
        | 14 => x &&& y != 0 | _ => x &&& y == 0
      (f.pset p.toNat r).pset q.toNat (!r)))) ∧
    (((actHg c g).all fun i => readable (g.fibre i) a.toNat 1 && bReadable c (g.fibre i) b.toNat 1) = true →
      exec (.fcmp cc p q a b) s = .next (completes s c (eachV g (actHg c g) fun _ f =>
        let r := cmpFloat cc.toNat (f.v a.toNat) (bVal c f b.toNat)
        (f.pset p.toNat r).pset q.toNat (!r))))

/-- R115: a predicate word executes in every active fibre; P7 reads 1 and its write is discarded. -/
def Sys2Proof.Claims.PredicateWords : Prop :=
  ∀ (s : State) (c : Cur) (g : Gang) (d a b : BitVec 3) (n m : BitVec 1), Issuing s c g →
    (∀ p ∈ ([(.pand, fun x y => x && y), (.por, fun x y => x || y), (.pxor, fun x y => x != y)] :
        List ((BitVec 3 → BitVec 3 → BitVec 3 → BitVec 1 → BitVec 1 → Instr) × (Bool → Bool → Bool))),
      exec (p.1 d a b n m) s = .next (completes s c (eachV g (fibresOf g.width c.memb) fun _ f =>
        f.pset d.toNat (p.2 (f.pget a.toNat != (n == 1)) (f.pget b.toNat != (m == 1)))))) ∧
    exec (.pmov d a n) s = .next (completes s c (eachV g (fibresOf g.width c.memb) fun _ f =>
      f.pset d.toNat (f.pget a.toNat != (n == 1))))

/-- R61, R110, R115, R131: the compares and the predicate words. -/
def Obligations.ComparesAndPredicates : Prop := Sys2Proof.Claims.Compare ∧ Sys2Proof.Claims.PredicateWords

/-! ## Scalar, mask and uniform-predicate instructions -/

/-- R102, R116, R117: every two-operand scalar word writes to D the value of the rule's table; HIMM supplies b. -/
def Sys2Proof.Claims.ScalarTwoOperand : Prop :=
  ∀ (s : State) (c : Cur) (g : Gang) (d a b : BitVec 8), Issuing s c g →
    sClean g [(a.toNat, 1)] = true → sbClean c g b.toNat 1 = true →
    ∀ p ∈ ([(.sadd, fun x y => x + y), (.ssub, fun x y => x - y), (.smul, fun x y => x * y),
        (.smulhN, fun x y => BitVec.ofNat 32 (x.toNat * y.toNat / 2 ^ 32)),
        (.sand, fun x y => x &&& y), (.sor, fun x y => x ||| y), (.sxor, fun x y => x ^^^ y), (.sandn, fun x y => x &&& ~~~y),
        (.sshl, fun x y => if y.toNat ≥ 32 then 0 else x <<< y.toNat),
        (.sshr, fun x y => if y.toNat ≥ 32 then 0 else x >>> y.toNat),
        (.ssha, fun x y => x.sshiftRight (min y.toNat 31)), (.srot, fun x y => x.rotateLeft (y.toNat % 32)),
        (.sminS, fun x y => if x.toInt ≤ y.toInt then x else y), (.sminN, fun x y => if x.toNat ≤ y.toNat then x else y),
        (.smaxS, fun x y => if x.toInt ≤ y.toInt then y else x), (.smaxN, fun x y => if x.toNat ≤ y.toNat then y else x),
        (.ssel, fun x y => if g.qget 0 then x else y)] :
        List ((BitVec 8 → BitVec 8 → BitVec 8 → Instr) × (Word → Word → Word))),
      exec (p.1 d a b) s = .next (completes s c (g.setS d.toNat (p.2 (g.s a.toNat) (sB c g b.toNat))))

/-- R116, R118 to R120: the scalar pairs, whose fields hold register numbers halved, SMOV, and the immediate forms;
SMOVH keeps bits 13 to 0 of D. -/
def Sys2Proof.Claims.ScalarPairsAndImmediates : Prop :=
  ∀ (s : State) (c : Cur) (g : Gang), Issuing s c g →
    (∀ d a b : BitVec 7, sClean g [(2 * a.toNat, 2)] = true → sbClean c g (2 * b.toNat) 2 = true →
      ∀ p ∈ ([(.sadd64, fun x y => x + y), (.ssub64, fun x y => x - y)] :
          List ((BitVec 7 → BitVec 7 → BitVec 7 → Instr) × (DWord → DWord → DWord))),
        exec (p.1 d a b) s = .next (completes s c
          (g.setS2 (2 * d.toNat) (p.2 (g.s2 (2 * a.toNat)) (sB2 c g (2 * b.toNat)))))) ∧
    (∀ d a : BitVec 8, sClean g [(a.toNat, 1)] = true →
      exec (.smov d a) s = .next (completes s c (g.setS d.toNat (g.s a.toNat)))) ∧
    (∀ (d a : BitVec 8) (i : BitVec 10), sClean g [(a.toNat, 1)] = true →
      exec (.saddi d a i) s = .next (completes s c (g.setS d.toNat
        (g.s a.toNat + match c.himm with | some h => h ++ i | none => i.signExtend 32)))) ∧
    (∀ (d : BitVec 8) (i : BitVec 18),
      exec (.smovi d i) s = .next (completes s c (g.setS d.toNat (i.signExtend 32)))) ∧
    (∀ (d : BitVec 8) (i : BitVec 18), sClean g [(d.toNat, 1)] = true →
      exec (.smovh d i) s = .next (completes s c (g.setS d.toNat (g.s d.toNat &&& 0x3FFF ||| i.setWidth 32 <<< 14))))

/-- R102, R116 to R120: the scalar words, of words, pairs and immediates. -/
def Obligations.ScalarWords : Prop := Sys2Proof.Claims.ScalarTwoOperand ∧ Sys2Proof.Claims.ScalarPairsAndImmediates

/-- R61, R119: SCMP writes its condition to Qd and the complement to Qc; a write of Q7 is discarded. -/
def Sys2Proof.Claims.ScalarCompare : Prop :=
  ∀ (s : State) (c : Cur) (g : Gang) (cc : BitVec 4) (p q : BitVec 3) (a b : BitVec 8), Issuing s c g → cc.toNat ≤ 12 →
    sClean g [(a.toNat, if cc.toNat = 10 ∨ cc.toNat = 11 then 2 else 1)] = true →
    sbClean c g b.toNat (if cc.toNat = 10 ∨ cc.toNat = 11 then 2 else 1) = true →
    exec (.scmp cc p q a b) s = .next (completes s c (
      let x := g.s a.toNat
      let y := sB c g b.toNat
      let u := g.s2 a.toNat
      let w := sB2 c g b.toNat
      let r : Bool := match cc.toNat with
        | 0 => x == y | 1 => x != y | 2 => decide (x.toInt < y.toInt) | 3 => decide (x.toInt ≤ y.toInt)
        | 4 => decide (x.toInt > y.toInt) | 5 => decide (x.toInt ≥ y.toInt) | 6 => decide (x.toNat < y.toNat)
        | 7 => decide (x.toNat ≤ y.toNat) | 8 => decide (x.toNat > y.toNat) | 9 => decide (x.toNat ≥ y.toNat)
        | 10 => u == w | 11 => decide (u.toNat < w.toNat) | _ => x &&& y != 0
      (g.qset p.toNat r).qset q.toNat (!r)))

/-- R87, R121: the mask and uniform-predicate words. A mask read as M7 is the live mask; a write of M7 or Q7 is
discarded; a write of another mask clears the bits at and above the gang's width. -/
def Sys2Proof.Claims.MaskWords : Prop :=
  ∀ (s : State) (c : Cur) (g : Gang) (d a b : BitVec 3), Issuing s c g →
    (∀ p ∈ ([(.mand, fun x y => x &&& y), (.mor, fun x y => x ||| y), (.mxor, fun x y => x ^^^ y), (.mandn, fun x y => x &&& ~~~y)] :
        List ((BitVec 3 → BitVec 3 → BitVec 3 → Instr) × (Mask → Mask → Mask))),
      exec (p.1 d a b) s = .next (completes s c (g.mset d.toNat (p.2 (g.mget a.toNat) (g.mget b.toNat))))) ∧
    exec (.mnot d a) s = .next (completes s c (g.mset d.toNat (~~~g.mget a.toNat))) ∧
    (∀ n : BitVec 8,
      exec (.mpopc a n) s = .next (completes s c (g.setS n.toNat
        (BitVec.ofNat 32 ((List.range 64).filter (fun i => bit (g.mget a.toNat) i)).length))) ∧
      ∃ k, k ≤ 64 ∧ exec (.mffs a n) s = .next (completes s c (g.setS n.toNat (BitVec.ofNat 32 k))) ∧
        (∀ i, i < k → bit (g.mget a.toNat) i = false) ∧ (k < 64 → bit (g.mget a.toNat) k = true)) ∧
    (∀ n : BitVec 7,
      exec (.mtos a n) s = .next (completes s c (g.setS2 (2 * n.toNat) (g.mget a.toNat))) ∧
      (sClean g [(2 * n.toNat, 2)] = true →
        exec (.stom d n) s = .next (completes s c (g.mset d.toNat (g.s2 (2 * n.toNat)))))) ∧
    exec (.mq d a b) s = .next (completes s c (g.qset d.toNat (g.mget a.toNat &&& g.mget b.toNat != 0))) ∧
    exec (.qand d a b) s = .next (completes s c (g.qset d.toNat (g.qget a.toNat && g.qget b.toNat))) ∧
    exec (.qor d a b) s = .next (completes s c (g.qset d.toNat (g.qget a.toNat || g.qget b.toNat))) ∧
    exec (.qnot d a) s = .next (completes s c (g.qset d.toNat (!g.qget a.toNat)))

/-- R61, R87, R119, R121: SCMP, and the mask and uniform-predicate words. -/
def Obligations.ScalarComparesAndMasks : Prop := Sys2Proof.Claims.ScalarCompare ∧ Sys2Proof.Claims.MaskWords

/-- R59, R61, R87, R121: P7 and Q7 read 1 and M7 reads the live mask whatever is written to them; every other one reads
what was last written, a mask with the bits at and above the width cleared. -/
def Obligations.HardWiredRegisters : Prop :=
  (∀ (f : Fibre) (v : Bool), (f.pset 7 v) = f ∧ f.pget 7 = true) ∧
  (∀ (f : Fibre) (n : Nat) (v : Bool), n < 7 → (f.pset n v).pget n = v ∧ ∀ k, k ≠ n → (f.pset n v).pget k = f.pget k) ∧
  (∀ (g : Gang) (v : Bool), (g.qset 7 v) = g ∧ g.qget 7 = true) ∧
  (∀ (g : Gang) (n : Nat) (v : Bool), n < 7 → (g.qset n v).qget n = v ∧ ∀ k, k ≠ n → (g.qset n v).qget k = g.qget k) ∧
  (∀ (g : Gang) (v : Mask), (g.mset 7 v) = g ∧ g.mget 7 = g.live) ∧
  (∀ (g : Gang) (n : Nat) (v : Mask), n < 7 → g.m.length = 7 → g.width ≤ 64 →
    (∀ i, i < 64 → bit ((g.mset n v).mget n) i = (decide (i < g.width) && bit v i)) ∧
    ∀ k, k ≠ n → (g.mset n v).mget k = g.mget k)

/-! ## Floating-point and conversion instructions -/

/-- R30, R33, R125, R126: an F32 word of two operands rounds the exact result once, in the unit's mode, with one draw
under RS; FMIN, FMAX, FCSGN and FLDEXP round nothing by the mode. -/
def Sys2Proof.Claims.FloatTwoOperand : Prop :=
  ∀ (s : State) (c : Cur) (g : Gang) (gd : BitVec 4) (d a b : BitVec 6), Issuing s c g →
    okDAB c g (actGd c g gd) d.toNat a.toNat b.toNat 1 = true →
    (∀ p ∈ ([(.fadd, fun m x y => (x.add (m = .rd) y, 0)), (.fsub, fun m x y => (x.add (m = .rd) y.neg, 0)),
        (.fmul, fun _ x y => (x.mul y, 0)), (.fdiv, fun _ x y => x.div y),
        (.fabd, fun _ x y => ((x.add false y.neg).abs, 0))] :
        List (VrWord × (RMode → Ex → Ex → Ex × Flags))),
      exec (p.1 gd d a b) s = .next (completes s c (eachF g (actGd c g gd) fun i f =>
        let x := p.2 (modeOf c) (dec32 (f.v a.toNat)) (dec32 (bVal c f b.toNat))
        let r := enc32 (modeOf c) (drawOf s g i f) x.1
        ((drawn (modeOf c) f 1).setV d.toNat r.1, r.2 ||| x.2)))) ∧
    ∀ p ∈ ([(.fmin, fmin32), (.fmax, fmax32), (.fcsgn, fun x y => if (dec32 x).isNan then nan32 else withSign x y),
        (.fldexp, fun x n => ldexp32 x n.toInt)] : List (VrWord × (Word → Word → Word))),
      exec (p.1 gd d a b) s = .next (completes s c (eachV g (actGd c g gd) fun _ f =>
        f.setV d.toNat (p.2 (f.v a.toNat) (bVal c f b.toNat))))

/-- R127: the packed words act on the low and the high half alike, the low half first, each with its own draw. -/
def Sys2Proof.Claims.FloatPacked : Prop :=
  ∀ (s : State) (c : Cur) (g : Gang) (gd : BitVec 4) (d a b : BitVec 6), Issuing s c g →
    okDAB c g (actGd c g gd) d.toNat a.toNat b.toNat 1 = true →
    ∀ p ∈ ([(.hadd2, f16.fadd), (.hsub2, f16.fsub), (.hmul2, f16.fmul),
        (.hmin2, fun _ _ x y => (f16.fminmax false x y, 0)), (.hmax2, fun _ _ x y => (f16.fminmax true x y, 0)),
        (.badd2, bf16.fadd), (.bsub2, bf16.fsub), (.bmul2, bf16.fmul),
        (.bmin2, fun _ _ x y => (bf16.fminmax false x y, 0)), (.bmax2, fun _ _ x y => (bf16.fminmax true x y, 0))] :
        List (VrWord × (RMode → Word → Nat → Nat → Nat × Flags))),
      exec (p.1 gd d a b) s = .next (completes s c (eachF g (actGd c g gd) fun i f =>
        let x := (f.v a.toNat).toNat
        let y := (bVal c f b.toNat).toNat
        let lo := p.2 (modeOf c) (drawOf s g i f) (x % 65536) (y % 65536)
        let hi := p.2 (modeOf c) (drawOf s g i { f with drw := f.drw + 1 }) (x / 65536) (y / 65536)
        ((drawn (modeOf c) f 2).setV d.toNat (BitVec.ofNat 32 (lo.1 + 65536 * hi.1)), lo.2 ||| hi.2)))

/-- R30, R33, R125 to R127: the floating-point words of two operands, of F32 and packed. What an exact operation and
one rounding give is log 69. -/
def Obligations.FloatBinary : Prop := Sys2Proof.Claims.FloatTwoOperand ∧ Sys2Proof.Claims.FloatPacked

/-- R128, R129: the fused words add an exact product, or the exact sum of two products, to C and round once; the packed
forms do so in each half. -/
def Sys2Proof.Claims.FloatFused : Prop :=
  ∀ (s : State) (c : Cur) (g : Gang) (d a b k : BitVec 6), Issuing s c g →
    okDABC c g (actHg c g) d.toNat a.toNat b.toNat k.toNat = true →
    (∀ p ∈ ([(.ffma, fun rd x y z => (x.mul y).add rd z), (.ffms, fun rd x y z => (x.mul y).add rd z.neg),
        (.ffnma, fun rd x y z => ((x.mul y).add rd z).neg), (.ffnms, fun rd x y z => ((x.mul y).neg).add rd z)] :
        List (V4Word × (Bool → Ex → Ex → Ex → Ex))),
      exec (p.1 d a b k) s = .next (completes s c (eachF g (actHg c g) fun i f =>
        let r := enc32 (modeOf c) (drawOf s g i f)
          (p.2 (modeOf c = .rd) (dec32 (f.v a.toNat)) (dec32 (bVal c f b.toNat)) (dec32 (f.v k.toNat)))
        ((drawn (modeOf c) f 1).setV d.toNat r.1, r.2)))) ∧
    (∀ p ∈ ([(.hfma2, f16), (.bfma2, bf16)] : List (V4Word × Fmt)),
      exec (p.1 d a b k) s = .next (completes s c (eachF g (actHg c g) fun i f =>
        let x := (f.v a.toNat).toNat
        let y := (bVal c f b.toNat).toNat
        let z := (f.v k.toNat).toNat
        let lane := fun (dr : Word) (x y z : Nat) =>
          p.2.arith (modeOf c) dr (((p.2.decode x).mul (p.2.decode y)).add (modeOf c = .rd) (p.2.decode z))
        let lo := lane (drawOf s g i f) (x % 65536) (y % 65536) (z % 65536)
        let hi := lane (drawOf s g i { f with drw := f.drw + 1 }) (x / 65536) (y / 65536) (z / 65536)
        ((drawn (modeOf c) f 2).setV d.toNat (BitVec.ofNat 32 (lo.1 + 65536 * hi.1)), lo.2 ||| hi.2)))) ∧
    (∀ p ∈ ([(.hfma2F32, f16), (.bfma2F32, bf16)] : List (V4Word × Fmt)),
      exec (p.1 d a b k) s = .next (completes s c (eachF g (actHg c g) fun i f =>
        let x := (f.v a.toNat).toNat
        let y := (bVal c f b.toNat).toNat
        let p0 := (p.2.decode (x % 65536)).mul (p.2.decode (y % 65536))
        let p1 := (p.2.decode (x / 65536)).mul (p.2.decode (y / 65536))
        let r := enc32 (modeOf c) (drawOf s g i f)
          (let z := dec32 (f.v k.toNat)
          if p0.opposed p1 || p0.opposed z || p1.opposed z then .nan true
          else (p0.add (modeOf c = .rd) p1).add (modeOf c = .rd) z)
        ((drawn (modeOf c) f 1).setV d.toNat r.1, r.2))))

/-- R132 to R144: the special functions, roundings, class and exponent words of one operand; FSQRT alone takes the
unit's mode. -/
def Sys2Proof.Claims.FloatOneOperand : Prop :=
  ∀ (s : State) (c : Cur) (g : Gang) (gd : BitVec 4) (d a : BitVec 6), Issuing s c g →
    okDA g (actGd c g gd) d.toNat a.toNat 1 = true →
    (∀ p ∈ ([(.frcp, frcp32), (.frsq, frsq32), (.fex2, fex232), (.flg2, flg232), (.fsin, fsin32), (.fcos, fcos32),
        (.ftanh, ftanh32), (.frndRn, fun x => (frnd32 .rn x, 0)), (.frndRz, fun x => (frnd32 .rz x, 0)),
        (.frndRu, fun x => (frnd32 .ru x, 0)), (.frndRd, fun x => (frnd32 .rd x, 0)),
        (.fclass, fun x => (fclass32 x, 0)), (.ffrexpM, fun x => (frexpM x, 0)), (.ffrexpE, fun x => (frexpE x, 0))] :
        List (VuWord × (Word → Word × Flags))),
      exec (p.1 gd d a) s = .next (completes s c (eachF g (actGd c g gd) fun _ f =>
        (f.setV d.toNat (p.2 (f.v a.toNat)).1, (p.2 (f.v a.toNat)).2)))) ∧
    exec (.fsqrt gd d a) s = .next (completes s c (eachF g (actGd c g gd) fun i f =>
      let r := enc32 (modeOf c) (drawOf s g i f) (dec32 (f.v a.toNat)).sqrt
      ((drawn (modeOf c) f 1).setV d.toNat r.1, r.2)))

/-- R128, R129, R132 to R144: the fused floating-point words and those of one operand. What an exact operation and
one rounding give is log 69. -/
def Obligations.FloatFusedAndUnary : Prop := Sys2Proof.Claims.FloatFused ∧ Sys2Proof.Claims.FloatOneOperand

/-- R146 to R148: CVT converts the packed elements of the source registers in ascending order, the k-th with the k-th
draw, and packs the results into the destination registers. Corners of the conversion table are read as log 59 says,
and exact values as log 69. -/
def Obligations.Convert : Prop :=
  ∀ (s : State) (c : Cur) (g : Gang) (gd : BitVec 4) (d a b : BitVec 6) (r : BitVec 4), Issuing s c g →
    ((actGd c g gd).all fun i => writable (g.fibre i) d.toNat (cvtSpec b.toNat).nd &&
      readable (g.fibre i) a.toNat (cvtSpec b.toNat).ns) = true →
    exec (.cvt gd d a b r) s = .next (completes s c (eachF g (actGd c g gd) fun i f =>
      let sp := cvtSpec b.toNat
      let src := packWords f a.toNat sp.ns
      let e := fun k => sp.f (rmode r.toNat) (drawOf s g i { f with drw := f.drw + BitVec.ofNat 32 k })
        (src / 2 ^ (sp.sw * k) % 2 ^ sp.sw)
      let x := ((List.range sp.n).map fun k => (e k).1 * 2 ^ (sp.dw * k)).sum
      let fl := (List.range sp.n).foldl (fun z k => z ||| (e k).2) 0
      ((if sp.draws then drawn (rmode r.toNat) f sp.n else f).setVs d.toNat (unpackWords x sp.nd), fl)))

/-- R53, R391, R392: PRAND and PRANDF take one draw in every executing fibre; PRANDF's value is the draw's high 24 bits
times 2^-24, exactly. -/
def Obligations.RandomNumbers : Prop :=
  (∀ (s : State) (c : Cur) (g : Gang) (gd : BitVec 4) (d : BitVec 6), Issuing s c g →
    ((actGd c g gd).all fun i => writable (g.fibre i) d.toNat 1) = true →
    exec (.prand gd d) s = .next (completes s c (eachV g (actGd c g gd) fun i f =>
      { f with drw := f.drw + 1 }.setV d.toNat (drawVal (s.seedOf g) g.ped.levels i f.drw))) ∧
    exec (.prandf gd d) s = .next (completes s c (eachV g (actGd c g gd) fun i f =>
      { f with drw := f.drw + 1 }.setV d.toNat (unitFloat (drawVal (s.seedOf g) g.ped.levels i f.drw))))) ∧
  ∀ v : Word, (v.toNat / 256 = 0 ∧ dec32 (unitFloat v) = .zero false) ∨
    ∃ n e, dec32 (unitFloat v) = .val false n 1 e ∧ -150 ≤ e ∧ n * 2 ^ (e + 150).toNat = v.toNat / 256 * 2 ^ 126

/-! ## Cross-fibre instructions -/

namespace Sys2Proof.Claims

/-- The member set K of a cross-fibre word (R166): the batch's own fibres for K = 7, else the live fibres of M[k]. -/
def kSet (c : Cur) (g : Gang) (k : BitVec 3) : Mask := if k.toNat = 7 then c.memb else g.mget k.toNat &&& g.live

/-- The fibres of K, ascending. -/
def kFibres (c : Cur) (g : Gang) (k : BitVec 3) : List Nat := fibresOf g.width (kSet c g k)

/-- Every fibre of K stands in the issuing batch. -/
def kHere (c : Cur) (g : Gang) (k : BitVec 3) : Bool := kSet c g k &&& ~~~c.memb == 0

/-- V[a] of fibre j when j is a fibre of K, else a given word. -/
def lane (c : Cur) (g : Gang) (k : BitVec 3) (a : Nat) (dflt : Word) (j : Int) : Word :=
  if 0 ≤ j ∧ j.toNat ∈ kFibres c g k then (g.fibre j.toNat).v a else dflt

/-- The fold of R45 over the fibres below n, in ascending order, with the flags of its steps. -/
def prefixFold (op : Word → Word → Word × Flags) (ident : Word) (x : Nat → Word) (n : Nat) : Word × Flags :=
  (List.range n).foldl (fun z j => ((op z.1 (x j)).1, z.2 ||| (op z.1 (x j)).2)) (ident, 0)

end Sys2Proof.Claims

/-- R166, R169, R172, R175, R176: over the fibres of K a shuffle gives each fibre the word of the fibre it names, or 0
when that is no fibre of K; XSHF also names the register; RBAL finds the owner of a work item; FIDX gives the fibre's
own number. -/
def Sys2Proof.Claims.ShuffleWords : Prop :=
  ∀ (s : State) (c : Cur) (g : Gang) (k : BitVec 3) (d a b n : BitVec 6) (dw : BitVec 5), Issuing s c g →
    (kHere c g k = true →
      ((kFibres c g k).all fun i => writable (g.fibre i) d.toNat 1 && readable (g.fibre i) a.toNat 1) = true →
      exec (.shflx k d a n) s = .next (completes s c (eachV g (kFibres c g k) fun i f =>
        f.setV d.toNat (lane c g k a.toNat 0 (i ^^^ n.toNat : Nat)))) ∧
      (((kFibres c g k).all fun i => readable (g.fibre i) b.toNat 1) = true →
        exec (.shfl k d a b) s = .next (completes s c (eachV g (kFibres c g k) fun _ f =>
          f.setV d.toNat (lane c g k a.toNat 0 (f.v b.toNat).toNat))) ∧
        exec (.shflu k d a b) s = .next (completes s c (eachV g (kFibres c g k) fun i f =>
          f.setV d.toNat (lane c g k a.toNat 0 ((i : Int) - (f.v b.toNat).toNat)))) ∧
        exec (.shfld k d a b) s = .next (completes s c (eachV g (kFibres c g k) fun i f =>
          f.setV d.toNat (lane c g k a.toNat 0 ((i : Int) + (f.v b.toNat).toNat)))))) ∧
    (kHere c g k = true →
      ((kFibres c g k).all fun i => writable (g.fibre i) d.toNat 1 && readable (g.fibre i) b.toNat 1) = true →
      (∀ i ∈ kFibres c g k, a.toNat + ((g.fibre i).v b.toNat).toNat / 256 % 64 ≤ 63 ∧
        (((g.fibre i).v b.toNat).toNat % 64 ∈ kFibres c g k →
          readable (g.fibre (((g.fibre i).v b.toNat).toNat % 64)) (a.toNat + ((g.fibre i).v b.toNat).toNat / 256 % 64) 1 = true)) →
      exec (.xshf k d a b) s = .next (completes s c (eachV g (kFibres c g k) fun _ f =>
        f.setV d.toNat (lane c g k (a.toNat + (f.v b.toNat).toNat / 256 % 64) 0 ((f.v b.toNat).toNat % 64 : Nat))))) ∧
    (kHere c g k = true →
      ((kFibres c g k).all fun i => writable (g.fibre i) (2 * dw.toNat) 2 && readable (g.fibre i) a.toNat 1 &&
        readable (g.fibre i) b.toNat 1) = true →
      exec (.rbal k dw a b) s = .next (completes s c (eachV g (kFibres c g k) fun _ f =>
        let r := rbalOf (f.v b.toNat).toNat 0 ((List.range g.width).map fun (j : Nat) => (lane c g k a.toNat 0 (j : Int)).toNat)
        f.setV2 (2 * dw.toNat) (pairOf r.1 r.2)))) ∧
    (((fibresOf g.width c.memb).all fun i => writable (g.fibre i) d.toNat 1) = true →
      exec (.fidx d) s = .next (completes s c (eachV g (fibresOf g.width c.memb) fun i f => f.setV d.toNat (BitVec.ofNat 32 i))))

/-- R176: a word of XF1 FN 6 is FIDX exactly when it encodes member field 7 with A and B zero. Any other value makes the
unit illegal at that word, and the batch takes ILLEGAL. -/
def Sys2Proof.Claims.FibreIndexWords : Prop :=
  ∀ m d a b : Nat, m < 16 → d < 64 → a < 64 → b < 64 →
    let n := 0x18 * 2 ^ 26 + m * 2 ^ 22 + d * 2 ^ 16 + a * 2 ^ 10 + b * 2 ^ 4 + 6
    let u : UnitWords := { hints := [], main := BitVec.ofNat 32 n, tgts := [], at_ := 0, next := 4 }
    if m = 7 ∧ a = 0 ∧ b = 0 then decodeWord n = some (.fidx (BitVec.ofNat 6 d)) ∧ unitBad u = none
    else decodeWord n = none ∧ unitBad u = some u.main ∧ ∀ (s : State) (c : Cur) (g : Gang), Issuing s c g →
      exec (.illegalWord u.main) s = .next ((s.takeTrap c.gid c.base
        { cause := 0x01, tepc := loWord (c.base - s.textOf g), tmask := c.memb, taddr := 0, tinfo := u.main, bmask := c.memb,
          good := [], skip := c.next, held := none }).settle c.gid)

/-- R166, R169, R172, R175, R176: the shuffles, RBAL and FIDX over the fibres of their member set, and which words are
FIDX. -/
def Obligations.Shuffles : Prop := Sys2Proof.Claims.ShuffleWords ∧ Sys2Proof.Claims.FibreIndexWords

/-- R44, R45, R166, R170, R171: RDX gives every fibre of K the reduction of the words of K (an integer sum, least or
greatest; the tree of R44 for F32), SCAN gives fibre i the fold up to i, or up to i - 1 for the exclusive forms, and
MATCH the set of fibres of K with an equal word. -/
def Sys2Proof.Claims.ReductionsAndScans : Prop :=
  ∀ (s : State) (c : Cur) (g : Gang) (k : BitVec 3) (d a : BitVec 6) (dw : BitVec 5), Issuing s c g → kHere c g k = true →
    g.width ≤ 64 →
    (((kFibres c g k).all fun i => writable (g.fibre i) d.toNat 1 && readable (g.fibre i) a.toNat 1) = true →
      (∀ p ∈ ([(.rdxIadd, 0, fun x y => x + y), (.rdxIminS, 0x7FFFFFFF, fun x y => if x.toInt ≤ y.toInt then x else y),
          (.rdxImaxS, 0x80000000, fun x y => if x.toInt ≤ y.toInt then y else x)] :
          List ((BitVec 3 → BitVec 6 → BitVec 6 → Instr) × Word × (Word → Word → Word))),
        exec (p.1 k d a) s = .next (completes s c (eachV g (kFibres c g k) fun _ f =>
          f.setV d.toNat (((kFibres c g k).map fun j => (g.fibre j).v a.toNat).foldl p.2.2 p.2.1)))) ∧
      (∀ p ∈ ([(.rdxFadd, 0x80000000, fadd32), (.rdxFmin, nan32, fun x y => (fmin32 x y, 0)),
          (.rdxFmax, nan32, fun x y => (fmax32 x y, 0))] :
          List ((BitVec 3 → BitVec 6 → BitVec 6 → Instr) × Word × (Word → Word → Word × Flags))),
        exec (p.1 k d a) s = .next (completes s c (eachF g (kFibres c g k) fun _ f =>
          let r := treeFold p.2.2 6 ((List.range g.width).map fun (j : Nat) => lane c g k a.toNat p.2.1 (j : Int))
          (f.setV d.toNat r.1, r.2)))) ∧
      (∀ p ∈ ([(.scanIadd, 0, fun x y => (x + y, 0)), (.scanFadd, 0x80000000, fadd32)] :
          List ((BitVec 3 → BitVec 6 → BitVec 6 → Instr) × Word × (Word → Word → Word × Flags))),
        exec (p.1 k d a) s = .next (completes s c (eachF g (kFibres c g k) fun i f =>
          (f.setV d.toNat (prefixFold p.2.2 p.2.1 (fun j => lane c g k a.toNat p.2.1 (j : Int)) (i + 1)).1,
            (prefixFold p.2.2 p.2.1 (fun j => lane c g k a.toNat p.2.1 (j : Int)) g.width).2)))) ∧
      (∀ p ∈ ([(.scanIaddx, 0, fun x y => (x + y, 0)), (.scanFaddx, 0x80000000, fadd32)] :
          List ((BitVec 3 → BitVec 6 → BitVec 6 → Instr) × Word × (Word → Word → Word × Flags))),
        exec (p.1 k d a) s = .next (completes s c (eachF g (kFibres c g k) fun i f =>
          (f.setV d.toNat (prefixFold p.2.2 p.2.1 (fun j => lane c g k a.toNat p.2.1 (j : Int)) i).1,
            (prefixFold p.2.2 p.2.1 (fun j => lane c g k a.toNat p.2.1 (j : Int)) (g.width - 1)).2))))) ∧
    (((kFibres c g k).all fun i => writable (g.fibre i) (2 * dw.toNat) 2 && readable (g.fibre i) a.toNat 1) = true →
      exec (.xmatch k dw a) s = .next (completes s c (eachV g (kFibres c g k) fun i f =>
        f.setV2 (2 * dw.toNat) (maskOfList ((kFibres c g k).filter fun j => (g.fibre j).v a.toNat == (g.fibre i).v a.toNat)))))

/-- R96, R166, R173, R174: a vote over K writes one Q predicate, or every bit of a mask; BCAST writes the word of the
lowest-numbered fibre of K to S[d], and 0 when K has none. -/
def Sys2Proof.Claims.VotesAndBroadcast : Prop :=
  ∀ (s : State) (c : Cur) (g : Gang) (k q : BitVec 3) (pr : BitVec 4) (d a : BitVec 6),
    Issuing s c g → kHere c g k = true →
    exec (.voteAny k q pr) s = .next (advance c (s.modGang c.gid fun h => h.qset q.toNat
      ((kFibres c g k).any fun i => guardOf pr (g.fibre i)))) ∧
    exec (.voteAll k q pr) s = .next (advance c (s.modGang c.gid fun h => h.qset q.toNat
      ((kFibres c g k).all fun i => guardOf pr (g.fibre i)))) ∧
    exec (.voteEq k q pr) s = .next (advance c (s.modGang c.gid fun h => h.qset q.toNat
      ((kFibres c g k).all (fun i => guardOf pr (g.fibre i)) || (kFibres c g k).all (fun i => !guardOf pr (g.fibre i))))) ∧
    exec (.voteBal k q pr) s = .next (advance c (s.modGang c.gid fun h => h.mset q.toNat
      (maskOfList ((kFibres c g k).filter fun i => guardOf pr (g.fibre i))))) ∧
    (((kFibres c g k).all fun i => readable (g.fibre i) a.toNat 1) = true →
      exec (.bcast k d a) s = .next (advance c (s.modGang c.gid fun h => h.setS d.toNat
        (match kFibres c g k with | i :: _ => (g.fibre i).v a.toNat | [] => 0))))

/-- R44, R45, R96, R166, R170, R171, R173, R174: reductions, scans, matches, votes and broadcasts over the member
set. That an exclusive SCAN.FADD performs every addition up to fibre W - 2, whose flags it sets, is the model's
choice (log 72); exact values are log 69. -/
def Obligations.CrossFibreResults : Prop := Sys2Proof.Claims.ReductionsAndScans ∧ Sys2Proof.Claims.VotesAndBroadcast

/-- R166: a cross-fibre word whose member set has a fibre outside the batch does not execute: the batch waits with WK
0 for the set, and nothing else changes but by that wait. The word that a waiting batch captures is the model's (log
36). -/
def Obligations.CrossFibreWaits : Prop :=
  ∀ (s : State) (c : Cur) (g : Gang) (k q : BitVec 3) (d a b : BitVec 6) (dw : BitVec 5) (pr : BitVec 4),
    Issuing s c g → kHere c g k = false →
    ∀ i ∈ ([.shfl k d a b, .shflx k d a b, .shflu k d a b, .shfld k d a b, .rdxIadd k d a, .rdxIminS k d a, .rdxImaxS k d a,
        .rdxFadd k d a, .rdxFmin k d a, .rdxFmax k d a, .scanIadd k d a, .scanIaddx k d a, .scanFadd k d a, .scanFaddx k d a,
        .xmatch k dw a, .xshf k d a b, .voteAny k q pr, .voteAll k q pr, .voteEq k q pr, .voteBal k q pr,
        .bcast k d a, .rbal k dw a b] : List Instr),
      exec i s = .next ((s.modGang c.gid fun h => h.waitBatch c.memb 0 [k.setWidth 64] c.next).settle c.gid)

/-! ## Control flow, traps and special registers -/

namespace Sys2Proof.Claims

/-- A branch target that the rules allow (R155): a multiple of 4 from the text base, within the text. -/
def inText (s : State) (g : Gang) (pc : DWord) : Bool :=
  (pc - s.textOf g).toNat % 4 == 0 && decide ((pc - s.textOf g).toNat < s.textSz g)

/-- The groups into which fibres with their own next PCs fall (R91). -/
def groupsBy (l : List Nat) (pc : Nat → DWord) : List (DWord × Mask) := l.foldr (fun i gs => addGroup (pc i) i gs) []

/-- A branch completes: the fibres of the batch take new registers and go to their next PCs. -/
def branches (s : State) (c : Cur) (g : Gang) (upd : Nat → Fibre → Fibre) (pc : Nat → DWord) : State :=
  (s.modGang c.gid fun _ => eachV g (fibresOf g.width c.memb) upd).goGroups c (groupsBy (fibresOf g.width c.memb) pc)

/-- The trap that a whole batch takes at its unit, with an address and an information word (R399, R405). -/
def batchTrap (s : State) (c : Cur) (g : Gang) (cause : Nat) (addr : DWord) (info : Nat) : Trap :=
  { cause := BitVec.ofNat 32 cause, tepc := loWord (c.base - s.textOf g), tmask := c.memb, taddr := addr,
    tinfo := BitVec.ofNat 32 info, bmask := c.memb, good := [], skip := c.next, held := none }

/-- The state after the whole batch takes a trap. -/
def traps (s : State) (c : Cur) (g : Gang) (cause : Nat) (addr : DWord) (info : Nat) : State :=
  (s.takeTrap c.gid c.base (batchTrap s c g cause addr info)).settle c.gid

/-- No command of the gang holds a fault that a delivery point would deliver (R258). -/
def noHeld (s : State) (g : Gang) : Prop := s.heldOf g (fun _ => true) = none

end Sys2Proof.Claims

/-- R62, R73, R91, R151 to R156: each branch sends every fibre of the batch to its own next PC, the target where the
fibre takes the branch and the next unit elsewhere; the fibres form one group for each PC. The linking forms write the
byte offset of the word after the branch to V63; CALLX reads its target first. -/
def Sys2Proof.Claims.Branches : Prop :=
  ∀ (s : State) (c : Cur) (g : Gang) (gd : BitVec 4) (o : BitVec 22) (a : BitVec 6), Issuing s c g →
    let act := fibresOf g.width c.memb
    let rel := c.word + o.signExtend 64 <<< 2
    let link := loWord (c.word + 4 - s.textOf g)
    let abs := fun (n : Nat) (i : Nat) => s.textOf g + ((g.fibre i).v n).setWidth 64
    ((∀ i ∈ act, guardOf gd (g.fibre i) = true → inText s g rel = true) →
      exec (.bra gd o) s = .next (branches s c g (fun _ f => f) fun i => if guardOf gd (g.fibre i) then rel else c.next) ∧
      ((∀ i ∈ act, guardOf gd (g.fibre i) = true → writable (g.fibre i) 63 1 = true) →
        exec (.call gd o) s = .next (branches s c g (fun _ f => if guardOf gd f then f.setV 63 link else f)
          fun i => if guardOf gd (g.fibre i) then rel else c.next))) ∧
    ((g.qget (gd.toNat % 8) != bit gd 3) = true ∧ inText s g rel = true →
      exec (.bru gd o) s = .next (branches s c g (fun _ f => f) fun _ => rel)) ∧
    ((g.qget (gd.toNat % 8) != bit gd 3) = false →
      exec (.bru gd o) s = .next (branches s c g (fun _ f => f) fun _ => c.next)) ∧
    ((∀ i ∈ act, guardOf gd (g.fibre i) = true → readable (g.fibre i) a.toNat 1 = true ∧ inText s g (abs a.toNat i) = true) →
      exec (.brx gd a) s = .next (branches s c g (fun _ f => f)
        fun i => if guardOf gd (g.fibre i) then abs a.toNat i else c.next) ∧
      ((∀ i ∈ act, guardOf gd (g.fibre i) = true → writable (g.fibre i) 63 1 = true) →
        exec (.callx gd a) s = .next (branches s c g (fun _ f => if guardOf gd f then f.setV 63 link else f)
          fun i => if guardOf gd (g.fibre i) then abs a.toNat i else c.next))) ∧
    ((∀ i ∈ act, guardOf gd (g.fibre i) = true → readable (g.fibre i) 63 1 = true ∧ inText s g (abs 63 i) = true) →
      exec (.ret gd) s = .next (branches s c g (fun _ f => f)
        fun i => if guardOf gd (g.fibre i) then abs 63 i else c.next))

/-- R73, R153: BRM sends each fibre to the target word of its first true predicate among the first n + 1, and to the
word after the targets when none is true. -/
def Sys2Proof.Claims.BranchMultiway : Prop :=
  ∀ (s : State) (c : Cur) (g : Gang) (n : BitVec 2) (b0 b1 b2 b3 : BitVec 4), Issuing s c g →
    let pairs := ([b0, b1, b2, b3].take (n.toNat + 1)).zip c.tgts
    let pc := fun i => match pairs.find? fun p => guardOf p.1 (g.fibre i) with
      | some p => c.word + p.2.signExtend 64 <<< 2
      | none => c.next
    (∀ i ∈ fibresOf g.width c.memb, (pairs.any fun p => guardOf p.1 (g.fibre i)) = true → inText s g (pc i) = true) →
    exec (.brm n b0 b1 b2 b3) s = .next (branches s c g (fun _ f => f) pc)

/-- R62, R73, R91, R151 to R156: the branches, calls and returns, and the multiway branches. -/
def Obligations.BranchWords : Prop := Sys2Proof.Claims.Branches ∧ Sys2Proof.Claims.BranchMultiway

/-- R86, R157: WINSET and WINADD set WB in each executing fibre when the result lies in 0 to A - 8; a fibre whose result
does not takes REG_RANGE and keeps WB, and then the batch traps with those fibres as its fault mask while the others
have moved their windows. -/
def Sys2Proof.Claims.Windows : Prop :=
  ∀ (s : State) (c : Cur) (g : Gang) (gd : BitVec 4) (n : BitVec 5), Issuing s c g →
    ∀ p ∈ ([(.winset, fun _ => (8 * n.toNat : Nat)), (.winadd, fun f => (f.wb : Int) + 8 * n.toInt)] :
        List ((BitVec 4 → BitVec 5 → Instr) × (Fibre → Int))),
      let fits := fun i => decide (0 ≤ p.2 (g.fibre i) ∧ p.2 (g.fibre i) + 8 ≤ (g.fibre i).regs.length)
      let ok := (actGd c g gd).filter fits
      let bad := (actGd c g gd).filter fun i => !fits i
      let h := eachV g ok fun _ f => { f with wb := (p.2 f).toNat }
      (bad = [] → exec (p.1 gd n) s = .next (completes s c h)) ∧
      (bad ≠ [] → exec (p.1 gd n) s = .next (((s.modGang c.gid fun _ => h).takeTrap c.gid c.base
        { batchTrap s c g 0x02 0 (bad.headD 0) with
            tmask := maskOfList bad, good := [(c.next, c.memb &&& ~~~maskOfList bad)] }).settle c.gid))

/-- R158 to R164: NOP and YIELD let the batch go on; EXIT ends the batch's fibres, unless they stand in a trap batch
(ILLEGAL) or are the gang's last with children outstanding (a wait with WK 3, which, by the model's choice of log 9, lasts
until the views of finished children, `finals`, are merged too); WAITB waits with WK 1; BKPT and TRAP take
their traps, the code in TINFO. -/
def Sys2Proof.Claims.ControlWords : Prop :=
  ∀ (s : State) (c : Cur) (g : Gang) (m : BitVec 3) (n : BitVec 16), Issuing s c g →
    exec .nop s = .next (advance c s) ∧
    exec .yield s = .next (advance c { s with lastIn := s.lastIn.filter fun e => e.2.2.2 != c.gid }) ∧
    (g.inTrap c.memb = true → exec .exit s = .next (traps s c g 0x01 0 0x04400000)) ∧
    (g.inTrap c.memb = false → g.live &&& ~~~c.memb = 0 → (g.outstanding ≠ 0 ∨ g.finals ≠ []) →
      exec .exit s = .next ((s.modGang c.gid fun h => h.waitBatch c.memb 3 [1] c.next).settle c.gid)) ∧
    (g.inTrap c.memb = false → (g.live &&& ~~~c.memb ≠ 0 ∨ (g.outstanding = 0 ∧ g.finals = [])) → noHeld s g →
      exec .exit s = .next ((s.endFibres c.gid c.memb).settle c.gid)) ∧
    (noHeld s g →
      exec (.waitb m) s = .next ((s.modGang c.gid fun h => h.waitBatch c.memb 1 [m.setWidth 64] c.next).settle c.gid)) ∧
    exec (.bkpt n) s = .next (traps s c g 0x1E 0 n.toNat) ∧
    exec (.trap n) s = .next (traps s c g 0x1D 0 n.toNat)

/-- R86, R157 to R164: the window words and the control words. TADDR 0 and TINFO of REG_RANGE and of an EXIT in a
trap batch are logs 11 and 30, and what a wait captures log 36. -/
def Obligations.WindowsAndControl : Prop := Sys2Proof.Claims.Windows ∧ Sys2Proof.Claims.ControlWords

/-- R161: ending fibres clears their bits of the live mask and takes them out of the batch table, where an entry left
empty is freed; a gang with no live fibre left exits and its batch table is empty. -/
def Obligations.FibresEnd : Prop :=
  ∀ (s : State) (k : Nat) (g : Gang) (m : Mask), s.gang? k = some g → g.exited = false →
    ∃ h, (s.endFibres k m).gang? k = some h ∧ h.live = g.live &&& ~~~m ∧ h.fibres = g.fibres ∧ h.sregs = g.sregs ∧
      h.stat = g.stat ∧ (∀ b ∈ h.batches, b.memb &&& m = 0 ∧ b.memb ≠ 0) ∧
      (h.live = 0 → h.exited = true ∧ h.batches = []) ∧ (h.live ≠ 0 → h.exited = false)

/-- R399 to R401, R405: taking a trap. With a handler and no active trap the fault CSRs take the trap's values, the
batch's fibres become one trapped batch at TVEC, and the trap is active; while another trap is active it waits at the
end of the list, its CSRs unwritten; with TVEC 0, or raised by the handler's own batch, the gang is killed: STAT.BRK is
set, no fibre is live, and the gang has exited. -/
def Obligations.TakingATrap : Prop :=
  ∀ (s : State) (k : Nat) (g : Gang) (pc : DWord) (t : Trap), s.gang? k = some g → g.exited = false → t.bmask ≠ 0 →
    (g.inTrap t.bmask = false → g.tvec ≠ 0 → g.trap = none →
      ∃ h, (s.takeTrap k pc t).gang? k = some h ∧ h.trap = some t ∧ h.pending = g.pending ∧ h.live = g.live ∧
        h.tcause = t.cause ∧ h.tepc = t.tepc ∧ pairOf h.tmask h.tmaskh = t.tmask ∧ h.taddr = loWord t.taddr ∧
        h.taddrh = hiWord t.taddr &&& 0x01FFFFFF ∧ h.tinfo = t.tinfo ∧ h.fibres = g.fibres ∧ h.sregs = g.sregs ∧
        h.stat = g.stat ∧
        h.batches = (g.unbatch t.bmask).batches ++
          [{ memb := t.bmask, pc := g.tvec, st := .trapped, passed := 0, cap := [], next := 0, polled := false }]) ∧
    (g.inTrap t.bmask = false → g.tvec ≠ 0 → g.trap ≠ none →
      ∃ h, (s.takeTrap k pc t).gang? k = some h ∧ h.trap = g.trap ∧ h.pending = g.pending ++ [t] ∧
        h.tcause = g.tcause ∧ h.tepc = g.tepc ∧ h.tinfo = g.tinfo ∧ h.live = g.live ∧
        h.batches = (g.unbatch t.bmask).batches ++
          [{ memb := t.bmask, pc := pc, st := .trapped, passed := 0, cap := [], next := 0, polled := false }]) ∧
    (g.inTrap t.bmask = true ∨ g.tvec = 0 →
      ∃ h, (s.takeTrap k pc t).gang? k = some h ∧ h.live = 0 ∧ h.exited = true ∧ h.batches = [] ∧ h.stat = g.stat ||| fBRK ∧
        (g.inTrap t.bmask = false → h.tcause = t.cause ∧ h.tepc = t.tepc ∧ h.tinfo = t.tinfo))

/-- R165, R400, R403: TRET outside a trap batch is ILLEGAL; inside, once the trap batch is gathered, action 0 places
the fault mask at the faulting unit again, 1 places it after that unit, 2 kills it and 3 kills the gang; the fibres
that had completed the unit go to where they stood; then the oldest pending trap becomes active. A trap batch that is
not gathered waits with WK 0. What a wait captures is the model's (log 36). -/
def Obligations.TrapReturn : Prop :=
  ∀ (s : State) (c : Cur) (g : Gang) (a : BitVec 2), Issuing s c g →
    (g.inTrap c.memb = false → exec (.tret a) s = .next (traps s c g 0x01 0 c.main.toNat)) ∧
    (∀ t, g.inTrap c.memb = true → g.trap = some t → t.bmask &&& g.live &&& ~~~(g.tretGroup c a.toNat).2 ≠ 0 →
      exec (.tret a) s =
        .next ((s.modGang c.gid fun h => h.waitBatch c.memb 0 [8, a.setWidth 64] c.next).settle c.gid)) ∧
    (∀ t, g.inTrap c.memb = true → g.trap = some t → t.held = none → g.openTurn = none →
      t.bmask &&& g.live &&& ~~~(g.tretGroup c a.toNat).2 = 0 →
      let home := s.modGang c.gid fun h => t.good.foldl (fun h e => h.place e.1 e.2) { h.unbatch t.bmask with trap := none }
      let pc := s.textOf g + t.tepc.setWidth 64
      exec (.tret a) s = .next (match (g.tretGroup c a.toNat).1 with
        | 0 => (((home.modGang c.gid fun h => h.place pc t.tmask).modGang c.gid Gang.nextTrap).settle c.gid)
        | 1 => (((home.modGang c.gid fun h => h.place t.skip t.tmask).modGang c.gid Gang.nextTrap).settle c.gid)
        | 3 => (s.killGang c.gid).settle c.gid
        | _ => (((home.killFibres c.gid t.tmask).modGang c.gid Gang.nextTrap).settle c.gid)))

namespace Sys2Proof.Claims

/-- The user CSRs that hold 32 bits, with the values that a gang reads (R97, R198, R386, R395, R399). -/
def userCsrs (s : State) (g : Gang) : List (BitVec 12 × Word) :=
  [(0x000, g.stat.setWidth 32), (0x001, g.statarm.setWidth 32), (0x003, BitVec.ofNat 32 (g.ped.mode % 4)),
   (0x004, BitVec.ofNat 32 g.width), (0x005, g.gangId), (0x006, g.teamId),
   (0x007, BitVec.ofNat 32 ((s.launch? g.lkey).elim 0 fun l => l.r.gangs)),
   (0x008, (s.launch? g.lkey).elim 0 fun l => l.r.nteams), (0x009, g.ped.lid), (0x00A, BitVec.ofNat 32 g.ped.depth),
   (0x010, BitVec.ofNat 32 s.lxs), (0x011, s.lxp),
   (0x012, (s.iod (if dieOf g.core < 4 then 0 else 1)).cpyshare.setWidth 32),
   (0x021, g.tcause), (0x022, g.tepc), (0x023, g.tmask), (0x024, g.tmaskh), (0x025, g.taddr), (0x026, g.taddrh &&& 0x01FFFFFF),
   (0x027, g.tinfo)] ++
  (List.range 16).map fun k => (BitVec.ofNat 12 (0x030 + k), BitVec.ofNat 32 (s.perfSel g.core k))

end Sys2Proof.Claims

/-- R97, R98: CSRR copies an assigned user CSR to S[r], or SEED and TVEC to the pair of an even r; in supervisor state
also LXT0 to LXT7 and PTROOT. -/
def Sys2Proof.Claims.CsrRead : Prop :=
  ∀ (s : State) (c : Cur) (g : Gang) (r : BitVec 8), Issuing s c g →
    (∀ p ∈ userCsrs s g, exec (.csrr r p.1) s = .next (advance c (s.modGang c.gid fun h => h.setS r.toNat p.2))) ∧
    (r.toNat % 2 = 0 → ∀ p ∈ ([(0x002, g.seed), (0x020, g.tvec &&& 0x01FFFFFFFFFFFFFC)] : List (BitVec 12 × DWord)),
      exec (.csrr r p.1) s = .next (advance c (s.modGang c.gid fun h => h.setS2 r.toNat p.2))) ∧
    (s.sup g = true → ∀ k < 8, exec (.csrr r (BitVec.ofNat 12 (0x810 + k))) s =
      .next (advance c (s.modGang c.gid fun h => h.setS r.toNat (s.lxt.getD k 0)))) ∧
    (s.sup g = true → r.toNat % 2 = 0 → exec (.csrr r 0x820) s =
      .next (advance c (s.modGang c.gid fun h => h.setS2 r.toNat ((s.ctx? g.ctx).elim 0 fun x => x.ptroot))))

/-- R76, R98: CSRR and CSRW of a number at or above 0x800 take PROT outside supervisor state, before any other test; an
unassigned number, and an odd S register with a 64-bit CSR, take ILLEGAL; TINFO holds the word. -/
def Sys2Proof.Claims.CsrProtection : Prop :=
  ∀ (s : State) (c : Cur) (g : Gang) (r : BitVec 8) (n : BitVec 12), Issuing s c g →
    ∀ i ∈ ([.csrr r n, .csrw r n] : List Instr),
      (n.toNat ≥ 0x800 → s.sup g = false → exec i s = .next (traps s c g 0x05 0 c.main.toNat)) ∧
      ((n.toNat < 0x800 ∨ s.sup g = true) → userCsr n.toNat = false → supCsr n.toNat = false →
        exec i s = .next (traps s c g 0x01 0 c.main.toNat)) ∧
      (n = 0x002 ∨ n = 0x020 ∨ (n = 0x820 ∧ s.sup g = true) → r.toNat % 2 = 1 →
        exec i s = .next (traps s c g 0x01 0 c.main.toNat))

/-- R76, R97, R98: reading CSRs, and the CSRs that a gang may not reach. TINFO of PROT and ILLEGAL is log 11, and
PTROOT at 0x820 log 53. -/
def Obligations.CsrReads : Prop := Sys2Proof.Claims.CsrRead ∧ Sys2Proof.Claims.CsrProtection

/-- R97, R98, R198, R328, R382, R386, R395: CSRW of each register a program can write. STAT's flags written as 1 are
cleared; STATARM takes five bits; SEED and TVEC take the pair, TVEC with its low two and high seven bits zero; LXS,
LXP (at least 256) and CPYSHARE are written in supervisor state only; PERFSEL selects an event and its CLR bit zeroes
the counter; LXT takes only a pairing; PTROOT belongs to the context. A write of a read-only register changes
nothing. That a write outside supervisor state is ignored, and PTROOT, are log 53. -/
def Obligations.CsrWrite : Prop :=
  ∀ (s : State) (c : Cur) (g : Gang) (r : BitVec 8), Issuing s c g → sClean g [(r.toNat, 1)] = true →
    let w := g.s r.toNat
    exec (.csrwStat r) s = .next (advance c (s.modGang c.gid fun h => { h with stat := h.stat &&& ~~~w.setWidth 5 })) ∧
    exec (.csrw r 0x001) s = .next (advance c (s.modGang c.gid fun h => { h with statarm := w.setWidth 5 })) ∧
    (∀ q : BitVec 7, sClean g [(2 * q.toNat, 2)] = true →
      exec (.csrwSeed q) s = .next (advance c (s.modGang c.gid fun h => { h with seed := g.s2 (2 * q.toNat) }))) ∧
    (r.toNat % 2 = 0 → sClean g [(r.toNat, 2)] = true →
      exec (.csrw r 0x020) s = .next (advance c (s.modGang c.gid fun h =>
        { h with tvec := g.s2 r.toNat &&& 0x01FFFFFFFFFFFFFC })) ∧
      (s.sup g = true →
        exec (.csrw r 0x820) s = .next (advance c (s.modCtx g.ctx fun x => { x with ptroot := g.s2 r.toNat })))) ∧
    exec (.csrwLxs r) s = .next (advance c (if s.sup g then { s with lxs := w.toNat % 4 } else s)) ∧
    exec (.csrwLxp r) s = .next (advance c (if s.sup g then { s with lxp := if w.toNat < 256 then 256 else w } else s)) ∧
    exec (.csrwCpyshare r) s = .next (advance c (if s.sup g then
      s.modIo (if dieOf g.core < 4 then 0 else 1) fun d => { d with cpyshare := w.setWidth 8 } else s)) ∧
    (∀ k : BitVec 4, exec (.csrwPerfsel r k) s = .next (advance c (
      let t := { s with perfsel := (if w.toNat % 256 = 0 then [] else [(g.core, k.toNat, w.toNat % 256)]) ++
                          s.perfsel.filter fun e => !(e.1 == g.core && e.2.1 == k.toNat) }
      if bit w 8 then t.perfSet g.core k.toNat 0 else t))) ∧
    (s.sup g = true → ∀ k : BitVec 3, exec (.csrwLxt r k) s =
      .next (advance c (if lxtOk w then { s with lxt := s.lxt.set k.toNat w } else s))) ∧
    (∀ n ∈ ([0x003, 0x004, 0x005, 0x006, 0x007, 0x008, 0x009, 0x00A, 0x021, 0x022, 0x023, 0x024, 0x025, 0x026, 0x027] :
        List (BitVec 12)), exec (.csrw r n) s = .next (advance c s))

/-- R22, R384, R394, R396: CLOCK reads the device clock, LOCQ the place of the gang, PERFRD a counter of the core;
TLBINV takes PROT outside supervisor state and ILLEGAL with a reserved bit set, and otherwise performs the actions of
a DEV release and drops the context's translations, or those of one page. The slot that a die has fused is a free
value (log 65), and the clock that of log 5. -/
def Obligations.ClockPlaceAndTlb : Prop :=
  ∀ (s : State) (c : Cur) (g : Gang) (q : BitVec 7) (r : BitVec 8) (k : BitVec 4), Issuing s c g →
    exec (.clock q) s = .next (advance c (s.modGang c.gid fun h => h.setS2 (2 * q.toNat) (BitVec.ofNat 64 s.clock))) ∧
    exec (.perfrd r k) s = .next (advance c (s.modGang c.gid fun h => h.setS r.toNat (s.perfGet g.core k.toNat))) ∧
    (g.core < 160 → exec (.locq r) s = .next (advance c (s.modGang c.gid fun h => h.setS r.toNat (BitVec.ofNat 32
      (g.core / 20 + g.core % 20 * 2 ^ 3 + g.core % 20 / 4 * 2 ^ 8 + g.part % 4 * 2 ^ 11 + g.core * 2 ^ 16 +
        physSlot (g.core / 20) (g.core % 20) * 2 ^ 24))))) ∧
    (s.sup g = false → exec (.tlbinv q) s = .next (traps s c g 0x05 0 c.main.toNat)) ∧
    (s.sup g = true → sClean g [(2 * q.toNat, 2)] = true →
      ((g.s2 (2 * q.toNat)).toNat % 65536 > 1 → exec (.tlbinv q) s = .next (traps s c g 0x01 0 c.main.toNat)) ∧
      ((g.s2 (2 * q.toNat)).toNat % 65536 = 1 → exec (.tlbinv q) s = .next (advance c
        { s.releaseLv g.core 2 with tlb := (s.releaseLv g.core 2).tlb.filter fun e => e.ctx != g.ctx })) ∧
      ((g.s2 (2 * q.toNat)).toNat % 65536 = 0 → exec (.tlbinv q) s = .next (advance c
        { s.releaseLv g.core 2 with tlb := (s.releaseLv g.core 2).tlb.filter fun e =>
            !(e.ctx == g.ctx && e.base ≤ (g.s2 (2 * q.toNat)).toNat && (g.s2 (2 * q.toNat)).toNat < e.base + e.size) })))

/-! ## Memory -/

namespace Sys2Proof.Claims

/-- The fibres of a list access memory one after another in ascending FIX, and none faults: each takes new registers
and flags. -/
def eachMem (c : Cur) (g : Gang) (one : State → Nat → Option (Fibre × Flags) × State) : List Nat → State → Option State
  | [], s => some s
  | i :: l, s =>
    match one s i with
    | (some r, s) => eachMem c g one l (s.modGang c.gid fun h => { h with fibres := h.fibres.set i r.1, stat := h.stat ||| r.2 })
    | (none, _) => none

/-- What a checked load gives a fibre. -/
def loaded {α : Type} (r : Except AFault α × State) (k : α → Fibre × Flags) : Option (Fibre × Flags) × State :=
  match r with
  | (.ok x, s) => (some (k x), s)
  | (.error _, s) => (none, s)

/-- Bytes and registers of a size code (R230). -/
def codeBytes (z : Nat) : Nat := [1, 1, 2, 2, 4, 8, 16].getD z 0
def codeRegs (z : Nat) : Nat := [1, 1, 1, 1, 1, 2, 4].getD z 0

/-- The registers that a load of a size code writes (R230): the byte and half forms extend with zeros, or for .S with
the sign; the wide forms take the words in ascending addresses. -/
def loadVals (z : Nat) (bs : List Byte) : List Word :=
  let n := numOf bs
  match z with
  | 1 => [BitVec.ofInt 32 (if n < 2 ^ 7 then n else (n : Int) - 2 ^ 8)]
  | 3 => [BitVec.ofInt 32 (if n < 2 ^ 15 then n else (n : Int) - 2 ^ 16)]
  | _ => (List.range (codeRegs z)).map fun k => BitVec.ofNat 32 (numOf ((bs.drop (4 * k)).take 4))

/-- The bytes that a store of a size code writes: the low bytes of its registers, in ascending addresses (R230). -/
def storeVals (z : Nat) (ws : List Word) : List Byte :=
  (List.range (codeBytes z)).map fun k => BitVec.ofNat 8 ((ws.getD (k / 4) 0).toNat / 256 ^ (k % 4))

/-- The ORDER and SCOPE of a unit as cache actions (R207, R208, R231): a release before it and an acquire after it, at
the scope given or the default. -/
def relBefore (s : State) (c : Cur) (g : Gang) (scope : Nat) : State :=
  s.releaseLv g.core (if hasRel c then scopeLevel (hmodScope c scope) (s.spread g) else 0)
def acqAfter (s : State) (c : Cur) (g : Gang) (scope : Nat) (t : State) : State :=
  t.acquireLv g.core (if hasAcq c then scopeLevel (hmodScope c scope) (s.spread g) else 0)

/-- The same before an access that stores: the release that an earlier FENCE.REL, FENCE.AR or FENCE.SC makes of it comes
first (R208). -/
def stBefore (s : State) (c : Cur) (g : Gang) (scope : Nat) : State := relBefore (s.payOwed c.gid) c g scope

/-- An acquire load of a lattice cell acquires at SYS scope (R221, R247). -/
def sysAcq (c : Cur) (g : Gang) (x : Tr) (s : State) : State := if x.lattice && hasAcq c then s.acquireLv g.core 2 else s

/-- A displacement of HIMM (R225). -/
def disp (c : Cur) : DWord := match c.himm with | some h => h.signExtend 64 | none => 0

/-- Two or more adjacent registers as one number, the low word first (R3). -/
def pair (lo hi : Word) : DWord := hi ++ lo

end Sys2Proof.Claims

/-- R221, R225, R230, R231: LD and LDV load, in each executing fibre in ascending FIX, from the address that R225 forms,
and write the registers that the size code gives; LDS loads once from its uniform address into S registers. One with
.ACQ of a lattice page acquires at SYS scope. -/
def Sys2Proof.Claims.Loads : Prop :=
  ∀ (s : State) (c : Cur) (g : Gang) (gd : BitVec 4) (d a : BitVec 6) (a2 : BitVec 5) (p : BitVec 7) (z : BitVec 3),
    Issuing s c g →
    let act := actGd c g gd
    let one := fun (ea : Nat → DWord) (s : State) (i : Nat) =>
      match s.loadVa (agentOf s c g) (ea i) (codeBytes z.toNat) (bypassL1 c) fun _ => true with
      | (.ok r, s) => (some ((g.fibre i).setVs d.toNat (loadVals z.toNat r.1), 0), sysAcq c g r.2 s)
      | (.error _, s) => (none, s)
    (z ≠ 7 → (∀ i ∈ act, writable (g.fibre i) d.toNat (codeRegs z.toNat) = true) →
      (sClean g [(2 * p.toNat, 2)] = true → (∀ i ∈ act, readable (g.fibre i) a.toNat 1 = true) →
        ∀ t, eachMem c g (one fun i => g.s2 (2 * p.toNat) + ((g.fibre i).v a.toNat).setWidth 64 + disp c) act
          (relBefore s c g 2) = some t →
        exec (.ld gd d a p z) s = .next (advance c (acqAfter s c g 2 t))) ∧
      ((∀ i ∈ act, readable (g.fibre i) (2 * a2.toNat) 2 = true) →
        ∀ t, eachMem c g (one fun i => (g.fibre i).v2 (2 * a2.toNat) + disp c) act (relBefore s c g 2) = some t →
        exec (.ldv gd d a2 z) s = .next (advance c (acqAfter s c g 2 t)))) ∧
    (∀ (sd o : BitVec 8) (bs : List Byte) (x : Tr) (t : State), sClean g [(2 * p.toNat, 2)] = true →
      let zz := if z = 7 then 6 else z.toNat
      let ea := g.s2 (2 * p.toNat) + (match c.himm with
        | some h => h.signExtend 64
        | none => BitVec.ofNat 64 (o.toNat * codeBytes zz))
      (relBefore s c g 2).loadVa (agentOf (relBefore s c g 2) c g) ea (codeBytes zz) (bypassL1 c) (fun _ => true) = (.ok (bs, x), t) →
      exec (.lds sd p z o) s =
        .next (advance c ((sysAcq c g x (acqAfter s c g 2 t)).modGang c.gid fun h => h.setSs sd.toNat (loadVals zz bs))))

/-- R225, R230, R231: ST and STV store, in each executing fibre in ascending FIX, the low bytes of the registers that
the size code names at the address that R225 forms, and change no register; STS stores S registers once. -/
def Sys2Proof.Claims.Stores : Prop :=
  ∀ (s : State) (c : Cur) (g : Gang) (gd : BitVec 4) (d a : BitVec 6) (a2 : BitVec 5) (p : BitVec 7) (z : BitVec 3),
    Issuing s c g →
    let act := actGd c g gd
    let one := fun (ea : Nat → DWord) (s : State) (i : Nat) =>
      loaded (s.storeVa (agentOf s c g) (ea i)
        (storeVals z.toNat ((List.range (codeRegs z.toNat)).map fun k => (g.fibre i).v (d.toNat + k))) (bypassL1 c)) fun _ =>
        (g.fibre i, 0)
    (z ≠ 7 → (∀ i ∈ act, readable (g.fibre i) d.toNat (codeRegs z.toNat) = true) →
      (sClean g [(2 * p.toNat, 2)] = true → (∀ i ∈ act, readable (g.fibre i) a.toNat 1 = true) →
        ∀ t, eachMem c g (one fun i => g.s2 (2 * p.toNat) + ((g.fibre i).v a.toNat).setWidth 64 + disp c) act
          (stBefore s c g 2) = some t →
        exec (.st gd d a p z) s = .next (advance c (acqAfter s c g 2 t))) ∧
      ((∀ i ∈ act, readable (g.fibre i) (2 * a2.toNat) 2 = true) →
        ∀ t, eachMem c g (one fun i => (g.fibre i).v2 (2 * a2.toNat) + disp c) act (stBefore s c g 2) = some t →
        exec (.stv gd d a2 z) s = .next (advance c (acqAfter s c g 2 t)))) ∧
    (∀ (sd o : BitVec 8) (t : State),
      let zz := if z = 7 then 6 else z.toNat
      let ea := g.s2 (2 * p.toNat) + (match c.himm with
        | some h => h.signExtend 64
        | none => BitVec.ofNat 64 (o.toNat * codeBytes zz))
      sClean g [(2 * p.toNat, 2), (sd.toNat, codeRegs zz)] = true →
      (stBefore s c g 2).storeVa (agentOf (stBefore s c g 2) c g) ea
        (storeVals zz ((List.range (codeRegs zz)).map fun k => g.s (sd.toNat + k))) (bypassL1 c) = (.ok (), t) →
      exec (.sts sd p z o) s = .next (advance c t))

/-- R225, R230, R231: the loads and the stores. That a unit makes its accesses in one step is the model's choice (log
1), and when an owed release is paid log 85. -/
def Obligations.LoadsAndStores : Prop := Sys2Proof.Claims.Loads ∧ Sys2Proof.Claims.Stores

namespace Sys2Proof.Claims

/-- The width in bits of a page's element format (R24, R183). -/
def elemWidth (pf : Nat) : Nat := [0, 32, 16, 16, 8, 8, 32, 32, 16, 16, 8, 8, 2, 4].getD pf 0

end Sys2Proof.Claims

/-- R29, R183: a typed LD or ST takes the element width and format from the page of its base; the element i lies at
base + i w / 8, bit i w mod 8, on a page of the same format. A load widens the element; a store writes the converted
value, the whole bytes of the element, or its bits of one byte alone. The address that a fault shows is log 30, and
corners of the formats are log 59. -/
def Obligations.TypedAccess : Prop :=
  ∀ (s : State) (c : Cur) (g : Gang) (gd : BitVec 4) (d a : BitVec 6) (p : BitVec 7), Issuing s c g →
    sClean g [(2 * p.toNat, 2)] = true →
    let act := actGd c g gd
    let base := g.s2 (2 * p.toNat) + disp c
    let at_ := fun (i : Nat) (wr : Bool) (s : State) (k : State → Nat → DWord → Nat → Option (Fibre × Flags) × State) =>
      match s.checkPage (agentOf s c g) base wr (fun t => decide (1 ≤ t.pfmt ∧ t.pfmt ≤ 13)) with
      | (.ok t, s) => k s t.pfmt (base + BitVec.ofNat 64 (((g.fibre i).v a.toNat).toNat * elemWidth t.pfmt / 8))
          (((g.fibre i).v a.toNat).toNat * elemWidth t.pfmt % 8)
      | (.error _, s) => (none, s)
    (∀ i ∈ act, readable (g.fibre i) a.toNat 1 = true) →
    ((∀ i ∈ act, writable (g.fibre i) d.toNat 1 = true) → ∀ t,
      eachMem c g (fun s i => at_ i false s fun s pf ea b =>
        loaded (s.loadVa (agentOf s c g) ea ((elemWidth pf + 7) / 8) (bypassL1 c) fun t => t.pfmt == pf) fun r =>
          let x := widen pf (numOf r.1 / 2 ^ b % 2 ^ elemWidth pf)
          ((g.fibre i).setV d.toNat x.1, x.2)) act (relBefore s c g 2) = some t →
      exec (.ld gd d a p 7) s = .next (advance c (acqAfter s c g 2 t))) ∧
    ((∀ i ∈ act, readable (g.fibre i) d.toNat 1 = true) → ∀ t,
      eachMem c g (fun s i => at_ i true s fun s pf ea b =>
        match s.storeCheck (agentOf s c g) ea ((elemWidth pf + 7) / 8) (fun t => t.pfmt == pf) with
        | (.ok t, s) =>
          let x := storeElem pf ((g.fibre i).v d.toNat)
          (some (g.fibre i, x.2),
            if elemWidth pf < 8 then storeBits s g.core t b (elemWidth pf) x.1
            else s.store g.core t (bytesOf (elemWidth pf / 8) x.1) (bypassL1 c))
        | (.error _, s) => (none, s)) act (stBefore s c g 2) = some t →
      exec (.st gd d a p 7) s = .next (advance c (acqAfter s c g 2 t)))

/-- R178, R181, R226, R227: the checks of a load and of a store, in their order: ALIGN, PAGE, PROT, MIGRATE, and for a
store LATTICE_PLAIN; the first that fails gives the cause, a host-owned page that cannot be migrated PAGE, and ALIGN leaves
the machine as it was. A walk that meets poison gives ECC_UNCORR (log 23). -/
def Obligations.AccessChecks : Prop :=
  ∀ (s : State) (ag : Agent) (va : DWord) (n : Nat) (l2 : Bool) (t : State),
    let x := fun (wr : Bool) => if wr then (s.storeCheck ag va n fun _ => true).1.map (fun _ => ())
      else (s.loadVa ag va n l2 fun _ => true).1.map (fun _ => ())
    let perm := fun (wr : Bool) (l : Leaf) => if wr then bit l.pte 2 else bit l.pte 1
    let pa := fun l : Leaf => l.paOf (dieOf ag.core) va.toNat
    ∀ wr : Bool,
      (va.toNat % n ≠ 0 → x wr = .error (.align, 0) ∧ (s.loadVa ag va n l2 fun _ => true).2 = s ∧
        (s.storeCheck ag va n fun _ => true).2 = s) ∧
      (va.toNat % n = 0 → va.toNat ≥ 2 ^ 57 → x wr = .error (.page, 0)) ∧
      (va.toNat % n = 0 → va.toNat < 2 ^ 57 → s.xlateBad ag.core ag.ctx va.toNat = true → x wr = .error (.eccUncorr, 0)) ∧
      (va.toNat % n = 0 → va.toNat < 2 ^ 57 → s.xlateBad ag.core ag.ctx va.toNat = false →
        (s.xlate ag.core ag.ctx va.toNat = (none, t) → x wr = .error (.page, 0)) ∧
        (∀ l, s.xlate ag.core ag.ctx va.toNat = (some l, t) →
          (perm wr l = false ∨ t.windowOk (pa l) = false → x wr = .error (.prot, 0)) ∧
          (perm wr l = true → t.windowOk (pa l) = true →
            (bit l.pte 4 = true → x wr = .error (if Config.canMigrate (pa l) then .migrate else .page, 0)) ∧
            (bit l.pte 4 = false → wr = true → l.lattice = true → x wr = .error (.latticePlain, 0)))))

namespace Sys2Proof.Claims

/-- Every cached sector holds 16 bytes, and so does every sector of which a die still sees the earlier bytes (R184, R185,
R212). -/
def CachesOk (s : State) : Prop :=
  (∀ x ∈ s.l1, x.data.length = 16) ∧ (∀ x ∈ s.quads, x.data.length = 16) ∧ (∀ x ∈ s.l2, x.data.length = 16) ∧
    ∀ e ∈ s.late, e.data.length = 16

/-- The caches have room for a few sectors more than they hold, so that no line has to leave them (R184). -/
def Roomy (s : State) : Prop := s.l1.length + 8 < 2048 ∧ s.l2.length + 8 < 786432

end Sys2Proof.Claims

/-- R184, R187, R205, R215: while the caches have room, a core reads its own store back, and every byte that it did
not store to as before. A store into the L1, of whose sector no other agent's store is still dirty, leaves memory,
the quad units and the L2 as they are; a store performed at the home slice with no copy in the core's caches changes
exactly the bytes stored; and a store at any place changes no byte of memory outside the stored sector. How the
copies lie in L1, quad unit and L2 is log 21. -/
def Obligations.StoreFrame : Prop :=
  ∀ (s : State) (core pa : Nat) (bs : List Byte), Safety.MemOk s → CachesOk s → Roomy s → pa % 16 + bs.length ≤ 16 → bs ≠ [] →
    ((∀ x, findSector s.l1 core (pa / 16) = some x → x.by_ = s.actor ∨ x.dirty = 0) →
      let t := s.placeWr core 0 pa bs
      t.mem = s.mem ∧ t.quads = s.quads ∧ t.l2 = s.l2 ∧ ∀ a, (t.placeRd core 0 a 1).1.1 =
        if pa ≤ a ∧ a < pa + bs.length then [bs.getD (a - pa) 0] else (s.placeRd core 0 a 1).1.1) ∧
    ((∀ n, s.snap = some n → n.cut = false) →
      (findSector s.l1 core (pa / 16) = none → findSector s.quads (quadOf core) (pa / 16) = none →
        findSector s.l2 (dieOf core) (pa / 16) = none → ∀ a,
        Memory.read (s.placeWr core 3 pa bs).mem a =
          if pa ≤ a ∧ a < pa + bs.length then bs.getD (a - pa) 0 else Memory.read s.mem a) ∧
      (∀ place a, a / 16 ≠ pa / 16 → Memory.read (s.placeWr core place pa bs).mem a = Memory.read s.mem a))
/-! ## Atomics, fences, waits and the lattice -/

namespace Sys2Proof.Claims

/-- The address of an atomic or a lattice word in fibre i, with a displacement (R225). -/
def eaOf (g : Gang) (a : BitVec 6) (p : BitVec 7) (dis : DWord) (i : Nat) : DWord :=
  g.s2 (2 * p.toNat) + ((g.fibre i).v a.toNat).setWidth 64 + dis

/-- The place of an atomic by its scope (R215): 0 the L1 for a TEAM on one core, 1 the quad unit for a spread TEAM, 2 the
die's L2 for DIE, 3 the home slice for DEV and SYS, and for every RED of a deterministic launch. -/
def atomPlace (s : State) (g : Gang) (red : Bool) (sc : Nat) : Nat :=
  if red && g.det then 3 else match sc with | 0 => if s.spread g then 1 else 0 | 1 => 2 | _ => 3

/-- One fibre's atomic that passes its checks (R234): the old value m is read at the place, the new value written there,
and for ATOM the fibre takes m. -/
def atomOne (c : Cur) (g : Gang) (red : Bool) (sc place n : Nat) (ea : Nat → DWord)
    (new : Fibre → DWord → DWord × Flags) (res : Fibre → DWord → Fibre) (s : State) (i : Nat) :
    Option (Fibre × Flags) × State :=
  match atomCheck s (agentOf s c g) (ea i) n (sc == 3) with
  | (.error _, s) => (none, s)
  | (.ok t, s) =>
    match s.locRd g.core place t n with
    | ((_, some _), s) => (none, s)
    | ((m, none), s) =>
      let r := new (g.fibre i) m
      (some (if red then g.fibre i else res (g.fibre i) m, r.2), s.locWr g.core place t n r.1)

/-- The cache actions around an atomic: those of SYS for a SYS atomic (R215), and those of ORDER and SCOPE. -/
def atomLv (has : Bool) (s : State) (c : Cur) (g : Gang) (sc : Nat) : Nat :=
  max (if sc = 3 then 2 else 0) (if has then scopeLevel (hmodScope c sc) (s.spread g) else 0)

/-- An atomic word completes: every executing fibre's atomic, in ascending FIX, after the release that an earlier fence
makes of them (R208). -/
def atomDone (i : Instr) (s : State) (c : Cur) (g : Gang) (red : Bool) (n : Nat) (a : BitVec 6) (p : BitVec 7)
    (k : BitVec 3) (new : Fibre → DWord → DWord × Flags) (res : Fibre → DWord → Fibre) : Prop :=
  ∀ t, eachMem c g (atomOne c g red k.toNat (atomPlace s g red k.toNat) n (eaOf g a p (disp c)) new res)
      (actHg c g) ((s.payOwed c.gid).releaseLv g.core (atomLv (hasRel c) s c g k.toNat)) = some t →
    exec i s = .next (advance c (t.acquireLv g.core (atomLv (hasAcq c) s c g k.toNat)))

/-- A form of ATOM or RED with a single D operand. -/
abbrev AmWord := BitVec 6 → BitVec 6 → BitVec 7 → BitVec 3 → Instr

end Sys2Proof.Claims

/-- R215, R225, R233 to R235: each ATOM and RED with a scope applies, fibre by fibre in ascending FIX, the operation
of its row of the table; ATOM returns the old value. In a deterministic launch an ATOM, and a RED of the rows marked
for it, raises DET over the whole batch. The cache actions around a SYS atomic are log 22, and those of an owed
release log 85. -/
def Obligations.Atomics : Prop :=
  ∀ (s : State) (c : Cur) (g : Gang) (a : BitVec 6) (p : BitVec 7) (k : BitVec 3), Issuing s c g →
    let run := sClean g [(2 * p.toNat, 2)] = true ∧ ∀ i ∈ actHg c g, readable (g.fibre i) a.toNat 1 = true
    let det := fun i : Instr => exec i s = .next (traps s c g 0x08 0 c.main.toNat)
    (∀ d : BitVec 6, ∀ e ∈ ([
        (false, .atomIadd, .redIadd, fun m v => (m + v, 0)),
        (false, .atomIminS, .redIminS, fun m v => (if m.toInt ≤ v.toInt then m else v, 0)),
        (false, .atomIminN, .redIminN, fun m v => (if m.toNat ≤ v.toNat then m else v, 0)),
        (false, .atomImaxS, .redImaxS, fun m v => (if m.toInt ≤ v.toInt then v else m, 0)),
        (false, .atomImaxN, .redImaxN, fun m v => (if m.toNat ≤ v.toNat then v else m, 0)),
        (false, .atomAnd, .redAnd, fun m v => (m &&& v, 0)), (false, .atomOr, .redOr, fun m v => (m ||| v, 0)),
        (false, .atomXor, .redXor, fun m v => (m ^^^ v, 0)), (true, .atomExch, .redExch, fun _ v => (v, 0)),
        (true, .atomFadd, .redFadd, fun m v => fadd32 m v), (true, .atomFmin, .redFmin, fun m v => (fmin32 m v, 0)),
        (true, .atomFmax, .redFmax, fun m v => (fmax32 m v, 0))] : List (Bool × AmWord × AmWord × (Word → Word → Word × Flags))),
      let new := fun (f : Fibre) (m : DWord) =>
        let r := e.2.2.2 (m.setWidth 32) (f.v d.toNat)
        (r.1.setWidth 64, r.2)
      let res := fun (f : Fibre) (m : DWord) => f.setV d.toNat (m.setWidth 32)
      (run → (∀ i ∈ actHg c g, readable (g.fibre i) d.toNat 1 = true) →
        (g.det = false → atomDone (e.2.1 d a p k) s c g false 4 a p k new res) ∧
        ((g.det && e.1) = false → atomDone (e.2.2.1 d a p k) s c g true 4 a p k new res)) ∧
      (g.det = true → det (e.2.1 d a p k) ∧ (e.1 = true → det (e.2.2.1 d a p k)))) ∧
    (∀ d : BitVec 5,
      let cas := fun (f : Fibre) (m : DWord) =>
        (if m = (f.v (2 * d.toNat)).setWidth 64 then (f.v (2 * d.toNat + 1)).setWidth 64 else m, (0 : Flags))
      let add := fun (f : Fibre) (m : DWord) => (m + f.v2 (2 * d.toNat), (0 : Flags))
      let res1 := fun (f : Fibre) (m : DWord) => f.setV (2 * d.toNat) (m.setWidth 32)
      let res2 := fun (f : Fibre) (m : DWord) => f.setV2 (2 * d.toNat) m
      (run → (∀ i ∈ actHg c g, readable (g.fibre i) (2 * d.toNat) 2 = true) →
        (g.det = false → atomDone (.atomCas d a p k) s c g false 4 a p k cas res1 ∧
          atomDone (.redCas d a p k) s c g true 4 a p k cas res1 ∧
          atomDone (.atomIadd64 d a p k) s c g false 8 a p k add res2) ∧
        atomDone (.redIadd64 d a p k) s c g true 8 a p k add res2) ∧
      (g.det = true → det (.atomCas d a p k) ∧ det (.redCas d a p k) ∧ det (.atomIadd64 d a p k))) ∧
    (∀ d : BitVec 4,
      let cas := fun (f : Fibre) (m : DWord) =>
        (if m = f.v2 (4 * d.toNat) then f.v2 (4 * d.toNat + 2) else m, (0 : Flags))
      let res := fun (f : Fibre) (m : DWord) => f.setV2 (4 * d.toNat) m
      (run → (∀ i ∈ actHg c g, readable (g.fibre i) (4 * d.toNat) 4 = true) → g.det = false →
        atomDone (.atomCas64 d a p k) s c g false 8 a p k cas res ∧
        atomDone (.redCas64 d a p k) s c g true 8 a p k cas res) ∧
      (g.det = true → det (.atomCas64 d a p k) ∧ det (.redCas64 d a p k)))

/-- R236, R237: an ATOM or RED with SC = 4 of a gang that is no root gang, or whose turn on the sequence is taken, raises
ORD_NOT_ROOT; a batch that lacks live fibres gathers (WK 0), and one whose turn has not come waits with WK 10. In its
turn every application is performed and the turn is taken. An operation of one address folds the operands of its fibres
in ascending FIX: each fibre receives what memory held plus the operands before its own, and memory receives the sum. That the batch gathers
before the root and turn checks, and that TINFO holds bit 8 alone, is the model's choice (log 49). -/
def Obligations.OrderedSequences : Prop :=
  (∀ (s : State) (c : Cur) (g : Gang) (l : Launch) (fn : BitVec 4) (d a : BitVec 6) (p : BitVec 7) (q : BitVec 6),
    Issuing s c g → c.hseq = some q → g.openTurn = none → s.launch? g.lkey = some l →
    let turn := g.teamId.toNat * l.r.gangs + g.gangId.toNat
    ∀ e ∈ ([(false, .atomOrd), (true, .redOrd)] : List (Bool × (BitVec 4 → BitVec 6 → BitVec 6 → BitVec 7 → Instr))),
      (g.live &&& c.memb ≠ g.live → exec (e.2 fn d a p) s =
        .next ((s.modGang c.gid fun h => h.waitBatch c.memb 0 [7] c.next).settle c.gid)) ∧
      (g.live &&& c.memb = g.live →
        (g.ped.root = false → exec (e.2 fn d a p) s = .next (traps s c g 0x17 0 0)) ∧
        (g.ped.root = true → bit g.turns q.toNat = true → exec (e.2 fn d a p) s = .next (traps s c g 0x17 0 256)) ∧
        (g.ped.root = true → bit g.turns q.toNat = false → l.cursors.getD q.toNat 0 ≠ turn →
          exec (e.2 fn d a p) s =
            .next ((s.modGang c.gid fun h => h.waitBatch c.memb 10 [q.setWidth 64] c.next).settle c.gid)) ∧
        (g.ped.root = true → bit g.turns q.toNat = false → l.cursors.getD q.toNat 0 = turn →
          sClean g [(2 * p.toNat, 2)] = true → ∀ t,
          ordTurn c e.1 fn.toNat d.toNat a p 65 (actHg c g) (stBefore s c g 2) = ([], t) →
          exec (e.2 fn d a p) s = .next (advance c ((acqAfter (stBefore s c g 2) c g 2 t).takeTurn g q.toNat))))) ∧
  (∀ (s : State) (core : Nat) (x : OrdItem) (xs : List OrdItem),
    let m := loWord (s.locRd core 3 x.t 4).1.1
    let before := fun i : Nat => (((x :: xs).take i).map fun y => loWord y.v).sum
    (ordAddr core 0 (x :: xs) s).1.1 = (List.range (xs.length + 1)).map (fun i =>
        (((x :: xs).getD i x).fix, (m + before i).setWidth 64)) ∧
      (ordAddr core 0 (x :: xs) s).2 = (s.locRd core 3 x.t 4).2.locWr core 3 x.t 4 ((m + before (xs.length + 1)).setWidth 64))

namespace Sys2Proof.Claims

/-- The condition of a WAITA on the value of its location (R240). -/
def condHolds (cnd : Nat) (wide : Bool) (m w : DWord) : Bool :=
  let sg := fun y : DWord => if wide then y.toInt else (y.setWidth 32).toInt
  match cnd with
  | 0 => m == w | 1 => m != w | 2 => decide (sg m < sg w) | 3 => decide (sg m ≤ sg w)
  | 4 => decide (sg m > sg w) | 5 => decide (sg m ≥ sg w) | 6 => decide (m.toNat < w.toNat)
  | 7 => decide (m.toNat ≤ w.toNat) | 8 => decide (m.toNat > w.toNat) | 9 => decide (m.toNat ≥ w.toNat)
  | 10 => m &&& w != 0 | _ => m &&& w == 0

/-- A gang but for the note of a batch that its wait has counted as polling (R242, R395). -/
def unpolled (g : Gang) : Gang := { g with batches := g.batches.map fun b => { b with polled := false } }

/-- A fence leaves its release to the gang's next store (R208, R239). -/
def owes (s : State) (g : Gang) (lv : Nat) : State := s.modGang g.gid fun h => { h with owed := max h.owed lv }

end Sys2Proof.Claims

/-- R208, R212 to R214, R239 to R242: FENCE.REL and FENCE.AR leave a release at their scope to the gang's next store;
FENCE.SC writes the gang's own stores back at once, and FENCE.PKG performs the whole release at DEV; all but
FENCE.REL perform the acquire actions. The next store performs the release that is owed. WAITA with a location that
satisfies its condition completes as an acquire at its scope; otherwise the batch waits with WK 8, its address, value
and condition captured, and a monitor entry of the core, while one is free, watches the sector for that batch. When a
fence's release is paid is log 85, what a wait captures log 36, and that WAITA is no access of the filter log 62. -/
def Obligations.FencesAndWaits : Prop :=
  ∀ (s : State) (c : Cur) (g : Gang) (k : BitVec 3), Issuing s c g →
    let lv := scopeLevel k.toNat (s.spread g)
    let own := s.writeBack g.core lv
    let seen := if lv ≥ 2 then { own with late := own.late.filter (·.src != dieOf g.core) } else own
    exec (.fenceRel k) s = .next (advance c (owes s g lv)) ∧
    exec (.fenceAcq k) s = .next (advance c (s.acquireLv g.core lv)) ∧
    exec (.fenceAr k) s = .next (advance c ((owes s g lv).acquireLv g.core lv)) ∧
    exec (.fenceSc k) s = .next (advance c ((owes seen g lv).acquireLv g.core lv)) ∧
    exec .fencePkg s = .next (advance c ((s.releaseLv g.core 2).acquireLv g.core 2)) ∧
    (g.owed ≠ 0 → s.payOwed g.gid = (s.releaseLv g.core g.owed).modGang g.gid fun h => { h with owed := 0 }) ∧
    (∀ (cnd : BitVec 4) (a : BitVec 7) (v : BitVec 8) (wide : Bool) (t t' : State) (x : Tr) (m : DWord),
      let z : BitVec 3 := if wide then 5 else 4
      let ea := g.s2 (2 * a.toNat)
      let w := if wide then g.s2 v.toNat else (g.s v.toNat).setWidth 64
      let holds := condHolds cnd.toNat wide m w
      sClean g [(2 * a.toNat, 2), (v.toNat, if wide then 2 else 1)] = true → ea.toNat % (if wide then 8 else 4) = 0 →
      s.checkVa (agentOf s c g) ea false (fun t => isHbm t.pa || k.toNat == 3) = (.ok x, t) → x.lattice = false →
      t.locRd g.core (match k.toNat with | 0 => if t.spread g then 1 else 0 | 1 => 2 | _ => 3) x (if wide then 8 else 4) =
        ((m, none), t') →
      (holds = true → exec (.waita cnd a v z k) s =
        .next (advance c ((t'.dropMonitor g.gid c.base c.memb).acquireLv g.core (scopeLevel k.toNat (t.spread g))))) ∧
      (holds = false → ∃ u : State, exec (.waita cnd a v z k) s =
          .next ((u.modGang c.gid fun h => h.waitBatch c.memb 8 [cnd.setWidth 64, ea, w, if wide then 1 else 0, k.setWidth 64] c.next).settle c.gid) ∧
        u.gangs.map unpolled = t'.gangs.map unpolled ∧ u.mem = t'.mem ∧
        ((∀ e ∈ t'.monitors, e.gid = g.gid → e.pc = c.base → e.memb ≠ c.memb) →
          (t'.monitors.filter (·.core == g.core)).length < 256 → u.gangs = t'.gangs ∧
          ∃ e ∈ u.monitors, e.core = g.core ∧ e.sect = x.pa / 16 ∧ e.gid = g.gid ∧ e.pc = c.base ∧ e.memb = c.memb)))

namespace Sys2Proof.Claims

/-- The cell of a fibre of a lattice word that passes its checks (R243): its page, aligned to the cell, with an even D
where the type needs a pair, which lies in the fibre's registers. -/
def cellOf (c : Cur) (g : Gang) (d : Nat) (a : BitVec 6) (p : BitVec 7) (wr dst : Bool) (s : State) (i : Nat) :
    Option LatRef × State :=
  let ea := eaOf g a p 0 i
  let f := g.fibre i
  match s.checkVa (agentOf s c g) ea wr Tr.lattice with
  | (.error _, s) => (none, s)
  | (.ok t, s) =>
    let two := cellBytes t.pfmt != 4
    if ea.toNat % 4 = 0 ∧ ea.toNat % cellBytes t.pfmt = 0 ∧ (two = true → d % 2 = 0) ∧
        (if dst then writable f d (if two then 2 else 1) else readable f d (if two then 2 else 1)) = true then
      (some { va := ea, tr := t }, s)
    else (none, s)

/-- The operand of a lattice word in a fibre: one register, or the pair for a wider cell (R243). -/
def latOp (f : Fibre) (d pf : Nat) : DWord := if cellBytes pf = 4 then (f.v d).setWidth 64 else f.v2 d

/-- Storing lattice words act fibre by fibre in ascending FIX, each on its own cell, which holds no poison. -/
def eachLat (c : Cur) (g : Gang) (d : Nat) (a : BitVec 6) (p : BitVec 7) (act : State → Nat → LatRef → Option State) :
    List Nat → State → Option State
  | [], s => some s
  | i :: l, s =>
    match cellOf c g d a p true false s i with
    | (some r, s) =>
      match s.cellBad r, act s i r with
      | none, some s => eachLat c g d a p act l s
      | _, _ => none
    | (none, _) => none

end Sys2Proof.Claims

/-- R197, R225, R243 to R249: LJOIN joins each fibre's operand into its cell of the die's own replica, GCNT adding to the
die's slot; LSTC stores an operand that is at or above the cell; both remember the sector for LSYNC, and .REL releases
first. LLD and a satisfied LWAIT write each fibre's D with its cell; a LWAIT whose thresholds are not all met, and a
LSYNC after joins, wait with WK 9. -/
def Sys2Proof.Claims.LatticeWords : Prop :=
  ∀ (s : State) (c : Cur) (g : Gang) (d a : BitVec 6) (p : BitVec 7) (x : BitVec 1), Issuing s c g →
    sClean g [(2 * p.toNat, 2)] = true →
    let act := fibresOf g.width c.memb
    let die := dieOf g.core
    let mine := fun (r : LatRef) (off : Nat) (s : State) => s.modGang c.gid fun h => h.join die (off / 16) r.tr.pfmt
    (∀ i ∈ act, readable (g.fibre i) a.toNat 1 = true) →
    (∀ t, eachLat c g d.toNat a p (fun s i r =>
        let v := latOp (g.fibre i) d.toNat r.tr.pfmt
        if r.tr.pfmt = 24 then
          let m := s.homeNum (latPa die (r.off + 8 * die)) 8
          some (mine r (r.off + 8 * die) (s.latWrite die (r.off + 8 * die) 24 m (m + v)))
        else some (mine r r.off (s.latJoin die r.off r.tr.pfmt v))) act (s.releaseLv g.core (if x = 1 then 2 else 0)) = some t →
      exec (.ljoin d a p x) s = .next (advance c t)) ∧
    (∀ t, eachLat c g d.toNat a p (fun s i r =>
        let m := s.homeNum r.tr.pa (cellBytes r.tr.pfmt)
        let v := latOp (g.fibre i) d.toNat r.tr.pfmt
        if r.tr.pfmt ≠ 24 ∧ cellGe r.tr.pfmt v m = true then some (mine r r.off (s.latWrite die r.off r.tr.pfmt m v))
        else none) act (s.releaseLv g.core (if x = 1 then 2 else 0)) = some t →
      exec (.lstc d a p x) s = .next (advance c t)) ∧
    (∀ xs t, latRefs c d.toNat a (g.s2 (2 * p.toNat)) true g act s = ((xs, []), t) →
      exec (.lld d a p) s = .next (advance c (latWriteBack t c.gid d.toNat xs))) ∧
    (∀ xs t, latRefs c d.toNat a (g.s2 (2 * p.toNat)) false g act s = ((xs, []), t) →
      let met := xs.all fun e => cellGe e.2.tr.pfmt (t.cellRead e.2) (latOp (g.fibre e.1) d.toNat e.2.tr.pfmt)
      (met = true → exec (.lwait d a p x) s = .next (advance c
        ((latWriteBack (t.dropWatches g.gid c.base c.memb) c.gid d.toNat xs).acquireLv g.core (if x = 1 then 2 else 0)))) ∧
      (met = false → ∃ u : State, exec (.lwait d a p x) s = .next ((u.modGang c.gid fun h => h.waitBatch c.memb 9
          [1, d.setWidth 64, a.setWidth 64, g.s2 (2 * p.toNat), x.setWidth 64] c.next).settle c.gid) ∧
        u.gangs.map unpolled = t.gangs.map unpolled ∧ u.mem = t.mem)) ∧
    (g.joined = [] → (∀ e ∈ s.latSends, e.gang ≠ some g.gid) → exec .lsync s = .next (advance c s)) ∧
    (g.joined ≠ [] → ∃ u : State, exec .lsync s = .next ((u.modGang c.gid fun h => h.waitBatch c.memb 9 [0] c.next).settle c.gid) ∧
      u.mem = s.mem ∧ (∀ h, u.gang? c.gid = some h → h.joined = []) ∧
      ∀ e ∈ g.joined, ∀ dst < 8, dst ≠ e.1 →
        ∃ m ∈ u.latSends, m.src = e.1 ∧ m.sect = e.2.1 ∧ m.dst = dst ∧ m.gang = some g.gid)

/-- R197, R244: the join of each lattice type is a join: of equal cells their value, the same either way round, and the
same however three cells are grouped; one cell is at or above another exactly when their join is itself. A 4-byte cell
stands for its zero-extended word. -/
def Sys2Proof.Claims.LatticeJoin : Prop :=
  ∀ (pf : Nat) (x y z : DWord), 16 ≤ pf → pf ≤ 26 →
    (cellBytes pf = 4 → x.toNat < 2 ^ 32 ∧ y.toNat < 2 ^ 32 ∧ z.toNat < 2 ^ 32) →
    cellJoin pf x x = x ∧ cellJoin pf x y = cellJoin pf y x ∧
    cellJoin pf (cellJoin pf x y) z = cellJoin pf x (cellJoin pf y z) ∧
    (cellGe pf x y = true ↔ cellJoin pf x y = x)

/-- R197, R243 to R249: the lattice words, and the join that they perform. That LJOIN and LSTC need no read
permission is the model's choice (log 73); logs 28, 36, 62 and 63 say the rest that the model settles. -/
def Obligations.LatticeJoins : Prop := Sys2Proof.Claims.LatticeWords ∧ Sys2Proof.Claims.LatticeJoin
/-! ## Tiles, operand slots and engine commands -/

namespace Sys2Proof.Claims

/-- The state after the batch begins to wait at its unit with a kind of wait and what it captured (R92). -/
def waits (s : State) (c : Cur) (wk : Nat) (cap : List DWord) : State :=
  (s.modGang c.gid fun h => h.waitBatch c.memb wk cap c.next).settle c.gid

/-- The tile that a handle word names, for a gang: a LIVE tile of its team, one of level L only on its core (R190, R253). -/
def tileFor (s : State) (g : Gang) (w : Word) : Option Tile :=
  if w.toNat ≥ 64 then none else (s.tile? g.team w.toNat).filter fun t => t.lvl != 0 || t.core == g.core

/-- The operand slot that a handle word names: one that the gang's team holds on its core (R277). -/
def slotNamed (s : State) (g : Gang) (w : Word) : Option Slot := if w.toNat ≥ 16 then none else s.slot? g.core g.team w.toNat

/-- Granules of 2 KiB that a tile of a shape and a format takes (R189). -/
def granulesFor (rows cols fmt : Nat) : Nat := (rows * cols * [8, 32, 16, 16, 8, 8, 32, 32, 16, 16, 8, 8, 2, 4].getD fmt 0 + 16383) / 16384

/-- The sum of the granules of some tiles (R189 to R191). -/
def granulesSum (l : List Tile) : Nat := (l.map Tile.granules).sum

/-- The element that a fibre names in a tile by row and column (R273): its number, and 0 beyond the tile. -/
def elemNo (t : Tile) (tr : Bool) (w : Word) : Nat :=
  if tr then w.toNat % 65536 * t.cols + w.toNat / 65536 else w.toNat / 65536 * t.cols + w.toNat % 65536

/-- The row and the column that a fibre names lie in the tile (R273). -/
def elemIn (t : Tile) (tr : Bool) (w : Word) : Bool :=
  if tr then decide (w.toNat % 65536 < t.rows) && decide (w.toNat / 65536 < t.cols)
  else decide (w.toNat / 65536 < t.rows) && decide (w.toNat % 65536 < t.cols)

/-- A tile with other tags: V, C, FRESH (R264). -/
def tagged (v c fresh : Bool) (t : Tile) : Tile := { t with v := v, c := c, fresh := fresh }

/-- A tile just allocated: FRESH, its contents what the last holder left (R265). -/
def newTile (s : State) (g : Gang) (hnd lvl fmt rows cols : Nat) : Tile :=
  { hnd := hnd, lvl := lvl, core := g.core, fmt := fmt, rows := rows, cols := cols, v := false, c := false, fresh := true,
    serial := s.fresh, data := [], poison := [], scope := 0 }

/-- The core-local slot that a team holds on a core (R194, R304). -/
def teamSlot (s : State) (k core : Nat) : Nat :=
  match s.team? k with
  | some t => ((t.cores.zip t.tslots).lookup core).getD 0
  | none => 0

/-- A slot just claimed (R193 to R195). -/
def newSlot (s : State) (g : Gang) (k h : Nat) : Slot :=
  { core := g.core, tkey := k, tslot := teamSlot s k g.core, hnd := h, st := 1, kind := 0, fmt := 0, bmp := 0, data := [],
    bad := [], scope := 0 }

end Sys2Proof.Claims

/-- R189 to R191, R264 to R267: TALLOC refuses a descriptor that is not legal (TILE_BAD) or a tile that the team's
reservation does not hold (TILE_NOSPACE), waits with WK 5 for an accumulator, and otherwise adds the tile, FRESH, and
writes its granules to S(SA + 1). TFREE removes a tile, TTAG sets its tags, and both wait with WK 5 while a command
in flight names it; TWAIT waits until the tag it names holds, and then acquires at the scope of the completion that
it observes, or at TEAM (R218). What counts as in flight is log 44, and what a wait captures log 36. -/
def Obligations.TileWords : Prop :=
  ∀ (s : State) (c : Cur) (g : Gang) (sa : BitVec 8), Issuing s c g → sClean g [(sa.toNat, 1)] = true →
    let w := (g.s sa.toNat).toNat
    (∀ t, g.team.bind s.team? = some t →
      let hnd := w % 64
      let lvl := w / 64 % 4
      let fmt := w / 256 % 16
      let rows := w / 4096 % 256 + 1
      let cols := w / 2 ^ 20 % 256 + 1
      let legal := w < 2 ^ 28 ∧ lvl ≠ 3 ∧ fmt ≤ 13 ∧ (∀ x ∈ t.tiles, x.hnd ≠ hnd) ∧
        (lvl = 2 → fmt = 1 ∧ rows = 128 ∧ cols = 128)
      let n := if lvl = 2 then 0 else granulesFor rows cols fmt
      let share := (t.granules + t.cores.length - 1) / t.cores.length
      let fits := granulesSum t.tiles + n ≤ t.cores.length * share ∧
        (lvl = 0 → granulesSum (t.tiles.filter fun x => x.lvl == 0 && x.core == g.core) + n ≤ share)
      (¬legal → exec (.talloc sa) s = .next (traps s c g 0x12 0 0)) ∧
      (legal → lvl ≠ 2 → ¬fits → exec (.talloc sa) s = .next (traps s c g 0x11 0 0)) ∧
      (legal → lvl = 2 → s.accsUsed g.core ≥ 4 → exec (.talloc sa) s = .next (waits s c 5 [0x100])) ∧
      (legal → (lvl ≠ 2 → fits) → (lvl = 2 → s.accsUsed g.core < 4) →
        exec (.talloc sa) s = .next (advance c ((({ s with fresh := s.fresh + 1 } : State).modTeam t.tkey fun t =>
          { t with tiles := t.tiles ++ [newTile s g hnd lvl fmt rows cols] }).modGang c.gid fun h => h.setS (sa.toNat + 1) (BitVec.ofNat 32 n))))) ∧
    (∀ t, tileFor s g (g.s sa.toNat) = some t →
      (s.tileBusy g.team t.hnd = true → noHeld s g → exec (.tfree sa) s = .next (waits s c 5 [BitVec.ofNat 64 t.hnd])) ∧
      (s.tileBusy g.team t.hnd = false → ∀ k, g.team = some k →
        exec (.tfree sa) s = .next (advance c (s.modTeam k fun x => { x with tiles := x.tiles.filter (·.hnd != t.hnd) })))) ∧
    (∀ t, w / 64 ≤ 2 → tileFor s g (g.s sa.toNat &&& 63) = some t →
      let busy := s.tileBusy g.team t.hnd
      (busy = true → noHeld s g → exec (.ttag sa) s = .next (waits s c 5 [BitVec.ofNat 64 t.hnd])) ∧
      (busy = false → exec (.ttag sa) s = .next (advance c (s.modTile g.team t.hnd fun t =>
        if w / 64 = 0 then tagged t.v true t.fresh t else if w / 64 = 1 then tagged true false false t
        else tagged false false true t))) ∧
      let met := (w / 64 = 0 → t.v = true) ∧ (w / 64 = 1 → t.c = true ∨ t.fresh = true) ∧ (w / 64 = 2 → busy = false)
      (met → exec (.twait sa) s = .next (advance c (s.acquireLv g.core (scopeLevel t.scope (s.spread g))))) ∧
      (¬met → noHeld s g → exec (.twait sa) s = .next (waits s c 5 [BitVec.ofNat 64 t.hnd])))

/-- R273 to R275: TRD and TRDT give each fibre the element it names, raw or widened; TWR puts each fibre's element in
turn, so that the highest FIX prevails, and makes the tile valid; TATOM combines in turn, and returns the old element
in a launch that is not deterministic. A tag that is not ready makes the batch wait with WK 5. What a wait captures
is log 36, and TINFO of DET log 11. -/
def Obligations.TileAccess : Prop :=
  ∀ (s : State) (c : Cur) (g : Gang) (t : Tile) (d a : BitVec 6) (n : BitVec 8) (z : BitVec 1) (op : BitVec 4),
    Issuing s c g → sClean g [(n.toNat, 1)] = true → tileFor s g (g.s n.toNat) = some t → t.poison = [] →
    let act := actHg c g
    let at_ := fun (tr : Bool) (i : Nat) => elemNo t tr ((g.fibre i).v a.toNat)
    let named := fun (tr : Bool) => ∀ i ∈ act, readable (g.fibre i) a.toNat 1 = true ∧ elemIn t tr ((g.fibre i).v a.toNat) = true
    let elem := fun (x : Nat) => if z = 1 then (BitVec.ofNat 32 x, 0) else widen t.fmt x
    let cell := fun (w : Word) => if z = 1 then (w.toNat, 0) else storeElem t.fmt w
    (∀ p ∈ ([(false, .trd), (true, .trdt)] : List (Bool × (BitVec 6 → BitVec 6 → BitVec 8 → BitVec 1 → Instr))),
      named p.1 → (∀ i ∈ act, writable (g.fibre i) d.toNat 1 = true) →
      (t.v = true → exec (p.2 d a n z) s = .next (advance c ((s.modGang c.gid fun _ => eachF g act fun i f =>
        (f.setV d.toNat (elem (t.get (at_ p.1 i))).1, (elem (t.get (at_ p.1 i))).2)).modTile g.team t.hnd fun _ => t))) ∧
      (t.v = false → act ≠ [] → noHeld s g → exec (p.2 d a n z) s = .next (waits s c 5 [BitVec.ofNat 64 t.hnd]))) ∧
    (named false → (∀ i ∈ act, readable (g.fibre i) d.toNat 1 = true) →
      ((t.v = true ∨ t.fresh = true) → exec (.twr d a n z) s = .next (advance c ((s.modGang c.gid fun _ =>
          eachF g act fun _ f => (f, (cell (f.v d.toNat)).2)).modTile g.team t.hnd fun _ =>
        let x := act.foldl (fun t i => t.put (at_ false i) (cell ((g.fibre i).v d.toNat)).1) t
        if act = [] then x else tagged true false false x))) ∧
      (t.v = false → t.fresh = false → act ≠ [] → noHeld s g →
        exec (.twr d a n z) s = .next (waits s c 5 [BitVec.ofNat 64 t.hnd])) ∧
      (g.det = true → op.toNat ≥ 8 → exec (.tatom d a n op) s = .next (traps s c g 0x08 0 c.main.toNat)) ∧
      (¬(g.det = true ∧ op.toNat ≥ 8) → t.v = true →
        (if op.toNat ≤ 7 then t.fmt = 6 ∨ t.fmt = 7 else if op.toNat = 8 then t.fmt = 1 ∨ t.fmt = 6 ∨ t.fmt = 7 else t.fmt = 1) →
        let new := fun (m v : Word) => match op.toNat with
          | 0 => (m + v, 0) | 1 => (if m.toInt ≤ v.toInt then m else v, 0) | 2 => (if m.toNat ≤ v.toNat then m else v, 0)
          | 3 => (if m.toInt ≤ v.toInt then v else m, 0) | 4 => (if m.toNat ≤ v.toNat then v else m, 0)
          | 5 => (m &&& v, 0) | 6 => (m ||| v, 0) | 7 => (m ^^^ v, 0) | 8 => (v, 0)
          | 9 => fadd32 m v | 10 => (fmin32 m v, 0) | _ => (fmax32 m v, 0)
        let one := fun (x : Gang × Tile) (i : Nat) =>
          let m := BitVec.ofNat 32 (x.2.get (at_ false i))
          let r := new m ((g.fibre i).v d.toNat)
          ((x.1.setFibre i (if g.det then g.fibre i else (g.fibre i).setV d.toNat m)).flags r.2, x.2.put (at_ false i) r.1.toNat)
        exec (.tatom d a n op) s = .next (advance c ((s.modGang c.gid fun _ => (act.foldl one (g, t)).1).modTile g.team t.hnd
          fun _ => (act.foldl one (g, t)).2))))

/-- R193 to R195, R277: OCLAIM gives the lowest handle that the team does not hold, and waits with WK 6 while the core has
no free slot, or, by the model's choice (log 45), while the team holds all 16 handles; OREL frees a slot that is not
filling and that no command in flight reads; OWAIT goes on once the slot is full or consumed, acquiring at the scope of
the completion that it observes, or at TEAM (R218). A filling slot makes OREL and OWAIT wait with WK 6. -/
def Obligations.SlotWords : Prop :=
  ∀ (s : State) (c : Cur) (g : Gang) (sa : BitVec 8) (k : Nat), Issuing s c g → g.team = some k →
    let held := fun h => ∃ x ∈ s.slots, x.tkey = k ∧ x.hnd = h
    let full := (s.slots.filter (·.core == g.core)).length ≥ 16
    (((∀ h < 16, held h) ∨ full) → exec (.oclaim sa) s = .next (waits s c 6 [0x100])) ∧
    (∀ h < 16, ¬held h → (∀ j < h, held j) → ¬full →
      exec (.oclaim sa) s = .next (advance c (({ s with slots := s.slots ++ [newSlot s g k h] } : State).modGang c.gid fun g => g.setS sa.toNat (BitVec.ofNat 32 h)))) ∧
    (sClean g [(sa.toNat, 1)] = true →
      (slotNamed s g (g.s sa.toNat) = none → ∀ i ∈ ([.orel sa, .owait sa] : List Instr),
        exec i s = .next (traps s c g 0x13 0 0)) ∧
      (∀ x, slotNamed s g (g.s sa.toNat) = some x →
        let read := s.cmds.any fun m => m.inFlight && m.tkey == g.team && m.core == g.core && m.reads.contains x.hnd
        ((x.st = 2 ∨ read = true) → exec (.orel sa) s = .next (waits s c 6 [BitVec.ofNat 64 x.hnd])) ∧
        (x.st ≠ 2 → read = false → exec (.orel sa) s = .next (advance c { s with
          slots := s.slots.filter fun y => !(y.core == x.core && y.tkey == x.tkey && y.hnd == x.hnd) })) ∧
        (x.st = 2 → exec (.owait sa) s = .next (waits s c 6 [BitVec.ofNat 64 x.hnd])) ∧
        (x.st = 1 → exec (.owait sa) s = .next (traps s c g 0x13 0 0)) ∧
        (x.st ≠ 1 → x.st ≠ 2 → exec (.owait sa) s = .next (advance c (s.acquireLv g.core (scopeLevel x.scope (s.spread g)))))))

namespace Sys2Proof.Claims

/-- The record of a live shape of the gang's context that a handle word names by slot and generation (R263, R356). -/
def shapeFor (s : State) (g : Gang) (w : Word) : Option (List Byte) :=
  (s.ctx? g.ctx).bind fun x => (x.shapes.find? (·.1 == w.toNat % 4096)).bind fun e =>
    if e.2.2.1 = true ∧ e.2.1 = w.toNat / 4096 then some e.2.2.2 else none

/-- The record of a live pattern that a handle word names (R335). -/
def patternFor (s : State) (g : Gang) (w : Word) : Option (List Byte) :=
  (s.ctx? g.ctx).bind fun x => (x.patterns.find? (·.1 == w.toNat % 4096)).bind fun e =>
    if e.2.2.1 = true ∧ e.2.1 = w.toNat / 4096 then some e.2.2.2 else none

/-- A box of a shape fits the sub-byte elements of a tensor (R268). -/
def boxOk (r : Shape) (o : Word) : Prop := elemBits r.fmt < 8 → o.toNat * elemBits r.fmt % 8 = 0 ∧ r.box0 * elemBits r.fmt % 8 = 0

/-- A slot holds, or is filling with, an operand of a kind and a format (R195, R280). -/
def slotHolds (x : Option Slot) (kind fmt : Nat) : Prop := ∃ y, x = some y ∧ y.st ≠ 1 ∧ y.kind = kind ∧ y.fmt = fmt

/-- The accumulator of a matrix step: a tile of level A of the issuing core (R280). -/
def isAcc (s : State) (g : Gang) (w : Word) : Prop := ∃ t, tileFor s g w = some t ∧ t.lvl = 2 ∧ t.core = g.core

/-- The 64-bit word of a pair of block words. -/
def pairIn (p : Nat → Word) (k : Nat) : Nat := (pairOf (p k) (p (k + 1))).toNat

/-- An asynchronous command: its instruction, its opcode, function and options, its block S(SA), of n words, its counter
pair, and which blocks are legal, with the records that the command copies at issue. -/
structure AsyncRow where
  instr : Instr
  opc : Nat
  fn : Nat
  x : Nat
  sa : Nat
  n : Nat
  sb : Nat
  legal : (Nat → Word) → Captured → Prop

/-- The formats of MMA, MMAS and MMAT (R280). -/
def stepFormats (fn a b : Nat) : Prop :=
  if fn = 0 then ((a = 4 ∨ a = 5) ∧ (b = 4 ∨ b = 5)) ∨ (a = 10 ∧ b = 10) ∨ (a = 2 ∧ b = 2) ∨ (a = 3 ∧ b = 3)
  else if fn = 1 then ((a = 4 ∨ a = 5) ∧ (b = 4 ∨ b = 5)) ∨ (a = 10 ∧ b = 10)
  else a = 12 ∧ b = 10

/-- The commands of the TXU on tiles and their legal blocks (R268 to R272). -/
noncomputable def tileCommands (s : State) (g : Gang) (sa : BitVec 8) (sb : BitVec 7) (e x : BitVec 1) : List AsyncRow :=
  let tile := fun (w : Word) => tileFor s g w
  let box := fun (tr : Bool) (p : Nat → Word) (cap : Captured) => ∃ t, tile (p 0) = some t ∧ ∃ bs, shapeFor s g (p 1) = some bs ∧
    (shapeOf bs).comp = false ∧
    ((t.rows = (if tr then (shapeOf bs).box0 else (shapeOf bs).box1) ∧
      t.cols = (if tr then (shapeOf bs).box1 else (shapeOf bs).box0)) ∧ t.fmt = (shapeOf bs).fmt) ∧
    boxOk (shapeOf bs) (p 2) ∧ cap = { shape := bs, pattern := [] }
  let chunks := fun (store : Bool) (p : Nat → Word) (cap : Captured) => ∃ t, tile (p 0) = some t ∧ t.rows * t.cols % 128 = 0 ∧
    ∃ bs, shapeFor s g (p 1) = some bs ∧ ((shapeOf bs).comp = true ∧ (shapeOf bs).fmt = t.fmt) ∧
    (store = true → (p 3).toNat % 16 = 0) ∧ cap = { shape := bs, pattern := [] }
  let row := fun (i : Instr) (fn y n : Nat) (legal : (Nat → Word) → Captured → Prop) =>
    ({ instr := i, opc := 0x34, fn := fn, x := 32 * e.toNat + y, sa := sa.toNat, n := n, sb := 2 * sb.toNat, legal := legal } : AsyncRow)
  [row (.tld sa sb e) 4 0 6 (box false), row (.tst sa sb e) 5 0 6 (box false), row (.tldt sa sb e) 6 0 6 (box true),
   row (.tcopy sa sb e x) 7 x.toNat 2 (fun p cap => ∃ d, tile (p 0) = some d ∧ ∃ t, tile (p 1) = some t ∧
     (d.hnd ≠ t.hnd ∧ d.fmt = t.fmt) ∧
     (if x = 1 then d.rows = t.cols ∧ d.cols = t.rows else d.rows = t.rows ∧ d.cols = t.cols) ∧ cap = noCapture),
   row (.tfill sa sb e) 8 0 2 (fun p cap => (∃ d, tile (p 0) = some d) ∧ cap = noCapture),
   row (.tstc sa sb e) 9 0 4 (chunks true), row (.tldc sa sb e) 10 0 3 (chunks false),
   row (.tcvt sa sb e) 11 0 5 (fun p cap => ∃ d, tile (p 0) = some d ∧ d.fmt ≠ 0 ∧ ∃ t, tile (p 1) = some t ∧
     ((t.fmt ≠ 0 ∧ d.rows = t.rows) ∧ d.cols = t.cols) ∧ ((p 3).toNat < 16 ∧ (p 3).toNat % 8 ≤ 5) ∧ cap = noCapture)]

/-- The commands that fill operand slots, and STREAM (R278, R279, R283, R350). -/
noncomputable def fillCommands (s : State) (g : Gang) (sa : BitVec 8) (sb : BitVec 7) (e x : BitVec 1) : List AsyncRow :=
  let tile := fun (w : Word) => tileFor s g w
  let fill := fun (i : Instr) (fn n : Nat) (legal : (Nat → Word) → Captured → Prop) =>
    ({ instr := i, opc := 0x36, fn := fn, x := 32 * e.toNat, sa := sa.toNat, n := n, sb := 2 * sb.toNat, legal := legal } : AsyncRow)
  let ops := fun (p : Nat → Word) => (List.range 8).map fun i => (p 4).toNat / 16 ^ i % 16
  let isFloat := fun (t : Tile) => 1 ≤ t.fmt ∧ t.fmt ≤ 5
  [fill (.ofill sa sb e) 2 4 (fun p cap => (∃ x, slotNamed s g (p 0) = some x) ∧ ∃ t, tile (p 1) = some t ∧
     t.fmt ∈ [2, 3, 4, 5, 10, 12] ∧ ((p 3).toNat = 0 ∨ ((p 3).toNat = 2 ∧ t.fmt ≠ 12)) ∧ cap = noCapture),
   fill (.ofillS24 sa sb e) 3 3 (fun p cap => (∃ x, slotNamed s g (p 0) = some x) ∧ ∃ t, tile (p 1) = some t ∧
     t.fmt ∈ [4, 5, 10] ∧ cap = noCapture),
   fill (.ofillG sa sb e) 4 5 (fun p cap => (∃ x, slotNamed s g (p 0) = some x) ∧ ∃ t, tile (p 1) = some t ∧
     t.fmt ∈ [6, 7] ∧ ∃ bs, shapeFor s g (p 3) = some bs ∧
     ((shapeOf bs).comp = false ∧ (shapeOf bs).fmt ∈ [2, 3, 4, 5, 10]) ∧ cap = { shape := bs, pattern := [] }),
   { instr := .stream sa sb e x, opc := 0x39, fn := 0, x := 32 * e.toNat + x.toNat, sa := sa.toNat,
     n := if x = 1 then 11 else 7, sb := 2 * sb.toNat,
     legal := fun p cap => ∃ bs rows cols,
       (if x = 1 then shapeFor s g (p 0) = some bs ∧ (shapeOf bs).comp = false ∧ rows = (shapeOf bs).box1 ∧ cols = (shapeOf bs).box0
        else bs = [] ∧ ∃ t, tile (p 0) = some t ∧ rows = t.rows ∧ cols = t.cols) ∧
       (∃ t, tile (p 1) = some t ∧ isFloat t ∧ t.rows = rows ∧ t.cols = cols) ∧
       (p 2 ≠ 0xFFFFFFFF → ∃ t, tile (p 2) = some t ∧ isFloat t ∧ t.rows = rows ∧ t.cols = cols) ∧
       (∀ i < 8, ∀ j < 8, i < j → (ops p).getD i 0 = 0 → (ops p).getD j 0 = 0) ∧ 15 ∉ ops p ∧
       (p 2 = 0xFFFFFFFF → 1 ∉ ops p ∧ 2 ∉ ops p ∧ 9 ∉ ops p) ∧ (p 5).toNat ≤ 5 ∧
       (x = 1 → boxOk (shapeOf bs) (p 7)) ∧ cap = { shape := bs, pattern := [] } }]

/-- The matrix steps, the commands of the index generator and the copies (R280, R326, R329, R346, R349, R351). -/
noncomputable def arrayCommands (s : State) (c : Cur) (g : Gang) (sa : BitVec 8) (pa sb : BitVec 7) (e x y : BitVec 1) : List AsyncRow :=
  let tile := fun (w : Word) => tileFor s g w
  let row := fun (i : Instr) (opc fn z sa n : Nat) (legal : (Nat → Word) → Captured → Prop) =>
    ({ instr := i, opc := opc, fn := fn, x := 32 * e.toNat + z, sa := sa, n := n, sb := 2 * sb.toNat, legal := legal } : AsyncRow)
  let step := fun (fn : Nat) (p : Nat → Word) (cap : Captured) =>
    let fa := (p 3).toNat % 16
    let fb := (p 3).toNat / 16 % 16
    slotHolds (slotNamed s g (p 0)) (if fn = 1 then 1 else 0) fa ∧
    (∀ q < (if fn = 2 then 4 else 1), slotHolds (slotNamed s g (p 1 + BitVec.ofNat 32 q)) 2 fb) ∧ isAcc s g (p 2) ∧
    (p 3).toNat < 1024 ∧ stepFormats fn fa fb ∧ cap = noCapture
  let tr := hmodT c
  let pat := fun (p : Nat → Word) (bs : List Byte) => patternFor s g (p 0) = some bs ∧ (tr = true → (patOf bs).has 2 = true)
  let gen := fun (mat : Bool) (p : Nat → Word) (cap : Captured) => ∃ bs, pat p bs ∧
    (p 1).toNat + (p 2).toNat ≤ (if tr then (patOf bs).k else (patOf bs).n) ∧ (p 2).toNat ≠ 0 ∧
    (if mat then pairIn p 4 % 16 = 0
     else (∃ t, tile (p 3) = some t ∧ t.fmt ∈ [6, 7] ∧ (p 2).toNat ≤ t.rows) ∧ p 4 = 0 ∧ p 5 = 0) ∧
    cap = { shape := [], pattern := bs }
  [row (.mma sa sb e) 0x37 0 0 sa.toNat 4 (step 0), row (.mmas sa sb e) 0x37 1 0 sa.toNat 4 (step 1),
   row (.mmat sa sb e) 0x37 2 0 sa.toNat 4 (step 2),
   row (.spmm sa sb e) 0x37 3 0 sa.toNat 7 (fun p cap => ∃ bs, pat p bs ∧
     (p 1).toNat < (if tr then (patOf bs).k else (patOf bs).n) ∧ isAcc s g (p 2) ∧
     (let fl := (p 3).toNat
      let fb := fl % 16
      let slot := bit (p 3) 10
      fl / 16 % 16 = 0 ∧ fl < 2 ^ 24 ∧ (slot = false → fl / 2048 % 2 ^ 13 = 0) ∧
      (fb ∈ [2, 3, 4, 5, 10] ∨ (fb = 1 ∧ slot = false)) ∧
      (if slot then slotHolds (slotNamed s g (p 4)) 2 fb ∧ (fb = 2 ∨ fb = 3 → slotHolds (slotNamed s g (p 4 + 1)) 2 fb)
       else ∃ t, tile (p 4) = some t ∧ t.fmt = fb ∧ (if tr then (patOf bs).n else (patOf bs).k) ≤ t.rows ∧ t.cols ≤ 128)) ∧
     ((patOf bs).unit = false → pairIn p 5 % (elemBits (patOf bs).vfmt / 8) = 0) ∧ cap = { shape := [], pattern := bs }),
   row (.pgen sa sb e x) 0x38 0 (2 * x.toNat) sa.toNat 6 (gen false),
   row (.pgenMat sa sb e) 0x38 0 1 sa.toNat 6 (gen true),
   row (.pmerge sa sb e x y) 0x38 1 (2 * x.toNat + y.toNat) sa.toNat 8 (fun p cap =>
     ∃ ia va ib vb ic vc nc, tile (p 0) = some ia ∧ tile (p 1) = some va ∧ tile (p 2) = some ib ∧ tile (p 3) = some vb ∧
       tile (p 4) = some ic ∧ tile (p 5) = some vc ∧ tile (p 6) = some nc ∧
       (∀ t ∈ [ia, ib, ic, nc], t.fmt = 7 ∧ t.rows = ia.rows) ∧ (∀ t ∈ [va, vb, vc], t.fmt = 1) ∧
       (∀ e ∈ [(ia, va), (ib, vb), (ic, vc)], e.2.rows = e.1.rows ∧ e.2.cols = e.1.cols) ∧
       ia.cols + ib.cols ≤ ic.cols ∧ nc.cols = 1 ∧
       (∀ t ∈ [ic, vc, nc], ∀ u ∈ [ia, va, ib, vb], t.hnd ≠ u.hnd) ∧ nc.hnd ≠ ic.hnd ∧ (p 7).toNat < 4 ∧ cap = noCapture),
   row (.hcopy pa sb e x) 0x39 1 x.toNat (2 * pa.toNat) 6 (fun p cap => pairIn p 0 % 16 = 0 ∧ pairIn p 2 % 16 = 0 ∧
     pairIn p 4 % 16 = 0 ∧ pairIn p 4 ≤ 2 ^ 40 ∧ cap = noCapture),
   row (.snap pa sb e) 0x39 2 0 (2 * pa.toNat) 6 (fun p cap => pairIn p 0 % 65536 = 0 ∧
     (pairIn p 2 % 65536 = 0 ∧ pairIn p 2 ≤ 2 ^ 36) ∧ pairIn p 2 ≠ 0 ∧ pairIn p 4 % 65536 = 0 ∧
     (pairIn p 0 + pairIn p 2 ≤ pairIn p 4 ∨ pairIn p 4 + pairIn p 2 ≤ pairIn p 0) ∧ cap = noCapture)]

/-- A command is accepted: an earlier fence's release comes first (R208); its issue releases, at DEV scope for an I/O die's
command and at TEAM scope for another; a fill takes a slot that is free for it; the command joins the queue and the batch
goes on (R195, R218, R252). -/
def accepts (s : State) (c : Cur) (g : Gang) (m : Command) : State :=
  let t := (s.payOwed c.gid).releaseLv g.core (if m.opc = 0x39 ∧ m.fn ≠ 0 then 2 else scopeLevel 0 (s.spread g))
  let r := t.takeSlot m
  advance c (({ r.2 with cmds := r.2.cmds ++ [r.1], fresh := t.fresh + 1 } : State).modGang c.gid fun h =>
    { h with cmdSeq := h.cmdSeq + 1 })

end Sys2Proof.Claims

/-- R252 to R254, R268 to R272, R278 to R283, R326, R329, R346, R349 to R351: an asynchronous command whose block is
legal and whose counter's address is a multiple of 8 is accepted, with the block, the hints, the pedigree and the
records it names, when its engine has room, and waits with WK 4 when it has none; a counter that is not aligned
raises ALIGN, and a block that is not legal traps the whole batch at the issue. The order of the block checks and the
counter check, and TINFO of a misaligned counter, are log 48. -/
def Obligations.AsynchronousCommands : Prop :=
  ∀ (s : State) (c : Cur) (g : Gang) (sa : BitVec 8) (pa sb : BitVec 7) (e x y : BitVec 1), Issuing s c g →
    ∀ r ∈ tileCommands s g sa sb e x ++ fillCommands s g sa sb e x ++ arrayCommands s c g sa pa sb e x y,
      sClean g ((r.sa, r.n) :: if r.sb = 0 then [] else [(r.sb, 2)]) = true →
      let p := fun k => g.s (r.sa + k)
      let aligned := r.sb = 0 ∨ (g.s2 r.sb).toNat % 8 = 0
      (∀ cap, r.legal p cap →
        (aligned → s.hasRoom g.core r.opc r.fn = true → exec r.instr s =
          .next (accepts s c g (newCommand s c g r.opc r.fn r.x (g.block r.sa r.n) r.sb cap))) ∧
        (aligned → s.hasRoom g.core r.opc r.fn = false → exec r.instr s = .next (waits s c 4 [])) ∧
        (¬aligned → exec r.instr s = .next (traps s c g 0x03 (g.s2 r.sb) 0))) ∧
      ((∀ cap, ¬r.legal p cap) → ∃ cause info, exec r.instr s = .next (traps s c g cause 0 info))

namespace Sys2Proof.Claims

/-- A command's work has put given elements into a tile and changed neither memory nor a gang; the command is performed,
with a count and flags, and its tile keeps its tags, which change only when it completes. -/
def wrote (s u : State) (m : Command) (h n count : Nat) (val : Nat → Nat) (flags : Flags) : Prop :=
  u.mem = s.mem ∧ u.gangs = s.gangs ∧
  (∀ t, s.tile? m.tkey h = some t → ∃ x, u.tile? m.tkey h = some x ∧ (∀ e < n, x.get e = val e % 2 ^ t.w) ∧
    x.v = t.v ∧ x.c = t.c ∧ x.fresh = t.fresh) ∧
  ∀ k, s.cmd? m.cid = some k → ∃ y, u.cmd? m.cid = some y ∧ y.st = .performed ∧ y.status = 0 ∧ y.count = count ∧ y.flags = flags

/-- A state after the first completion of a performed matrix step, which is counted once (R395). -/
def counted (s : State) (m : Command) : State :=
  if m.st = .performed ∧ m.opc = 0x37 ∧ m.fn ≠ 3 ∧ m.status = 0 then s.bump m.core 12 1 else s

end Sys2Proof.Claims

/-- R254, R257, R264, R269, R270, R281: a queued command starts only when the tags, the slots and the earlier commands of
its gang let it, and the tiles it writes lose V and FRESH; a started one goes on with its work while it has its place in
its engine's queue. TFILL puts its word into
every element, TCOPY copies or transposes, TCVT scales and rounds each element with its own draw, and MMA, MMAS and MMAT
add to each accumulator element, or to 0 under ZERO, the window sum of the products of its row and column. -/
def Sys2Proof.Claims.EngineWork : Prop :=
  (∀ (s : State) (m : Command), s.cmd? m.cid = some m →
    (m.st = .queued → (s.mayStart m && s.copyTurn m) = false → exec (.engineCommandStart m.cid) s = .next s) ∧
    (m.st = .queued → (s.mayStart m && s.copyTurn m) = true → ∀ k, (s.begin m).cmd? m.cid = some k →
      exec (.engineCommandStart m.cid) s = .next ((s.begin m).perform k)) ∧
    (m.st = .started → s.inQueue m = true → (∀ n, s.snap = some n → n.cid ≠ m.cid) → exec (.engineCommandStart m.cid) s = .next (s.perform m)) ∧
    (∀ h ∈ m.dsts ++ m.accs, ∀ t, s.tile? m.tkey h = some t → ∃ x, (s.begin m).tile? m.tkey h = some x ∧ x.v = false ∧
      x.fresh = false ∧ x.c = t.c ∧ x.data = t.data)) ∧
  (∀ (s : State) (m : Command) (d t : Tile), m.opc = 0x34 → s.tile? m.tkey (m.p 0).toNat = some d →
    let n := d.rows * d.cols
    (m.fn = 8 → wrote s (s.perform m) m (m.p 0).toNat n n (fun _ => (m.p 1).toNat) 0) ∧
    (s.tile? m.tkey (m.p 1).toNat = some t → t.poison = [] →
      (m.fn = 7 → wrote s (s.perform m) m (m.p 0).toNat n n
        (fun e => t.get (if m.x % 2 = 1 then e % d.cols * t.cols + e / d.cols else e)) 0) ∧
      (m.fn = 11 → ∀ l, s.launch? m.lkey = some l →
        let one := fun e => tcvtElem t.fmt d.fmt (rmode ((m.p 3).toNat % 8)) ((m.p 3).toNat / 8 % 2 == 1) (m.p 2)
          (edraw l.seed m.ped.levels (m.p 4) e) (t.get e)
        wrote s (s.perform m) m (m.p 0).toNat n n (fun e => (one e).1) ((List.range n).foldl (fun f e => f ||| (one e).2) 0)))) ∧
  (∀ (s : State) (m : Command) (a : Slot) (bs : List Slot) (t : Tile), m.opc = 0x37 → m.fn ≤ 2 →
    s.slot? m.core m.tkey (m.p 0).toNat = some a → a.bad = [] →
    (if m.fn = 2 then [(m.p 1).toNat, (m.p 1).toNat + 1, (m.p 1).toNat + 2, (m.p 1).toNat + 3] else [(m.p 1).toNat]).map
      (s.slot? m.core m.tkey) = bs.map some → (∀ b ∈ bs, b.bad = []) →
    s.tile? m.tkey (m.p 2).toNat = some t → (bit (m.p 3) 8 = false → t.poison = []) →
    let fa := (m.p 3).toNat % 16
    let fb := (m.p 3).toNat / 16 % 16
    let one := fun (i j : Nat) =>
      stepElem fa fb (if bit (m.p 3) 8 then 0 else BitVec.ofNat 32 (t.get (128 * i + j))) (aRow a (m.fn == 1) fa i)
        fun k => bElem bs fb k j
    wrote s (s.perform m) m (m.p 2).toNat (128 * 128) 0 (fun e => (one (e / 128) (e % 128)).1.toNat)
      ((List.range 128).foldl (fun f i => (List.range 128).foldl (fun f j => f ||| (one i j).2) f) 0))

/-- R222, R255, R256, R258, R264, R330, R389: a performed command completes: after a release at its scope its counter, if
it has one, goes up by 1, the tiles it wrote become valid and what it consumes is consumed, its gang takes its flags, its
record goes to its team's queue under EV, and the command is gone; it is held while that queue is full, and a counter
that cannot be written leaves the increment held, and with it a COMPRESS_OVF still to deliver (R271). A slot that a later
fill has taken stays filling when a step consumes it, and what a wait acquires at is the scope that the completion names
(R218). A SNAP's cut flips the colours, and its copies go block by block. -/
def Sys2Proof.Claims.EngineCompletion : Prop :=
  (∀ (s0 : State) (m : Command), s0.cmd? m.cid = some m → m.st = .performed ∨ m.st = .heldDone →
    let s := counted s0 m
    let post : Option Nat := if m.ev then m.tkey.filter s.teamLive else none
    let t := s.releaseLv m.core (scopeLevel m.scope (s.cmdSpread m))
    let ends := fun (v : DWord) (u : State) =>
      let u := (u.endTags m).modGang m.gid (·.flags m.flags)
      match post with
      | some k => u.modTeam k fun x =>
          { x with evq := x.evq ++ [(recordOf m.status (m.unitOff.toNat / 4) m.count m.aux (loWord v), m.scope)] }
      | none => u
    let gone := fun (u : State) => { u with cmds := u.cmds.filter (·.cid != m.cid) }
    let room := ∀ k, post = some k → s.queueFull k = false
    let noted := fun (u : State) => m.status = 1 ∧ ∃ g, u.gang? m.gid = some g ∧ bit g.statarm 4 = true
    ((∃ k, post = some k ∧ s.queueFull k = true) →
      exec (.engineCommandCompletion m.cid) s0 = .next (s.modCmd m.cid fun m => { m with st := .heldDone })) ∧
    (room → m.hasCnt = false → ¬ noted (ends 0 t) → exec (.engineCommandCompletion m.cid) s0 = .next (gone (ends 0 t))) ∧
    (room → m.hasCnt = true → ∀ r u, t.bumpCounter (s.cmdAgent m) m.cnt m.scope (s.cmdSpread m) = (r, u) →
      (∀ v, r = .ok v → ¬ noted (ends v u) → exec (.engineCommandCompletion m.cid) s0 = .next (gone (ends v u))) ∧
      (∀ e, r = .error e → ∃ b : Bool, (b = true ↔ noted (ends 0 u)) ∧
        exec (.engineCommandCompletion m.cid) s0 = .next ((ends 0 u).modCmd m.cid fun m =>
          { m with st := .heldIncr, note := b, fcause := e.1.word, faddr := m.cnt, finfo := BitVec.ofNat 32 (64 * 6 + e.2) }))) ∧
    (room → m.hasCnt = false → noted (ends 0 t) →
      exec (.engineCommandCompletion m.cid) s0 = .next ((ends 0 t).modCmd m.cid fun m =>
        { m with st := .heldNote, note := false, fcause := 0x1B, faddr := 0, finfo := 64 * 6 + 16 }))) ∧
  (∀ (s : State) (m : Command),
    let tile := fun h => (s.endTags m).tile? m.tkey h
    let slot := fun h => (s.endTags m).slot? m.core m.tkey h
    (∀ h ∈ m.dsts ++ m.accs, h ∉ m.srcs → ∀ t, s.tile? m.tkey h = some t →
      ∃ x, tile h = some x ∧ x.v = true ∧ x.c = false ∧ x.data = t.data ∧ x.scope = m.scope) ∧
    (∀ h ∈ m.srcs, (if m.isMatrix then m.consume else m.con) = true → ∀ t, s.tile? m.tkey h = some t →
      ∃ x, tile h = some x ∧ x.c = true ∧ x.data = t.data) ∧
    (∀ h ∈ m.fills, m.owns = true → ∀ y, s.slot? m.core m.tkey h = some y → ∃ x, slot h = some x ∧ x.st = 3 ∧ x.data = y.data ∧
      x.scope = m.scope) ∧
    (∀ h ∈ m.reads, m.isMatrix = true → m.consume = true → ∀ y, s.slot? m.core m.tkey h = some y →
      ∃ x, slot h = some x ∧ x.st = (if y.st = 2 then 2 else 4) ∧ x.data = y.data)) ∧
  (∀ (s : State) (n : Snap), s.snap = some n →
    (n.cut = false →
      let inRange := fun x : Sector => x.dirty != 0 && n.blocks.any fun b => b.src ≤ 16 * x.sect && 16 * x.sect < b.src + 65536
      let t := (s.l1.filter inRange).foldl State.wbL1 s
      let q := (t.quads.filter inRange).foldl State.wbQuad t
      let u := (q.l2.filter inRange).foldl State.wbL2 q
      exec .snapCut s = .next { u with colours := ~~~u.colours, snap := some { n with cut := true } }) ∧
    (n.cut = true → Memory.wf s.mem = true → ∀ b, n.blocks.find? (fun b => !b.copied) = some b →
      (∃ u, exec .snapBlockCopy s = .next u ∧ u.gangs = s.gangs ∧
        (∀ i < 65536, Memory.read u.mem (b.dst + i) = Memory.read s.mem (b.src + i)) ∧
        (∀ a, a < b.dst ∨ b.dst + 65536 ≤ a → Memory.read u.mem a = Memory.read s.mem a)) ∧
      ((∀ c ∈ n.blocks, c = b ∨ c.copied = true) → ∃ u, exec .snapBlockCopy s = .next u ∧ u.snap = none ∧
        ∀ m, s.cmd? n.cid = some m → ∃ x, u.cmd? n.cid = some x ∧ x.st = .performed ∧ x.count = n.blocks.length)))

/-- R255 to R260, R264, R269, R270, R281, R330, R389: what queued engine commands do, and how they complete. That a
command acts in one step, or in stretches, is the model's choice (log 43); logs 25, 44, 45 and 46 say what else it
settles. -/
def Obligations.EngineCommands : Prop := Sys2Proof.Claims.EngineWork ∧ Sys2Proof.Claims.EngineCompletion

namespace Sys2Proof.Claims

/-- A handle with its slot and generation now names a record; no other handle of the slot names one, the handles of the
other slots name what they named, and the gangs and memory are as before. -/
def installed (look : State → Gang → Word → Option (List Byte)) (t u : State) (g : Gang) (w : Word) (r : Option (List Byte)) : Prop :=
  look u g w = r ∧ (∀ v, v.toNat % 4096 = w.toNat % 4096 → v ≠ w → look u g v = none) ∧
  (∀ v, v.toNat % 4096 ≠ w.toNat % 4096 → look u g v = look t g v) ∧ u.gangs = t.gangs ∧ u.mem = t.mem

/-- A table's next generation of a slot. -/
def nextGen (x : Option Context) (tab : Context → List (Nat × Nat × Bool × List Byte)) (slot : Nat) : Nat × Bool :=
  match x with
  | some x => entryOf (tab x) slot
  | none => (0, false)

end Sys2Proof.Claims

/-- R262, R263, R335, R336: SHDEF and PLOAD read a record at the address in S(SA):S(SA+1), install it in the slot
that S(SA+2) names and write the handle, the slot and its generation, into S(SA+2); a misaligned address, a slot that
is taken or out of range, and a record that is not well formed trap the batch. SHFREE and PFREE free the slot of a
live handle and advance its generation modulo 2^20; a stale handle traps. The order of SHDEF's faults is the model's
choice (log 76), and which word PLOAD reports log 50. -/
def Obligations.RecordTables : Prop :=
  ∀ (s : State) (c : Cur) (g : Gang) (sa : BitVec 8), Issuing s c g →
    (sClean g [(sa.toNat, 3)] = true →
      let va := pair (g.s sa.toNat) (g.s (sa.toNat + 1))
      let w := (g.s (sa.toNat + 2)).toNat
      let slot := w % 4096
      (va.toNat % 64 ≠ 0 → ∀ i ∈ ([.shdef sa, .pload sa] : List Instr),
        exec i s = .next (traps s c g 0x03 va (lowFix g.width c.memb + 64 * 5))) ∧
      (va.toNat % 64 = 0 → ∀ bs t x, t.ctx? g.ctx = some x →
        (s.loadBlock (agentOf s c g) va 4 = (.ok bs, t) →
          let e := entryOf x.shapes slot
          (w ≥ 4096 ∨ e.2 = true → exec (.shdef sa) s = .next (traps t c g 0x0B 0 (2 + 256))) ∧
          (w < 4096 → e.2 = false → ∀ off, shapeBad bs = some off →
            exec (.shdef sa) s = .next (traps t c g 0x12 0 (256 * off))) ∧
          (w < 4096 → e.2 = false → shapeBad bs = none → e.1 < 2 ^ 20 →
            let h := BitVec.ofNat 32 (slot + 4096 * e.1)
            ∃ u, exec (.shdef sa) s = .next (advance c (u.modGang c.gid fun g => g.setS (sa.toNat + 2) h)) ∧
              installed shapeFor t u g h (some bs))) ∧
        (s.loadBlock (agentOf s c g) va 16 = (.ok bs, t) →
          let e := entryOf x.patterns slot
          (∀ word reason, patBad bs = some (word, reason) →
            exec (.pload sa) s = .next (traps t c g 0x10 0 (2 ^ 9 * word + 2 ^ 18 * reason))) ∧
          (patBad bs = none → w ≥ 1024 ∨ e.2 = true → exec (.pload sa) s = .next (traps t c g 0x0C 0 (2 + 256))) ∧
          (patBad bs = none → w < 1024 → e.2 = false → e.1 < 2 ^ 20 →
            let h := BitVec.ofNat 32 (slot + 4096 * e.1)
            ∃ u, exec (.pload sa) s = .next (advance c (u.modGang c.gid fun g => g.setS (sa.toNat + 2) h)) ∧
              installed patternFor t u g h (some bs))))) ∧
    (sClean g [(sa.toNat, 1)] = true →
      let w := g.s sa.toNat
      ∀ e ∈ ([(.shfree sa, shapeFor, Context.shapes, 0x0B), (.pfree sa, patternFor, Context.patterns, 0x0C)] :
          List (Instr × (State → Gang → Word → Option (List Byte)) × (Context → List (Nat × Nat × Bool × List Byte)) × Nat)),
        (e.2.1 s g w = none → exec e.1 s = .next (traps s c g e.2.2.2 0 0)) ∧
        (∀ bs, e.2.1 s g w = some bs → ∃ u, exec e.1 s = .next (advance c u) ∧ installed e.2.1 s u g w none ∧
          nextGen (u.ctx? g.ctx) e.2.2.1 (w.toNat % 4096) = ((w.toNat / 4096 + 1) % 2 ^ 20, false)))

/-- R258, R284, R310: CWAIT goes on, acquiring at its scope, once the 64-bit counter at its address is at or above
its target, and otherwise waits with WK 4 with a monitor entry of its core while one is free; TEAM scope of a spread
team is the quad unit. A wait that polls has only itself marked as counted (R242). EVPOP takes the oldest record of
its team's queue into S(SA) to S(SA+3), acquires at the record's scope and frees a place for a held completion; on an
empty queue it waits with WK 7, or with NB answers 0x0000_00FF. Logs 36, 55 and 62 say what the rules leave to the
model here. -/
def Obligations.CounterAndQueueWaits : Prop :=
  ∀ (s : State) (c : Cur) (g : Gang), Issuing s c g → noHeld s g →
    (∀ sa : BitVec 8, sClean g [(sa.toNat, 4)] = true →
      let va := pair (g.s sa.toNat) (g.s (sa.toNat + 1))
      let target := pair (g.s (sa.toNat + 2)) (g.s (sa.toNat + 3))
      let k := if hmodScope c 0 ≥ 4 then 0 else hmodScope c 0
      (va.toNat % 8 ≠ 0 → exec (.cwait sa) s = .next (traps s c g 0x03 va (lowFix g.width c.memb + 64 * 4))) ∧
      (va.toNat % 8 = 0 → ∀ x t t' m, s.checkVa (agentOf s c g) va false (fun t => isHbm t.pa || k == 3) = (.ok x, t) →
        (x.lattice = true → exec (.cwait sa) s = .next (traps t c g 0x09 va (lowFix g.width c.memb + 64 * 4))) ∧
        (x.lattice = false →
          t.locRd g.core (match k with | 0 => if t.spread g then 1 else 0 | 1 => 2 | _ => 3) x 8 = ((m, none), t') →
          (target.toNat ≤ m.toNat → exec (.cwait sa) s =
            .next (advance c ((t'.dropMonitor g.gid c.base c.memb).acquireLv g.core (scopeLevel k (t.spread g))))) ∧
          (m.toNat < target.toNat → ∃ u : State, exec (.cwait sa) s =
              .next ((u.modGang c.gid fun h => h.waitBatch c.memb 4 [va, target, BitVec.ofNat 64 k] c.next).settle c.gid) ∧
            u.gangs.map unpolled = t'.gangs.map unpolled ∧ u.mem = t'.mem ∧
            ((∀ e ∈ t'.monitors, e.gid = g.gid → e.pc = c.base → e.memb ≠ c.memb) →
              (t'.monitors.filter (·.core == g.core)).length < 256 → u.gangs = t'.gangs ∧
              ∃ e ∈ u.monitors, e.core = g.core ∧ e.sect = x.pa / 16 ∧ e.gid = g.gid ∧ e.pc = c.base ∧ e.memb = c.memb))))) ∧
    (∀ (a : BitVec 6) (nb : BitVec 1),
      let give := fun (s : State) (ws : List Word) => s.modGang c.gid fun g => g.setSs (4 * a.toNat) ws
      (∀ t r scope rest, s.teamOf g = some t → t.evq = (r, scope) :: rest →
        exec (.evpop a nb) s = .next (advance c
          (((give (s.modTeam t.tkey fun t => { t with evq := rest }) ((List.range 4).map fun k => r.extractLsb' (32 * k) 32)).acquireLv
            g.core (scopeLevel scope (s.spread g))).releaseHeld t.tkey))) ∧
      ((∀ t, s.teamOf g = some t → t.evq = []) →
        (nb = 1 → exec (.evpop a nb) s = .next (advance c (give s [0xFF, 0, 0, 0]))) ∧
        (nb = 0 → exec (.evpop a nb) s = .next (waits s c 7 []))))
/-! ## Instruction units and encodings -/

/-- R67 to R76: each hint word is latched for the main word of its unit, HMOD as its 14-bit value, and HTGT adds a
target; a word that is no instruction takes ILLEGAL with the word in TINFO, or PROT where its code is that of a
supervisor instruction and the gang is outside supervisor state. A unit breaks no rule only if it has at most three
hints, of different kinds, each allowed before the main word, the main word is an instruction other than HTGT, and
every word after a BRM that belongs to it is HTGT. TINFO of ILLEGAL and PROT is log 11, and where a broken unit ends
log 29. -/
def Obligations.HintsAndIllegalWords : Prop :=
  (∀ (s : State) (c : Cur) (g : Gang), Issuing s c g →
    (∀ h, exec (.himm h) s = .next { s with cur := some { c with himm := some h } }) ∧
    (∀ n t v k cc o r m, exec (.hmod n t v k cc o r m) s = .next { s with cur := some { c with hmod := some (BitVec.ofNat 22
      (m.toNat + 8 * r.toNat + 16 * o.toNat + 64 * cc.toNat + 256 * k.toNat + 2048 * v.toNat + 4096 * t.toNat +
        8192 * n.toNat)) } }) ∧
    (∀ h, exec (.hgrd h) s = .next { s with cur := some { c with hgrd := some h } }) ∧
    (∀ h, exec (.htgt h) s = .next { s with cur := some { c with tgts := c.tgts ++ [h] } }) ∧
    (∀ q, exec (.hseq q) s = .next { s with cur := some { c with hseq := some q } }) ∧
    (∀ w : Word,
      let sup := major w = 0x3C ∧ (wf_ w 22 4 = 5 ∨ wf_ w 22 4 = 6 ∨ wf_ w 22 4 = 7 ∨ (wf_ w 22 4 < 2 ∧ wf_ w 0 12 ≥ 0x800))
      exec (.illegalWord w) s = .next (traps s c g (if sup ∧ s.sup g = false then 0x05 else 0x01) 0 w.toNat))) ∧
  (∀ u : UnitWords, unitBad u = none →
    u.hints.length ≤ 3 ∧ u.hints.Pairwise (fun a b => wf_ a 22 4 ≠ wf_ b 22 4) ∧
    (∀ h ∈ u.hints, hintValue h = true ∧ hintTarget h u.main = true) ∧
    (decodeWord u.main.toNat).isSome = true ∧ isTgt u.main = false ∧ ∀ t ∈ u.tgts, isTgt t = true)

/-- R67, R74, R91, R93: a step whose next act is the unit at a PC of a gang takes the batch of the trap there, or
else the ready one unless it yields to the trap batch of its class, fetches the unit at its PC and lets its words act
in turn, hints first and the main word last: each word that the decoder reads as an instruction i acts as exec of i.
Around it the step notes the issue, and closes with no unit in execution and the clock one further. A unit that
breaks a rule acts as ILLEGAL. A word with no hint is a unit of its own. What the unit did stands unless it has given
race-filter entries to a home slice that has no room (R374), which the act names. When no batch there can issue, a
waiting one whose wait is satisfied is made ready (R92). The acts are the model's (log 2), the filter's room is log
24, and how a wait is retried log 36. -/
def Obligations.StepRunsDecoded : Prop :=
  (∀ (s t : State) (rest : List Act) (g : Gang) (b : Batch) (pc : DWord) (full : List Nat) (u : UnitWords),
    s.clock < s.boundary → s.agenda = .unit g.gid pc full :: rest →
    let next : State := { s with agenda := rest }
    next.up = true → next.gang? g.gid = some g → next.running g.ctx = true → g.behind = [] →
    g.exited = false → g.inlined = none →
    let here := g.batches.filter fun b => b.pc == pc && g.canIssue b
    ((here.find? fun b => b.st == .trapped).orElse fun _ => here.find? fun b => !b.waits) = some b → next.yields g b = false →
    let c := Cur.start g.gid b
    next.fetchUnit c g [] b.pc (next.hintLimit g) = (.ok u, t) →
    let cur := { c with word := u.at_, next := u.next, main := u.main }
    let issued := { t.onIssue cur g b.pc u.main with cur := some cur }
    let close := fun r : State =>
      let r := State.admitted cur full issued r
      closeStep s (r.afterIssue g b.pc (match r.cur with | some c => c.reads | none => []))
    (unitBad u = none → ∀ r, runWords (u.hints ++ u.tgts ++ [u.main]) issued = .next r → step s = .next (close r)) ∧
    (∀ w, unitBad u = some w → ∀ r, exec (.illegalWord w) issued = .next r → step s = .next (close r))) ∧
  (∀ (s : State) (rest : List Act) (g : Gang) (b : Batch) (pc : DWord) (full : List Nat),
    s.clock < s.boundary → s.agenda = .unit g.gid pc full :: rest →
    let next : State := { s with agenda := rest }
    next.up = true → next.gang? g.gid = some g → next.running g.ctx = true → g.behind = [] →
    g.exited = false → g.inlined = none →
    let here := g.batches.filter fun b => b.pc == pc && g.canIssue b
    (∀ x ∈ here, x.waits = true) → here.find? (next.satisfied g full) = some b →
    step s = .next (closeStep s ((next.modGang g.gid (·.rouse b)).settle g.gid))) ∧
  (∀ (w : Word) (ws : List Word) (i : Instr) (s r : State), decodeWord w.toNat = some i → exec i s = .next r →
    runWords (w :: ws) s = runWords ws r ∧ runWords [w] s = exec i s) ∧
  (∀ (s t : State) (c : Cur) (g : Gang) (pc : DWord) (w : Word) (n : Nat), s.fetchWord c g pc = (.ok w, t) →
    isHint w = false → major w ≠ 0x25 →
    s.fetchUnit c g [] pc n = (.ok { hints := [], main := w, tgts := [], at_ := pc, next := pc + 4 }, t)) ∧
  (∀ (c : Cur) (full : List Nat) (s t : State), (∀ k ∈ full, t.inSlice k ≤ s.inSlice k) → State.admitted c full s t = t) ∧
  (∀ s t : State, (closeStep s t).cur = none ∧ (closeStep s t).clock = t.clock + 1 ∧ (closeStep s t).mem = t.mem)

/-- Words of every kind of encoding, as spec/ writes them out, and the instructions they stand for (R101 to R403); and
lines of assembly whose units spec/ writes out, with the hints that the assembler adds (R80 to R84). -/
def Obligations.DecodeWords : Prop :=
  (∀ p ∈ ([(0x04400000, .exit), (0x04C00007, .waitb 7), (0x05401234, .trap 0x1234), (0x05800002, .tret 2),
      (0x09C31050, .iadd 7 3 4 5), (0x288A0C40, .icmp 2 1 2 3 4), (0x2CA2CC34, .imad 10 11 12 13),
      (0x55C20CA0, .iaddS 7 2 3 40), (0x580A6800, .pand 1 2 3 0 1), (0x80501678, .smovi 20 0x1678),
      (0x845048D1, .smovh 20 0x48D1), (0x89420080, .mpopc 2 4), (0xC4900000, .fenceAr 2), (0xC5000000, .fencePkg),
      (0xCA4507A2, .waita 9 10 30 4 2), (0xCC040829, .ljoin 4 2 5 1), (0xE44507A1, .hcopy 10 15 1 1),
      (0xE48A07A0, .snap 20 15 1), (0xE9C30000, .pedcmp 6), (0xEDC31052, .rupd 7 3 4 5), (0xEDC40000, .prand 7 4),
      (0xF0030021, .csrr 12 0x021), (0xF0414001, .csrw 5 0x001), (0xF0850000, .clock 10), (0xF1850000, .ctxsv 10)] :
      List (Nat × Instr)),
    decodeWord p.1 = some p.2 ∧ encode p.2 = some p.1) ∧
  (∀ p ∈ ([("IADDI V1, V1, 100000", [0xFC000061, 0x11C106A0]), ("LD V1, [S10:S11 + V0]", [0xA5C1002C]),
      ("LDS.B64 S10:S11, [S0:S1 + 0]", [0xB4280500]), ("?P1 ATOM.IADD.ORD=0 V3, [S10:S11 + V7]", [0xFD000000, 0xFC800001, 0xBC031C2C]),
      ("PGEN.T S20, S30", [0xFC401000, 0xE0050780]), ("PMERGE S8, S0, AND+KZ", [0xE0420003]),
      ("WAITA.GE.N.DEV [S20:S21], S30", [0xCA4507A2]), ("LJOIN.REL [S10:S11 + V2], V4", [0xCC040829]), ("BARF", [0xE9400007])] :
      List (String × List Nat)),
    (Asm.assemble 0x80000000 0x90000000 [p.1]).map (·.text) = some (Asm.wordsBytes p.2))

/-- R55 to R81: the encoder and the decoder agree. Every well-formed instruction with a word is read back from its
word, and every word of 32 bits that is read as an instruction is that instruction's own word: no bit is dropped, and
no two words stand for one instruction. -/
def Obligations.EncodeDecode : Prop :=
  (∀ (i : Instr) (n : Nat), i.wf = true → encode i = some n → n < 2 ^ 32 ∧ decodeWord n = some i) ∧
  (∀ (i : Instr) (n : Nat), n < 2 ^ 32 → decodeWord n = some i → i.wf = true ∧ encode i = some n)

/-! ## Tasks -/

namespace Sys2Proof.Claims

/-- The task that a spawn of n children creates (R287 to R292): its entry, width and registers from the block, the
parent's rank and floor at the last level, and the copies that a child starts with. -/
def spawnTask (s : State) (g : Gang) (entry desc : Word) (args : DWord) (n : Nat) (stride : Word) (fan : Bool) : TaskEntry :=
  { key := s.fresh, lkey := g.lkey, parent := g.gid, entry := entry, args := args, wcode := desc.toNat % 4,
    vregs := 8 * (desc.toNat / 4 % 32 + 1), fan := fan, pend := false, rank0 := g.ped.last.1, flr := g.ped.last.2,
    count := n, stride := stride, base := g.ped.levels.dropLast, caddr := 0, cval := 0, cscope := 0, statarm := g.statarm,
    tvec := g.tvec, seed := g.seed, gangId := g.gangId, teamId := g.teamId, prio := g.prio, pmode := g.ped.mode,
    devl := g.ped.devl, place := 0, polled := false }

/-- A deque entry without the note that its polling has been counted (R242). -/
def uncounted (d : DequeEnt) : DequeEnt := { d with task := { d.task with polled := false } }

/-- The parent after a spawn of n children (R216, R288, R289): a release at DEV scope, with what its fences still owe, its last level from (r, f) to
(r + n, f), n more children outstanding, and its batch at the next unit. -/
def spawnedFrom (s : State) (c : Cur) (g : Gang) (n : Nat) : State :=
  let t := (s.payOwed c.gid).releaseLv g.core 2
  let t : State := { t with fresh := t.fresh + 1 }
  let t := t.setPed c.gid (g.ped.setLast (g.ped.last.1 + BitVec.ofNat 32 n, g.ped.last.2))
  advance c (t.modGang c.gid fun h => { h with outstanding := h.outstanding + n })

/-- An entry at the bottom of the deque of a gang's partition (R293). -/
def enqueued (t : State) (g : Gang) (e : TaskEntry) : State :=
  { t with deques := t.deques ++ [{ core := g.core, part := g.part, task := e }] }

/-- The state in which a trap of held faults, then FLAG_ARMED, is delivered to a batch at a unit, or else go (R258, R295,
R388); after FLAG_ARMED a skip goes on at skip. -/
def delivers (u : State) (gid : Nat) (memb : Mask) (pc skip : DWord) (go : State) : State :=
  match u.gang? gid with
  | none => u
  | some h =>
    match u.heldOf h (fun _ => true) with
    | some m => (u.takeTrap gid pc (heldTrap h m memb pc)).settle gid
    | none =>
      if h.stat &&& h.statarm ≠ 0 then
        (u.takeTrap gid pc { cause := 0x1A, tepc := loWord (pc - u.textOf h), tmask := memb, taddr := 0,
                             tinfo := (h.stat &&& h.statarm).setWidth 32, bmask := memb, good := [], skip := skip, held := none }).settle gid
      else go

/-- After a SYNC has merged a frame: the raised floor, and the acquire at DEV scope (R216, R295). -/
def joined (t : State) (g : Gang) : State :=
  let r := g.ped.last.1 + 1
  (t.setPed g.gid (g.ped.setLast (r, r))).acquireLv g.core 2

/-- After an arrival at the team barrier has merged its frame: the acquire at DEV scope, the release at TEAM scope, and
the wait with WK 2 for the destination Qd (R297). -/
def arrives (t : State) (g : Gang) (memb : Mask) (next : DWord) (d : Nat) : State :=
  let t := (t.acquireLv g.core 2).releaseLv g.core (scopeLevel 0 ((t.acquireLv g.core 2).spread g))
  (t.modGang g.gid fun h => ({ h with arrived := true } : Gang).waitBatch memb 2 [BitVec.ofNat 64 d] next).settle g.gid

/-- A gang leaves a complete team barrier (R297): its levels R and R + 1, Q[d], an acquire at TEAM scope, and the
deliveries. -/
def leavesBarrier (team : Team) (s : State) (g : Gang) : State :=
  match g.batches.find? fun b => b.st == .waiting 2 with
  | none => s.modGang g.gid fun h => { h with arrived := false }
  | some b =>
    let r := gangLevel s g
    let n := s.ngangs g
    let p := (team.phase + 1) * n
    let levels := g.ped.levels.take (r - 1) ++ [(BitVec.ofNat 32 (p + g.gangId.toNat), BitVec.ofNat 32 p), (0, 0)]
    let s := s.setPed g.gid { g.ped with levels := levels }
    let s := s.modGang g.gid fun h => ({ h with arrived := false } : Gang).qset (b.cap.headD 7).toNat team.broken
    let s := s.acquireLv g.core (scopeLevel 0 (s.spread g))
    delivers s g.gid b.memb b.pc b.next (s.moveBatch g.gid b.memb b.next)

end Sys2Proof.Claims

/-- R287 to R290, R292, R293: a spawn of a gathered batch makes its checks in order; while the deque of its partition
has room, the parent releases, moves its last level on by the number of children and goes on, and the entry joins the
bottom of the deque. A SPAWNN of no children has no effect after its first checks. A SPAWNA's entry is pending until
the counter at SB reaches its target, and takes a monitor entry of the core while one is free; nothing of the counter
traps (R316). Where neither the deque nor the backing store has room, a child wider than its parent raises
SPAWN_WIDTH. TADDR of a bad entry point, and a misaligned counter, are log 37; how a pending entry reads its counter
is log 38. -/
def Obligations.Spawning : Prop :=
  ∀ (s : State) (c : Cur) (g : Gang) (a sb : BitVec 7), Issuing s c g → g.live &&& c.memb = g.live →
    let sa := 2 * a.toNat
    let entry := g.s sa
    let desc := g.s (sa + 1)
    let args := pair (g.s (sa + 2)) (g.s (sa + 3))
    let many := (g.s (sa + 4)).toNat
    let text := s.textOf g + entry.setWidth 64
    let low := lowFix g.width c.memb
    let d := g.ped.levels.length
    let room := (s.deques.filter fun x => x.core == g.core && x.part == g.part).length < 64
    let full := ¬room ∧ ∀ l, s.launch? g.lkey = some l → l.r.bscap ≤ l.backing.length
    let wide := g.width < 8 * 2 ^ (desc.toNat % 4) ∨ g.vregs < 8 * (desc.toNat / 4 % 32 + 1)
    let ready := fun (n : Nat) => desc.toNat < 128 ∧ n ≤ 65536 ∧ entry.toNat % 4 = 0 ∧ entry.toNat < s.textSz g
    let deep := fun (n : Nat) => d < 16 ∧ g.ped.last.1.toNat + n ≤ 0xFFFFFFFF
    let task := fun n stride fan => spawnTask s g entry desc args n stride fan
    (sClean g [(sa, 4)] = true → ready 1 → deep 1 →
      (room → exec (.spawn a) s = .next (enqueued (spawnedFrom s c g 1) g (task 1 0 false))) ∧
      (full → wide → exec (.spawn a) s = .next (traps s c g 0x1C 0 (desc.toNat % 128)))) ∧
    (sClean g [(sa, 6)] = true → ready many →
      (many = 0 → exec (.spawnn a) s = .next (advance c s)) ∧
      (many ≠ 0 → deep many →
        (room → exec (.spawnn a) s = .next (enqueued (spawnedFrom s c g many) g (task many (g.s (sa + 5)) true))) ∧
        (full → wide → exec (.spawnn a) s = .next (traps s c g 0x1C 0 (desc.toNat % 128))))) ∧
    (sClean g [(sa, 6), (2 * sb.toNat, 2)] = true → ready 1 → deep 1 → room → (∀ m ∈ s.monitors, m.gid ≠ s.fresh) →
      let va := g.s2 (2 * sb.toNat)
      let k := if hmodScope c 0 ≥ 4 then 0 else hmodScope c 0
      let e := { task 1 0 false with pend := true, caddr := va, cval := pair (g.s (sa + 4)) (g.s (sa + 5)), cscope := k }
      let t := enqueued (spawnedFrom s c g 1) g e
      ∀ q u, t.checkVa (t.ownAgent g.lkey g.core) va false (fun t => isHbm t.pa || k == 3) = (q, u) →
        ∃ v, exec (.spawna a sb) s = .next v ∧ v.gangs = u.gangs ∧ v.deques.map uncounted = u.deques.map uncounted ∧ v.mem = u.mem ∧
          (∀ x, q = .ok x → (u.monitors.filter (·.core == g.core)).length < 256 → v.deques = u.deques ∧
            ∃ m ∈ v.monitors, m.core = g.core ∧ m.sect = x.pa / 16 ∧ m.gid = e.key)) ∧
    (∀ e ∈ ([(.spawn a, [(sa, 4)], 1), (.spawnn a, [(sa, 6)], many), (.spawna a sb, [(sa, 6), (2 * sb.toNat, 2)], 1)] :
        List (Instr × List (Nat × Nat) × Nat)), sClean g e.2.1 = true →
      (¬(desc.toNat < 128 ∧ e.2.2 ≤ 65536) → exec e.1 s = .next (traps s c g 0x01 0 c.main.toNat)) ∧
      (desc.toNat < 128 ∧ e.2.2 ≤ 65536 →
        (entry.toNat % 4 ≠ 0 → exec e.1 s = .next (traps s c g 0x03 text low)) ∧
        (entry.toNat % 4 = 0 → s.textSz g ≤ entry.toNat → exec e.1 s = .next (traps s c g 0x05 text low))) ∧
      (ready e.2.2 → e.2.2 ≠ 0 →
        (d ≥ 16 → exec e.1 s = .next (traps s c g 0x14 0 (d % 32))) ∧
        (d < 16 → g.ped.last.1.toNat + e.2.2 > 0xFFFFFFFF → exec e.1 s = .next (traps s c g 0x15 0 (d % 32)))))

/-- R47, R295 to R297: a gathered SYNC waits with WK 3 while children are outstanding; then the children's final
views fold into the parent's in ascending rank (here of views that stand in the view store; Reducers has those that
do not), their STAT flags join its own, its last level becomes (r + 1, r + 1), and it goes on after the deliveries.
SYNC_COMPLETE ends the wait of a SYNC, of an EXIT or of a BARF the same way. BARF, of root gangs only, joins its
children and waits with WK 2, and the phase completes once every root gang of the team has arrived or exited; the
stores of those that have exited precede the next phase (R217). What an EXIT still joins is log 9, and where held
faults are delivered log 33. -/
def Obligations.Joining : Prop :=
  (∀ (s : State) (g : Gang), s.gang? g.gid = some g →
    let reds := s.redsOf g.lkey
    (∀ vs ∈ g.views :: g.finals.map (·.views), ∀ v, some v ∈ vs → v.bad = [] ∧ v.spill = false) →
    (∀ f ∈ g.finals, ∀ k < reds.length, ∀ v, f.views.getD k none = some v → ∃ w, g.views.getD k none = some w) →
    ∃ (fs : List Final) (t : State) (h : Gang), fs.Perm g.finals ∧ fs.Pairwise (fun a b => a.rank.toNat ≤ b.rank.toNat) ∧
      s.mergeFrame g.gid = .ok t ∧ t.gang? g.gid = some h ∧ h.finals = [] ∧ h.sregs = g.sregs ∧ h.ped = g.ped ∧
      (∀ f ∈ g.finals, h.stat &&& f.stat = f.stat) ∧ h.stat &&& g.stat = g.stat ∧
      ∀ k < g.views.length, ∀ w, g.views.getD k none = some w → ∃ v, h.views.getD k none = some v ∧
        v.elems = (fs.filterMap fun f => f.views.getD k none).foldl
          (fun es x => (combList ((reds.map (·.type)).getD k 0) es x.elems).1) w.elems) ∧
  (∀ (s : State) (c : Cur) (g : Gang) (d : BitVec 3), Issuing s c g → g.live &&& c.memb = g.live →
    let phase := ((g.team.bind s.team?).map (·.phase)).getD 0
    (g.outstanding ≠ 0 → exec .sync s = .next (waits s c 3 [0])) ∧
    (g.outstanding = 0 → g.ped.last.1 = 0xFFFFFFFF → exec .sync s = .next (traps s c g 0x15 0 (g.ped.levels.length % 32))) ∧
    (g.outstanding = 0 → g.ped.last.1 ≠ 0xFFFFFFFF → ∀ t, s.mergeFrame c.gid = .ok t →
      let u := joined t g
      exec .sync s = .next (delivers u c.gid c.memb c.base c.next (u.moveBatch c.gid c.memb c.next))) ∧
    (g.ped.root = false → exec (.barf d) s = .next (traps s c g 0x01 0 c.main.toNat)) ∧
    (g.ped.root = true → (phase + 2) * s.ngangs g - 1 > 0xFFFFFFFF →
      exec (.barf d) s = .next (traps s c g 0x15 0 (gangLevel s g % 32))) ∧
    (g.ped.root = true → (phase + 2) * s.ngangs g - 1 ≤ 0xFFFFFFFF →
      (g.outstanding ≠ 0 → exec (.barf d) s = .next (waits s c 3 [BitVec.ofNat 64 (2 + 256 * d.toNat)])) ∧
      (g.outstanding = 0 → ∀ t, s.mergeFrame c.gid = .ok t →
        exec (.barf d) s = .next (arrives t g c.memb c.next d.toNat)))) ∧
  (∀ (s : State) (g : Gang), s.gang? g.gid = some g →
    (g.outstanding ≠ 0 → exec (.syncComplete g.gid) s = .next s) ∧
    (g.outstanding = 0 → g.inlined = none → ∀ b k l, b.cap = k :: l →
      g.batches.find? (fun b => b.st == .waiting 3 && b.cap.headD 3 != 3) = some b → ∀ t, s.mergeFrame g.gid = .ok t →
      let u := joined t g
      (k = 0 → g.ped.last.1 ≠ 0xFFFFFFFF → exec (.syncComplete g.gid) s =
        .next (delivers u g.gid b.memb b.pc b.next (u.moveBatch g.gid b.memb b.next))) ∧
      (k = 1 → g.ped.last.1 ≠ 0xFFFFFFFF → exec (.syncComplete g.gid) s =
        .next (delivers u g.gid b.memb b.pc b.pc ((u.endFibres g.gid b.memb).settle g.gid))) ∧
      (∀ d < 8, k = BitVec.ofNat 64 (2 + 256 * d) → exec (.syncComplete g.gid) s = .next (arrives t g b.memb b.next d)))) ∧
  (∀ (s : State) (k : Nat) (t : Team), s.team? k = some t →
    let gs := s.gangs.filter fun g => g.team == some k && g.ped.root
    ((∃ g ∈ gs, g.arrived = true) → (∀ g ∈ gs, g.arrived = true ∨ g.exited = true) →
      let ended := (gs.filter (·.exited)).foldl (fun s g => s.releaseLv g.core (scopeLevel 0 (s.spread g))) s
      exec (.barfPhaseComplete k) s = .next ((gs.filter (·.arrived)).foldl (leavesBarrier t)
        (ended.modTeam k fun t => { t with phase := t.phase + 1, broken := false }))) ∧
    ((∃ g ∈ gs, g.arrived = false ∧ g.exited = false) → exec (.barfPhaseComplete k) s = .next s))

namespace Sys2Proof.Claims

/-- A partition has room for a task of width w with v registers (R304). -/
def roomFor (s : State) (core part w v : Nat) : Prop :=
  let on := s.residents core
  let own := on.filter (·.part == part)
  on.length < 64 ∧ (on.map (·.width)).sum + w ≤ 4096 ∧ own.length < 16 ∧ (own.map fun g => g.width * g.vregs).sum + w * v ≤ 65536

/-- A deque entry that a partition can start: ready, with room (R294). -/
def canStart (s : State) (core part : Nat) (d : DequeEnt) : Prop :=
  d.task.pend = false ∧ roomFor s core part (8 * 2 ^ (d.task.wcode % 4)) d.task.vregs

/-- The deques in the order in which a thief tries them (R294): the core's other partitions, the die's other cores from a
place that its count of searches gives, and the next dies' cores. -/
def thiefOrder (s : State) (core part : Nat) : List (Nat × Nat) :=
  let all := fun (v : Nat) => (List.range 4).map fun p => (v, p)
  let dies := (List.range 7).map fun j => (core / 20 + 1 + j) % 8
  ((List.range 4).filter (· != part)).map (fun p => (core, p)) ++ (stealOrder core (s.searchNo core)).flatMap all ++
    dies.flatMap fun d => (List.range 20).flatMap fun v => all (20 * d + v)

/-- A child of a task has started on a partition (R291): a new gang whose fibres stand at the entry in one batch, its S0
and S1 the arguments, its last levels the rank and the floor of the task and (0, 0), everything else at reset or copied at
the spawn. -/
def startedChild (s t : State) (e : TaskEntry) (core part : Nat) : Prop :=
  ∃ n : Gang, t.gangs = s.gangs ++ [n] ∧ n.core = core ∧ n.part = part ∧ n.parent = some e.parent ∧ n.team = none ∧
    n.rank = e.rank0 ∧ n.width = 8 * 2 ^ (e.wcode % 4) ∧ n.vregs = e.vregs ∧
    n.ped.levels = e.base ++ [(e.rank0, e.flr), (0, 0)] ∧ n.ped.root = false ∧ n.ped.mode = e.pmode ∧ n.ped.devl = e.devl ∧
    n.s2 0 = e.args ∧ (∀ k ≥ 2, n.s k = 0) ∧ n.stat = 0 ∧ n.statarm = e.statarm ∧ n.tvec = e.tvec ∧ n.seed = e.seed ∧
    n.gangId = e.gangId ∧ n.teamId = e.teamId ∧ n.prio = e.prio ∧ n.trap = none ∧ n.exited = false ∧
    n.live = BitVec.ofNat 64 (2 ^ n.width - 1) ∧
    (∀ l, s.launch? e.lkey = some l → n.batches =
      [{ memb := n.live, pc := l.r.text + e.entry.setWidth 64, st := .ready, passed := 0, cap := [], next := 0, polled := false }]) ∧
    n.fibres = List.replicate n.width { regs := List.replicate e.vregs 0, wb := 0, p := 0, drw := 0, bad := [] }

/-- What is left of an entry in the deques once its first child has started, while no backing store holds another (R292). -/
def leftOf (s t : State) (e : TaskEntry) : Prop :=
  (e.count ≤ 1 → (∀ l ∈ s.launches, l.backing = []) → t.deques = s.deques.filter (·.task.key != e.key)) ∧
  (e.count > 1 → t.deques = s.deques.map fun d => if d.task.key == e.key then
    { d with task := { e with rank0 := e.rank0 + 1, count := e.count - 1, args := e.args + e.stride.setWidth 64 } } else d)

end Sys2Proof.Claims

/-- R291, R292, R294, R308: TASK_START starts, on a partition with room, the newest ready entry of its own deque, or
else, when no backing store holds one, the oldest of the first deque in the thief's order that holds one. GANG_DRAIN
takes an exited gang that has nothing left to wait for out of the device: a child leaves its views and flags to its
parent, a root gang to its launch, and the last root gang of a team frees the team and its slots. The count of
searches is log 42, inline records are log 86, and a killed gang's children log 10. -/
def Obligations.TaskEvents : Prop :=
  (∀ (s : State) (core part : Nat) (d : DequeEnt) (older newer : List DequeEnt), core < 160 → part < 4 → 8 ≤ d.task.vregs → canStart s core part d →
    let own := s.deques.filter fun x => x.core == core && x.part == part
    (own = older ++ d :: newer → (∀ x ∈ newer, ¬canStart s core part x) →
      ∃ t, exec (.taskStart core part) s = .next t ∧ startedChild s t d.task core part ∧ leftOf s t d.task) ∧
    ((∀ x ∈ own, ¬canStart s core part x) →
      (∀ l ∈ s.launches, ∀ e ∈ l.backing, ¬canStart s core part { core := core, part := part, task := e }) →
      ∀ before v after, thiefOrder s core part = before ++ v :: after →
        (∀ w ∈ before, ∀ x ∈ s.deques, x.core = w.1 → x.part = w.2 → ¬canStart s core part x) →
        s.deques.filter (fun x => x.core == v.1 && x.part == v.2) = older ++ d :: newer → (∀ x ∈ older, ¬canStart s core part x) →
        ∃ t, exec (.taskStart core part) s = .next t ∧ startedChild s t d.task core part ∧ leftOf s t d.task)) ∧
  (∀ (s : State) (g : Gang), s.gang? g.gid = some g →
    (g.exited = false → exec (.gangDrain g.gid) s = .next s) ∧
    (g.exited = true → g.inlined = none → g.outstanding = 0 → g.finals = [] → (∀ m ∈ s.cmds, m.gid ≠ g.gid) →
      (∀ l ∈ s.launches, l.issuer ≠ some g.gid) → (∀ e ∈ s.latSends, e.gang ≠ some g.gid) →
      ∃ t, exec (.gangDrain g.gid) s = .next t ∧ (g.gid < s.fresh → t.gang? g.gid = none) ∧
        (∀ p q, g.parent = some p → p ≠ g.gid → s.gang? p = some q →
          let q' : Gang := { q with outstanding := q.outstanding - 1,
                                    finals := q.finals ++ [{ rank := g.rank, views := g.views, stat := g.stat }] }
          (q.inlined = none → t.gang? p = some q') ∧
          (q.inlined = some g.gid → q.inlineFan = none →
            ∃ r, t.gang? p = some r ∧ r.inlined = none ∧ r.outstanding = q'.outstanding ∧ r.finals = q'.finals ∧ r.stat = q.stat ∧
              ((∀ l ∈ s.launches, ∀ x ∈ l.inlines, x.gid ≠ p) → r = { q' with inlined := none }))) ∧
        (g.parent = none → ∀ l, s.launch? g.lkey = some l → ∃ m, t.launch? g.lkey = some m ∧ m.finals = l.finals ++
          [{ rank := BitVec.ofNat 32 (g.teamId.toNat * l.r.gangs + g.gangId.toNat), views := g.views, stat := g.stat }]) ∧
        (∀ k r, g.parent = none → g.team = some k → s.team? k = some r → (∀ h ∈ s.gangs, h.team = some k → h.ped.root = true → h.gid = g.gid) →
          t.team? k = none ∧ ∀ x ∈ t.slots, x.tkey ≠ k)))

/-! ## Launches -/

namespace Sys2Proof.Claims

/-- A launch joins its context's launches (R300, R302): the record it was given, the captured seed and its mode, the id
that the context's counter held, which then advances and never holds 0. -/
def accepted (s t : State) (num : Nat) (r : LRec) (host : Bool) (seed : DWord) (mode : Nat) : Prop :=
  ∀ x, s.ctx? num = some x → ∃ l : Launch, t.launches = s.launches ++ [l] ∧ l.ctx = num ∧ l.r = r ∧ l.host = host ∧
    l.lid = x.lidCtr ∧ l.seed = seed ∧ l.mode = mode ∧ l.st = .queued ∧ l.nextTeam = 0 ∧ l.trapped = false ∧ l.finals = [] ∧
    t.ctx? num = some { x with lidCtr := if x.lidCtr = 0xFFFFFFFF then 1 else x.lidCtr + 1 }

/-- A launch queue, or the pool of a context's device launches, has room (R300). -/
def queueRoom (s : State) (num : Nat) (host : Bool) (q : Nat) : Prop :=
  if host then (s.launches.filter fun l => l.ctx == num && l.host && l.r.queue == q && l.st == .queued).length < 64
  else (s.launches.filter fun l => l.ctx == num && !l.host && decide (l.nextTeam < l.r.nteams.toNat)).length < 256

end Sys2Proof.Claims

/-- R298 to R302, R357: a gathered LAUNCH reads the record at S(SA):S(SA+1) and the descriptors it names. A refused
record writes its status to S(SA+2) and 0 to S(SA+3) and does nothing else. An accepted device launch tests the depth
and the last rank, which trap; a launch whose queue or pool is full waits with WK 4; otherwise it releases at DEV
scope and joins its queue with the seed captured, writes 0 and its id, and a device launch counts as a child of the
frame at the next rank. When the descriptors are read, and the order of the checks, are log 40. -/
def Obligations.Launching : Prop :=
  (∀ (s : State) (c : Cur) (g : Gang) (a : BitVec 7), Issuing s c g → g.live &&& c.memb = g.live →
    sClean g [(2 * a.toNat, 2)] = true →
    let sa := 2 * a.toNat
    let va := pair (g.s sa) (g.s (sa + 1))
    let ag := { agentOf s c g with ped := { g.ped with mode := 2 } }
    let d := g.ped.levels.length
    (va.toNat % 256 ≠ 0 → exec (.launch a) s = .next (traps s c g 0x03 va (lowFix g.width c.memb + 64 * 5))) ∧
    (va.toNat % 256 = 0 → ∀ bs t reds arenas u, s.loadBlock ag va 16 = (.ok bs, t) →
      t.readTables ag (lrecOf bs) = (.ok (reds, arenas), u) →
      let r := lrecOf bs
      let host := r.front || u.isFront g
      let laxer := host = false ∧ ((r.mode = 2 ∧ g.ped.mode ≤ 1) ∨ (r.mode = 0 ∧ g.ped.mode = 1))
      let st := launchStatus bs reds arenas (u.sup g) (decide laxer)
      let child := host = false → d + 3 ≤ 16 ∧ g.ped.last.1 ≠ 0xFFFFFFFF
      (st ≠ 0 → exec (.launch a) s = .next (advance c (u.modGang c.gid fun h => (h.setS (sa + 2) (BitVec.ofNat 32 st)).setS (sa + 3) 0))) ∧
      (st = 0 → host = false → d + 3 > 16 → exec (.launch a) s = .next (traps u c g 0x14 0 (d % 32))) ∧
      (st = 0 → host = false → d + 3 ≤ 16 → g.ped.last.1 = 0xFFFFFFFF → exec (.launch a) s = .next (traps u c g 0x15 0 (d % 32))) ∧
      (st = 0 → child → ¬queueRoom u g.ctx host r.queue → exec (.launch a) s = .next (waits u c 4 [])) ∧
      (st = 0 → child → queueRoom u g.ctx host r.queue → ∀ x, u.ctx? g.ctx = some x → ∃ v w,
        accepted (u.releaseLv g.core 2) v g.ctx r host (if r.seedsrc then r.seed else g.seed)
          (if r.mode = 3 then (if host then 0 else g.ped.mode) else r.mode) ∧ v.gangs = u.gangs ∧
        w = (if host then v else (v.setPed g.gid (g.ped.setLast (g.ped.last.1 + 1, g.ped.last.2))).modGang g.gid fun h =>
          { h with outstanding := h.outstanding + 1 }) ∧
        exec (.launch a) s = .next (advance c (w.modGang c.gid fun h => (h.setS (sa + 2) 0).setS (sa + 3) x.lidCtr))))) ∧
  (∀ (bs : List Byte) (reds arenas : List (List Byte)) (sup laxer : Bool), launchStatus bs reds arenas sup laxer = 0 →
    let r := lrecOf bs
    1 ≤ r.nteams.toNat ∧ r.nteams.toNat ≤ 0x7FFFFFFF ∧ r.nteams.toNat * r.gangs ≤ 0xFFFFFFFF ∧ r.nred ≤ 64 ∧ r.narena ≤ 16 ∧
    r.text.toNat % 256 = 0 ∧ 0 < r.textsz.toNat ∧ r.textsz.toNat % 4 = 0 ∧ r.entry.toNat % 4 = 0 ∧ r.entry.toNat < r.textsz.toNat ∧
    r.depaddr.toNat % 8 = 0 ∧ r.cpladdr.toNat % 8 = 0 ∧ r.crecaddr.toNat % 16 = 0 ∧ r.bsbase.toNat % 64 = 0 ∧
    r.inlbase.toNat % 256 = 0 ∧ (r.nred ≠ 0 → r.redtab.toNat % 32 = 0) ∧ (r.narena ≠ 0 → r.arenatab.toNat % 32 = 0) ∧
    (r.front = true → sup = true) ∧ laxer = false ∧ ∃ k, r.spread = some k ∧ r.candidates k ≠ [])

namespace Sys2Proof.Claims

/-- A root gang as it is created (R97, R291, R301, R302): gang i of team t of a launch, in team k: its arguments, its
pedigree, and all else at reset; one batch of every fibre stands at the entry. -/
def rootGang (l : Launch) (k t i : Nat) (n : Gang) : Prop :=
  n.lkey = l.lkey ∧ n.ctx = l.ctx ∧ n.team = some k ∧ n.parent = none ∧ n.width = 8 * 2 ^ (l.r.wcode % 4) ∧
  n.vregs = l.r.vregs ∧ n.ped = { mode := l.mode, root := true, devl := !l.host, lid := l.lid,
                                   levels := l.base ++ [(BitVec.ofNat 32 t, 0), (BitVec.ofNat 32 i, 0), (0, 0)] } ∧
  n.gangId = BitVec.ofNat 32 i ∧ n.teamId = BitVec.ofNat 32 t ∧ n.seed = l.seed ∧ n.prio = l.r.prio ∧
  n.tvec = l.r.tvec &&& 0x01FFFFFFFFFFFFFC ∧ n.stat = 0 ∧ n.statarm = 0 ∧ n.q = 0 ∧ n.trap = none ∧ n.exited = false ∧
  n.s2 0 = l.r.args ∧ (∀ j ≥ 2, n.s j = 0) ∧ n.live = BitVec.ofNat 64 (2 ^ n.width - 1) ∧
  n.fibres = List.replicate n.width { regs := List.replicate l.r.vregs 0, wb := 0, p := 0, drw := 0, bad := [] } ∧
  n.batches = [{ memb := n.live, pc := l.r.text + l.r.entry.setWidth 64, st := .ready, passed := 0, cap := [], next := 0, polled := false }]

/-- A team as it is placed: it holds its granules and the lowest free team slot of each core (R194), on c cores
from a first one, and no tile, record or phase yet. -/
def rootTeam (s : State) (l : Launch) (k first c : Nat) : Team :=
  { tkey := k, lkey := l.lkey, teamId := BitVec.ofNat 32 l.nextTeam, cores := (List.range c).map (first + ·),
    tslots := (List.range c).map fun i => s.freeTslot (first + i), granules := l.r.tiles, phase := 0, broken := false, tiles := [], evq := [] }

/-- A candidate that a launch may use now: no core of it is closed by a launch ahead (R303), and its cores have room
(R304, R305). -/
def usable (s : State) (l : Launch) (c k : Nat) : Prop :=
  (∀ i < c, (k + i) ∉ s.closed l) ∧ (s.placesOn (8 * 2 ^ (l.r.wcode % 4)) l.r.vregs l.r.gangs l.r.tiles c k).isSome = true

/-- A launch has left the device (R295, R309): its issuer's frame has one child less, which leaves it the flags of the
results. -/
def leaves_ (s t : State) (l : Launch) (inv : Flags) : Prop :=
  t.launches = s.launches.filter (·.lkey != l.lkey) ∧ t.mem = s.mem ∧
  (l.issuer = none → t.gangs = s.gangs) ∧
  (∀ k, l.issuer = some k → t.gangs = s.gangs.map fun g => if g.gid == k then
    { g with outstanding := g.outstanding - 1, finals := g.finals ++ [{ rank := 0, views := [], stat := inv }] } else g)

end Sys2Proof.Claims

/-- R303 to R307, R309, R362: a queued launch whose predecessors have completed and whose counter has reached its
target starts, and one whose counter cannot be read will complete with STATUS 2. A team goes to the first candidate
that is open and has room; its root gangs stand on its cores in turn, on the partitions that R304 picks. A launch
that is done writes its results, adds 1 to its counter, writes its record and leaves the device, or posts the record
first. Logs 41, 42 and 89 say what the rules leave to the model here. -/
def Obligations.LaunchEvents : Prop :=
  (∀ (s : State) (l : Launch), s.launch? l.lkey = some l → l.st = .queued → s.running l.ctx = true →
    let first := ∀ k ∈ s.launches, k.host = true → k.ctx = l.ctx → k.r.queue = l.r.queue → l.lkey ≤ k.lkey
    let ag := s.ownAgent l.lkey 0
    let starts := fun t : State => exec (.launchStart l.lkey) s = .next ((t.dropText l).modLaunch l.lkey fun k => { k with st := .started })
    (l.host = true → ¬first → exec (.launchStart l.lkey) s = .next s) ∧
    (l.host = false ∨ first →
      (l.r.depaddr = 0 → starts s) ∧
      (l.r.depaddr ≠ 0 → ∀ x t, s.checkVa ag l.r.depaddr false (fun t => isHbm t.pa && !t.lattice) = (.ok x, t) →
        let m := t.locRd 0 3 x 8
        m.1.2 = none → if l.r.depval.toNat ≤ m.1.1.toNat then starts m.2 else exec (.launchStart l.lkey) s = .next m.2) ∧
      (l.r.depaddr ≠ 0 → ∀ t, s.checkVa ag l.r.depaddr false (fun t => isHbm t.pa && !t.lattice) = (.error .page, t) →
        exec (.launchStart l.lkey) s = .next (t.modLaunch l.lkey fun k =>
          { k with st := .started, nextTeam := k.r.nteams.toNat, reds := [], trapped := true })))) ∧
  (∀ (s : State) (l : Launch) (c : Nat), s.launch? l.lkey = some l → l.st = .started → l.nextTeam < l.r.nteams.toNat →
    s.running l.ctx = true → s.restoring l.ctx = false → l.r.spread = some c →
    ((∀ k ∈ l.tries c, ¬usable s l c k) → exec (.teamPlacement l.lkey) s = .next s) ∧
    (∀ before k after, l.tries c = before ++ k :: after → (∀ j ∈ before, ¬usable s l c j) → usable s l c k →
      ∃ t new places, exec (.teamPlacement l.lkey) s = .next t ∧
        s.placesOn (8 * 2 ^ (l.r.wcode % 4)) l.r.vregs l.r.gangs l.r.tiles c k = some places ∧
        t.teams = s.teams ++ [rootTeam s l s.fresh k c] ∧
        t.gangs = s.gangs ++ new ∧ new.length = l.r.gangs ∧ t.mem = s.mem ∧
        (∀ i n, new[i]? = some n → rootGang l s.fresh l.nextTeam i n ∧ n.core = k + i % c ∧
          n.part = (places.getD (i % c) []).getD (i / c) 0) ∧
        ∃ m, t.launch? l.lkey = some m ∧ m.nextTeam = l.nextTeam + 1 ∧ m.cursor = k)) ∧
  (∀ (w v : Nat) (ps : List (Nat × Nat)),
    let ok := fun (p : Nat × Nat) => p.1 < 16 ∧ p.2 + w * v ≤ 65536
    (pickPart w v ps = none → ∀ p ∈ ps, ¬ok p) ∧
    (∀ k, pickPart w v ps = some k → ∃ p, ps[k]? = some p ∧ ok p ∧
      ∀ j q, ps[j]? = some q → ok q → p.1 < q.1 ∨ (p.1 = q.1 ∧ k ≤ j))) ∧
  (∀ (s : State) (l : Launch), s.launch? l.lkey = some l → l.st = .started → l.nextTeam ≥ l.r.nteams.toNat → s.restoring l.ctx = false →
    (∀ g ∈ s.gangs, g.lkey ≠ l.lkey) → (∀ d ∈ s.deques, d.task.lkey ≠ l.lkey) → l.backing = [] →
    (∀ k ∈ s.launches, k.up ≠ some l.lkey) → (∀ m ∈ s.cmds, m.lkey ≠ l.lkey) →
    let ag := s.ownAgent l.lkey 0
    let scope := if l.r.cplscope = 3 then 3 else 2
    ∀ ok inv t, s.writeResults ag l.finals 0 l.reds = (ok, inv, t) → ∀ n u,
      (if l.r.cpladdr = 0 then (.ok 0, t) else t.bumpCounter ag l.r.cpladdr scope false) = (Except.ok n, u) →
      let record := fun good => recordOf (if good then 0 else 2) 0 l.r.nteams.toNat l.lid (loWord n)
      let good := ok && !l.trapped
      ∀ v, (if l.r.crecaddr = 0 then (true, u) else u.ownWrite ag l.r.crecaddr (bytesOf 16 (record good).toNat)) = (true, v) →
        (l.r.ev = false ∨ l.issuerTeam = none → ∃ z, exec (.launchComplete l.lkey) s = .next z ∧ leaves_ v z l inv) ∧
        (∀ k tm, l.r.ev = true → l.issuerTeam = some k → v.team? k = some tm → v.teamLive k = true → tm.evq.length < 64 →
          ∃ z, exec (.launchComplete l.lkey) s = .next z ∧ leaves_ v z l inv ∧
            z.teams = v.teams.map fun x => if x.tkey == k then { x with evq := x.evq ++ [(record good, scope)] } else x) ∧
        (∀ k tm, l.r.ev = true → l.issuerTeam = some k → v.team? k = some tm → v.teamLive k = true → tm.evq.length ≥ 64 →
          exec (.launchComplete l.lkey) s = .next (v.modLaunch l.lkey fun l => { l with st := .posting (record good) inv })))

/-! ## Pedigrees, arenas, sequences and reducers -/

namespace Sys2Proof.Claims

/-- The number of an arena's terms (R364): each takes WID bits, the rank at its level, or all ones for an absent level. -/
def arenaNum (levels : List (Word × Word)) (terms : List (Nat × Nat)) : Nat :=
  terms.foldl (fun x t => x * 2 ^ t.2 +
    if t.1 ≤ levels.length then (levels.getD (t.1 - 1) (0, 0)).1.toNat else 2 ^ t.2 - 1) 0

/-- A term of an arena that fails: the rank at its level does not fit (R364). -/
def termFails (levels : List (Word × Word)) (t : Nat × Nat) : Prop :=
  t.1 ≤ levels.length ∧ (levels.getD (t.1 - 1) (0, 0)).1.toNat ≥ 2 ^ t.2 - 1

end Sys2Proof.Claims

/-- R52, R88, R364, R367 to R369, R311: PEDRD writes the 34 words of the pedigree; PEDCMP compares it with an image in
memory; PALLOC answers the address that an arena's terms and the gang's counter give, and advances the counter, or raises
ALLOC_RANGE with the failing term; OSKIP takes the gang's turn on a sequence without its cursor, and traps where the turn
is taken, complete or still open; PRIO sets the gang's priority, none above its launch's. The pieces of 8 bytes in which
PEDCMP reads are the model's choice (log 60), and so is the lone bit 8 of ORD_NOT_ROOT's TINFO (log 49). -/
def Obligations.PedigreesAndArenas : Prop :=
  (∀ (s : State) (c : Cur) (g : Gang) (a : BitVec 7) (b : BitVec 8), Issuing s c g →
    let sa := 2 * a.toNat
    let levels := g.ped.levels
    (levels.length ≤ 16 → ∃ ws : List Word, ws.length = 34 ∧
      exec (.pedrd b) s = .next (advance c (s.modGang c.gid fun h => h.setSs b.toNat ws)) ∧
      ws.getD 0 0 = BitVec.ofNat 32 (levels.length + 256 * g.ped.mode + (if g.ped.root then 1024 else 0) + (if g.ped.devl then 2048 else 0)) ∧
      ws.getD 1 0 = g.ped.lid ∧
      ∀ k < 16, ws.getD (2 + 2 * k) 0 = (levels.getD k (0, 0)).1 ∧ ws.getD (3 + 2 * k) 0 = (levels.getD k (0, 0)).2) ∧
    (sClean g [(sa, 2)] = true →
      let va := pair (g.s sa) (g.s (sa + 1))
      (va.toNat % 8 ≠ 0 → exec (.pedcmp a) s = .next (traps s c g 0x03 va (lowFix g.width c.memb + 64 * 5))) ∧
      (va.toNat % 8 = 0 → ∀ bs t, s.loadPieces (agentOf s c g) va 17 = (.ok bs, t) →
        let w := fun (off : Nat) => BitVec.ofNat 32 (numOf ((bs.drop off).take 4))
        let h := (w 0).toNat
        let image := (List.range (h % 32)).map fun k => (w (8 + 8 * k), w (12 + 8 * k))
        let malformed := h % 32 = 0 ∨ h % 32 > 16 ∨ h / 32 % 8 ≠ 0 ∨ h / 4096 ≠ 0
        exec (.pedcmp a) s = .next (advance c (t.modGang c.gid fun h => h.setS (sa + 2) (BitVec.ofNat 32
          (if malformed then 4 else if levels = image then 0 else if precedes levels image then 1
            else if precedes image levels then 2 else 3)))))) ∧
    (sClean g [(sa, 1)] = true →
      let w := (g.s sa).toNat
      let n := (g.arena.getD w 0).toNat
      ((w ≥ 16 ∨ ∀ l, s.launch? g.lkey = some l → l.arenas.length ≤ w) → exec (.palloc a) s = .next (traps s c g 0x01 0 c.main.toNat)) ∧
      (w < 16 → ∀ l x, s.launch? g.lkey = some l → l.arenas[w]? = some x →
        let addr := x.base.toNat + (arenaNum levels x.terms * 2 ^ x.cbits + n) * 2 ^ x.slog2
        (∀ before t after, x.terms = before ++ t :: after → (∀ u ∈ before, ¬termFails levels u) → termFails levels t →
          exec (.palloc a) s = .next (traps s c g 0x16 0 (w + 16 * before.length))) ∧
        ((∀ u ∈ x.terms, ¬termFails levels u) → n ≥ 2 ^ x.cbits ∨ addr + 2 ^ x.slog2 > 2 ^ 57 →
          exec (.palloc a) s = .next (traps s c g 0x16 0 (w + 16 * 4))) ∧
        ((∀ u ∈ x.terms, ¬termFails levels u) → n < 2 ^ x.cbits → addr + 2 ^ x.slog2 ≤ 2 ^ 57 →
          exec (.palloc a) s = .next (advance c (s.modGang c.gid fun h =>
            { (h.setS sa (BitVec.ofNat 32 addr)).setS (sa + 1) (BitVec.ofNat 32 (addr / 2 ^ 32)) with
              arena := h.arena.set w (g.arena.getD w 0 + 1) }))))) ∧
    (sClean g [(b.toNat, 1)] = true →
      let w := g.s b.toNat
      (∀ l, s.launch? g.lkey = some l →
        exec (.prio b) s = .next (advance c (s.modGang c.gid fun h => { h with prio := max (w.toNat % 4) l.r.prio }))) ∧
      (g.live &&& c.memb = g.live →
        (w.toNat ≥ 64 → exec (.oskip b) s = .next (traps s c g 0x01 0 c.main.toNat)) ∧
        (w.toNat < 64 → g.ped.root = false → exec (.oskip b) s = .next (traps s c g 0x17 0 0)) ∧
        let taken := g.turns.getLsbD w.toNat = true ∨ ∃ pc, g.openTurn = some (w.toNat, pc)
        (w.toNat < 64 → g.ped.root = true → taken → exec (.oskip b) s = .next (traps s c g 0x17 0 256)) ∧
        (w.toNat < 64 → g.ped.root = true → ¬taken → ∃ t h,
          exec (.oskip b) s = .next (advance c t) ∧ t.gang? c.gid = some h ∧ t.mem = s.mem ∧
          h = { g with turns := g.turns ||| BitVec.ofNat 64 (2 ^ w.toNat) })))) ∧
  (∀ (x y : List (Word × Word)), precedes x x = false ∧ (precedes x y = true → precedes y x = false) ∧
    (∀ a b, precedes ((a :: x)) (a :: y) = precedes x y ∧ (x ≠ [] → precedes [] x = true) ∧ precedes x [] = false ∧
      (a.1.toNat < b.1.toNat → precedes (a :: x) (b :: y) = (decide (x = []) || decide (b.2.toNat > a.1.toNat)))))

namespace Sys2Proof.Claims

/-- The fibres of a list contribute to the elements of a view one after another (R46, R359): the new elements and the
flags. ix gives a fibre's element, x its value. -/
def contribute (t : Nat) (ix : Nat → Nat) (x : Nat → DWord) (l : List Nat) (es : List VElem) : List VElem × Flags :=
  l.foldl (fun r i =>
    let z := combElem t (r.1.getD (ix i) (identElem t)) (contribElem t (x i))
    (r.1.set (ix i) z.1, r.2 ||| z.2)) (es, 0)

/-- The stores of a list of elements, all checked before the first is made (R202, R360). -/
def storesAll (ag : Agent) (w : Nat) : DWord → List VElem → State → Option (List (Tr × VElem) × State)
  | _, [], s => some ([], s)
  | va, x :: xs, s =>
    match s.storeCheck ag va w (fun _ => true) with
    | (.error _, _) => none
    | (.ok t, s) => (storesAll ag w (va + BitVec.ofNat 64 w) xs s).map fun r => ((t, x) :: r.1, r.2)

/-- A view of a reducer: its elements, those of a spilled one in memory, or the identity before the first contribution
(R46, R358, R361). -/
def viewOf (s : State) (g : Gang) (n : Nat) (r : Reducer) : List VElem :=
  match g.views.getD n none with
  | some v => if v.spill then s.viewElems g.lkey r v else v.elems
  | none => List.replicate (r.count + 1) (identElem r.type)

/-- Every gang has the same views in both states; one that is spilled in neither keeps its elements (R361). -/
def sameViews (s t : State) : Prop :=
  ∀ k g, s.gang? k = some g → ∃ h, t.gang? k = some h ∧
    h.views.map (fun v => v.map (·.bad)) = g.views.map (fun v => v.map (·.bad)) ∧
    ∀ i v w, g.views.getD i none = some v → h.views.getD i none = some w → v.spill = false → w.spill = false → w.elems = v.elems

end Sys2Proof.Claims

/-- R46, R358 to R361: RUPD folds the contributions of its executing fibres, in ascending FIX, into the gang's view
of the reducer, which first takes storage, the identity in every element; TILE_NOSPACE when there is none. RVIEW
reads an element, or stores every element in ascending order once all the stores have passed their checks. A spilled
view comes back to the view store where it can. VIEW_SPILL moves a view to the backing area or back, and changes no
value of a view that stays in a store; which views make room is the H40's choice. Nothing moves while no view is
spilled. Where spilled views and XSUM32 elements lie is logs 39 and 77, which views move log 78, and when storage is
taken log 61. -/
def Obligations.Reducers : Prop :=
  (∀ (s : State) (c : Cur) (g : Gang) (gd : BitVec 4) (n a b : BitVec 6), Issuing s c g →
    ((s.redsOf g.lkey).length ≤ n.toNat → exec (.rupd gd n a b) s = .next (traps s c g 0x01 0 c.main.toNat)) ∧
    (∀ r, (s.redsOf g.lkey)[n.toNat]? = some r →
      let w := if r.type = 1 then 2 else 1
      let act := actGd c g gd
      (r.type = 1 → a.toNat % 2 = 1 → exec (.rupd gd n a b) s = .next (traps s c g 0x01 0 c.main.toNat)) ∧
      (r.type = 2 → g.live &&& c.memb ≠ g.live → exec (.rupd gd n a b) s = .next (waits s c 11 [7])) ∧
      ((r.type = 1 → a.toNat % 2 = 0) → (r.type = 2 → g.live &&& c.memb = g.live) →
        (act = [] → exec (.rupd gd n a b) s = .next (advance c s)) ∧
        (act ≠ [] → s.giveViews c.gid [(n.toNat, r)] = none → exec (.rupd gd n a b) s = .next (traps s c g 0x11 0 256)) ∧
        (act ≠ [] → ∀ t h v, s.giveViews c.gid [(n.toNat, r)] = some t → t.gang? c.gid = some h →
          h.views.getD n.toNat none = some v → v.bad = [] →
          (∀ i ∈ act, readable (g.fibre i) a.toNat w = true ∧ bReadable c (g.fibre i) b.toNat 1 = true ∧
            (bVal c (g.fibre i) b.toNat).toNat ≤ r.count) →
          let z := contribute r.type (fun i => (bVal c (g.fibre i) b.toNat).toNat)
            (fun i => if r.type = 1 then (g.fibre i).v2 a.toNat else ((g.fibre i).v a.toNat).setWidth 64) act (viewOf t h n.toNat r)
          exec (.rupd gd n a b) s = .next (advance c (t.modGang c.gid fun x =>
            { x with views := x.views.set n.toNat (some { v with elems := z.1 }), stat := x.stat ||| z.2 }).storeViews))))) ∧
  (∀ s : State, (∀ e ∈ s.stored, e.2.2.spill = false) → s.storeViews = s) ∧
  (∀ (s : State) (c : Cur) (g : Gang) (a : BitVec 8), Issuing s c g → sClean g [(a.toNat, 1)] = true →
    let n := (g.s a.toNat).toNat
    (n ≥ 64 ∨ (s.redsOf g.lkey).length ≤ n → ∀ m, exec (.rview a m) s = .next (traps s c g 0x01 0 c.main.toNat)) ∧
    (n < 64 → ∀ r, (s.redsOf g.lkey)[n]? = some r → (∀ v, g.views.getD n none = some v → v.bad = []) →
      let u := s.useView g n r
      ((∀ v, g.views.getD n none = some v → v.spill = false) → u = s) ∧ ∀ h, u.gang? c.gid = some h →
      let e := (g.s (a.toNat + 1)).toNat
      let es := viewOf u h n r
      let x := elemOut (es.getD e (identElem r.type))
      (r.type = 1 → a.toNat % 2 = 1 → exec (.rview a 0) s = .next (traps s c g 0x01 0 c.main.toNat)) ∧
      ((r.type = 1 → a.toNat % 2 = 0) → sClean g [(a.toNat + 1, 1)] = true →
        (e > r.count → exec (.rview a 0) s = .next (traps s c g 0x02 0 1)) ∧
        (e ≤ r.count → exec (.rview a 0) s = .next (advance c (u.modGang c.gid fun h =>
          if r.type = 1 then (h.setS (a.toNat + 2) (x.setWidth 32)).setS (a.toNat + 3) ((x >>> 32).setWidth 32)
          else h.setS (a.toNat + 2) (x.setWidth 32))))) ∧
      (sClean g [(a.toNat + 2, 2)] = true → ∀ ps t,
        let w := if r.type = 1 then 8 else 4
        storesAll (agentOf s c g) w (pair (g.s (a.toNat + 2)) (g.s (a.toNat + 3))) es s = some (ps, t) →
        exec (.rview a 1) s = .next (advance c (ps.foldl
          (fun t p => t.store g.core p.1 (bytesOf w (elemOut p.2).toNat) false) ((t.useView g n r).payOwed c.gid)))))) ∧
  (∀ (s : State) (g : Gang) (n : Nat) (v : View) (r : Reducer) (out : Bool), s.gang? g.gid = some g →
    g.views.getD n none = some v → (s.redsOf g.lkey)[n]? = some r →
    (v.spill = out → exec (.viewSpill g.gid n out) s = .next s) ∧
    (v.spill = false → out = true → s.backingRoom g.lkey r.room = true →
      ∃ t h w, exec (.viewSpill g.gid n out) s = .next t ∧ sameViews s t ∧ t.gang? g.gid = some h ∧
        h.views.getD n none = some w ∧ w.spill = true) ∧
    (v.spill = true → out = false → (s.modGang g.gid fun h => h.setView n (some { v with spill := false, core := g.core })).viewUse
        (inStore g.core) ≤ 2 ^ 18 →
      ∃ t h w, exec (.viewSpill g.gid n out) s = .next t ∧ sameViews s t ∧ t.mem = s.mem ∧ t.gang? g.gid = some h ∧
        h.views.getD n none = some w ∧ w.spill = false ∧ w.core = g.core ∧ w.elems = s.viewElems g.lkey r v)) ∧
  (∀ (a b : Word) (p q : DWord),
    let of := fun (t : Nat) => (combElem t (.w (a.setWidth 64)) (.w (b.setWidth 64))).1
    let w := fun (r : Word) => VElem.w (r.setWidth 64)
    let key := fun (x : Word) => if x.msb then ~~~x else x ^^^ 0x80000000
    of 0 = w (a + b) ∧ (combElem 1 (.w p) (.w q)).1 = .w (p + q) ∧ of 2 = w (fadd32 a b).1 ∧
    of 4 = w (if a.toInt ≤ b.toInt then a else b) ∧ of 5 = w (if a.toInt ≤ b.toInt then b else a) ∧
    of 6 = w (if key a ≤ key b then a else b) ∧ of 7 = w (if key a ≤ key b then b else a) ∧ of 8 = w (a &&& b) ∧ of 9 = w (a ||| b)) ∧
  [0, 1, 2, 4, 5, 6, 7, 8, 9].map identElem =
    [.w 0, .w 0, .w 0x80000000, .w 0x7FFFFFFF, .w 0x80000000, .w 0x7FFFFFFF, .w 0xFFFFFFFF, .w 0xFFFFFFFF, .w 0]

/-! ## Contexts and the tables of translation and races -/

namespace Sys2Proof.Claims

/-- CTXSV and CTXLD end: IMGUSED where it is given, then STATUS, stored to the descriptor as plain stores that the race
filter does not see (R409); the batch goes on. -/
def ctxEnds (s : State) (c : Cur) (g : Gang) (va : DWord) (status : Nat) (used : Option Nat) : State :=
  let ag := { agentOf s c g with ped := { g.ped with mode := 2 } }
  let t := match used with | some n => (s.storeVa ag (va + 24) (bytesOf 8 n) false).2 | none => s
  advance c (t.storeVa ag (va + 4) (bytesOf 4 status) false).2

/-- A gang of a saved context as it is placed again (R412): everything as it was saved but its core, its partition, its
wait for the replicas of its new die, its selection state, and the places of its views. -/
def placedAgain (g n : Gang) : Prop :=
  n = { g with core := n.core, part := n.part, behind := n.behind, sched := n.sched, views := n.views, finals := n.finals }

/-- A gang without its views and without its wait for a replica. -/
def bare (g : Gang) : Gang := { g with views := [], finals := [], behind := [] }

/-- No batch of a list of gangs waits. -/
def noneWaits (gs : List Gang) : Prop := ∀ g ∈ gs, ∀ b ∈ g.batches, b.waits = false

/-- Whether a ring and a lattice page of a submission area lie in device HBM (R317). -/
def areaFits (ring lat : Nat) : Prop :=
  isHbm ring = true ∧ ring % 65536 = 0 ∧ ring % 2 ^ 48 + 0x40000 ≤ latBase ∧ lat % 65536 = 0 ∧ latBase + lat + 65536 ≤ 0x1800000000

end Sys2Proof.Claims

/-- R317, R319, R398, R408 to R412: CONTEXT_CREATE adds a running context of a 16-bit number, whose submission cells
hold 0 in every replica, and reports the place of its submission area. CTXSV and CTXLD are supervisor words on a
descriptor of 64 bytes, which answer a status: 4 for a bad field, 2 for a context that cannot be saved or loaded, 1
for an image larger than its area, 3 for an image that is no image, and 0. After a save the context has left the
device and does not run; after a load it runs, and its teams and gangs are placed one after another, each gang with
every register as it was saved; a gang goes on once its die's replica holds what its old die's held (R216). What no
record of an image holds is the model's choice (log 56). Logs 14, 57, 78 and 88 say what else the rules leave to the
model here. -/
def Obligations.ContextSwitch : Prop :=
  (∀ (s : State) (num : Nat) (sup : Bool) (root seed : DWord) (ring lat : Nat),
    (s.up = false ∨ (s.ctx? num).isSome ∨ 65536 ≤ num ∨ ¬areaFits ring lat →
      exec (.contextCreate num sup root seed ring lat) s = .next s) ∧
    (s.up = true → s.ctx? num = none → num < 65536 → areaFits ring lat → ∃ t x, exec (.contextCreate num sup root seed ring lat) s = .next t ∧
      t.contexts = s.contexts ++ [x] ∧ x.num = num ∧ x.supervisor = sup ∧ x.ptroot = root ∧ x.running = true ∧ x.ring = ring ∧
      x.lat = lat ∧ x.lidCtr = 1 ∧ x.front = { k := 0, seed := seed, gid := none } ∧ t.gangs = s.gangs ∧
      t.out = s.out ++ [.submission num ring lat] ∧
      (∀ d < 8, ∀ k < 65536, Memory.read t.mem (latPa d lat + k) = 0) ∧
      ∀ a, (∀ d < 8, ¬(latPa d lat ≤ a ∧ a < latPa d lat + 65536)) → Memory.read t.mem a = Memory.read s.mem a)) ∧
  (∀ (s : State) (c : Cur) (g : Gang) (sb : BitVec 7), Issuing s c g →
    let va := pair (g.s (2 * sb.toNat)) (g.s (2 * sb.toNat + 1))
    let ag := { agentOf s c g with ped := { g.ped with mode := 2 } }
    (s.sup g = false → ∀ i ∈ ([.ctxsv sb, .ctxld sb] : List Instr), exec i s = .next (traps s c g 0x05 0 c.main.toNat)) ∧
    (s.sup g = true → sClean g [(2 * sb.toNat, 2)] = true →
      (va.toNat % 64 ≠ 0 → ∀ i ∈ ([.ctxsv sb, .ctxld sb] : List Instr),
        exec i s = .next (traps s c g 0x03 va (lowFix g.width c.memb + 64 * 5))) ∧
      (va.toNat % 64 = 0 → ∀ bs t x u, s.loadBlock ag va 4 = (.ok bs, t) → t.storeCheck ag va 16 (fun _ => true) = (.ok x, u) →
        let word := fun (off n : Nat) => numOf ((bs.drop off).take n)
        let num := word 0 2
        let base := BitVec.ofNat 64 (word 8 8)
        let cap := word 16 8
        let bad := word 2 2 ≠ 0 ∨ word 32 32 ≠ 0 ∨ word 8 8 % 65536 ≠ 0
        bs.length = 64 →
        (bad → ∀ i ∈ ([.ctxsv sb, .ctxld sb] : List Instr), exec i s = .next (ctxEnds u c g va 4 none)) ∧
        (¬bad → (∀ y, u.ctx? num = some y → y.running = false ∨ num = g.ctx) → exec (.ctxsv sb) s = .next (ctxEnds u c g va 2 none)) ∧
        (¬bad → ∀ y, u.ctx? num = some y → y.running = true → num ≠ g.ctx →
          let need := ((u.gather num).content num).size
          let q := u.quiesce num
          let k := q.content num
          (need > cap → exec (.ctxsv sb) s = .next (ctxEnds u c g va 1 (some need))) ∧
          (need ≤ cap → ∀ ps v, q.imagePages (agentOf q c g) base true (pagesOf k.size) = (.ok ps, v) →
            let w := v.putImage ps (k.bytes num y.ptroot)
            exec (.ctxsv sb) s = .next (ctxEnds (w.unload num) c g va 0 (some need)) ∧
            (∀ z, w.ctx? num = some z → (w.unload num).ctx? num = some { z with running := false }) ∧
            ∀ h ∈ (w.unload num).gangs, ∀ l ∈ w.launches, l.ctx = num → l.r.queue < 16 → h.lkey ≠ l.lkey)) ∧
        (¬bad → (∀ y, u.ctx? num = some y → y.running = true) → exec (.ctxld sb) s = .next (ctxEnds u c g va 2 none)) ∧
        (¬bad → ∀ y, u.ctx? num = some y → y.running = false → ∀ p v,
          u.imagePages (agentOf u c g) base false [0] = (.ok [p], v) →
          let head := v.homeRd p 256
          let used := numOf ((head.drop 8).take 8)
          (numOf ((head.drop 4).take 2) ≠ num → exec (.ctxld sb) s = .next (ctxEnds v c g va 2 none)) ∧
          (numOf ((head.drop 4).take 2) = num → used > cap ∨ used < 512 → exec (.ctxld sb) s = .next (ctxEnds v c g va 3 none)) ∧
          (numOf ((head.drop 4).take 2) = num → used ≤ cap → 512 ≤ used → ∀ ps w,
            v.imagePages (agentOf u c g) base false (pagesOf used) = (.ok ps, w) →
            let image := (ps.flatMap fun p => w.homeRd p 65536).take used
            (imageOk image used = false → exec (.ctxld sb) s = .next (ctxEnds w c g va 3 none)) ∧
            (imageOk image used = true →
              let back := Reader.all { s := w, num := num, x := w.kept num, bs := image, links := imageLinks image used }
              let r := w.reload back used (BitVec.ofNat 64 (numOf ((image.drop 16).take 8)))
              exec (.ctxld sb) s = .next (ctxEnds r c g va 0 (some used)) ∧
              (∀ k, w.ctx? num = some k → (r.ctx? num).map (·.running) = some true) ∧ r.restoring num = true)))))) ∧
  (∀ (s : State) (num : Nat) (x : SavedCtx), (s.saved.find? fun x => x.num == num && x.pending) = some x →
    (∀ g ∈ s.gangs, g.ctx = num → g.behind = []) →
    let arrives := fun (r : Out) => exec (.contextRestorePlacement num) s = r ∧
      (noneWaits x.gangs → (∀ g ∈ x.gangs, ∀ h ∈ s.gangs, h.gid ≠ g.gid) → ∃ (t : State) (new : List Gang), r = .next t ∧
        t.gangs.map bare = s.gangs.map bare ++ new.map bare ∧ ∀ n ∈ new, ∃ g ∈ x.gangs, placedAgain g n)
    (∀ r, s.restoreTeam x none = some r → arrives r) ∧
    (s.restoreTeam x none = none → ∀ r, s.restoreGang x none = some r → arrives r) ∧
    (s.restoreTeam x none = none → s.restoreGang x none = none → x.teams ≠ [] ∨ x.gangs ≠ [] →
      exec (.contextRestorePlacement num) s = .next s) ∧
    (x.teams = [] → x.gangs = [] → (∀ d ∈ x.deques, d.task.pend = false) → (∀ d ∈ s.pendings, s.ctxOf d.2.lkey ≠ num) →
      ∃ (t : State) (n : Nat) (new : List DequeEnt), exec (.contextRestorePlacement num) s = .next t ∧ t.gangs = s.gangs ∧ t.deques = s.deques ++ new ∧
        new.map (·.task) = (x.deques.take n).map (·.task) ∧ n ≤ x.deques.length ∧ (t.restoring num = false ↔ n = x.deques.length))) ∧
  (∀ (s : State) (num : Nat), s.restoring num = false → (s.gangs.map (·.gid)).Nodup →
    noneWaits (s.gangs.filter (·.ctx == num)) → exec (.contextRestorePlacement num) s =
      .next { s with gangs := s.gangs.map fun g => if g.ctx = num ∧ s.caughtUp g = true then { g with behind := [] } else g })

namespace Sys2Proof.Claims

/-- An entry of the race filter against which an access of a gang's strand conflicts (R370 to R372, R375): it is of the
same root launch and sector, shares a byte, is not a read beside a read, and its strand neither has the same pedigree nor
precedes. -/
def racesWith (s : State) (g : Gang) (pa : Nat) (mask : Half) (rd : Bool) (e : FEntry) : Prop :=
  let root := s.rootLaunch g.lkey
  e.root = root ∧ e.sect = pa / 16 ∧ e.bmask &&& mask ≠ 0 ∧ ¬(rd = true ∧ e.rd = true) ∧
    s.strandPed root e.sid ≠ g.ped.levels ∧ precedes (s.strandPed root e.sid) g.ped.levels = false

/-- The entries that a walk reads, down to the first that is not valid, lie below a limit. -/
def tablesBelow (s : State) (lim va : Nat) : Nat → Nat → Prop
  | 0, t => t + 8 * levelIdx 0 va + 8 ≤ lim
  | lv + 1, t =>
    let a := t + 8 * levelIdx (lv + 1) va
    a + 8 ≤ lim ∧ (bit (s.pteAt a) 0 = true → tablesBelow s lim va lv ((s.pteAt a).toNat / 4096 * 4096))

/-- The levels of the strands that are live or still to come in a root launch (R373): its gangs, those of a saved context
too, the tasks that wait in a deque, a backing store or an inline record, and the next team of each launch. -/
def liveIn (s : State) (root : Nat) (z : List (Word × Word)) : Prop :=
  let mine := fun k => s.rootLaunch k = root
  let gangs := s.gangs ++ s.saved.flatMap (·.gangs)
  (∃ g ∈ gangs, mine g.lkey ∧ z = g.ped.levels) ∨
  (∃ e : TaskEntry, mine e.lkey ∧ z = e.base ++ [(e.rank0, e.flr), (0, 0)] ∧
    ((∃ d ∈ s.deques ++ s.saved.flatMap (·.deques), d.task = e) ∨ (∃ l ∈ s.launches, e ∈ l.backing) ∨
      ∃ g ∈ gangs, g.inlineFan = some e)) ∨
  ∃ l ∈ s.launches, l.root = root ∧ l.nextTeam < l.r.nteams.toNat ∧ z = l.base ++ [(BitVec.ofNat 32 l.nextTeam, 0), (0, 0), (0, 0)]

end Sys2Proof.Claims

/-- R181, R365, R370 to R376, R381 to R384: each of these events completes in every state and changes no gang.
PAGE_WALK gives a core the translation of an address; MIGRATE_SERVICE clears OWN in the page's PTE and drops its
translations in every core; ARENA_ZERO_FILL maps an unmapped page of an arena of the context, device-owned, with PFMT
0 and zeros. RACE_CHECK logs a conflict of the access, and otherwise leaves its bytes in an entry of its strand,
which takes them from the writers that precede it; FILTER_SPILL moves entries and changes none. A unit whose new
entries have no room at a home slice drops those that may be dropped, and waits with WK 12 when that is not enough;
only entries of ended strands that precede every gang, every waiting task and every team still to be placed of the
launch's tree are dropped. The act says which slices have none (log 24). The page that firmware takes is log 20, and
the TLB log 23. -/
def Obligations.TranslationAndFilterEvents : Prop :=
  (∀ (s : State) (num core gid pa sect : Nat) (va : DWord) (mask : Half) (rd : Bool),
    ∀ i ∈ ([.pageWalk num core va, .migrateService num va, .arenaZeroFill num va, .raceCheck gid pa mask rd, .filterSpill sect] :
      List Instr), ∃ t, exec i s = .next t ∧ t.gangs = s.gangs) ∧
  (∀ (s : State) (num core : Nat) (va : DWord),
    (∀ l, s.tlbFind core num va.toNat = some l → exec (.pageWalk num core va) s = .next s) ∧
    (walk s va.toNat 4 (s.rootOf num) = none → exec (.pageWalk num core va) s = .next s) ∧
    (s.tlbFind core num va.toNat = none → ∀ l, walk s va.toNat 4 (s.rootOf num) = some l → ∃ t,
      exec (.pageWalk num core va) s = .next t ∧ t.tlbFind core num va.toNat = some { l with addr := 0 } ∧ t = { s with tlb := t.tlb }) ∧
    (∀ l, walk s va.toNat 4 (s.rootOf num) = some l → (l.base ≤ va.toNat ∧ va.toNat < l.base + l.size) ∧
      (leafOk 0 l.pte = true ∨ ∃ lv, 1 ≤ lv ∧ lv ≤ 2 ∧ leafOk lv l.pte = true))) ∧
  (∀ (s : State) (num : Nat) (va : DWord) (l : Leaf), walk s va.toNat 4 (s.rootOf num) = some l →
    (bit l.pte 4 = false → exec (.migrateService num va) s = .next s) ∧
    (bit l.pte 4 = true → ∃ t, exec (.migrateService num va) s = .next t ∧ t.gangs = s.gangs ∧
      (Config.canMigrate (l.paOf 0 va.toNat) = false → t = s) ∧
      (Config.canMigrate (l.paOf 0 va.toNat) = true → (∀ core, t.tlbFind core num va.toNat = none) ∧
        (Safety.MemOk s → s.snap = none → ∀ a, Memory.read t.mem a = if l.addr ≤ a ∧ a < l.addr + 8 then
          (bytesOf 8 (l.pte &&& ~~~(16 : DWord)).toNat).getD (a - l.addr) 0 else Memory.read s.mem a)))) ∧
  (∀ (s : State) (num : Nat) (va : DWord),
    ((walk s va.toNat 4 (s.rootOf num)).isSome → exec (.arenaZeroFill num va) s = .next s) ∧
    let inRange := ∃ l ∈ s.launches, l.ctx = num ∧ ∃ a ∈ l.arenas, a.base.toNat ≤ va.toNat ∧
      va.toNat < a.base.toNat + 2 ^ ((a.terms.map (·.2)).sum + a.cbits + a.slog2)
    (¬inRange → exec (.arenaZeroFill num va) s = .next s) ∧
    (walk s va.toNat 4 (s.rootOf num) = none → inRange →
      (s.zeroFill num va.toNat = none → exec (.arenaZeroFill num va) s = .next s) ∧
      ∀ t, s.zeroFill num va.toNat = some t → exec (.arenaZeroFill num va) s = .next t ∧ t.gangs = s.gangs ∧ s.freePage < t.freePage ∧
        (Memory.wf s.mem = true → s.snap = none → isHbm s.freePage = true → s.freePage % 65536 = 0 → s.rootOf num % 8 = 0 →
          tablesBelow s s.freePage va.toNat 4 (s.rootOf num) →
          ∃ l, walk t va.toNat 4 (t.rootOf num) = some l ∧ l.base = va.toNat / 65536 * 65536 ∧ l.size = 65536 ∧
            l.phys = s.freePage ∧ bit l.pte 4 = false ∧ ptePfmt l.pte = 0 ∧
            ∀ k < 65536, Memory.read t.mem (l.phys + k) = 0))) ∧
  (∀ (s : State) (g : Gang) (pa : Nat) (mask : Half) (rd : Bool), s.gang? g.gid = some g →
    (isHbm pa = false ∨ isLat pa = true ∨ mask = 0 ∨ g.ped.mode ≥ 2 ∨ (rd = true ∧ g.ped.mode ≠ 1) →
      exec (.raceCheck g.gid pa mask rd) s = .next s) ∧
    (isHbm pa = true → isLat pa = false → mask ≠ 0 → g.ped.mode < 2 → (rd = true → g.ped.mode = 1) →
      ((∃ e ∈ s.filter, racesWith s g pa mask rd e) → (∀ c, s.cur = some c → c.raced = false) →
        ∃ t, exec (.raceCheck g.gid pa mask rd) s = .next t ∧
        t.gangs = s.gangs ∧ ∀ l, s.launch? g.lkey = some l → l.flogUsed < l.r.flogcap →
          (t.launch? g.lkey).map (·.flogUsed) = some (l.flogUsed + 1)) ∧
      ((∀ e ∈ s.filter, ¬racesWith s g pa mask rd e) → ∃ t, exec (.raceCheck g.gid pa mask rd) s = .next t ∧ t.gangs = s.gangs ∧
        ((∀ e ∈ s.filter, e.spilled = none) → t.mem = s.mem) ∧ ∃ e ∈ t.filter, e.root = s.rootLaunch g.lkey ∧ e.sect = pa / 16 ∧ e.rd = rd ∧ e.bmask &&& mask = mask ∧
          (∃ x ∈ t.strands, x.root = e.root ∧ x.sid = e.sid ∧ x.ped = g.ped) ∧
          ∀ f ∈ t.filter, f.root = e.root → f.sect = e.sect → f.sid ≠ e.sid → (rd = true → f ∈ s.filter) ∧
            (rd = false → f.rd = false → precedes (s.strandPed e.root f.sid) g.ped.levels = true → f.bmask &&& mask = 0)))) ∧
  (∀ (s : State) (sect : Nat), ∃ t, exec (.filterSpill sect) s = .next t ∧
    t.filter.map (fun e => { e with spilled := none }) = s.filter.map (fun e => { e with spilled := none }) ∧
    (∀ e ∈ s.filter, e.sect ≠ sect ∨ e.spilled ≠ none → e ∈ t.filter)) ∧
  (∀ (c : Cur) (full : List Nat) (s t : State),
    let lacks := fun u : State => ∃ k ∈ full, s.inSlice k < u.inSlice k
    (¬lacks t → State.admitted c full s t = t) ∧
    (lacks t → ¬lacks t.dropEntries → State.admitted c full s t = t.dropEntries) ∧
    (lacks t → lacks t.dropEntries → State.admitted c full s t = (s.modGang c.gid (·.waitBatch c.memb 12 [] c.next)).settle c.gid)) ∧
  (∀ s : State, s.dropEntries = { s with filter := s.dropEntries.filter, strands := s.dropEntries.strands } ∧
    ∀ e ∈ s.filter, (e ∈ s.dropEntries.filter ∨ ((∃ x ∈ s.strands, x.root = e.root ∧ x.sid = e.sid ∧ x.ended = true) ∧
      ∀ z, liveIn s e.root z → precedes (s.strandPed e.root e.sid) z = true)) ∧
      ∀ y ∈ s.dropEntries.filter, y ∈ s.filter)

/-! ## The host, the I/O dies, boot and the management interface -/

namespace Sys2Proof.Claims

/-- An entry of an error log, field by field (R321). -/
def errEntry (pa kind : Nat) (rid : Half) (len : Nat) : BitVec 128 :=
  (0 : BitVec 32) ++ BitVec.ofNat 16 len ++ rid ++ (0 : BitVec 9) ++ BitVec.ofNat 3 kind ++ BitVec.ofNat 52 pa

/-- A write is discarded (R320, R321): the I/O die whose port carried it writes an entry at ERRHEAD, advances it, counts
the discard and signals it on the port; nothing else changes. -/
def discarded (s : State) (port pa kind : Nat) (rid : Half) (len : Nat) : State :=
  { s with
    io := s.io.modify port fun d =>
      { d with log := d.log.set d.errIdx (errEntry pa kind rid len), errIdx := (d.errIdx + 1) % 16,
               errCount := d.errCount + 1, discard := d.discard + 1 }
    out := s.out ++ [.aer port] }

/-- An I/O die whose error log and counts are cleared where bit 0 of a value is set (R321). -/
def clearedDie (v : DWord) (d : IoDie) : IoDie :=
  if bit v 0 then { d with errIdx := 0, errCount := 0, discard := 0, log := List.replicate 16 0 } else d

/-- An I/O die with the fields of half of WIN w written: VALID, PORT and MODULE in the low half, RBASE in the high one
(R321). -/
def lowWin (w : Nat) (v : DWord) (d : IoDie) : IoDie :=
  { d with win := d.win.modify w fun e => ((e >>> 64).setWidth 64 : DWord) ++ (v &&& 0xFFFF001F) }
def highWin (w : Nat) (v : DWord) (d : IoDie) : IoDie :=
  { d with win := d.win.modify w fun e => (v &&& 0xFFF) ++ (e.setWidth 64 : DWord) }

/-- An I/O die changes. -/
def onDie (s : State) (i : Nat) (f : IoDie → IoDie) : State := { s with io := s.io.modify i f }

/-- The bytes stored at an address, and every other byte of memory as before. -/
def storesOnly (s t : State) (pa : Nat) (bs : List Byte) : Prop :=
  ∀ a, Memory.read t.mem a = if pa ≤ a ∧ a < pa + bs.length then bs.getD (a - pa) 0 else Memory.read s.mem a

/-- The front program in force of a context ends, if it is a gang (R319). -/
def frontEnds (s : State) (x : Context) : State :=
  match x.front.gid with
  | none => s
  | some k => s.killGang k

/-- n bytes of memory from an address. -/
def bytesAt (s : State) (pa n : Nat) : List Byte := (List.range n).map fun k => Memory.read s.mem (pa + k)

end Sys2Proof.Claims

/-- R181, R199, R223, R320: a host write of one page of HBM is stored if the page is the host's or lies in a
submission ring; a whole lattice cell is joined into the replica that serves the port and sent to the seven others;
any other write is discarded with kind 0, a part of a cell with kind 1. A host read gives the bytes at home, and on a
lattice page those of the replica of CD0 for port 0 and of CD4 for port 1. How a write is split and logged is log 17,
and that a host join is sent to every die log 18. -/
def Obligations.HostAccess : Prop :=
  ∀ (s : State) (port pa : Nat) (bs : List Byte) (rid : Half), s.up = true →
    (isHbm pa = true → bs ≠ [] → pa % 65536 + bs.length ≤ 65536 →
      (s.latType pa = none →
        let mine := (∃ l, s.pageAt pa = some l ∧ bit l.pte 4 = true) ∨ ∃ c ∈ s.contexts, c.ring ≤ pa ∧ pa < c.ring + 262144
        (mine → ∃ t, exec (.hostWrite port pa bs rid) s = .next t ∧ t.gangs = s.gangs ∧ t.io = s.io ∧
          (Safety.MemOk s → s.snap = none → storesOnly s t pa bs)) ∧
        (¬mine → exec (.hostWrite port pa bs rid) s = .next (discarded s port pa 0 rid bs.length))) ∧
      (∀ pf, s.latType pa = some pf →
        let n := joinBytes pf
        let off := pa % 2 ^ 48 - latBase
        (off % n = 0 → bs.length = n → ∃ t, exec (.hostWrite port pa bs rid) s = .next t ∧ t.gangs = s.gangs ∧ t.io = s.io ∧
          t.latSends = s.latSends ++ (((List.range 8).filter (· != (if port = 0 then 0 else 4))).map fun d =>
            ({ src := if port = 0 then 0 else 4, sect := off / 16, pfmt := pf, dst := d, gang := none } : LatSend)) ∧
          (Safety.MemOk s → s.snap = none →
            let a := latPa (if port = 0 then 0 else 4) off
            storesOnly s t a (bytesOf n (cellJoin pf (BitVec.ofNat 64 (numOf (bytesAt s a n))) (BitVec.ofNat 64 (numOf bs))).toNat))) ∧
        (bs.length < n → off % n + bs.length ≤ n →
          exec (.hostWrite port pa bs rid) s = .next (discarded s port pa 1 rid bs.length)))) ∧
    (∀ n, isHbm pa = true → exec (.hostRead port pa n) s = .next { s with out := s.out ++ [.readData port pa
      (bytesAt s (if isLat pa then latPa (if port = 0 then 0 else 4) (pa % 2 ^ 48 - latBase) else pa) n)] })

/-- R320 to R322: the registers of an I/O die, each at its offset. An aligned 8-byte read gives a register's value,
and any other read zeros. ERRCLR with bit 0 set clears the error log and its counts; a write of half a WIN entry sets
the half's fields and no reserved bit; in recovery mode neither changes a register (R331); a write of another size or
alignment that touches a register is discarded with kind 3. A write through the broadcast window stores its bytes
into all eight replicas, or is discarded with kind 2 where a lattice page is mapped. What is logged of a write that
covers several targets is log 52. -/
def Obligations.IoDieRegisters : Prop :=
  (∀ (s : State) (port i off n : Nat), s.up = true → i < 2 → off < 2 ^ 40 →
    let d := s.io.getD i IoDie.reset
    let gives := fun v : DWord => exec (.hostRead port (8 * 2 ^ 48 + i * 2 ^ 40 + off) n) s =
      .next { s with out := s.out ++ [.readData port (8 * 2 ^ 48 + i * 2 ^ 40 + off) (bytesOf n v.toNat)] }
    (n ≠ 8 ∨ off % 8 ≠ 0 → gives 0) ∧
    (n = 8 →
      (off = 0 → gives (BitVec.ofNat 64 (i * 2 ^ 24 + 0xB1 * 2 ^ 16 + 0x0040))) ∧
      (off = 0x100 → d.errIdx < 16 → gives (d.errCount ++ BitVec.ofNat 32 d.errIdx)) ∧
      (off = 0x108 → gives d.discard) ∧ (off = 0x110 → gives 0) ∧
      (∀ e < 16, (off = 0x1000 + 16 * e → gives ((d.log.getD e 0).setWidth 64)) ∧
        (off = 0x1008 + 16 * e → gives ((d.log.getD e 0 >>> 64).setWidth 64))) ∧
      (∀ w < 64, (off = 0x10000 + 16 * w → gives ((d.win.getD w 0).setWidth 64)) ∧
        (off = 0x10008 + 16 * w → gives ((d.win.getD w 0 >>> 64).setWidth 64))) ∧
      (∀ p < 12, off = 0x20000 + 8 * p → gives (if d.portUp.getD p false then 0x11 else 0)) ∧
      (off ≥ 0x20060 → off < 0x1000000000 → off % 8 = 0 → gives 0))) ∧
  (∀ (s : State) (port i w : Nat) (rid : Half) (v : DWord), i < 2 →
    (s.up = false → ∀ j ∈ ([.errclr i v, .winEntryWrite i w false v, .winEntryWrite i w true v] : List Instr), exec j s = .next s) ∧
    (s.up = true → exec (.errclr i v) s = .next (onDie s i (clearedDie v)) ∧
      exec (.winEntryWrite i w false v) s = .next (onDie s i (lowWin w v)) ∧
      exec (.winEntryWrite i w true v) s = .next (onDie s i (highWin w v))) ∧
    (s.up = true → w < 64 →
      exec (.mmioRegisterWrite port i 0x110 (bytesOf 8 v.toNat) rid) s = .next (onDie s i (clearedDie v)) ∧
      exec (.mmioRegisterWrite port i (0x10000 + 16 * w) (bytesOf 8 v.toNat) rid) s = .next (onDie s i (lowWin w v)) ∧
      exec (.mmioRegisterWrite port i (0x10008 + 16 * w) (bytesOf 8 v.toNat) rid) s = .next (onDie s i (highWin w v)))) ∧
  (∀ (s : State) (port i off : Nat) (bs : List Byte) (rid : Half), s.up = true → i < 2 → off + bs.length ≤ 0x1000000000 →
    bs ≠ [] → bs.length ≠ 8 ∨ off % 8 ≠ 0 →
    ((∃ k, k < bs.length ∧ (mmioReg (s.io.getD i IoDie.reset) i ((off + k) / 8 * 8)).isSome) →
      exec (.mmioRegisterWrite port i off bs rid) s =
        .next (discarded s port (8 * 2 ^ 48 + i * 2 ^ 40 + off) 3 rid bs.length)) ∧
    ((∀ k < bs.length, mmioReg (s.io.getD i IoDie.reset) i ((off + k) / 8 * 8) = none) →
      exec (.mmioRegisterWrite port i off bs rid) s = .next s)) ∧
  (∀ (s : State) (port i off : Nat) (bs : List Byte) (rid : Half), s.up = true → i < 2 → off + bs.length ≤ 2 ^ 32 → bs ≠ [] →
    let mapped := fun k => ∃ l ∈ s.pages, l.lattice = true ∧ l.phys % 2 ^ 48 ≤ latBase + (off + k) ∧ latBase + (off + k) < l.phys % 2 ^ 48 + l.size
    ((∀ k < bs.length, ¬mapped k) → Safety.MemOk s → s.snap = none → ∃ t, exec (.latticeBroadcastWrite port i off bs rid) s = .next t ∧
      t.io = s.io ∧ ∀ a, Memory.read t.mem a =
        if isHbm a = true ∧ latBase + off ≤ a % 2 ^ 48 ∧ a % 2 ^ 48 < latBase + off + bs.length then bs.getD (a % 2 ^ 48 - latBase - off) 0
        else Memory.read s.mem a) ∧
    ((∀ k < bs.length, mapped k) → exec (.latticeBroadcastWrite port i off bs rid) s =
      .next (discarded s port (8 * 2 ^ 48 + i * 2 ^ 40 + (0x1000000000 + off)) 2 rid bs.length)))

/-- R9, R319, R323 to R325, R331, R332: POWER_ON_BOOT makes the machine as reset leaves it, booted if the firmware's
signature is good and in recovery mode if not; the management interface sets the power cap within its range, reports,
trains ports, takes firmware and replaces a context's front program by a gang of eight fibres on the management core;
throttling and shutdown come at their temperatures; a flit is taken in order, or asked for again if its CRC is wrong;
a remote access reads or writes HBM, lattice partitions included, or a region of the I/O dies. Logs 12, 13, 15, 16
and 19 say what the rules leave to the model here. -/
def Obligations.BootAndManagement : Prop :=
  (∀ (s : State) (x y : Bool),
    (s.up = true → exec (.powerOnBoot x y) s = .next s) ∧
    (s.up = false → exec (.powerOnBoot x y) s = .next
      { State.reset with booted := s.sigOk, recovery := !s.sigOk, sigOk := s.sigOk, agenda := s.agenda, out := s.out,
                         io := [{ IoDie.reset with cxl := x }, { IoDie.reset with cxl := y }] })) ∧
  (∀ (s : State) (port : Nat),
    (s.recovery = true ∨ s.shutdown = true → exec (.hostConfigurationRequest port) s = .next s) ∧
    (s.recovery = false → s.shutdown = false → exec (.hostConfigurationRequest port) s = .next
      { s with out := s.out ++ [if s.booted then .configOk port else .configRetry port] })) ∧
  (∀ (s : State) (w die c : Nat) (b : Bool),
    (1200 ≤ w ∧ w ≤ 2600 → exec (.mgmtSetPowerCap w) s = .next { s with powerCap := w }) ∧
    (w < 1200 ∨ 2600 < w → exec (.mgmtSetPowerCap w) s = .next s) ∧
    (∃ p ts, ts.length = 8 ∧ exec .mgmtReportStatus s = .next { s with out := s.out ++ [.status p ts s.eccCorrected] }) ∧
    exec (.mgmtFirmwareUpdate b) s = .next { s with sigOk := b } ∧
    (s.up = true → 95 ≤ c → exec (.thermalThrottle die c) s =
      .next { s with throttled := true, mhz := if 25 < s.mhz then s.mhz - 25 else s.mhz }) ∧
    (c < 95 → exec (.thermalThrottle die c) s = .next s) ∧
    (110 ≤ c → exec (.thermalShutdown die c) s = .next { s with shutdown := true }) ∧
    (c < 110 → exec (.thermalShutdown die c) s = .next s) ∧
    exec (.powerCapClockStep true) s = .next { s with mhz := if 25 < s.mhz then s.mhz - 25 else s.mhz } ∧
    exec (.powerCapClockStep false) s = .next { s with mhz := min 1900 (s.mhz + 25), throttled := false }) ∧
  (∀ (s : State) (num : Nat) (text : DWord) (textsz entry : Word) (args : DWord) (x : Context), s.up = true → s.ctx? num = some x →
    let u := frontEnds s x
    let seed := x.front.seed
    ∃ t n l, exec (.mgmtReplaceFrontProgram num text textsz entry args) s = .next t ∧ t.gangs = u.gangs ++ [n] ∧
      t.launches = u.launches ++ [l] ∧ n.lkey = l.lkey ∧ n.ctx = num ∧ n.team = none ∧ n.parent = none ∧ n.core = 160 ∧
      n.width = 8 ∧ n.vregs = 32 ∧ n.seed = seed ∧ n.s2 0 = args ∧ n.live = 0xFF ∧ n.tvec = 0 ∧
      n.batches = [{ memb := 0xFF, pc := text + entry.setWidth 64, st := .ready, passed := 0, cap := [], next := 0, polled := false }] ∧
      l.host = true ∧ l.ctx = num ∧ l.lid = x.lidCtr ∧ l.r.text = text ∧ l.r.textsz = textsz ∧ l.r.front = true ∧
      t.ctx? num = some { x with lidCtr := if x.lidCtr = 0xFFFFFFFF then 1 else x.lidCtr + 1,
                                 front := { k := x.front.k, seed := seed, gid := some n.gid } }) ∧
  (∀ (s : State) (i p : Nat) (ok : Bool) (fl : List Byte),
    (s.up = true → exec (.mgmtTrainPort i p true) s = .next (onDie s i fun d => { d with portUp := d.portUp.set p true })) ∧
    exec (.mgmtTrainPort i p false) s = .next s ∧
    exec (.clolyLinkDown i p) s = .next (onDie s i fun d => { d with portUp := d.portUp.set p false }) ∧
    let isUp := (s.io.getD i IoDie.reset).portUp.getD p false
    (isUp = false → exec (.clolyFlitReceive i p ok fl) s = .next s) ∧
    (isUp = true → exec (.clolyFlitReceive i p true fl) s = .next (onDie s i fun d => { d with rx := d.rx ++ [(p, fl)] }) ∧
      exec (.clolyFlitReceive i p false fl) s = .next { onDie s i (fun d => { d with replays := d.replays + 1 }) with out := s.out ++ [.replay i p] })) ∧
  (∀ (s : State) (pa n : Nat) (bs : List Byte), s.up = true →
    let io := regionOf pa = 8 ∨ regionOf pa = 10
    (isHbm pa = true → pa % 2 ^ 48 + n ≤ 0x1800000000 → exec (.remoteWindowAccess pa none n) s =
      .next { s with out := s.out ++ [.windowData pa (bytesAt s pa n)] }) ∧
    (isHbm pa = true → pa % 2 ^ 48 + bs.length ≤ 0x1800000000 → ∃ t, exec (.remoteWindowAccess pa (some bs) n) s = .next t ∧
      t.gangs = s.gangs ∧ (Safety.MemOk s → s.snap = none → storesOnly s t pa bs)) ∧
    (isHbm pa = false → io → exec (.remoteWindowAccess pa none n) s = .next { s with out := s.out ++ [.windowData pa (s.ioRd pa n)] } ∧
      exec (.remoteWindowAccess pa (some bs) n) s = .next (s.ioWr pa bs)) ∧
    (¬io → ∀ wr, (isHbm pa = true → pa % 2 ^ 48 + (match wr with | some bs => bs.length | none => n) > 0x1800000000) →
      exec (.remoteWindowAccess pa wr n) s = .next { s with out := s.out ++ [.windowFail pa] }))

/-! ## What the device does by itself -/

namespace Sys2Proof.Claims

/-- Every cell, or GCNT slot, of a sector of the replica of dst is joined with that of src, and no other byte of memory
has changed (R197, R198). -/
def sectorJoined (s t : State) (sect pf src dst : Nat) : Prop :=
  (∀ k < 16 / joinBytes pf,
    let off := 16 * sect + joinBytes pf * k
    t.homeNum (latPa dst off) (joinBytes pf) =
      cellJoin pf (s.homeNum (latPa dst off) (joinBytes pf)) (s.homeNum (latPa src off) (joinBytes pf))) ∧
  ∀ a, ¬(latPa dst (16 * sect) ≤ a ∧ a < latPa dst (16 * sect) + 16) → Memory.read t.mem a = Memory.read s.mem a

/-- The partner of a die in round k, by the preset (R198). -/
def partner (s : State) (die : Nat) : Nat :=
  match s.preset with
  | 0 => die ^^^ 2 ^ (s.round % 3)
  | 1 => if s.round % 2 = 0 then die ^^^ 1 else if die % 2 = 1 then (die + 1) % 8 else (die + 7) % 8
  | 2 => die
  | _ => (s.lxt.getD (s.round % 8) 0).toNat / 2 ^ (4 * die) % 8

end Sys2Proof.Claims

/-- R197, R198, R249: nothing happens before a round boundary. At one, the round number and the boundary advance and
the preset of LXS takes effect; a dirty sector is joined, cell by cell, into the replica of its die's partner, and
its count falls by 1; an idle die's sectors stay. A direct send joins its sector in the same way, in the order of the
sends. LSYNC completes once no send of its gang is on its way. The dirty counts are read as logs 27 and 84 say, and
LSYNC as log 63. -/
def Obligations.LatticeArrivals : Prop :=
  (∀ s : State,
    (s.clock < s.boundary → exec .latticeExchangeRound s = .next s) ∧
    (s.boundary ≤ s.clock → ∃ t, exec .latticeExchangeRound s = .next t ∧ t.round = s.round + 1 ∧
      t.boundary = s.boundary + s.lxp.toNat ∧ t.preset = s.lxs ∧ t.gangs = s.gangs ∧ t.io = s.io) ∧
    (∀ e : LatDirty, s.boundary ≤ s.clock → s.preset = s.lxs → s.dirtyCnt = [e] → e.die < 8 → partner s e.die < 8 →
      16 * e.sect + 16 ≤ 2 ^ 48 - latBase → Safety.MemOk s → s.snap = none → s.poisonAt (latPa e.die (16 * e.sect) / 16) = none →
      ∃ t, exec .latticeExchangeRound s = .next t ∧
        (partner s e.die ≠ e.die → sectorJoined s t e.sect e.pfmt e.die (partner s e.die) ∧
          (1 < e.cnt → { e with cnt := e.cnt - 1 } ∈ t.dirtyCnt) ∧
          (e.cnt = 1 → ∀ x ∈ t.dirtyCnt, x.die ≠ e.die)) ∧
        (partner s e.die = e.die → 0 < e.cnt → t.mem = s.mem ∧ t.dirtyCnt = [e])) ∧
    (s.latSends = [] → exec .feldsparJoinArrival s = .next s) ∧
    (∀ e es, s.latSends = e :: es → e.src < 8 → e.dst < 8 → e.src ≠ e.dst → 16 * e.sect + 16 ≤ 2 ^ 48 - latBase →
      Safety.MemOk s → s.snap = none → s.poisonAt (latPa e.src (16 * e.sect) / 16) = none →
      ∃ t, exec .feldsparJoinArrival s = .next t ∧ sectorJoined s t e.sect e.pfmt e.src e.dst ∧ t.gangs = s.gangs ∧
        (s.preset ≠ 2 → t.latSends = es))) ∧
  (∀ (s : State) (g : Gang), s.gang? g.gid = some g →
    ((∃ e ∈ s.latSends, e.gang = some g.gid) → exec (.lsyncComplete g.gid) s = .next s) ∧
    ((∀ e ∈ s.latSends, e.gang ≠ some g.gid) →
      (∀ b, g.batches.find? (fun b => b.st == .waiting 9 && b.cap == [0]) = some b →
        exec (.lsyncComplete g.gid) s =
          .next ((s.modGang g.gid fun h => (h.unbatch b.memb).place b.next b.memb).settle g.gid)) ∧
      (g.batches.find? (fun b => b.st == .waiting 9 && b.cap == [0]) = none → exec (.lsyncComplete g.gid) s = .next s)))

namespace Sys2Proof.Claims

/-- The unit of a waiting batch, with no hint: what a re-read goes on with. -/
def resumed (g : Gang) (b : Batch) : Cur :=
  { gid := g.gid, base := b.pc, word := b.next - 4, next := b.next, main := 0, memb := b.memb, himm := none, hmod := none,
    hgrd := none, hseq := none, tgts := [], reads := [], raced := false }

/-- A batch goes on waiting, after its location has been read. -/
def waitsOn (t u : State) (c : Cur) (wk : Nat) (cap : List DWord) (r : State) : Prop :=
  r = (u.modGang c.gid fun h => h.waitBatch c.memb wk cap c.next).settle c.gid ∧
    u.gangs.map unpolled = t.gangs.map unpolled ∧ u.mem = t.mem

/-- A batch that alone waits at its PC, of a gang that waits for no replica. -/
def waiterAt (g : Gang) (b : Batch) : Prop := g.behind = [] ∧ (g.batches.filter fun x => x.pc == b.pc && x.waits) = [b]

/-- A waiter at a PC with a membership, or a pending entry with that key, holds a monitor entry or a watch (R242, R377). -/
def hasEntry (s : State) (gid : Nat) (pc : DWord) (memb : Mask) : Prop :=
  (∃ m ∈ s.monitors, m.gid = gid ∧ (m.kind = 2 ∨ (m.pc = pc ∧ m.memb = memb))) ∨
    ∃ m ∈ s.watches, m.gid = gid ∧ m.pc = pc ∧ m.memb = memb

/-- A cycle of known edges (R380). -/
def edgeCycle (s : State) (p : List WNode) : Prop :=
  p ≠ [] ∧ ∀ i, i < p.length → p.getD ((i + 1) % p.length) (p.headD (.gang 0)) ∈ s.edges (p.getD i (.gang 0))

/-- The trap of a report of a cycle of n members in a batch (R407). -/
def cycleTrap (s : State) (g : Gang) (b : Batch) (wk n : Nat) : Trap :=
  { cause := BitVec.ofNat 32 0x19, tepc := loWord (b.pc - s.textOf g), tmask := b.memb, taddr := 0,
    tinfo := BitVec.ofNat 32 (wk + 256 * min n 255), bmask := b.memb, good := [], skip := b.next, held := none }

end Sys2Proof.Claims

/-- R240 to R242, R284, R290, R313, R378 to R380, R407: a waiting WAITA or CWAIT reads its location again, goes on as
an acquire once its condition holds and waits otherwise; so does a waiting LWAIT with its cells. A poll does the same
for a waiter without an entry, and nothing for one with an entry. A pending SPAWNA entry whose counter has reached
its target is ready, at the bottom of its deque. TEAM scope of a spread team is the quad unit (R215). An eligible
gang that has not issued for 4,096 cycles counts one level higher. The walk reports only cycles of known edges, in
the waiting batch of the member with the greatest pedigree. Logs 34 to 36, 38, 62 and 79 say what the rules leave to
the model here. -/
def Obligations.WaitsAndWalk : Prop :=
  (∀ (s : State) (g : Gang) (b : Batch), s.gang? g.gid = some g → waiterAt g b →
    let c := resumed g b
    (∀ (cnd va w wide k : DWord) (t u : State) (x : Tr) (m : DWord),
      let n := if wide = 1 then 8 else 4
      b.st = .waiting 8 → b.cap = [cnd, va, w, wide, k] → va.toNat % n = 0 →
      s.checkVa (agentOf s c g) va false (fun t => isHbm t.pa || k.toNat == 3) = (.ok x, t) → x.lattice = false →
      t.locRd g.core (match k.toNat with | 0 => if t.spread g then 1 else 0 | 1 => 2 | _ => 3) x n = ((m, none), u) →
      (condHolds cnd.toNat (decide (wide = 1)) m w = true → exec (.monitorReread g.gid b.pc) s =
        .next (advance c ((u.dropMonitor g.gid b.pc b.memb).acquireLv g.core (scopeLevel k.toNat (t.spread g))))) ∧
      (condHolds cnd.toNat (decide (wide = 1)) m w = false → wide = 0 ∨ wide = 1 → ∃ v r, exec (.monitorReread g.gid b.pc) s = .next r ∧
        waitsOn u v c 8 b.cap r)) ∧
    (∀ (va target k : DWord) (t u : State) (x : Tr) (m : DWord), b.st = .waiting 4 → b.cap = [va, target, k] →
      noHeld s g → va.toNat % 8 = 0 →
      s.checkVa (agentOf s c g) va false (fun t => isHbm t.pa || k.toNat == 3) = (.ok x, t) → x.lattice = false →
      t.locRd g.core (match k.toNat with | 0 => if t.spread g then 1 else 0 | 1 => 2 | _ => 3) x 8 = ((m, none), u) →
      (target.toNat ≤ m.toNat → exec (.monitorReread g.gid b.pc) s =
        .next (advance c ((u.dropMonitor g.gid b.pc b.memb).acquireLv g.core (scopeLevel k.toNat (t.spread g))))) ∧
      (m.toNat < target.toNat → ∃ v r, exec (.monitorReread g.gid b.pc) s = .next r ∧ waitsOn u v c 4 b.cap r)) ∧
    (∀ (one d a base x : DWord) (xs : List (Nat × LatRef)) (t : State), b.st = .waiting 9 → b.cap = [one, d, a, base, x] →
      latRefs c d.toNat (a.setWidth 6) base false g (fibresOf g.width b.memb) s = ((xs, []), t) →
      let met := xs.all fun e => cellGe e.2.tr.pfmt (t.cellRead e.2) (latOp (g.fibre e.1) d.toNat e.2.tr.pfmt)
      (met = true → exec (.monitorReread g.gid b.pc) s = .next (advance c
        ((latWriteBack (t.dropWatches g.gid b.pc b.memb) c.gid d.toNat xs).acquireLv g.core (if x.setWidth 1 = (1 : BitVec 1) then 2 else 0)))) ∧
      (met = false → ∃ v r cap, exec (.monitorReread g.gid b.pc) s = .next r ∧ waitsOn t v c 9 cap r)) ∧
    (hasEntry s g.gid b.pc b.memb → exec (.waitPoll g.gid b.pc) s = .next s) ∧
    (¬hasEntry s g.gid b.pc b.memb → ¬hasEntry s g.gid b.pc 0 →
      exec (.waitPoll g.gid b.pc) s = exec (.monitorReread g.gid b.pc) s)) ∧
  (∀ (s : State) (k : Nat) (pc : DWord), s.gang? k = none →
    (hasEntry s k pc 0 → exec (.waitPoll k pc) s = .next s) ∧
    (¬hasEntry s k pc 0 → exec (.waitPoll k pc) s = exec (.monitorReread k pc) s) ∧
    ((∀ d ∈ s.pendings, d.2.key ≠ k) → exec (.monitorReread k pc) s = .next s) ∧
    (∀ (d : DequeEnt) (x : Tr) (t u : State) (m : DWord), d ∈ s.deques → d.task.pend = true → d.task.key = k →
      (∀ e ∈ s.deques, e.task.key = k → e = d) → d.task.caddr.toNat % 8 = 0 →
      s.checkVa (s.ownAgent d.task.lkey d.core) d.task.caddr false (fun t => isHbm t.pa || d.task.cscope == 3) = (.ok x, t) →
      x.lattice = false →
      t.locRd d.core (match d.task.cscope with
        | 0 => if (s.gang? d.task.parent).any s.spread then 1 else 0 | 1 => 2 | _ => 3) x 8 = ((m, none), u) →
      d.task.cval.toNat ≤ m.toNat → ∃ v, exec (.monitorReread k pc) s = .next v ∧
        v.deques = u.deques.filter (·.task.key != k) ++ [{ d with task := { d.task with pend := false } }] ∧
        v.gangs = u.gangs ∧ v.mem = u.mem ∧ ∀ e ∈ v.monitors, e.gid ≠ k)) ∧
  (∀ (s : State) (g : Gang), s.gang? g.gid = some g →
    let level := if g.sched.demoted then 4 else g.prio
    let aged := g.exited = false ∧ g.inlined = none ∧ (∃ b ∈ g.batches, b.st = .ready ∨ (b.st = .trapped ∧ g.inTrap b.memb = true)) ∧
      g.sched.since + 4096 * (g.sched.raised + 1) ≤ s.clock ∧ g.sched.raised < level
    (aged → exec (.agingPromotion g.gid) s = .next (s.modGang g.gid fun h => { h with sched := { h.sched with raised := h.sched.raised + 1 } })) ∧
    (¬aged → exec (.agingPromotion g.gid) s = .next s)) ∧
  (∀ s : State, (∀ p ∈ s.cycles, edgeCycle s p) ∧
    ((∀ p, ¬edgeCycle s p) → exec .waitForWalk s = .next s) ∧
    (∀ (p : List WNode) (g : Gang) (b : Batch) (wk : Nat), s.cycles = [p] → p.Nodup → s.gang? g.gid = some g → .gang g.gid ∈ p →
      (∀ h, .gang h.gid ∈ p → s.gang? h.gid = some h → h.gid ≠ g.gid → pedBelow h.ped g.ped = true) →
      b ∈ g.batches → nextIn p (.gang g.gid) ∈ s.signallers g b →
      (∀ x ∈ g.batches, nextIn p (.gang g.gid) ∈ s.signallers g x → x ≠ b → b.pc.toNat < x.pc.toNat) → b.st = .waiting wk →
      exec .waitForWalk s = .next ((s.takeTrap g.gid b.pc (cycleTrap s g b wk p.length)).settle g.gid)))

/-! ## Hashes, NOP, the invariant of every step, and reset -/

/-- R50, R51: pmix is four rounds of two multiplications modulo 2^64 and two logical shifts each; the hash of a pedigree
mixes its depth and then each level's rank and floor, so that gangs of equal levels and seeds draw equal values, whatever
the launch ids and flags of their pedigrees. -/
def Obligations.PedigreeHash : Prop :=
  (∀ k a b : BitVec 64,
    let r := fun h : BitVec 64 =>
      let u := (h ^^^ a) * 0x9E3779B97F4A7C15
      let v := ((u ^^^ (u >>> 29)) ^^^ b) * 0xBF58476D1CE4E5B9
      v ^^^ (v >>> 32)
    pmix k a b = r (r (r (r (k ^^^ 0x6A09E667F3BCC909))))) ∧
  phLevels [] = pmix 0 0 0 ∧
  (∀ (ls : List (Word × Word)), ls.length < 2 ^ 64 →
    ∃ h : Nat → DWord, h 0 = pmix (BitVec.ofNat 64 ls.length) 0 0 ∧ phLevels ls = h ls.length ∧
      ∀ (l : Nat) (e : Word × Word), ls[l]? = some e → h (l + 1) = pmix (h l) (e.1.setWidth 64) (e.2.setWidth 64)) ∧
  (∀ (s t : State) (g k : Gang) (i : Nat) (f : Fibre), s.seedOf g = t.seedOf k → g.ped.levels = k.ped.levels →
    drawOf s g i f = drawOf t k i f)

/-- R160: NOP only lets its batch go on, and so does YIELD, but for the record of which gang issued last in a class. -/
def Obligations.NopAndYield : Prop :=
  ∀ (s : State) (c : Cur) (g : Gang), Issuing s c g →
    exec .nop s = .next (advance c s) ∧ ∃ l, exec .yield s = .next (advance c { s with lastIn := l })

/-- Every step keeps the two memories in canonical form and 16 bytes in every cached sector, whichever act it takes: the
invariant that the statements about memory and caches rest on. The canonical form is the model's own (log 3); that a
sector has 16 bytes is R184 and R185. -/
def Obligations.StepInvariant : Prop :=
  ∀ s t : State, Safety.MemOk s → CachesOk s → step s = .next t → Safety.MemOk t ∧ CachesOk t ∧ t.cur = none

/-- R87, R97, R198, R321, R328, R331: the device right after reset. Memory and caches list nothing (what an unlisted
byte reads as is the model's choice, log 3), so the invariant holds; LXS is 0, LXP 1,024 and LXT0 to LXT7 the
hypercube pairings; round 0 falls 1,024 counts after reset; CPYSHARE is 0x20; the I/O dies' registers read as their
map says, IDENT naming the die; no context, launch, team or gang is there and the device has not booted. Values that
no rule gives are not stated (log 12). -/
def Obligations.ResetState : Prop :=
  let s := State.reset
  Safety.MemOk s ∧ CachesOk s ∧ Safety.Idle s ∧ s.mem = [] ∧ s.remote = [] ∧ s.l1 = [] ∧ s.quads = [] ∧ s.l2 = [] ∧ s.late = [] ∧
  s.lxs = 0 ∧ s.lxp = 1024 ∧ s.round = 0 ∧ s.clock = 0 ∧ s.boundary = 1024 ∧
  (∀ k < 8, s.lxt.getD k 0 = (if k % 3 = 0 then 0x67452301 else if k % 3 = 1 then 0x54761032 else 0x32107654)) ∧
  (∀ i < 2, let pa := 2 ^ 51 + i * 2 ^ 40
    s.mmioRd pa 8 = bytesOf 8 (0xB10040 + i * 2 ^ 24) ∧ s.mmioRd (pa + 0x100) 8 = bytesOf 8 0 ∧
    s.mmioRd (pa + 0x108) 8 = bytesOf 8 0 ∧
    (∀ k < 16, s.mmioRd (pa + 0x1000 + 16 * k) 8 = bytesOf 8 0 ∧ s.mmioRd (pa + 0x1008 + 16 * k) 8 = bytesOf 8 0) ∧
    (∀ k < 64, s.mmioRd (pa + 0x10000 + 16 * k) 8 = bytesOf 8 0 ∧ s.mmioRd (pa + 0x10008 + 16 * k) 8 = bytesOf 8 0) ∧
    ∀ k < 12, s.mmioRd (pa + 0x20000 + 8 * k) 8 = bytesOf 8 0) ∧
  (∀ d ∈ s.io, d.cpyshare = 0x20) ∧ s.contexts = [] ∧ s.launches = [] ∧ s.teams = [] ∧ s.gangs = [] ∧ s.booted = false
end

