-- ==== Sys2Proof/Laws/State.lean ====
section
/-! SUPPORT. One lemma for each field and update of State, Gang and Fibre: what an update does to a field, so that no
proof unfolds a record update. -/
namespace Sys2Proof.Machine


/-! ## modGang -/

@[simp] theorem State.modGang_clock (s : State) (k : Nat) (f : Gang → Gang) : (s.modGang k f).clock = s.clock := rfl
@[simp] theorem State.modGang_stamp (s : State) (k : Nat) (f : Gang → Gang) : (s.modGang k f).stamp = s.stamp := rfl
@[simp] theorem State.modGang_booted (s : State) (k : Nat) (f : Gang → Gang) : (s.modGang k f).booted = s.booted := rfl
@[simp] theorem State.modGang_recovery (s : State) (k : Nat) (f : Gang → Gang) : (s.modGang k f).recovery = s.recovery := rfl
@[simp] theorem State.modGang_shutdown (s : State) (k : Nat) (f : Gang → Gang) : (s.modGang k f).shutdown = s.shutdown := rfl
@[simp] theorem State.modGang_sigOk (s : State) (k : Nat) (f : Gang → Gang) : (s.modGang k f).sigOk = s.sigOk := rfl
@[simp] theorem State.modGang_mhz (s : State) (k : Nat) (f : Gang → Gang) : (s.modGang k f).mhz = s.mhz := rfl
@[simp] theorem State.modGang_powerCap (s : State) (k : Nat) (f : Gang → Gang) : (s.modGang k f).powerCap = s.powerCap := rfl
@[simp] theorem State.modGang_throttled (s : State) (k : Nat) (f : Gang → Gang) : (s.modGang k f).throttled = s.throttled := rfl
@[simp] theorem State.modGang_eccCorrected (s : State) (k : Nat) (f : Gang → Gang) : (s.modGang k f).eccCorrected = s.eccCorrected := rfl
@[simp] theorem State.modGang_mem (s : State) (k : Nat) (f : Gang → Gang) : (s.modGang k f).mem = s.mem := rfl
@[simp] theorem State.modGang_remote (s : State) (k : Nat) (f : Gang → Gang) : (s.modGang k f).remote = s.remote := rfl
@[simp] theorem State.modGang_l1 (s : State) (k : Nat) (f : Gang → Gang) : (s.modGang k f).l1 = s.l1 := rfl
@[simp] theorem State.modGang_quads (s : State) (k : Nat) (f : Gang → Gang) : (s.modGang k f).quads = s.quads := rfl
@[simp] theorem State.modGang_l2 (s : State) (k : Nat) (f : Gang → Gang) : (s.modGang k f).l2 = s.l2 := rfl
@[simp] theorem State.modGang_late (s : State) (k : Nat) (f : Gang → Gang) : (s.modGang k f).late = s.late := rfl
@[simp] theorem State.modGang_icache (s : State) (k : Nat) (f : Gang → Gang) : (s.modGang k f).icache = s.icache := rfl
@[simp] theorem State.modGang_tlb (s : State) (k : Nat) (f : Gang → Gang) : (s.modGang k f).tlb = s.tlb := rfl
@[simp] theorem State.modGang_poison (s : State) (k : Nat) (f : Gang → Gang) : (s.modGang k f).poison = s.poison := rfl
@[simp] theorem State.modGang_lxs (s : State) (k : Nat) (f : Gang → Gang) : (s.modGang k f).lxs = s.lxs := rfl
@[simp] theorem State.modGang_lxp (s : State) (k : Nat) (f : Gang → Gang) : (s.modGang k f).lxp = s.lxp := rfl
@[simp] theorem State.modGang_lxt (s : State) (k : Nat) (f : Gang → Gang) : (s.modGang k f).lxt = s.lxt := rfl
@[simp] theorem State.modGang_preset (s : State) (k : Nat) (f : Gang → Gang) : (s.modGang k f).preset = s.preset := rfl
@[simp] theorem State.modGang_round (s : State) (k : Nat) (f : Gang → Gang) : (s.modGang k f).round = s.round := rfl
@[simp] theorem State.modGang_boundary (s : State) (k : Nat) (f : Gang → Gang) : (s.modGang k f).boundary = s.boundary := rfl
@[simp] theorem State.modGang_dirtyCnt (s : State) (k : Nat) (f : Gang → Gang) : (s.modGang k f).dirtyCnt = s.dirtyCnt := rfl
@[simp] theorem State.modGang_latSends (s : State) (k : Nat) (f : Gang → Gang) : (s.modGang k f).latSends = s.latSends := rfl
@[simp] theorem State.modGang_perfsel (s : State) (k : Nat) (f : Gang → Gang) : (s.modGang k f).perfsel = s.perfsel := rfl
@[simp] theorem State.modGang_perf (s : State) (k : Nat) (f : Gang → Gang) : (s.modGang k f).perf = s.perf := rfl
@[simp] theorem State.modGang_lastIn (s : State) (k : Nat) (f : Gang → Gang) : (s.modGang k f).lastIn = s.lastIn := rfl
@[simp] theorem State.modGang_searches (s : State) (k : Nat) (f : Gang → Gang) : (s.modGang k f).searches = s.searches := rfl
@[simp] theorem State.modGang_io (s : State) (k : Nat) (f : Gang → Gang) : (s.modGang k f).io = s.io := rfl
@[simp] theorem State.modGang_out (s : State) (k : Nat) (f : Gang → Gang) : (s.modGang k f).out = s.out := rfl
@[simp] theorem State.modGang_contexts (s : State) (k : Nat) (f : Gang → Gang) : (s.modGang k f).contexts = s.contexts := rfl
@[simp] theorem State.modGang_saved (s : State) (k : Nat) (f : Gang → Gang) : (s.modGang k f).saved = s.saved := rfl
@[simp] theorem State.modGang_launches (s : State) (k : Nat) (f : Gang → Gang) : (s.modGang k f).launches = s.launches := rfl
@[simp] theorem State.modGang_teams (s : State) (k : Nat) (f : Gang → Gang) : (s.modGang k f).teams = s.teams := rfl
@[simp] theorem State.modGang_gangs (s : State) (k : Nat) (f : Gang → Gang) : (s.modGang k f).gangs = s.gangs.map fun g => if g.gid == k then f g else g := rfl
@[simp] theorem State.modGang_deques (s : State) (k : Nat) (f : Gang → Gang) : (s.modGang k f).deques = s.deques := rfl
@[simp] theorem State.modGang_slots (s : State) (k : Nat) (f : Gang → Gang) : (s.modGang k f).slots = s.slots := rfl
@[simp] theorem State.modGang_cmds (s : State) (k : Nat) (f : Gang → Gang) : (s.modGang k f).cmds = s.cmds := rfl
@[simp] theorem State.modGang_monitors (s : State) (k : Nat) (f : Gang → Gang) : (s.modGang k f).monitors = s.monitors := rfl
@[simp] theorem State.modGang_watches (s : State) (k : Nat) (f : Gang → Gang) : (s.modGang k f).watches = s.watches := rfl
@[simp] theorem State.modGang_filter (s : State) (k : Nat) (f : Gang → Gang) : (s.modGang k f).filter = s.filter := rfl
@[simp] theorem State.modGang_strands (s : State) (k : Nat) (f : Gang → Gang) : (s.modGang k f).strands = s.strands := rfl
@[simp] theorem State.modGang_waits (s : State) (k : Nat) (f : Gang → Gang) : (s.modGang k f).waits = s.waits := rfl
@[simp] theorem State.modGang_snap (s : State) (k : Nat) (f : Gang → Gang) : (s.modGang k f).snap = s.snap := rfl
@[simp] theorem State.modGang_colours (s : State) (k : Nat) (f : Gang → Gang) : (s.modGang k f).colours = s.colours := rfl
@[simp] theorem State.modGang_freePage (s : State) (k : Nat) (f : Gang → Gang) : (s.modGang k f).freePage = s.freePage := rfl
@[simp] theorem State.modGang_fresh (s : State) (k : Nat) (f : Gang → Gang) : (s.modGang k f).fresh = s.fresh := rfl
@[simp] theorem State.modGang_wrote (s : State) (k : Nat) (f : Gang → Gang) : (s.modGang k f).wrote = s.wrote := rfl
@[simp] theorem State.modGang_agenda (s : State) (k : Nat) (f : Gang → Gang) : (s.modGang k f).agenda = s.agenda := rfl
@[simp] theorem State.modGang_cur (s : State) (k : Nat) (f : Gang → Gang) : (s.modGang k f).cur = s.cur := rfl

/-! ## modTeam -/

@[simp] theorem State.modTeam_clock (s : State) (k : Nat) (f : Team → Team) : (s.modTeam k f).clock = s.clock := rfl
@[simp] theorem State.modTeam_stamp (s : State) (k : Nat) (f : Team → Team) : (s.modTeam k f).stamp = s.stamp := rfl
@[simp] theorem State.modTeam_booted (s : State) (k : Nat) (f : Team → Team) : (s.modTeam k f).booted = s.booted := rfl
@[simp] theorem State.modTeam_recovery (s : State) (k : Nat) (f : Team → Team) : (s.modTeam k f).recovery = s.recovery := rfl
@[simp] theorem State.modTeam_shutdown (s : State) (k : Nat) (f : Team → Team) : (s.modTeam k f).shutdown = s.shutdown := rfl
@[simp] theorem State.modTeam_sigOk (s : State) (k : Nat) (f : Team → Team) : (s.modTeam k f).sigOk = s.sigOk := rfl
@[simp] theorem State.modTeam_mhz (s : State) (k : Nat) (f : Team → Team) : (s.modTeam k f).mhz = s.mhz := rfl
@[simp] theorem State.modTeam_powerCap (s : State) (k : Nat) (f : Team → Team) : (s.modTeam k f).powerCap = s.powerCap := rfl
@[simp] theorem State.modTeam_throttled (s : State) (k : Nat) (f : Team → Team) : (s.modTeam k f).throttled = s.throttled := rfl
@[simp] theorem State.modTeam_eccCorrected (s : State) (k : Nat) (f : Team → Team) : (s.modTeam k f).eccCorrected = s.eccCorrected := rfl
@[simp] theorem State.modTeam_mem (s : State) (k : Nat) (f : Team → Team) : (s.modTeam k f).mem = s.mem := rfl
@[simp] theorem State.modTeam_remote (s : State) (k : Nat) (f : Team → Team) : (s.modTeam k f).remote = s.remote := rfl
@[simp] theorem State.modTeam_l1 (s : State) (k : Nat) (f : Team → Team) : (s.modTeam k f).l1 = s.l1 := rfl
@[simp] theorem State.modTeam_quads (s : State) (k : Nat) (f : Team → Team) : (s.modTeam k f).quads = s.quads := rfl
@[simp] theorem State.modTeam_l2 (s : State) (k : Nat) (f : Team → Team) : (s.modTeam k f).l2 = s.l2 := rfl
@[simp] theorem State.modTeam_late (s : State) (k : Nat) (f : Team → Team) : (s.modTeam k f).late = s.late := rfl
@[simp] theorem State.modTeam_icache (s : State) (k : Nat) (f : Team → Team) : (s.modTeam k f).icache = s.icache := rfl
@[simp] theorem State.modTeam_tlb (s : State) (k : Nat) (f : Team → Team) : (s.modTeam k f).tlb = s.tlb := rfl
@[simp] theorem State.modTeam_poison (s : State) (k : Nat) (f : Team → Team) : (s.modTeam k f).poison = s.poison := rfl
@[simp] theorem State.modTeam_lxs (s : State) (k : Nat) (f : Team → Team) : (s.modTeam k f).lxs = s.lxs := rfl
@[simp] theorem State.modTeam_lxp (s : State) (k : Nat) (f : Team → Team) : (s.modTeam k f).lxp = s.lxp := rfl
@[simp] theorem State.modTeam_lxt (s : State) (k : Nat) (f : Team → Team) : (s.modTeam k f).lxt = s.lxt := rfl
@[simp] theorem State.modTeam_preset (s : State) (k : Nat) (f : Team → Team) : (s.modTeam k f).preset = s.preset := rfl
@[simp] theorem State.modTeam_round (s : State) (k : Nat) (f : Team → Team) : (s.modTeam k f).round = s.round := rfl
@[simp] theorem State.modTeam_boundary (s : State) (k : Nat) (f : Team → Team) : (s.modTeam k f).boundary = s.boundary := rfl
@[simp] theorem State.modTeam_dirtyCnt (s : State) (k : Nat) (f : Team → Team) : (s.modTeam k f).dirtyCnt = s.dirtyCnt := rfl
@[simp] theorem State.modTeam_latSends (s : State) (k : Nat) (f : Team → Team) : (s.modTeam k f).latSends = s.latSends := rfl
@[simp] theorem State.modTeam_perfsel (s : State) (k : Nat) (f : Team → Team) : (s.modTeam k f).perfsel = s.perfsel := rfl
@[simp] theorem State.modTeam_perf (s : State) (k : Nat) (f : Team → Team) : (s.modTeam k f).perf = s.perf := rfl
@[simp] theorem State.modTeam_lastIn (s : State) (k : Nat) (f : Team → Team) : (s.modTeam k f).lastIn = s.lastIn := rfl
@[simp] theorem State.modTeam_searches (s : State) (k : Nat) (f : Team → Team) : (s.modTeam k f).searches = s.searches := rfl
@[simp] theorem State.modTeam_io (s : State) (k : Nat) (f : Team → Team) : (s.modTeam k f).io = s.io := rfl
@[simp] theorem State.modTeam_out (s : State) (k : Nat) (f : Team → Team) : (s.modTeam k f).out = s.out := rfl
@[simp] theorem State.modTeam_contexts (s : State) (k : Nat) (f : Team → Team) : (s.modTeam k f).contexts = s.contexts := rfl
@[simp] theorem State.modTeam_saved (s : State) (k : Nat) (f : Team → Team) : (s.modTeam k f).saved = s.saved := rfl
@[simp] theorem State.modTeam_launches (s : State) (k : Nat) (f : Team → Team) : (s.modTeam k f).launches = s.launches := rfl
@[simp] theorem State.modTeam_teams (s : State) (k : Nat) (f : Team → Team) : (s.modTeam k f).teams = s.teams.map fun t => if t.tkey == k then f t else t := rfl
@[simp] theorem State.modTeam_gangs (s : State) (k : Nat) (f : Team → Team) : (s.modTeam k f).gangs = s.gangs := rfl
@[simp] theorem State.modTeam_deques (s : State) (k : Nat) (f : Team → Team) : (s.modTeam k f).deques = s.deques := rfl
@[simp] theorem State.modTeam_slots (s : State) (k : Nat) (f : Team → Team) : (s.modTeam k f).slots = s.slots := rfl
@[simp] theorem State.modTeam_cmds (s : State) (k : Nat) (f : Team → Team) : (s.modTeam k f).cmds = s.cmds := rfl
@[simp] theorem State.modTeam_monitors (s : State) (k : Nat) (f : Team → Team) : (s.modTeam k f).monitors = s.monitors := rfl
@[simp] theorem State.modTeam_watches (s : State) (k : Nat) (f : Team → Team) : (s.modTeam k f).watches = s.watches := rfl
@[simp] theorem State.modTeam_filter (s : State) (k : Nat) (f : Team → Team) : (s.modTeam k f).filter = s.filter := rfl
@[simp] theorem State.modTeam_strands (s : State) (k : Nat) (f : Team → Team) : (s.modTeam k f).strands = s.strands := rfl
@[simp] theorem State.modTeam_waits (s : State) (k : Nat) (f : Team → Team) : (s.modTeam k f).waits = s.waits := rfl
@[simp] theorem State.modTeam_snap (s : State) (k : Nat) (f : Team → Team) : (s.modTeam k f).snap = s.snap := rfl
@[simp] theorem State.modTeam_colours (s : State) (k : Nat) (f : Team → Team) : (s.modTeam k f).colours = s.colours := rfl
@[simp] theorem State.modTeam_freePage (s : State) (k : Nat) (f : Team → Team) : (s.modTeam k f).freePage = s.freePage := rfl
@[simp] theorem State.modTeam_fresh (s : State) (k : Nat) (f : Team → Team) : (s.modTeam k f).fresh = s.fresh := rfl
@[simp] theorem State.modTeam_wrote (s : State) (k : Nat) (f : Team → Team) : (s.modTeam k f).wrote = s.wrote := rfl
@[simp] theorem State.modTeam_agenda (s : State) (k : Nat) (f : Team → Team) : (s.modTeam k f).agenda = s.agenda := rfl
@[simp] theorem State.modTeam_cur (s : State) (k : Nat) (f : Team → Team) : (s.modTeam k f).cur = s.cur := rfl

/-! ## modLaunch -/

@[simp] theorem State.modLaunch_clock (s : State) (k : Nat) (f : Launch → Launch) : (s.modLaunch k f).clock = s.clock := rfl
@[simp] theorem State.modLaunch_stamp (s : State) (k : Nat) (f : Launch → Launch) : (s.modLaunch k f).stamp = s.stamp := rfl
@[simp] theorem State.modLaunch_booted (s : State) (k : Nat) (f : Launch → Launch) : (s.modLaunch k f).booted = s.booted := rfl
@[simp] theorem State.modLaunch_recovery (s : State) (k : Nat) (f : Launch → Launch) : (s.modLaunch k f).recovery = s.recovery := rfl
@[simp] theorem State.modLaunch_shutdown (s : State) (k : Nat) (f : Launch → Launch) : (s.modLaunch k f).shutdown = s.shutdown := rfl
@[simp] theorem State.modLaunch_sigOk (s : State) (k : Nat) (f : Launch → Launch) : (s.modLaunch k f).sigOk = s.sigOk := rfl
@[simp] theorem State.modLaunch_mhz (s : State) (k : Nat) (f : Launch → Launch) : (s.modLaunch k f).mhz = s.mhz := rfl
@[simp] theorem State.modLaunch_powerCap (s : State) (k : Nat) (f : Launch → Launch) : (s.modLaunch k f).powerCap = s.powerCap := rfl
@[simp] theorem State.modLaunch_throttled (s : State) (k : Nat) (f : Launch → Launch) : (s.modLaunch k f).throttled = s.throttled := rfl
@[simp] theorem State.modLaunch_eccCorrected (s : State) (k : Nat) (f : Launch → Launch) : (s.modLaunch k f).eccCorrected = s.eccCorrected := rfl
@[simp] theorem State.modLaunch_mem (s : State) (k : Nat) (f : Launch → Launch) : (s.modLaunch k f).mem = s.mem := rfl
@[simp] theorem State.modLaunch_remote (s : State) (k : Nat) (f : Launch → Launch) : (s.modLaunch k f).remote = s.remote := rfl
@[simp] theorem State.modLaunch_l1 (s : State) (k : Nat) (f : Launch → Launch) : (s.modLaunch k f).l1 = s.l1 := rfl
@[simp] theorem State.modLaunch_quads (s : State) (k : Nat) (f : Launch → Launch) : (s.modLaunch k f).quads = s.quads := rfl
@[simp] theorem State.modLaunch_l2 (s : State) (k : Nat) (f : Launch → Launch) : (s.modLaunch k f).l2 = s.l2 := rfl
@[simp] theorem State.modLaunch_late (s : State) (k : Nat) (f : Launch → Launch) : (s.modLaunch k f).late = s.late := rfl
@[simp] theorem State.modLaunch_icache (s : State) (k : Nat) (f : Launch → Launch) : (s.modLaunch k f).icache = s.icache := rfl
@[simp] theorem State.modLaunch_tlb (s : State) (k : Nat) (f : Launch → Launch) : (s.modLaunch k f).tlb = s.tlb := rfl
@[simp] theorem State.modLaunch_poison (s : State) (k : Nat) (f : Launch → Launch) : (s.modLaunch k f).poison = s.poison := rfl
@[simp] theorem State.modLaunch_lxs (s : State) (k : Nat) (f : Launch → Launch) : (s.modLaunch k f).lxs = s.lxs := rfl
@[simp] theorem State.modLaunch_lxp (s : State) (k : Nat) (f : Launch → Launch) : (s.modLaunch k f).lxp = s.lxp := rfl
@[simp] theorem State.modLaunch_lxt (s : State) (k : Nat) (f : Launch → Launch) : (s.modLaunch k f).lxt = s.lxt := rfl
@[simp] theorem State.modLaunch_preset (s : State) (k : Nat) (f : Launch → Launch) : (s.modLaunch k f).preset = s.preset := rfl
@[simp] theorem State.modLaunch_round (s : State) (k : Nat) (f : Launch → Launch) : (s.modLaunch k f).round = s.round := rfl
@[simp] theorem State.modLaunch_boundary (s : State) (k : Nat) (f : Launch → Launch) : (s.modLaunch k f).boundary = s.boundary := rfl
@[simp] theorem State.modLaunch_dirtyCnt (s : State) (k : Nat) (f : Launch → Launch) : (s.modLaunch k f).dirtyCnt = s.dirtyCnt := rfl
@[simp] theorem State.modLaunch_latSends (s : State) (k : Nat) (f : Launch → Launch) : (s.modLaunch k f).latSends = s.latSends := rfl
@[simp] theorem State.modLaunch_perfsel (s : State) (k : Nat) (f : Launch → Launch) : (s.modLaunch k f).perfsel = s.perfsel := rfl
@[simp] theorem State.modLaunch_perf (s : State) (k : Nat) (f : Launch → Launch) : (s.modLaunch k f).perf = s.perf := rfl
@[simp] theorem State.modLaunch_lastIn (s : State) (k : Nat) (f : Launch → Launch) : (s.modLaunch k f).lastIn = s.lastIn := rfl
@[simp] theorem State.modLaunch_searches (s : State) (k : Nat) (f : Launch → Launch) : (s.modLaunch k f).searches = s.searches := rfl
@[simp] theorem State.modLaunch_io (s : State) (k : Nat) (f : Launch → Launch) : (s.modLaunch k f).io = s.io := rfl
@[simp] theorem State.modLaunch_out (s : State) (k : Nat) (f : Launch → Launch) : (s.modLaunch k f).out = s.out := rfl
@[simp] theorem State.modLaunch_contexts (s : State) (k : Nat) (f : Launch → Launch) : (s.modLaunch k f).contexts = s.contexts := rfl
@[simp] theorem State.modLaunch_saved (s : State) (k : Nat) (f : Launch → Launch) : (s.modLaunch k f).saved = s.saved := rfl
@[simp] theorem State.modLaunch_launches (s : State) (k : Nat) (f : Launch → Launch) : (s.modLaunch k f).launches = s.launches.map fun l => if l.lkey == k then f l else l := rfl
@[simp] theorem State.modLaunch_teams (s : State) (k : Nat) (f : Launch → Launch) : (s.modLaunch k f).teams = s.teams := rfl
@[simp] theorem State.modLaunch_gangs (s : State) (k : Nat) (f : Launch → Launch) : (s.modLaunch k f).gangs = s.gangs := rfl
@[simp] theorem State.modLaunch_deques (s : State) (k : Nat) (f : Launch → Launch) : (s.modLaunch k f).deques = s.deques := rfl
@[simp] theorem State.modLaunch_slots (s : State) (k : Nat) (f : Launch → Launch) : (s.modLaunch k f).slots = s.slots := rfl
@[simp] theorem State.modLaunch_cmds (s : State) (k : Nat) (f : Launch → Launch) : (s.modLaunch k f).cmds = s.cmds := rfl
@[simp] theorem State.modLaunch_monitors (s : State) (k : Nat) (f : Launch → Launch) : (s.modLaunch k f).monitors = s.monitors := rfl
@[simp] theorem State.modLaunch_watches (s : State) (k : Nat) (f : Launch → Launch) : (s.modLaunch k f).watches = s.watches := rfl
@[simp] theorem State.modLaunch_filter (s : State) (k : Nat) (f : Launch → Launch) : (s.modLaunch k f).filter = s.filter := rfl
@[simp] theorem State.modLaunch_strands (s : State) (k : Nat) (f : Launch → Launch) : (s.modLaunch k f).strands = s.strands := rfl
@[simp] theorem State.modLaunch_waits (s : State) (k : Nat) (f : Launch → Launch) : (s.modLaunch k f).waits = s.waits := rfl
@[simp] theorem State.modLaunch_snap (s : State) (k : Nat) (f : Launch → Launch) : (s.modLaunch k f).snap = s.snap := rfl
@[simp] theorem State.modLaunch_colours (s : State) (k : Nat) (f : Launch → Launch) : (s.modLaunch k f).colours = s.colours := rfl
@[simp] theorem State.modLaunch_freePage (s : State) (k : Nat) (f : Launch → Launch) : (s.modLaunch k f).freePage = s.freePage := rfl
@[simp] theorem State.modLaunch_fresh (s : State) (k : Nat) (f : Launch → Launch) : (s.modLaunch k f).fresh = s.fresh := rfl
@[simp] theorem State.modLaunch_wrote (s : State) (k : Nat) (f : Launch → Launch) : (s.modLaunch k f).wrote = s.wrote := rfl
@[simp] theorem State.modLaunch_agenda (s : State) (k : Nat) (f : Launch → Launch) : (s.modLaunch k f).agenda = s.agenda := rfl
@[simp] theorem State.modLaunch_cur (s : State) (k : Nat) (f : Launch → Launch) : (s.modLaunch k f).cur = s.cur := rfl

/-! ## modCtx -/

@[simp] theorem State.modCtx_clock (s : State) (k : Nat) (f : Context → Context) : (s.modCtx k f).clock = s.clock := rfl
@[simp] theorem State.modCtx_stamp (s : State) (k : Nat) (f : Context → Context) : (s.modCtx k f).stamp = s.stamp := rfl
@[simp] theorem State.modCtx_booted (s : State) (k : Nat) (f : Context → Context) : (s.modCtx k f).booted = s.booted := rfl
@[simp] theorem State.modCtx_recovery (s : State) (k : Nat) (f : Context → Context) : (s.modCtx k f).recovery = s.recovery := rfl
@[simp] theorem State.modCtx_shutdown (s : State) (k : Nat) (f : Context → Context) : (s.modCtx k f).shutdown = s.shutdown := rfl
@[simp] theorem State.modCtx_sigOk (s : State) (k : Nat) (f : Context → Context) : (s.modCtx k f).sigOk = s.sigOk := rfl
@[simp] theorem State.modCtx_mhz (s : State) (k : Nat) (f : Context → Context) : (s.modCtx k f).mhz = s.mhz := rfl
@[simp] theorem State.modCtx_powerCap (s : State) (k : Nat) (f : Context → Context) : (s.modCtx k f).powerCap = s.powerCap := rfl
@[simp] theorem State.modCtx_throttled (s : State) (k : Nat) (f : Context → Context) : (s.modCtx k f).throttled = s.throttled := rfl
@[simp] theorem State.modCtx_eccCorrected (s : State) (k : Nat) (f : Context → Context) : (s.modCtx k f).eccCorrected = s.eccCorrected := rfl
@[simp] theorem State.modCtx_mem (s : State) (k : Nat) (f : Context → Context) : (s.modCtx k f).mem = s.mem := rfl
@[simp] theorem State.modCtx_remote (s : State) (k : Nat) (f : Context → Context) : (s.modCtx k f).remote = s.remote := rfl
@[simp] theorem State.modCtx_l1 (s : State) (k : Nat) (f : Context → Context) : (s.modCtx k f).l1 = s.l1 := rfl
@[simp] theorem State.modCtx_quads (s : State) (k : Nat) (f : Context → Context) : (s.modCtx k f).quads = s.quads := rfl
@[simp] theorem State.modCtx_l2 (s : State) (k : Nat) (f : Context → Context) : (s.modCtx k f).l2 = s.l2 := rfl
@[simp] theorem State.modCtx_late (s : State) (k : Nat) (f : Context → Context) : (s.modCtx k f).late = s.late := rfl
@[simp] theorem State.modCtx_icache (s : State) (k : Nat) (f : Context → Context) : (s.modCtx k f).icache = s.icache := rfl
@[simp] theorem State.modCtx_tlb (s : State) (k : Nat) (f : Context → Context) : (s.modCtx k f).tlb = s.tlb := rfl
@[simp] theorem State.modCtx_poison (s : State) (k : Nat) (f : Context → Context) : (s.modCtx k f).poison = s.poison := rfl
@[simp] theorem State.modCtx_lxs (s : State) (k : Nat) (f : Context → Context) : (s.modCtx k f).lxs = s.lxs := rfl
@[simp] theorem State.modCtx_lxp (s : State) (k : Nat) (f : Context → Context) : (s.modCtx k f).lxp = s.lxp := rfl
@[simp] theorem State.modCtx_lxt (s : State) (k : Nat) (f : Context → Context) : (s.modCtx k f).lxt = s.lxt := rfl
@[simp] theorem State.modCtx_preset (s : State) (k : Nat) (f : Context → Context) : (s.modCtx k f).preset = s.preset := rfl
@[simp] theorem State.modCtx_round (s : State) (k : Nat) (f : Context → Context) : (s.modCtx k f).round = s.round := rfl
@[simp] theorem State.modCtx_boundary (s : State) (k : Nat) (f : Context → Context) : (s.modCtx k f).boundary = s.boundary := rfl
@[simp] theorem State.modCtx_dirtyCnt (s : State) (k : Nat) (f : Context → Context) : (s.modCtx k f).dirtyCnt = s.dirtyCnt := rfl
@[simp] theorem State.modCtx_latSends (s : State) (k : Nat) (f : Context → Context) : (s.modCtx k f).latSends = s.latSends := rfl
@[simp] theorem State.modCtx_perfsel (s : State) (k : Nat) (f : Context → Context) : (s.modCtx k f).perfsel = s.perfsel := rfl
@[simp] theorem State.modCtx_perf (s : State) (k : Nat) (f : Context → Context) : (s.modCtx k f).perf = s.perf := rfl
@[simp] theorem State.modCtx_lastIn (s : State) (k : Nat) (f : Context → Context) : (s.modCtx k f).lastIn = s.lastIn := rfl
@[simp] theorem State.modCtx_searches (s : State) (k : Nat) (f : Context → Context) : (s.modCtx k f).searches = s.searches := rfl
@[simp] theorem State.modCtx_io (s : State) (k : Nat) (f : Context → Context) : (s.modCtx k f).io = s.io := rfl
@[simp] theorem State.modCtx_out (s : State) (k : Nat) (f : Context → Context) : (s.modCtx k f).out = s.out := rfl
@[simp] theorem State.modCtx_contexts (s : State) (k : Nat) (f : Context → Context) : (s.modCtx k f).contexts = s.contexts.map fun c => if c.num == k then f c else c := rfl
@[simp] theorem State.modCtx_saved (s : State) (k : Nat) (f : Context → Context) : (s.modCtx k f).saved = s.saved := rfl
@[simp] theorem State.modCtx_launches (s : State) (k : Nat) (f : Context → Context) : (s.modCtx k f).launches = s.launches := rfl
@[simp] theorem State.modCtx_teams (s : State) (k : Nat) (f : Context → Context) : (s.modCtx k f).teams = s.teams := rfl
@[simp] theorem State.modCtx_gangs (s : State) (k : Nat) (f : Context → Context) : (s.modCtx k f).gangs = s.gangs := rfl
@[simp] theorem State.modCtx_deques (s : State) (k : Nat) (f : Context → Context) : (s.modCtx k f).deques = s.deques := rfl
@[simp] theorem State.modCtx_slots (s : State) (k : Nat) (f : Context → Context) : (s.modCtx k f).slots = s.slots := rfl
@[simp] theorem State.modCtx_cmds (s : State) (k : Nat) (f : Context → Context) : (s.modCtx k f).cmds = s.cmds := rfl
@[simp] theorem State.modCtx_monitors (s : State) (k : Nat) (f : Context → Context) : (s.modCtx k f).monitors = s.monitors := rfl
@[simp] theorem State.modCtx_watches (s : State) (k : Nat) (f : Context → Context) : (s.modCtx k f).watches = s.watches := rfl
@[simp] theorem State.modCtx_filter (s : State) (k : Nat) (f : Context → Context) : (s.modCtx k f).filter = s.filter := rfl
@[simp] theorem State.modCtx_strands (s : State) (k : Nat) (f : Context → Context) : (s.modCtx k f).strands = s.strands := rfl
@[simp] theorem State.modCtx_waits (s : State) (k : Nat) (f : Context → Context) : (s.modCtx k f).waits = s.waits := rfl
@[simp] theorem State.modCtx_snap (s : State) (k : Nat) (f : Context → Context) : (s.modCtx k f).snap = s.snap := rfl
@[simp] theorem State.modCtx_colours (s : State) (k : Nat) (f : Context → Context) : (s.modCtx k f).colours = s.colours := rfl
@[simp] theorem State.modCtx_freePage (s : State) (k : Nat) (f : Context → Context) : (s.modCtx k f).freePage = s.freePage := rfl
@[simp] theorem State.modCtx_fresh (s : State) (k : Nat) (f : Context → Context) : (s.modCtx k f).fresh = s.fresh := rfl
@[simp] theorem State.modCtx_wrote (s : State) (k : Nat) (f : Context → Context) : (s.modCtx k f).wrote = s.wrote := rfl
@[simp] theorem State.modCtx_agenda (s : State) (k : Nat) (f : Context → Context) : (s.modCtx k f).agenda = s.agenda := rfl
@[simp] theorem State.modCtx_cur (s : State) (k : Nat) (f : Context → Context) : (s.modCtx k f).cur = s.cur := rfl

/-! ## modCmd -/

@[simp] theorem State.modCmd_clock (s : State) (k : Nat) (f : Command → Command) : (s.modCmd k f).clock = s.clock := rfl
@[simp] theorem State.modCmd_stamp (s : State) (k : Nat) (f : Command → Command) : (s.modCmd k f).stamp = s.stamp := rfl
@[simp] theorem State.modCmd_booted (s : State) (k : Nat) (f : Command → Command) : (s.modCmd k f).booted = s.booted := rfl
@[simp] theorem State.modCmd_recovery (s : State) (k : Nat) (f : Command → Command) : (s.modCmd k f).recovery = s.recovery := rfl
@[simp] theorem State.modCmd_shutdown (s : State) (k : Nat) (f : Command → Command) : (s.modCmd k f).shutdown = s.shutdown := rfl
@[simp] theorem State.modCmd_sigOk (s : State) (k : Nat) (f : Command → Command) : (s.modCmd k f).sigOk = s.sigOk := rfl
@[simp] theorem State.modCmd_mhz (s : State) (k : Nat) (f : Command → Command) : (s.modCmd k f).mhz = s.mhz := rfl
@[simp] theorem State.modCmd_powerCap (s : State) (k : Nat) (f : Command → Command) : (s.modCmd k f).powerCap = s.powerCap := rfl
@[simp] theorem State.modCmd_throttled (s : State) (k : Nat) (f : Command → Command) : (s.modCmd k f).throttled = s.throttled := rfl
@[simp] theorem State.modCmd_eccCorrected (s : State) (k : Nat) (f : Command → Command) : (s.modCmd k f).eccCorrected = s.eccCorrected := rfl
@[simp] theorem State.modCmd_mem (s : State) (k : Nat) (f : Command → Command) : (s.modCmd k f).mem = s.mem := rfl
@[simp] theorem State.modCmd_remote (s : State) (k : Nat) (f : Command → Command) : (s.modCmd k f).remote = s.remote := rfl
@[simp] theorem State.modCmd_l1 (s : State) (k : Nat) (f : Command → Command) : (s.modCmd k f).l1 = s.l1 := rfl
@[simp] theorem State.modCmd_quads (s : State) (k : Nat) (f : Command → Command) : (s.modCmd k f).quads = s.quads := rfl
@[simp] theorem State.modCmd_l2 (s : State) (k : Nat) (f : Command → Command) : (s.modCmd k f).l2 = s.l2 := rfl
@[simp] theorem State.modCmd_late (s : State) (k : Nat) (f : Command → Command) : (s.modCmd k f).late = s.late := rfl
@[simp] theorem State.modCmd_icache (s : State) (k : Nat) (f : Command → Command) : (s.modCmd k f).icache = s.icache := rfl
@[simp] theorem State.modCmd_tlb (s : State) (k : Nat) (f : Command → Command) : (s.modCmd k f).tlb = s.tlb := rfl
@[simp] theorem State.modCmd_poison (s : State) (k : Nat) (f : Command → Command) : (s.modCmd k f).poison = s.poison := rfl
@[simp] theorem State.modCmd_lxs (s : State) (k : Nat) (f : Command → Command) : (s.modCmd k f).lxs = s.lxs := rfl
@[simp] theorem State.modCmd_lxp (s : State) (k : Nat) (f : Command → Command) : (s.modCmd k f).lxp = s.lxp := rfl
@[simp] theorem State.modCmd_lxt (s : State) (k : Nat) (f : Command → Command) : (s.modCmd k f).lxt = s.lxt := rfl
@[simp] theorem State.modCmd_preset (s : State) (k : Nat) (f : Command → Command) : (s.modCmd k f).preset = s.preset := rfl
@[simp] theorem State.modCmd_round (s : State) (k : Nat) (f : Command → Command) : (s.modCmd k f).round = s.round := rfl
@[simp] theorem State.modCmd_boundary (s : State) (k : Nat) (f : Command → Command) : (s.modCmd k f).boundary = s.boundary := rfl
@[simp] theorem State.modCmd_dirtyCnt (s : State) (k : Nat) (f : Command → Command) : (s.modCmd k f).dirtyCnt = s.dirtyCnt := rfl
@[simp] theorem State.modCmd_latSends (s : State) (k : Nat) (f : Command → Command) : (s.modCmd k f).latSends = s.latSends := rfl
@[simp] theorem State.modCmd_perfsel (s : State) (k : Nat) (f : Command → Command) : (s.modCmd k f).perfsel = s.perfsel := rfl
@[simp] theorem State.modCmd_perf (s : State) (k : Nat) (f : Command → Command) : (s.modCmd k f).perf = s.perf := rfl
@[simp] theorem State.modCmd_lastIn (s : State) (k : Nat) (f : Command → Command) : (s.modCmd k f).lastIn = s.lastIn := rfl
@[simp] theorem State.modCmd_searches (s : State) (k : Nat) (f : Command → Command) : (s.modCmd k f).searches = s.searches := rfl
@[simp] theorem State.modCmd_io (s : State) (k : Nat) (f : Command → Command) : (s.modCmd k f).io = s.io := rfl
@[simp] theorem State.modCmd_out (s : State) (k : Nat) (f : Command → Command) : (s.modCmd k f).out = s.out := rfl
@[simp] theorem State.modCmd_contexts (s : State) (k : Nat) (f : Command → Command) : (s.modCmd k f).contexts = s.contexts := rfl
@[simp] theorem State.modCmd_saved (s : State) (k : Nat) (f : Command → Command) : (s.modCmd k f).saved = s.saved := rfl
@[simp] theorem State.modCmd_launches (s : State) (k : Nat) (f : Command → Command) : (s.modCmd k f).launches = s.launches := rfl
@[simp] theorem State.modCmd_teams (s : State) (k : Nat) (f : Command → Command) : (s.modCmd k f).teams = s.teams := rfl
@[simp] theorem State.modCmd_gangs (s : State) (k : Nat) (f : Command → Command) : (s.modCmd k f).gangs = s.gangs := rfl
@[simp] theorem State.modCmd_deques (s : State) (k : Nat) (f : Command → Command) : (s.modCmd k f).deques = s.deques := rfl
@[simp] theorem State.modCmd_slots (s : State) (k : Nat) (f : Command → Command) : (s.modCmd k f).slots = s.slots := rfl
@[simp] theorem State.modCmd_cmds (s : State) (k : Nat) (f : Command → Command) : (s.modCmd k f).cmds = s.cmds.map fun c => if c.cid == k then f c else c := rfl
@[simp] theorem State.modCmd_monitors (s : State) (k : Nat) (f : Command → Command) : (s.modCmd k f).monitors = s.monitors := rfl
@[simp] theorem State.modCmd_watches (s : State) (k : Nat) (f : Command → Command) : (s.modCmd k f).watches = s.watches := rfl
@[simp] theorem State.modCmd_filter (s : State) (k : Nat) (f : Command → Command) : (s.modCmd k f).filter = s.filter := rfl
@[simp] theorem State.modCmd_strands (s : State) (k : Nat) (f : Command → Command) : (s.modCmd k f).strands = s.strands := rfl
@[simp] theorem State.modCmd_waits (s : State) (k : Nat) (f : Command → Command) : (s.modCmd k f).waits = s.waits := rfl
@[simp] theorem State.modCmd_snap (s : State) (k : Nat) (f : Command → Command) : (s.modCmd k f).snap = s.snap := rfl
@[simp] theorem State.modCmd_colours (s : State) (k : Nat) (f : Command → Command) : (s.modCmd k f).colours = s.colours := rfl
@[simp] theorem State.modCmd_freePage (s : State) (k : Nat) (f : Command → Command) : (s.modCmd k f).freePage = s.freePage := rfl
@[simp] theorem State.modCmd_fresh (s : State) (k : Nat) (f : Command → Command) : (s.modCmd k f).fresh = s.fresh := rfl
@[simp] theorem State.modCmd_wrote (s : State) (k : Nat) (f : Command → Command) : (s.modCmd k f).wrote = s.wrote := rfl
@[simp] theorem State.modCmd_agenda (s : State) (k : Nat) (f : Command → Command) : (s.modCmd k f).agenda = s.agenda := rfl
@[simp] theorem State.modCmd_cur (s : State) (k : Nat) (f : Command → Command) : (s.modCmd k f).cur = s.cur := rfl

/-! ## perfSet -/

@[simp] theorem State.perfSet_clock (s : State) (c k : Nat) (v : Word) : (s.perfSet c k v).clock = s.clock := rfl
@[simp] theorem State.perfSet_stamp (s : State) (c k : Nat) (v : Word) : (s.perfSet c k v).stamp = s.stamp := rfl
@[simp] theorem State.perfSet_booted (s : State) (c k : Nat) (v : Word) : (s.perfSet c k v).booted = s.booted := rfl
@[simp] theorem State.perfSet_recovery (s : State) (c k : Nat) (v : Word) : (s.perfSet c k v).recovery = s.recovery := rfl
@[simp] theorem State.perfSet_shutdown (s : State) (c k : Nat) (v : Word) : (s.perfSet c k v).shutdown = s.shutdown := rfl
@[simp] theorem State.perfSet_sigOk (s : State) (c k : Nat) (v : Word) : (s.perfSet c k v).sigOk = s.sigOk := rfl
@[simp] theorem State.perfSet_mhz (s : State) (c k : Nat) (v : Word) : (s.perfSet c k v).mhz = s.mhz := rfl
@[simp] theorem State.perfSet_powerCap (s : State) (c k : Nat) (v : Word) : (s.perfSet c k v).powerCap = s.powerCap := rfl
@[simp] theorem State.perfSet_throttled (s : State) (c k : Nat) (v : Word) : (s.perfSet c k v).throttled = s.throttled := rfl
@[simp] theorem State.perfSet_eccCorrected (s : State) (c k : Nat) (v : Word) : (s.perfSet c k v).eccCorrected = s.eccCorrected := rfl
@[simp] theorem State.perfSet_mem (s : State) (c k : Nat) (v : Word) : (s.perfSet c k v).mem = s.mem := rfl
@[simp] theorem State.perfSet_remote (s : State) (c k : Nat) (v : Word) : (s.perfSet c k v).remote = s.remote := rfl
@[simp] theorem State.perfSet_l1 (s : State) (c k : Nat) (v : Word) : (s.perfSet c k v).l1 = s.l1 := rfl
@[simp] theorem State.perfSet_quads (s : State) (c k : Nat) (v : Word) : (s.perfSet c k v).quads = s.quads := rfl
@[simp] theorem State.perfSet_l2 (s : State) (c k : Nat) (v : Word) : (s.perfSet c k v).l2 = s.l2 := rfl
@[simp] theorem State.perfSet_late (s : State) (c k : Nat) (v : Word) : (s.perfSet c k v).late = s.late := rfl
@[simp] theorem State.perfSet_icache (s : State) (c k : Nat) (v : Word) : (s.perfSet c k v).icache = s.icache := rfl
@[simp] theorem State.perfSet_tlb (s : State) (c k : Nat) (v : Word) : (s.perfSet c k v).tlb = s.tlb := rfl
@[simp] theorem State.perfSet_poison (s : State) (c k : Nat) (v : Word) : (s.perfSet c k v).poison = s.poison := rfl
@[simp] theorem State.perfSet_lxs (s : State) (c k : Nat) (v : Word) : (s.perfSet c k v).lxs = s.lxs := rfl
@[simp] theorem State.perfSet_lxp (s : State) (c k : Nat) (v : Word) : (s.perfSet c k v).lxp = s.lxp := rfl
@[simp] theorem State.perfSet_lxt (s : State) (c k : Nat) (v : Word) : (s.perfSet c k v).lxt = s.lxt := rfl
@[simp] theorem State.perfSet_preset (s : State) (c k : Nat) (v : Word) : (s.perfSet c k v).preset = s.preset := rfl
@[simp] theorem State.perfSet_round (s : State) (c k : Nat) (v : Word) : (s.perfSet c k v).round = s.round := rfl
@[simp] theorem State.perfSet_boundary (s : State) (c k : Nat) (v : Word) : (s.perfSet c k v).boundary = s.boundary := rfl
@[simp] theorem State.perfSet_dirtyCnt (s : State) (c k : Nat) (v : Word) : (s.perfSet c k v).dirtyCnt = s.dirtyCnt := rfl
@[simp] theorem State.perfSet_latSends (s : State) (c k : Nat) (v : Word) : (s.perfSet c k v).latSends = s.latSends := rfl
@[simp] theorem State.perfSet_perfsel (s : State) (c k : Nat) (v : Word) : (s.perfSet c k v).perfsel = s.perfsel := rfl
@[simp] theorem State.perfSet_lastIn (s : State) (c k : Nat) (v : Word) : (s.perfSet c k v).lastIn = s.lastIn := rfl
@[simp] theorem State.perfSet_searches (s : State) (c k : Nat) (v : Word) : (s.perfSet c k v).searches = s.searches := rfl
@[simp] theorem State.perfSet_io (s : State) (c k : Nat) (v : Word) : (s.perfSet c k v).io = s.io := rfl
@[simp] theorem State.perfSet_out (s : State) (c k : Nat) (v : Word) : (s.perfSet c k v).out = s.out := rfl
@[simp] theorem State.perfSet_contexts (s : State) (c k : Nat) (v : Word) : (s.perfSet c k v).contexts = s.contexts := rfl
@[simp] theorem State.perfSet_saved (s : State) (c k : Nat) (v : Word) : (s.perfSet c k v).saved = s.saved := rfl
@[simp] theorem State.perfSet_launches (s : State) (c k : Nat) (v : Word) : (s.perfSet c k v).launches = s.launches := rfl
@[simp] theorem State.perfSet_teams (s : State) (c k : Nat) (v : Word) : (s.perfSet c k v).teams = s.teams := rfl
@[simp] theorem State.perfSet_gangs (s : State) (c k : Nat) (v : Word) : (s.perfSet c k v).gangs = s.gangs := rfl
@[simp] theorem State.perfSet_deques (s : State) (c k : Nat) (v : Word) : (s.perfSet c k v).deques = s.deques := rfl
@[simp] theorem State.perfSet_slots (s : State) (c k : Nat) (v : Word) : (s.perfSet c k v).slots = s.slots := rfl
@[simp] theorem State.perfSet_cmds (s : State) (c k : Nat) (v : Word) : (s.perfSet c k v).cmds = s.cmds := rfl
@[simp] theorem State.perfSet_monitors (s : State) (c k : Nat) (v : Word) : (s.perfSet c k v).monitors = s.monitors := rfl
@[simp] theorem State.perfSet_watches (s : State) (c k : Nat) (v : Word) : (s.perfSet c k v).watches = s.watches := rfl
@[simp] theorem State.perfSet_filter (s : State) (c k : Nat) (v : Word) : (s.perfSet c k v).filter = s.filter := rfl
@[simp] theorem State.perfSet_strands (s : State) (c k : Nat) (v : Word) : (s.perfSet c k v).strands = s.strands := rfl
@[simp] theorem State.perfSet_waits (s : State) (c k : Nat) (v : Word) : (s.perfSet c k v).waits = s.waits := rfl
@[simp] theorem State.perfSet_snap (s : State) (c k : Nat) (v : Word) : (s.perfSet c k v).snap = s.snap := rfl
@[simp] theorem State.perfSet_colours (s : State) (c k : Nat) (v : Word) : (s.perfSet c k v).colours = s.colours := rfl
@[simp] theorem State.perfSet_freePage (s : State) (c k : Nat) (v : Word) : (s.perfSet c k v).freePage = s.freePage := rfl
@[simp] theorem State.perfSet_fresh (s : State) (c k : Nat) (v : Word) : (s.perfSet c k v).fresh = s.fresh := rfl
@[simp] theorem State.perfSet_wrote (s : State) (c k : Nat) (v : Word) : (s.perfSet c k v).wrote = s.wrote := rfl
@[simp] theorem State.perfSet_agenda (s : State) (c k : Nat) (v : Word) : (s.perfSet c k v).agenda = s.agenda := rfl
@[simp] theorem State.perfSet_cur (s : State) (c k : Nat) (v : Word) : (s.perfSet c k v).cur = s.cur := rfl

/-! ## freeMonitors -/

@[simp] theorem State.freeMonitors_clock (s : State) (k : Nat) : (s.freeMonitors k).clock = s.clock := rfl
@[simp] theorem State.freeMonitors_stamp (s : State) (k : Nat) : (s.freeMonitors k).stamp = s.stamp := rfl
@[simp] theorem State.freeMonitors_booted (s : State) (k : Nat) : (s.freeMonitors k).booted = s.booted := rfl
@[simp] theorem State.freeMonitors_recovery (s : State) (k : Nat) : (s.freeMonitors k).recovery = s.recovery := rfl
@[simp] theorem State.freeMonitors_shutdown (s : State) (k : Nat) : (s.freeMonitors k).shutdown = s.shutdown := rfl
@[simp] theorem State.freeMonitors_sigOk (s : State) (k : Nat) : (s.freeMonitors k).sigOk = s.sigOk := rfl
@[simp] theorem State.freeMonitors_mhz (s : State) (k : Nat) : (s.freeMonitors k).mhz = s.mhz := rfl
@[simp] theorem State.freeMonitors_powerCap (s : State) (k : Nat) : (s.freeMonitors k).powerCap = s.powerCap := rfl
@[simp] theorem State.freeMonitors_throttled (s : State) (k : Nat) : (s.freeMonitors k).throttled = s.throttled := rfl
@[simp] theorem State.freeMonitors_eccCorrected (s : State) (k : Nat) : (s.freeMonitors k).eccCorrected = s.eccCorrected := rfl
@[simp] theorem State.freeMonitors_mem (s : State) (k : Nat) : (s.freeMonitors k).mem = s.mem := rfl
@[simp] theorem State.freeMonitors_remote (s : State) (k : Nat) : (s.freeMonitors k).remote = s.remote := rfl
@[simp] theorem State.freeMonitors_l1 (s : State) (k : Nat) : (s.freeMonitors k).l1 = s.l1 := rfl
@[simp] theorem State.freeMonitors_quads (s : State) (k : Nat) : (s.freeMonitors k).quads = s.quads := rfl
@[simp] theorem State.freeMonitors_l2 (s : State) (k : Nat) : (s.freeMonitors k).l2 = s.l2 := rfl
@[simp] theorem State.freeMonitors_late (s : State) (k : Nat) : (s.freeMonitors k).late = s.late := rfl
@[simp] theorem State.freeMonitors_icache (s : State) (k : Nat) : (s.freeMonitors k).icache = s.icache := rfl
@[simp] theorem State.freeMonitors_tlb (s : State) (k : Nat) : (s.freeMonitors k).tlb = s.tlb := rfl
@[simp] theorem State.freeMonitors_poison (s : State) (k : Nat) : (s.freeMonitors k).poison = s.poison := rfl
@[simp] theorem State.freeMonitors_lxs (s : State) (k : Nat) : (s.freeMonitors k).lxs = s.lxs := rfl
@[simp] theorem State.freeMonitors_lxp (s : State) (k : Nat) : (s.freeMonitors k).lxp = s.lxp := rfl
@[simp] theorem State.freeMonitors_lxt (s : State) (k : Nat) : (s.freeMonitors k).lxt = s.lxt := rfl
@[simp] theorem State.freeMonitors_preset (s : State) (k : Nat) : (s.freeMonitors k).preset = s.preset := rfl
@[simp] theorem State.freeMonitors_round (s : State) (k : Nat) : (s.freeMonitors k).round = s.round := rfl
@[simp] theorem State.freeMonitors_boundary (s : State) (k : Nat) : (s.freeMonitors k).boundary = s.boundary := rfl
@[simp] theorem State.freeMonitors_dirtyCnt (s : State) (k : Nat) : (s.freeMonitors k).dirtyCnt = s.dirtyCnt := rfl
@[simp] theorem State.freeMonitors_latSends (s : State) (k : Nat) : (s.freeMonitors k).latSends = s.latSends := rfl
@[simp] theorem State.freeMonitors_perfsel (s : State) (k : Nat) : (s.freeMonitors k).perfsel = s.perfsel := rfl
@[simp] theorem State.freeMonitors_perf (s : State) (k : Nat) : (s.freeMonitors k).perf = s.perf := rfl
@[simp] theorem State.freeMonitors_lastIn (s : State) (k : Nat) : (s.freeMonitors k).lastIn = s.lastIn := rfl
@[simp] theorem State.freeMonitors_searches (s : State) (k : Nat) : (s.freeMonitors k).searches = s.searches := rfl
@[simp] theorem State.freeMonitors_io (s : State) (k : Nat) : (s.freeMonitors k).io = s.io := rfl
@[simp] theorem State.freeMonitors_out (s : State) (k : Nat) : (s.freeMonitors k).out = s.out := rfl
@[simp] theorem State.freeMonitors_contexts (s : State) (k : Nat) : (s.freeMonitors k).contexts = s.contexts := rfl
@[simp] theorem State.freeMonitors_saved (s : State) (k : Nat) : (s.freeMonitors k).saved = s.saved := rfl
@[simp] theorem State.freeMonitors_launches (s : State) (k : Nat) : (s.freeMonitors k).launches = s.launches := rfl
@[simp] theorem State.freeMonitors_teams (s : State) (k : Nat) : (s.freeMonitors k).teams = s.teams := rfl
@[simp] theorem State.freeMonitors_gangs (s : State) (k : Nat) : (s.freeMonitors k).gangs = s.gangs := rfl
@[simp] theorem State.freeMonitors_deques (s : State) (k : Nat) : (s.freeMonitors k).deques = s.deques := rfl
@[simp] theorem State.freeMonitors_slots (s : State) (k : Nat) : (s.freeMonitors k).slots = s.slots := rfl
@[simp] theorem State.freeMonitors_cmds (s : State) (k : Nat) : (s.freeMonitors k).cmds = s.cmds := rfl
@[simp] theorem State.freeMonitors_filter (s : State) (k : Nat) : (s.freeMonitors k).filter = s.filter := rfl
@[simp] theorem State.freeMonitors_strands (s : State) (k : Nat) : (s.freeMonitors k).strands = s.strands := rfl
@[simp] theorem State.freeMonitors_waits (s : State) (k : Nat) : (s.freeMonitors k).waits = s.waits := rfl
@[simp] theorem State.freeMonitors_snap (s : State) (k : Nat) : (s.freeMonitors k).snap = s.snap := rfl
@[simp] theorem State.freeMonitors_colours (s : State) (k : Nat) : (s.freeMonitors k).colours = s.colours := rfl
@[simp] theorem State.freeMonitors_freePage (s : State) (k : Nat) : (s.freeMonitors k).freePage = s.freePage := rfl
@[simp] theorem State.freeMonitors_fresh (s : State) (k : Nat) : (s.freeMonitors k).fresh = s.fresh := rfl
@[simp] theorem State.freeMonitors_wrote (s : State) (k : Nat) : (s.freeMonitors k).wrote = s.wrote := rfl
@[simp] theorem State.freeMonitors_agenda (s : State) (k : Nat) : (s.freeMonitors k).agenda = s.agenda := rfl
@[simp] theorem State.freeMonitors_cur (s : State) (k : Nat) : (s.freeMonitors k).cur = s.cur := rfl

/-! ## Gang.setS -/

@[simp] theorem Gang.setS_gid (g : Gang) (n : Nat) (v : Word) : (g.setS n v).gid = g.gid := rfl
@[simp] theorem Gang.setS_lkey (g : Gang) (n : Nat) (v : Word) : (g.setS n v).lkey = g.lkey := rfl
@[simp] theorem Gang.setS_ctx (g : Gang) (n : Nat) (v : Word) : (g.setS n v).ctx = g.ctx := rfl
@[simp] theorem Gang.setS_team (g : Gang) (n : Nat) (v : Word) : (g.setS n v).team = g.team := rfl
@[simp] theorem Gang.setS_parent (g : Gang) (n : Nat) (v : Word) : (g.setS n v).parent = g.parent := rfl
@[simp] theorem Gang.setS_rank (g : Gang) (n : Nat) (v : Word) : (g.setS n v).rank = g.rank := rfl
@[simp] theorem Gang.setS_core (g : Gang) (n : Nat) (v : Word) : (g.setS n v).core = g.core := rfl
@[simp] theorem Gang.setS_part (g : Gang) (n : Nat) (v : Word) : (g.setS n v).part = g.part := rfl
@[simp] theorem Gang.setS_width (g : Gang) (n : Nat) (v : Word) : (g.setS n v).width = g.width := rfl
@[simp] theorem Gang.setS_vregs (g : Gang) (n : Nat) (v : Word) : (g.setS n v).vregs = g.vregs := rfl
@[simp] theorem Gang.setS_sregs (g : Gang) (n : Nat) (v : Word) : (g.setS n v).sregs = g.sregs.set n v := rfl
@[simp] theorem Gang.setS_q (g : Gang) (n : Nat) (v : Word) : (g.setS n v).q = g.q := rfl
@[simp] theorem Gang.setS_m (g : Gang) (n : Nat) (v : Word) : (g.setS n v).m = g.m := rfl
@[simp] theorem Gang.setS_live (g : Gang) (n : Nat) (v : Word) : (g.setS n v).live = g.live := rfl
@[simp] theorem Gang.setS_ped (g : Gang) (n : Nat) (v : Word) : (g.setS n v).ped = g.ped := rfl
@[simp] theorem Gang.setS_arena (g : Gang) (n : Nat) (v : Word) : (g.setS n v).arena = g.arena := rfl
@[simp] theorem Gang.setS_views (g : Gang) (n : Nat) (v : Word) : (g.setS n v).views = g.views := rfl
@[simp] theorem Gang.setS_stat (g : Gang) (n : Nat) (v : Word) : (g.setS n v).stat = g.stat := rfl
@[simp] theorem Gang.setS_statarm (g : Gang) (n : Nat) (v : Word) : (g.setS n v).statarm = g.statarm := rfl
@[simp] theorem Gang.setS_seed (g : Gang) (n : Nat) (v : Word) : (g.setS n v).seed = g.seed := rfl
@[simp] theorem Gang.setS_tvec (g : Gang) (n : Nat) (v : Word) : (g.setS n v).tvec = g.tvec := rfl
@[simp] theorem Gang.setS_gangId (g : Gang) (n : Nat) (v : Word) : (g.setS n v).gangId = g.gangId := rfl
@[simp] theorem Gang.setS_teamId (g : Gang) (n : Nat) (v : Word) : (g.setS n v).teamId = g.teamId := rfl
@[simp] theorem Gang.setS_prio (g : Gang) (n : Nat) (v : Word) : (g.setS n v).prio = g.prio := rfl
@[simp] theorem Gang.setS_tcause (g : Gang) (n : Nat) (v : Word) : (g.setS n v).tcause = g.tcause := rfl
@[simp] theorem Gang.setS_tepc (g : Gang) (n : Nat) (v : Word) : (g.setS n v).tepc = g.tepc := rfl
@[simp] theorem Gang.setS_tmask (g : Gang) (n : Nat) (v : Word) : (g.setS n v).tmask = g.tmask := rfl
@[simp] theorem Gang.setS_tmaskh (g : Gang) (n : Nat) (v : Word) : (g.setS n v).tmaskh = g.tmaskh := rfl
@[simp] theorem Gang.setS_taddr (g : Gang) (n : Nat) (v : Word) : (g.setS n v).taddr = g.taddr := rfl
@[simp] theorem Gang.setS_taddrh (g : Gang) (n : Nat) (v : Word) : (g.setS n v).taddrh = g.taddrh := rfl
@[simp] theorem Gang.setS_tinfo (g : Gang) (n : Nat) (v : Word) : (g.setS n v).tinfo = g.tinfo := rfl
@[simp] theorem Gang.setS_batches (g : Gang) (n : Nat) (v : Word) : (g.setS n v).batches = g.batches := rfl
@[simp] theorem Gang.setS_trap (g : Gang) (n : Nat) (v : Word) : (g.setS n v).trap = g.trap := rfl
@[simp] theorem Gang.setS_pending (g : Gang) (n : Nat) (v : Word) : (g.setS n v).pending = g.pending := rfl
@[simp] theorem Gang.setS_fibres (g : Gang) (n : Nat) (v : Word) : (g.setS n v).fibres = g.fibres := rfl
@[simp] theorem Gang.setS_turns (g : Gang) (n : Nat) (v : Word) : (g.setS n v).turns = g.turns := rfl
@[simp] theorem Gang.setS_openTurn (g : Gang) (n : Nat) (v : Word) : (g.setS n v).openTurn = g.openTurn := rfl
@[simp] theorem Gang.setS_outstanding (g : Gang) (n : Nat) (v : Word) : (g.setS n v).outstanding = g.outstanding := rfl
@[simp] theorem Gang.setS_finals (g : Gang) (n : Nat) (v : Word) : (g.setS n v).finals = g.finals := rfl
@[simp] theorem Gang.setS_arrived (g : Gang) (n : Nat) (v : Word) : (g.setS n v).arrived = g.arrived := rfl
@[simp] theorem Gang.setS_cmdSeq (g : Gang) (n : Nat) (v : Word) : (g.setS n v).cmdSeq = g.cmdSeq := rfl
@[simp] theorem Gang.setS_joined (g : Gang) (n : Nat) (v : Word) : (g.setS n v).joined = g.joined := rfl
@[simp] theorem Gang.setS_ibuf (g : Gang) (n : Nat) (v : Word) : (g.setS n v).ibuf = g.ibuf := rfl
@[simp] theorem Gang.setS_sched (g : Gang) (n : Nat) (v : Word) : (g.setS n v).sched = g.sched := rfl
@[simp] theorem Gang.setS_exited (g : Gang) (n : Nat) (v : Word) : (g.setS n v).exited = g.exited := rfl
@[simp] theorem Gang.setS_inlined (g : Gang) (n : Nat) (v : Word) : (g.setS n v).inlined = g.inlined := rfl
@[simp] theorem Gang.setS_inlineFan (g : Gang) (n : Nat) (v : Word) : (g.setS n v).inlineFan = g.inlineFan := rfl
@[simp] theorem Gang.setS_poisonS (g : Gang) (n : Nat) (v : Word) : (g.setS n v).poisonS = g.poisonS.filter (· != n) := rfl
@[simp] theorem Gang.setS_behind (g : Gang) (n : Nat) (v : Word) : (g.setS n v).behind = g.behind := rfl
@[simp] theorem Gang.setS_owed (g : Gang) (n : Nat) (v : Word) : (g.setS n v).owed = g.owed := rfl

/-! ## Gang.setS2 -/

@[simp] theorem Gang.setS2_gid (g : Gang) (n : Nat) (v : DWord) : (g.setS2 n v).gid = g.gid := rfl
@[simp] theorem Gang.setS2_lkey (g : Gang) (n : Nat) (v : DWord) : (g.setS2 n v).lkey = g.lkey := rfl
@[simp] theorem Gang.setS2_ctx (g : Gang) (n : Nat) (v : DWord) : (g.setS2 n v).ctx = g.ctx := rfl
@[simp] theorem Gang.setS2_team (g : Gang) (n : Nat) (v : DWord) : (g.setS2 n v).team = g.team := rfl
@[simp] theorem Gang.setS2_parent (g : Gang) (n : Nat) (v : DWord) : (g.setS2 n v).parent = g.parent := rfl
@[simp] theorem Gang.setS2_rank (g : Gang) (n : Nat) (v : DWord) : (g.setS2 n v).rank = g.rank := rfl
@[simp] theorem Gang.setS2_core (g : Gang) (n : Nat) (v : DWord) : (g.setS2 n v).core = g.core := rfl
@[simp] theorem Gang.setS2_part (g : Gang) (n : Nat) (v : DWord) : (g.setS2 n v).part = g.part := rfl
@[simp] theorem Gang.setS2_width (g : Gang) (n : Nat) (v : DWord) : (g.setS2 n v).width = g.width := rfl
@[simp] theorem Gang.setS2_vregs (g : Gang) (n : Nat) (v : DWord) : (g.setS2 n v).vregs = g.vregs := rfl
@[simp] theorem Gang.setS2_sregs (g : Gang) (n : Nat) (v : DWord) : (g.setS2 n v).sregs = (g.sregs.set n (loWord v)).set (n + 1) (hiWord v) := rfl
@[simp] theorem Gang.setS2_q (g : Gang) (n : Nat) (v : DWord) : (g.setS2 n v).q = g.q := rfl
@[simp] theorem Gang.setS2_m (g : Gang) (n : Nat) (v : DWord) : (g.setS2 n v).m = g.m := rfl
@[simp] theorem Gang.setS2_live (g : Gang) (n : Nat) (v : DWord) : (g.setS2 n v).live = g.live := rfl
@[simp] theorem Gang.setS2_ped (g : Gang) (n : Nat) (v : DWord) : (g.setS2 n v).ped = g.ped := rfl
@[simp] theorem Gang.setS2_arena (g : Gang) (n : Nat) (v : DWord) : (g.setS2 n v).arena = g.arena := rfl
@[simp] theorem Gang.setS2_views (g : Gang) (n : Nat) (v : DWord) : (g.setS2 n v).views = g.views := rfl
@[simp] theorem Gang.setS2_stat (g : Gang) (n : Nat) (v : DWord) : (g.setS2 n v).stat = g.stat := rfl
@[simp] theorem Gang.setS2_statarm (g : Gang) (n : Nat) (v : DWord) : (g.setS2 n v).statarm = g.statarm := rfl
@[simp] theorem Gang.setS2_seed (g : Gang) (n : Nat) (v : DWord) : (g.setS2 n v).seed = g.seed := rfl
@[simp] theorem Gang.setS2_tvec (g : Gang) (n : Nat) (v : DWord) : (g.setS2 n v).tvec = g.tvec := rfl
@[simp] theorem Gang.setS2_gangId (g : Gang) (n : Nat) (v : DWord) : (g.setS2 n v).gangId = g.gangId := rfl
@[simp] theorem Gang.setS2_teamId (g : Gang) (n : Nat) (v : DWord) : (g.setS2 n v).teamId = g.teamId := rfl
@[simp] theorem Gang.setS2_prio (g : Gang) (n : Nat) (v : DWord) : (g.setS2 n v).prio = g.prio := rfl
@[simp] theorem Gang.setS2_tcause (g : Gang) (n : Nat) (v : DWord) : (g.setS2 n v).tcause = g.tcause := rfl
@[simp] theorem Gang.setS2_tepc (g : Gang) (n : Nat) (v : DWord) : (g.setS2 n v).tepc = g.tepc := rfl
@[simp] theorem Gang.setS2_tmask (g : Gang) (n : Nat) (v : DWord) : (g.setS2 n v).tmask = g.tmask := rfl
@[simp] theorem Gang.setS2_tmaskh (g : Gang) (n : Nat) (v : DWord) : (g.setS2 n v).tmaskh = g.tmaskh := rfl
@[simp] theorem Gang.setS2_taddr (g : Gang) (n : Nat) (v : DWord) : (g.setS2 n v).taddr = g.taddr := rfl
@[simp] theorem Gang.setS2_taddrh (g : Gang) (n : Nat) (v : DWord) : (g.setS2 n v).taddrh = g.taddrh := rfl
@[simp] theorem Gang.setS2_tinfo (g : Gang) (n : Nat) (v : DWord) : (g.setS2 n v).tinfo = g.tinfo := rfl
@[simp] theorem Gang.setS2_batches (g : Gang) (n : Nat) (v : DWord) : (g.setS2 n v).batches = g.batches := rfl
@[simp] theorem Gang.setS2_trap (g : Gang) (n : Nat) (v : DWord) : (g.setS2 n v).trap = g.trap := rfl
@[simp] theorem Gang.setS2_pending (g : Gang) (n : Nat) (v : DWord) : (g.setS2 n v).pending = g.pending := rfl
@[simp] theorem Gang.setS2_fibres (g : Gang) (n : Nat) (v : DWord) : (g.setS2 n v).fibres = g.fibres := rfl
@[simp] theorem Gang.setS2_turns (g : Gang) (n : Nat) (v : DWord) : (g.setS2 n v).turns = g.turns := rfl
@[simp] theorem Gang.setS2_openTurn (g : Gang) (n : Nat) (v : DWord) : (g.setS2 n v).openTurn = g.openTurn := rfl
@[simp] theorem Gang.setS2_outstanding (g : Gang) (n : Nat) (v : DWord) : (g.setS2 n v).outstanding = g.outstanding := rfl
@[simp] theorem Gang.setS2_finals (g : Gang) (n : Nat) (v : DWord) : (g.setS2 n v).finals = g.finals := rfl
@[simp] theorem Gang.setS2_arrived (g : Gang) (n : Nat) (v : DWord) : (g.setS2 n v).arrived = g.arrived := rfl
@[simp] theorem Gang.setS2_cmdSeq (g : Gang) (n : Nat) (v : DWord) : (g.setS2 n v).cmdSeq = g.cmdSeq := rfl
@[simp] theorem Gang.setS2_joined (g : Gang) (n : Nat) (v : DWord) : (g.setS2 n v).joined = g.joined := rfl
@[simp] theorem Gang.setS2_ibuf (g : Gang) (n : Nat) (v : DWord) : (g.setS2 n v).ibuf = g.ibuf := rfl
@[simp] theorem Gang.setS2_sched (g : Gang) (n : Nat) (v : DWord) : (g.setS2 n v).sched = g.sched := rfl
@[simp] theorem Gang.setS2_exited (g : Gang) (n : Nat) (v : DWord) : (g.setS2 n v).exited = g.exited := rfl
@[simp] theorem Gang.setS2_inlined (g : Gang) (n : Nat) (v : DWord) : (g.setS2 n v).inlined = g.inlined := rfl
@[simp] theorem Gang.setS2_inlineFan (g : Gang) (n : Nat) (v : DWord) : (g.setS2 n v).inlineFan = g.inlineFan := rfl
@[simp] theorem Gang.setS2_behind (g : Gang) (n : Nat) (v : DWord) : (g.setS2 n v).behind = g.behind := rfl
@[simp] theorem Gang.setS2_owed (g : Gang) (n : Nat) (v : DWord) : (g.setS2 n v).owed = g.owed := rfl

/-! ## Gang.setFibre -/

@[simp] theorem Gang.setFibre_gid (g : Gang) (i : Nat) (f : Fibre) : (g.setFibre i f).gid = g.gid := rfl
@[simp] theorem Gang.setFibre_lkey (g : Gang) (i : Nat) (f : Fibre) : (g.setFibre i f).lkey = g.lkey := rfl
@[simp] theorem Gang.setFibre_ctx (g : Gang) (i : Nat) (f : Fibre) : (g.setFibre i f).ctx = g.ctx := rfl
@[simp] theorem Gang.setFibre_team (g : Gang) (i : Nat) (f : Fibre) : (g.setFibre i f).team = g.team := rfl
@[simp] theorem Gang.setFibre_parent (g : Gang) (i : Nat) (f : Fibre) : (g.setFibre i f).parent = g.parent := rfl
@[simp] theorem Gang.setFibre_rank (g : Gang) (i : Nat) (f : Fibre) : (g.setFibre i f).rank = g.rank := rfl
@[simp] theorem Gang.setFibre_core (g : Gang) (i : Nat) (f : Fibre) : (g.setFibre i f).core = g.core := rfl
@[simp] theorem Gang.setFibre_part (g : Gang) (i : Nat) (f : Fibre) : (g.setFibre i f).part = g.part := rfl
@[simp] theorem Gang.setFibre_width (g : Gang) (i : Nat) (f : Fibre) : (g.setFibre i f).width = g.width := rfl
@[simp] theorem Gang.setFibre_vregs (g : Gang) (i : Nat) (f : Fibre) : (g.setFibre i f).vregs = g.vregs := rfl
@[simp] theorem Gang.setFibre_sregs (g : Gang) (i : Nat) (f : Fibre) : (g.setFibre i f).sregs = g.sregs := rfl
@[simp] theorem Gang.setFibre_q (g : Gang) (i : Nat) (f : Fibre) : (g.setFibre i f).q = g.q := rfl
@[simp] theorem Gang.setFibre_m (g : Gang) (i : Nat) (f : Fibre) : (g.setFibre i f).m = g.m := rfl
@[simp] theorem Gang.setFibre_live (g : Gang) (i : Nat) (f : Fibre) : (g.setFibre i f).live = g.live := rfl
@[simp] theorem Gang.setFibre_ped (g : Gang) (i : Nat) (f : Fibre) : (g.setFibre i f).ped = g.ped := rfl
@[simp] theorem Gang.setFibre_arena (g : Gang) (i : Nat) (f : Fibre) : (g.setFibre i f).arena = g.arena := rfl
@[simp] theorem Gang.setFibre_views (g : Gang) (i : Nat) (f : Fibre) : (g.setFibre i f).views = g.views := rfl
@[simp] theorem Gang.setFibre_stat (g : Gang) (i : Nat) (f : Fibre) : (g.setFibre i f).stat = g.stat := rfl
@[simp] theorem Gang.setFibre_statarm (g : Gang) (i : Nat) (f : Fibre) : (g.setFibre i f).statarm = g.statarm := rfl
@[simp] theorem Gang.setFibre_seed (g : Gang) (i : Nat) (f : Fibre) : (g.setFibre i f).seed = g.seed := rfl
@[simp] theorem Gang.setFibre_tvec (g : Gang) (i : Nat) (f : Fibre) : (g.setFibre i f).tvec = g.tvec := rfl
@[simp] theorem Gang.setFibre_gangId (g : Gang) (i : Nat) (f : Fibre) : (g.setFibre i f).gangId = g.gangId := rfl
@[simp] theorem Gang.setFibre_teamId (g : Gang) (i : Nat) (f : Fibre) : (g.setFibre i f).teamId = g.teamId := rfl
@[simp] theorem Gang.setFibre_prio (g : Gang) (i : Nat) (f : Fibre) : (g.setFibre i f).prio = g.prio := rfl
@[simp] theorem Gang.setFibre_tcause (g : Gang) (i : Nat) (f : Fibre) : (g.setFibre i f).tcause = g.tcause := rfl
@[simp] theorem Gang.setFibre_tepc (g : Gang) (i : Nat) (f : Fibre) : (g.setFibre i f).tepc = g.tepc := rfl
@[simp] theorem Gang.setFibre_tmask (g : Gang) (i : Nat) (f : Fibre) : (g.setFibre i f).tmask = g.tmask := rfl
@[simp] theorem Gang.setFibre_tmaskh (g : Gang) (i : Nat) (f : Fibre) : (g.setFibre i f).tmaskh = g.tmaskh := rfl
@[simp] theorem Gang.setFibre_taddr (g : Gang) (i : Nat) (f : Fibre) : (g.setFibre i f).taddr = g.taddr := rfl
@[simp] theorem Gang.setFibre_taddrh (g : Gang) (i : Nat) (f : Fibre) : (g.setFibre i f).taddrh = g.taddrh := rfl
@[simp] theorem Gang.setFibre_tinfo (g : Gang) (i : Nat) (f : Fibre) : (g.setFibre i f).tinfo = g.tinfo := rfl
@[simp] theorem Gang.setFibre_batches (g : Gang) (i : Nat) (f : Fibre) : (g.setFibre i f).batches = g.batches := rfl
@[simp] theorem Gang.setFibre_trap (g : Gang) (i : Nat) (f : Fibre) : (g.setFibre i f).trap = g.trap := rfl
@[simp] theorem Gang.setFibre_pending (g : Gang) (i : Nat) (f : Fibre) : (g.setFibre i f).pending = g.pending := rfl
@[simp] theorem Gang.setFibre_fibres (g : Gang) (i : Nat) (f : Fibre) : (g.setFibre i f).fibres = g.fibres.set i f := rfl
@[simp] theorem Gang.setFibre_turns (g : Gang) (i : Nat) (f : Fibre) : (g.setFibre i f).turns = g.turns := rfl
@[simp] theorem Gang.setFibre_openTurn (g : Gang) (i : Nat) (f : Fibre) : (g.setFibre i f).openTurn = g.openTurn := rfl
@[simp] theorem Gang.setFibre_outstanding (g : Gang) (i : Nat) (f : Fibre) : (g.setFibre i f).outstanding = g.outstanding := rfl
@[simp] theorem Gang.setFibre_finals (g : Gang) (i : Nat) (f : Fibre) : (g.setFibre i f).finals = g.finals := rfl
@[simp] theorem Gang.setFibre_arrived (g : Gang) (i : Nat) (f : Fibre) : (g.setFibre i f).arrived = g.arrived := rfl
@[simp] theorem Gang.setFibre_cmdSeq (g : Gang) (i : Nat) (f : Fibre) : (g.setFibre i f).cmdSeq = g.cmdSeq := rfl
@[simp] theorem Gang.setFibre_joined (g : Gang) (i : Nat) (f : Fibre) : (g.setFibre i f).joined = g.joined := rfl
@[simp] theorem Gang.setFibre_ibuf (g : Gang) (i : Nat) (f : Fibre) : (g.setFibre i f).ibuf = g.ibuf := rfl
@[simp] theorem Gang.setFibre_sched (g : Gang) (i : Nat) (f : Fibre) : (g.setFibre i f).sched = g.sched := rfl
@[simp] theorem Gang.setFibre_exited (g : Gang) (i : Nat) (f : Fibre) : (g.setFibre i f).exited = g.exited := rfl
@[simp] theorem Gang.setFibre_inlined (g : Gang) (i : Nat) (f : Fibre) : (g.setFibre i f).inlined = g.inlined := rfl
@[simp] theorem Gang.setFibre_inlineFan (g : Gang) (i : Nat) (f : Fibre) : (g.setFibre i f).inlineFan = g.inlineFan := rfl
@[simp] theorem Gang.setFibre_poisonS (g : Gang) (i : Nat) (f : Fibre) : (g.setFibre i f).poisonS = g.poisonS := rfl
@[simp] theorem Gang.setFibre_behind (g : Gang) (i : Nat) (f : Fibre) : (g.setFibre i f).behind = g.behind := rfl
@[simp] theorem Gang.setFibre_owed (g : Gang) (i : Nat) (f : Fibre) : (g.setFibre i f).owed = g.owed := rfl

/-! ## Gang.flags -/

@[simp] theorem Gang.flags_gid (g : Gang) (f : Flags) : (g.flags f).gid = g.gid := rfl
@[simp] theorem Gang.flags_lkey (g : Gang) (f : Flags) : (g.flags f).lkey = g.lkey := rfl
@[simp] theorem Gang.flags_ctx (g : Gang) (f : Flags) : (g.flags f).ctx = g.ctx := rfl
@[simp] theorem Gang.flags_team (g : Gang) (f : Flags) : (g.flags f).team = g.team := rfl
@[simp] theorem Gang.flags_parent (g : Gang) (f : Flags) : (g.flags f).parent = g.parent := rfl
@[simp] theorem Gang.flags_rank (g : Gang) (f : Flags) : (g.flags f).rank = g.rank := rfl
@[simp] theorem Gang.flags_core (g : Gang) (f : Flags) : (g.flags f).core = g.core := rfl
@[simp] theorem Gang.flags_part (g : Gang) (f : Flags) : (g.flags f).part = g.part := rfl
@[simp] theorem Gang.flags_width (g : Gang) (f : Flags) : (g.flags f).width = g.width := rfl
@[simp] theorem Gang.flags_vregs (g : Gang) (f : Flags) : (g.flags f).vregs = g.vregs := rfl
@[simp] theorem Gang.flags_sregs (g : Gang) (f : Flags) : (g.flags f).sregs = g.sregs := rfl
@[simp] theorem Gang.flags_q (g : Gang) (f : Flags) : (g.flags f).q = g.q := rfl
@[simp] theorem Gang.flags_m (g : Gang) (f : Flags) : (g.flags f).m = g.m := rfl
@[simp] theorem Gang.flags_live (g : Gang) (f : Flags) : (g.flags f).live = g.live := rfl
@[simp] theorem Gang.flags_ped (g : Gang) (f : Flags) : (g.flags f).ped = g.ped := rfl
@[simp] theorem Gang.flags_arena (g : Gang) (f : Flags) : (g.flags f).arena = g.arena := rfl
@[simp] theorem Gang.flags_views (g : Gang) (f : Flags) : (g.flags f).views = g.views := rfl
@[simp] theorem Gang.flags_stat (g : Gang) (f : Flags) : (g.flags f).stat = g.stat ||| f := rfl
@[simp] theorem Gang.flags_statarm (g : Gang) (f : Flags) : (g.flags f).statarm = g.statarm := rfl
@[simp] theorem Gang.flags_seed (g : Gang) (f : Flags) : (g.flags f).seed = g.seed := rfl
@[simp] theorem Gang.flags_tvec (g : Gang) (f : Flags) : (g.flags f).tvec = g.tvec := rfl
@[simp] theorem Gang.flags_gangId (g : Gang) (f : Flags) : (g.flags f).gangId = g.gangId := rfl
@[simp] theorem Gang.flags_teamId (g : Gang) (f : Flags) : (g.flags f).teamId = g.teamId := rfl
@[simp] theorem Gang.flags_prio (g : Gang) (f : Flags) : (g.flags f).prio = g.prio := rfl
@[simp] theorem Gang.flags_tcause (g : Gang) (f : Flags) : (g.flags f).tcause = g.tcause := rfl
@[simp] theorem Gang.flags_tepc (g : Gang) (f : Flags) : (g.flags f).tepc = g.tepc := rfl
@[simp] theorem Gang.flags_tmask (g : Gang) (f : Flags) : (g.flags f).tmask = g.tmask := rfl
@[simp] theorem Gang.flags_tmaskh (g : Gang) (f : Flags) : (g.flags f).tmaskh = g.tmaskh := rfl
@[simp] theorem Gang.flags_taddr (g : Gang) (f : Flags) : (g.flags f).taddr = g.taddr := rfl
@[simp] theorem Gang.flags_taddrh (g : Gang) (f : Flags) : (g.flags f).taddrh = g.taddrh := rfl
@[simp] theorem Gang.flags_tinfo (g : Gang) (f : Flags) : (g.flags f).tinfo = g.tinfo := rfl
@[simp] theorem Gang.flags_batches (g : Gang) (f : Flags) : (g.flags f).batches = g.batches := rfl
@[simp] theorem Gang.flags_trap (g : Gang) (f : Flags) : (g.flags f).trap = g.trap := rfl
@[simp] theorem Gang.flags_pending (g : Gang) (f : Flags) : (g.flags f).pending = g.pending := rfl
@[simp] theorem Gang.flags_fibres (g : Gang) (f : Flags) : (g.flags f).fibres = g.fibres := rfl
@[simp] theorem Gang.flags_turns (g : Gang) (f : Flags) : (g.flags f).turns = g.turns := rfl
@[simp] theorem Gang.flags_openTurn (g : Gang) (f : Flags) : (g.flags f).openTurn = g.openTurn := rfl
@[simp] theorem Gang.flags_outstanding (g : Gang) (f : Flags) : (g.flags f).outstanding = g.outstanding := rfl
@[simp] theorem Gang.flags_finals (g : Gang) (f : Flags) : (g.flags f).finals = g.finals := rfl
@[simp] theorem Gang.flags_arrived (g : Gang) (f : Flags) : (g.flags f).arrived = g.arrived := rfl
@[simp] theorem Gang.flags_cmdSeq (g : Gang) (f : Flags) : (g.flags f).cmdSeq = g.cmdSeq := rfl
@[simp] theorem Gang.flags_joined (g : Gang) (f : Flags) : (g.flags f).joined = g.joined := rfl
@[simp] theorem Gang.flags_ibuf (g : Gang) (f : Flags) : (g.flags f).ibuf = g.ibuf := rfl
@[simp] theorem Gang.flags_sched (g : Gang) (f : Flags) : (g.flags f).sched = g.sched := rfl
@[simp] theorem Gang.flags_exited (g : Gang) (f : Flags) : (g.flags f).exited = g.exited := rfl
@[simp] theorem Gang.flags_inlined (g : Gang) (f : Flags) : (g.flags f).inlined = g.inlined := rfl
@[simp] theorem Gang.flags_inlineFan (g : Gang) (f : Flags) : (g.flags f).inlineFan = g.inlineFan := rfl
@[simp] theorem Gang.flags_poisonS (g : Gang) (f : Flags) : (g.flags f).poisonS = g.poisonS := rfl
@[simp] theorem Gang.flags_behind (g : Gang) (f : Flags) : (g.flags f).behind = g.behind := rfl
@[simp] theorem Gang.flags_owed (g : Gang) (f : Flags) : (g.flags f).owed = g.owed := rfl

/-! ## Gang.unbatch -/

@[simp] theorem Gang.unbatch_gid (g : Gang) (m : Mask) : (g.unbatch m).gid = g.gid := rfl
@[simp] theorem Gang.unbatch_lkey (g : Gang) (m : Mask) : (g.unbatch m).lkey = g.lkey := rfl
@[simp] theorem Gang.unbatch_ctx (g : Gang) (m : Mask) : (g.unbatch m).ctx = g.ctx := rfl
@[simp] theorem Gang.unbatch_team (g : Gang) (m : Mask) : (g.unbatch m).team = g.team := rfl
@[simp] theorem Gang.unbatch_parent (g : Gang) (m : Mask) : (g.unbatch m).parent = g.parent := rfl
@[simp] theorem Gang.unbatch_rank (g : Gang) (m : Mask) : (g.unbatch m).rank = g.rank := rfl
@[simp] theorem Gang.unbatch_core (g : Gang) (m : Mask) : (g.unbatch m).core = g.core := rfl
@[simp] theorem Gang.unbatch_part (g : Gang) (m : Mask) : (g.unbatch m).part = g.part := rfl
@[simp] theorem Gang.unbatch_width (g : Gang) (m : Mask) : (g.unbatch m).width = g.width := rfl
@[simp] theorem Gang.unbatch_vregs (g : Gang) (m : Mask) : (g.unbatch m).vregs = g.vregs := rfl
@[simp] theorem Gang.unbatch_sregs (g : Gang) (m : Mask) : (g.unbatch m).sregs = g.sregs := rfl
@[simp] theorem Gang.unbatch_q (g : Gang) (m : Mask) : (g.unbatch m).q = g.q := rfl
@[simp] theorem Gang.unbatch_m (g : Gang) (m : Mask) : (g.unbatch m).m = g.m := rfl
@[simp] theorem Gang.unbatch_live (g : Gang) (m : Mask) : (g.unbatch m).live = g.live := rfl
@[simp] theorem Gang.unbatch_ped (g : Gang) (m : Mask) : (g.unbatch m).ped = g.ped := rfl
@[simp] theorem Gang.unbatch_arena (g : Gang) (m : Mask) : (g.unbatch m).arena = g.arena := rfl
@[simp] theorem Gang.unbatch_views (g : Gang) (m : Mask) : (g.unbatch m).views = g.views := rfl
@[simp] theorem Gang.unbatch_stat (g : Gang) (m : Mask) : (g.unbatch m).stat = g.stat := rfl
@[simp] theorem Gang.unbatch_statarm (g : Gang) (m : Mask) : (g.unbatch m).statarm = g.statarm := rfl
@[simp] theorem Gang.unbatch_seed (g : Gang) (m : Mask) : (g.unbatch m).seed = g.seed := rfl
@[simp] theorem Gang.unbatch_tvec (g : Gang) (m : Mask) : (g.unbatch m).tvec = g.tvec := rfl
@[simp] theorem Gang.unbatch_gangId (g : Gang) (m : Mask) : (g.unbatch m).gangId = g.gangId := rfl
@[simp] theorem Gang.unbatch_teamId (g : Gang) (m : Mask) : (g.unbatch m).teamId = g.teamId := rfl
@[simp] theorem Gang.unbatch_prio (g : Gang) (m : Mask) : (g.unbatch m).prio = g.prio := rfl
@[simp] theorem Gang.unbatch_tcause (g : Gang) (m : Mask) : (g.unbatch m).tcause = g.tcause := rfl
@[simp] theorem Gang.unbatch_tepc (g : Gang) (m : Mask) : (g.unbatch m).tepc = g.tepc := rfl
@[simp] theorem Gang.unbatch_tmask (g : Gang) (m : Mask) : (g.unbatch m).tmask = g.tmask := rfl
@[simp] theorem Gang.unbatch_tmaskh (g : Gang) (m : Mask) : (g.unbatch m).tmaskh = g.tmaskh := rfl
@[simp] theorem Gang.unbatch_taddr (g : Gang) (m : Mask) : (g.unbatch m).taddr = g.taddr := rfl
@[simp] theorem Gang.unbatch_taddrh (g : Gang) (m : Mask) : (g.unbatch m).taddrh = g.taddrh := rfl
@[simp] theorem Gang.unbatch_tinfo (g : Gang) (m : Mask) : (g.unbatch m).tinfo = g.tinfo := rfl
@[simp] theorem Gang.unbatch_batches (g : Gang) (m : Mask) : (g.unbatch m).batches = (g.batches.map fun b => { b with memb := b.memb &&& ~~~m }).filter (·.memb != 0) := rfl
@[simp] theorem Gang.unbatch_trap (g : Gang) (m : Mask) : (g.unbatch m).trap = g.trap := rfl
@[simp] theorem Gang.unbatch_pending (g : Gang) (m : Mask) : (g.unbatch m).pending = g.pending := rfl
@[simp] theorem Gang.unbatch_fibres (g : Gang) (m : Mask) : (g.unbatch m).fibres = g.fibres := rfl
@[simp] theorem Gang.unbatch_turns (g : Gang) (m : Mask) : (g.unbatch m).turns = g.turns := rfl
@[simp] theorem Gang.unbatch_openTurn (g : Gang) (m : Mask) : (g.unbatch m).openTurn = g.openTurn := rfl
@[simp] theorem Gang.unbatch_outstanding (g : Gang) (m : Mask) : (g.unbatch m).outstanding = g.outstanding := rfl
@[simp] theorem Gang.unbatch_finals (g : Gang) (m : Mask) : (g.unbatch m).finals = g.finals := rfl
@[simp] theorem Gang.unbatch_arrived (g : Gang) (m : Mask) : (g.unbatch m).arrived = g.arrived := rfl
@[simp] theorem Gang.unbatch_cmdSeq (g : Gang) (m : Mask) : (g.unbatch m).cmdSeq = g.cmdSeq := rfl
@[simp] theorem Gang.unbatch_joined (g : Gang) (m : Mask) : (g.unbatch m).joined = g.joined := rfl
@[simp] theorem Gang.unbatch_ibuf (g : Gang) (m : Mask) : (g.unbatch m).ibuf = g.ibuf := rfl
@[simp] theorem Gang.unbatch_sched (g : Gang) (m : Mask) : (g.unbatch m).sched = g.sched := rfl
@[simp] theorem Gang.unbatch_exited (g : Gang) (m : Mask) : (g.unbatch m).exited = g.exited := rfl
@[simp] theorem Gang.unbatch_inlined (g : Gang) (m : Mask) : (g.unbatch m).inlined = g.inlined := rfl
@[simp] theorem Gang.unbatch_inlineFan (g : Gang) (m : Mask) : (g.unbatch m).inlineFan = g.inlineFan := rfl
@[simp] theorem Gang.unbatch_poisonS (g : Gang) (m : Mask) : (g.unbatch m).poisonS = g.poisonS := rfl
@[simp] theorem Gang.unbatch_behind (g : Gang) (m : Mask) : (g.unbatch m).behind = g.behind := rfl
@[simp] theorem Gang.unbatch_owed (g : Gang) (m : Mask) : (g.unbatch m).owed = g.owed := rfl

/-! ## Gang.waitBatch -/

@[simp] theorem Gang.waitBatch_gid (g : Gang) (m : Mask) (wk : Nat) (cap : List DWord) (next : DWord) : (g.waitBatch m wk cap next).gid = g.gid := rfl
@[simp] theorem Gang.waitBatch_lkey (g : Gang) (m : Mask) (wk : Nat) (cap : List DWord) (next : DWord) : (g.waitBatch m wk cap next).lkey = g.lkey := rfl
@[simp] theorem Gang.waitBatch_ctx (g : Gang) (m : Mask) (wk : Nat) (cap : List DWord) (next : DWord) : (g.waitBatch m wk cap next).ctx = g.ctx := rfl
@[simp] theorem Gang.waitBatch_team (g : Gang) (m : Mask) (wk : Nat) (cap : List DWord) (next : DWord) : (g.waitBatch m wk cap next).team = g.team := rfl
@[simp] theorem Gang.waitBatch_parent (g : Gang) (m : Mask) (wk : Nat) (cap : List DWord) (next : DWord) : (g.waitBatch m wk cap next).parent = g.parent := rfl
@[simp] theorem Gang.waitBatch_rank (g : Gang) (m : Mask) (wk : Nat) (cap : List DWord) (next : DWord) : (g.waitBatch m wk cap next).rank = g.rank := rfl
@[simp] theorem Gang.waitBatch_core (g : Gang) (m : Mask) (wk : Nat) (cap : List DWord) (next : DWord) : (g.waitBatch m wk cap next).core = g.core := rfl
@[simp] theorem Gang.waitBatch_part (g : Gang) (m : Mask) (wk : Nat) (cap : List DWord) (next : DWord) : (g.waitBatch m wk cap next).part = g.part := rfl
@[simp] theorem Gang.waitBatch_width (g : Gang) (m : Mask) (wk : Nat) (cap : List DWord) (next : DWord) : (g.waitBatch m wk cap next).width = g.width := rfl
@[simp] theorem Gang.waitBatch_vregs (g : Gang) (m : Mask) (wk : Nat) (cap : List DWord) (next : DWord) : (g.waitBatch m wk cap next).vregs = g.vregs := rfl
@[simp] theorem Gang.waitBatch_sregs (g : Gang) (m : Mask) (wk : Nat) (cap : List DWord) (next : DWord) : (g.waitBatch m wk cap next).sregs = g.sregs := rfl
@[simp] theorem Gang.waitBatch_q (g : Gang) (m : Mask) (wk : Nat) (cap : List DWord) (next : DWord) : (g.waitBatch m wk cap next).q = g.q := rfl
@[simp] theorem Gang.waitBatch_m (g : Gang) (m : Mask) (wk : Nat) (cap : List DWord) (next : DWord) : (g.waitBatch m wk cap next).m = g.m := rfl
@[simp] theorem Gang.waitBatch_live (g : Gang) (m : Mask) (wk : Nat) (cap : List DWord) (next : DWord) : (g.waitBatch m wk cap next).live = g.live := rfl
@[simp] theorem Gang.waitBatch_ped (g : Gang) (m : Mask) (wk : Nat) (cap : List DWord) (next : DWord) : (g.waitBatch m wk cap next).ped = g.ped := rfl
@[simp] theorem Gang.waitBatch_arena (g : Gang) (m : Mask) (wk : Nat) (cap : List DWord) (next : DWord) : (g.waitBatch m wk cap next).arena = g.arena := rfl
@[simp] theorem Gang.waitBatch_views (g : Gang) (m : Mask) (wk : Nat) (cap : List DWord) (next : DWord) : (g.waitBatch m wk cap next).views = g.views := rfl
@[simp] theorem Gang.waitBatch_stat (g : Gang) (m : Mask) (wk : Nat) (cap : List DWord) (next : DWord) : (g.waitBatch m wk cap next).stat = g.stat := rfl
@[simp] theorem Gang.waitBatch_statarm (g : Gang) (m : Mask) (wk : Nat) (cap : List DWord) (next : DWord) : (g.waitBatch m wk cap next).statarm = g.statarm := rfl
@[simp] theorem Gang.waitBatch_seed (g : Gang) (m : Mask) (wk : Nat) (cap : List DWord) (next : DWord) : (g.waitBatch m wk cap next).seed = g.seed := rfl
@[simp] theorem Gang.waitBatch_tvec (g : Gang) (m : Mask) (wk : Nat) (cap : List DWord) (next : DWord) : (g.waitBatch m wk cap next).tvec = g.tvec := rfl
@[simp] theorem Gang.waitBatch_gangId (g : Gang) (m : Mask) (wk : Nat) (cap : List DWord) (next : DWord) : (g.waitBatch m wk cap next).gangId = g.gangId := rfl
@[simp] theorem Gang.waitBatch_teamId (g : Gang) (m : Mask) (wk : Nat) (cap : List DWord) (next : DWord) : (g.waitBatch m wk cap next).teamId = g.teamId := rfl
@[simp] theorem Gang.waitBatch_prio (g : Gang) (m : Mask) (wk : Nat) (cap : List DWord) (next : DWord) : (g.waitBatch m wk cap next).prio = g.prio := rfl
@[simp] theorem Gang.waitBatch_tcause (g : Gang) (m : Mask) (wk : Nat) (cap : List DWord) (next : DWord) : (g.waitBatch m wk cap next).tcause = g.tcause := rfl
@[simp] theorem Gang.waitBatch_tepc (g : Gang) (m : Mask) (wk : Nat) (cap : List DWord) (next : DWord) : (g.waitBatch m wk cap next).tepc = g.tepc := rfl
@[simp] theorem Gang.waitBatch_tmask (g : Gang) (m : Mask) (wk : Nat) (cap : List DWord) (next : DWord) : (g.waitBatch m wk cap next).tmask = g.tmask := rfl
@[simp] theorem Gang.waitBatch_tmaskh (g : Gang) (m : Mask) (wk : Nat) (cap : List DWord) (next : DWord) : (g.waitBatch m wk cap next).tmaskh = g.tmaskh := rfl
@[simp] theorem Gang.waitBatch_taddr (g : Gang) (m : Mask) (wk : Nat) (cap : List DWord) (next : DWord) : (g.waitBatch m wk cap next).taddr = g.taddr := rfl
@[simp] theorem Gang.waitBatch_taddrh (g : Gang) (m : Mask) (wk : Nat) (cap : List DWord) (next : DWord) : (g.waitBatch m wk cap next).taddrh = g.taddrh := rfl
@[simp] theorem Gang.waitBatch_tinfo (g : Gang) (m : Mask) (wk : Nat) (cap : List DWord) (next : DWord) : (g.waitBatch m wk cap next).tinfo = g.tinfo := rfl
@[simp] theorem Gang.waitBatch_trap (g : Gang) (m : Mask) (wk : Nat) (cap : List DWord) (next : DWord) : (g.waitBatch m wk cap next).trap = g.trap := rfl
@[simp] theorem Gang.waitBatch_pending (g : Gang) (m : Mask) (wk : Nat) (cap : List DWord) (next : DWord) : (g.waitBatch m wk cap next).pending = g.pending := rfl
@[simp] theorem Gang.waitBatch_fibres (g : Gang) (m : Mask) (wk : Nat) (cap : List DWord) (next : DWord) : (g.waitBatch m wk cap next).fibres = g.fibres := rfl
@[simp] theorem Gang.waitBatch_turns (g : Gang) (m : Mask) (wk : Nat) (cap : List DWord) (next : DWord) : (g.waitBatch m wk cap next).turns = g.turns := rfl
@[simp] theorem Gang.waitBatch_openTurn (g : Gang) (m : Mask) (wk : Nat) (cap : List DWord) (next : DWord) : (g.waitBatch m wk cap next).openTurn = g.openTurn := rfl
@[simp] theorem Gang.waitBatch_outstanding (g : Gang) (m : Mask) (wk : Nat) (cap : List DWord) (next : DWord) : (g.waitBatch m wk cap next).outstanding = g.outstanding := rfl
@[simp] theorem Gang.waitBatch_finals (g : Gang) (m : Mask) (wk : Nat) (cap : List DWord) (next : DWord) : (g.waitBatch m wk cap next).finals = g.finals := rfl
@[simp] theorem Gang.waitBatch_arrived (g : Gang) (m : Mask) (wk : Nat) (cap : List DWord) (next : DWord) : (g.waitBatch m wk cap next).arrived = g.arrived := rfl
@[simp] theorem Gang.waitBatch_cmdSeq (g : Gang) (m : Mask) (wk : Nat) (cap : List DWord) (next : DWord) : (g.waitBatch m wk cap next).cmdSeq = g.cmdSeq := rfl
@[simp] theorem Gang.waitBatch_joined (g : Gang) (m : Mask) (wk : Nat) (cap : List DWord) (next : DWord) : (g.waitBatch m wk cap next).joined = g.joined := rfl
@[simp] theorem Gang.waitBatch_ibuf (g : Gang) (m : Mask) (wk : Nat) (cap : List DWord) (next : DWord) : (g.waitBatch m wk cap next).ibuf = g.ibuf := rfl
@[simp] theorem Gang.waitBatch_sched (g : Gang) (m : Mask) (wk : Nat) (cap : List DWord) (next : DWord) : (g.waitBatch m wk cap next).sched = g.sched := rfl
@[simp] theorem Gang.waitBatch_exited (g : Gang) (m : Mask) (wk : Nat) (cap : List DWord) (next : DWord) : (g.waitBatch m wk cap next).exited = g.exited := rfl
@[simp] theorem Gang.waitBatch_inlined (g : Gang) (m : Mask) (wk : Nat) (cap : List DWord) (next : DWord) : (g.waitBatch m wk cap next).inlined = g.inlined := rfl
@[simp] theorem Gang.waitBatch_inlineFan (g : Gang) (m : Mask) (wk : Nat) (cap : List DWord) (next : DWord) : (g.waitBatch m wk cap next).inlineFan = g.inlineFan := rfl
@[simp] theorem Gang.waitBatch_poisonS (g : Gang) (m : Mask) (wk : Nat) (cap : List DWord) (next : DWord) : (g.waitBatch m wk cap next).poisonS = g.poisonS := rfl
@[simp] theorem Gang.waitBatch_behind (g : Gang) (m : Mask) (wk : Nat) (cap : List DWord) (next : DWord) : (g.waitBatch m wk cap next).behind = g.behind := rfl
@[simp] theorem Gang.waitBatch_owed (g : Gang) (m : Mask) (wk : Nat) (cap : List DWord) (next : DWord) : (g.waitBatch m wk cap next).owed = g.owed := rfl

/-! ## Gang.setCsrs -/

@[simp] theorem Gang.setCsrs_gid (g : Gang) (t : Trap) : (g.setCsrs t).gid = g.gid := rfl
@[simp] theorem Gang.setCsrs_lkey (g : Gang) (t : Trap) : (g.setCsrs t).lkey = g.lkey := rfl
@[simp] theorem Gang.setCsrs_ctx (g : Gang) (t : Trap) : (g.setCsrs t).ctx = g.ctx := rfl
@[simp] theorem Gang.setCsrs_team (g : Gang) (t : Trap) : (g.setCsrs t).team = g.team := rfl
@[simp] theorem Gang.setCsrs_parent (g : Gang) (t : Trap) : (g.setCsrs t).parent = g.parent := rfl
@[simp] theorem Gang.setCsrs_rank (g : Gang) (t : Trap) : (g.setCsrs t).rank = g.rank := rfl
@[simp] theorem Gang.setCsrs_core (g : Gang) (t : Trap) : (g.setCsrs t).core = g.core := rfl
@[simp] theorem Gang.setCsrs_part (g : Gang) (t : Trap) : (g.setCsrs t).part = g.part := rfl
@[simp] theorem Gang.setCsrs_width (g : Gang) (t : Trap) : (g.setCsrs t).width = g.width := rfl
@[simp] theorem Gang.setCsrs_vregs (g : Gang) (t : Trap) : (g.setCsrs t).vregs = g.vregs := rfl
@[simp] theorem Gang.setCsrs_sregs (g : Gang) (t : Trap) : (g.setCsrs t).sregs = g.sregs := rfl
@[simp] theorem Gang.setCsrs_q (g : Gang) (t : Trap) : (g.setCsrs t).q = g.q := rfl
@[simp] theorem Gang.setCsrs_m (g : Gang) (t : Trap) : (g.setCsrs t).m = g.m := rfl
@[simp] theorem Gang.setCsrs_live (g : Gang) (t : Trap) : (g.setCsrs t).live = g.live := rfl
@[simp] theorem Gang.setCsrs_ped (g : Gang) (t : Trap) : (g.setCsrs t).ped = g.ped := rfl
@[simp] theorem Gang.setCsrs_arena (g : Gang) (t : Trap) : (g.setCsrs t).arena = g.arena := rfl
@[simp] theorem Gang.setCsrs_views (g : Gang) (t : Trap) : (g.setCsrs t).views = g.views := rfl
@[simp] theorem Gang.setCsrs_stat (g : Gang) (t : Trap) : (g.setCsrs t).stat = g.stat := rfl
@[simp] theorem Gang.setCsrs_statarm (g : Gang) (t : Trap) : (g.setCsrs t).statarm = g.statarm := rfl
@[simp] theorem Gang.setCsrs_seed (g : Gang) (t : Trap) : (g.setCsrs t).seed = g.seed := rfl
@[simp] theorem Gang.setCsrs_tvec (g : Gang) (t : Trap) : (g.setCsrs t).tvec = g.tvec := rfl
@[simp] theorem Gang.setCsrs_gangId (g : Gang) (t : Trap) : (g.setCsrs t).gangId = g.gangId := rfl
@[simp] theorem Gang.setCsrs_teamId (g : Gang) (t : Trap) : (g.setCsrs t).teamId = g.teamId := rfl
@[simp] theorem Gang.setCsrs_prio (g : Gang) (t : Trap) : (g.setCsrs t).prio = g.prio := rfl
@[simp] theorem Gang.setCsrs_tcause (g : Gang) (t : Trap) : (g.setCsrs t).tcause = t.cause := rfl
@[simp] theorem Gang.setCsrs_tepc (g : Gang) (t : Trap) : (g.setCsrs t).tepc = t.tepc := rfl
@[simp] theorem Gang.setCsrs_tmask (g : Gang) (t : Trap) : (g.setCsrs t).tmask = t.tmask.setWidth 32 := rfl
@[simp] theorem Gang.setCsrs_tmaskh (g : Gang) (t : Trap) : (g.setCsrs t).tmaskh = hiWord t.tmask := rfl
@[simp] theorem Gang.setCsrs_taddr (g : Gang) (t : Trap) : (g.setCsrs t).taddr = loWord t.taddr := rfl
@[simp] theorem Gang.setCsrs_taddrh (g : Gang) (t : Trap) : (g.setCsrs t).taddrh = hiWord t.taddr &&& 0x01FFFFFF := rfl
@[simp] theorem Gang.setCsrs_tinfo (g : Gang) (t : Trap) : (g.setCsrs t).tinfo = t.tinfo := rfl
@[simp] theorem Gang.setCsrs_batches (g : Gang) (t : Trap) : (g.setCsrs t).batches = g.batches := rfl
@[simp] theorem Gang.setCsrs_trap (g : Gang) (t : Trap) : (g.setCsrs t).trap = g.trap := rfl
@[simp] theorem Gang.setCsrs_pending (g : Gang) (t : Trap) : (g.setCsrs t).pending = g.pending := rfl
@[simp] theorem Gang.setCsrs_fibres (g : Gang) (t : Trap) : (g.setCsrs t).fibres = g.fibres := rfl
@[simp] theorem Gang.setCsrs_turns (g : Gang) (t : Trap) : (g.setCsrs t).turns = g.turns := rfl
@[simp] theorem Gang.setCsrs_openTurn (g : Gang) (t : Trap) : (g.setCsrs t).openTurn = g.openTurn := rfl
@[simp] theorem Gang.setCsrs_outstanding (g : Gang) (t : Trap) : (g.setCsrs t).outstanding = g.outstanding := rfl
@[simp] theorem Gang.setCsrs_finals (g : Gang) (t : Trap) : (g.setCsrs t).finals = g.finals := rfl
@[simp] theorem Gang.setCsrs_arrived (g : Gang) (t : Trap) : (g.setCsrs t).arrived = g.arrived := rfl
@[simp] theorem Gang.setCsrs_cmdSeq (g : Gang) (t : Trap) : (g.setCsrs t).cmdSeq = g.cmdSeq := rfl
@[simp] theorem Gang.setCsrs_joined (g : Gang) (t : Trap) : (g.setCsrs t).joined = g.joined := rfl
@[simp] theorem Gang.setCsrs_ibuf (g : Gang) (t : Trap) : (g.setCsrs t).ibuf = g.ibuf := rfl
@[simp] theorem Gang.setCsrs_sched (g : Gang) (t : Trap) : (g.setCsrs t).sched = g.sched := rfl
@[simp] theorem Gang.setCsrs_exited (g : Gang) (t : Trap) : (g.setCsrs t).exited = g.exited := rfl
@[simp] theorem Gang.setCsrs_inlined (g : Gang) (t : Trap) : (g.setCsrs t).inlined = g.inlined := rfl
@[simp] theorem Gang.setCsrs_inlineFan (g : Gang) (t : Trap) : (g.setCsrs t).inlineFan = g.inlineFan := rfl
@[simp] theorem Gang.setCsrs_poisonS (g : Gang) (t : Trap) : (g.setCsrs t).poisonS = g.poisonS := rfl
@[simp] theorem Gang.setCsrs_behind (g : Gang) (t : Trap) : (g.setCsrs t).behind = g.behind := rfl
@[simp] theorem Gang.setCsrs_owed (g : Gang) (t : Trap) : (g.setCsrs t).owed = g.owed := rfl

/-! ## Gang.wake -/

@[simp] theorem Gang.wake_gid (g : Gang) : g.wake.gid = g.gid := rfl
@[simp] theorem Gang.wake_lkey (g : Gang) : g.wake.lkey = g.lkey := rfl
@[simp] theorem Gang.wake_ctx (g : Gang) : g.wake.ctx = g.ctx := rfl
@[simp] theorem Gang.wake_team (g : Gang) : g.wake.team = g.team := rfl
@[simp] theorem Gang.wake_parent (g : Gang) : g.wake.parent = g.parent := rfl
@[simp] theorem Gang.wake_rank (g : Gang) : g.wake.rank = g.rank := rfl
@[simp] theorem Gang.wake_core (g : Gang) : g.wake.core = g.core := rfl
@[simp] theorem Gang.wake_part (g : Gang) : g.wake.part = g.part := rfl
@[simp] theorem Gang.wake_width (g : Gang) : g.wake.width = g.width := rfl
@[simp] theorem Gang.wake_vregs (g : Gang) : g.wake.vregs = g.vregs := rfl
@[simp] theorem Gang.wake_sregs (g : Gang) : g.wake.sregs = g.sregs := rfl
@[simp] theorem Gang.wake_q (g : Gang) : g.wake.q = g.q := rfl
@[simp] theorem Gang.wake_m (g : Gang) : g.wake.m = g.m := rfl
@[simp] theorem Gang.wake_live (g : Gang) : g.wake.live = g.live := rfl
@[simp] theorem Gang.wake_ped (g : Gang) : g.wake.ped = g.ped := rfl
@[simp] theorem Gang.wake_arena (g : Gang) : g.wake.arena = g.arena := rfl
@[simp] theorem Gang.wake_views (g : Gang) : g.wake.views = g.views := rfl
@[simp] theorem Gang.wake_stat (g : Gang) : g.wake.stat = g.stat := rfl
@[simp] theorem Gang.wake_statarm (g : Gang) : g.wake.statarm = g.statarm := rfl
@[simp] theorem Gang.wake_seed (g : Gang) : g.wake.seed = g.seed := rfl
@[simp] theorem Gang.wake_tvec (g : Gang) : g.wake.tvec = g.tvec := rfl
@[simp] theorem Gang.wake_gangId (g : Gang) : g.wake.gangId = g.gangId := rfl
@[simp] theorem Gang.wake_teamId (g : Gang) : g.wake.teamId = g.teamId := rfl
@[simp] theorem Gang.wake_prio (g : Gang) : g.wake.prio = g.prio := rfl
@[simp] theorem Gang.wake_tcause (g : Gang) : g.wake.tcause = g.tcause := rfl
@[simp] theorem Gang.wake_tepc (g : Gang) : g.wake.tepc = g.tepc := rfl
@[simp] theorem Gang.wake_tmask (g : Gang) : g.wake.tmask = g.tmask := rfl
@[simp] theorem Gang.wake_tmaskh (g : Gang) : g.wake.tmaskh = g.tmaskh := rfl
@[simp] theorem Gang.wake_taddr (g : Gang) : g.wake.taddr = g.taddr := rfl
@[simp] theorem Gang.wake_taddrh (g : Gang) : g.wake.taddrh = g.taddrh := rfl
@[simp] theorem Gang.wake_tinfo (g : Gang) : g.wake.tinfo = g.tinfo := rfl
@[simp] theorem Gang.wake_trap (g : Gang) : g.wake.trap = g.trap := rfl
@[simp] theorem Gang.wake_pending (g : Gang) : g.wake.pending = g.pending := rfl
@[simp] theorem Gang.wake_fibres (g : Gang) : g.wake.fibres = g.fibres := rfl
@[simp] theorem Gang.wake_turns (g : Gang) : g.wake.turns = g.turns := rfl
@[simp] theorem Gang.wake_openTurn (g : Gang) : g.wake.openTurn = g.openTurn := rfl
@[simp] theorem Gang.wake_outstanding (g : Gang) : g.wake.outstanding = g.outstanding := rfl
@[simp] theorem Gang.wake_finals (g : Gang) : g.wake.finals = g.finals := rfl
@[simp] theorem Gang.wake_arrived (g : Gang) : g.wake.arrived = g.arrived := rfl
@[simp] theorem Gang.wake_cmdSeq (g : Gang) : g.wake.cmdSeq = g.cmdSeq := rfl
@[simp] theorem Gang.wake_joined (g : Gang) : g.wake.joined = g.joined := rfl
@[simp] theorem Gang.wake_ibuf (g : Gang) : g.wake.ibuf = g.ibuf := rfl
@[simp] theorem Gang.wake_sched (g : Gang) : g.wake.sched = g.sched := rfl
@[simp] theorem Gang.wake_exited (g : Gang) : g.wake.exited = g.exited := rfl
@[simp] theorem Gang.wake_inlined (g : Gang) : g.wake.inlined = g.inlined := rfl
@[simp] theorem Gang.wake_inlineFan (g : Gang) : g.wake.inlineFan = g.inlineFan := rfl
@[simp] theorem Gang.wake_poisonS (g : Gang) : g.wake.poisonS = g.poisonS := rfl
@[simp] theorem Gang.wake_behind (g : Gang) : g.wake.behind = g.behind := rfl
@[simp] theorem Gang.wake_owed (g : Gang) : g.wake.owed = g.owed := rfl

/-! ## Gang.qset -/

@[simp] theorem Gang.qset_gid (g : Gang) (n : Nat) (v : Bool) : (g.qset n v).gid = g.gid := by unfold Gang.qset; split <;> rfl
@[simp] theorem Gang.qset_lkey (g : Gang) (n : Nat) (v : Bool) : (g.qset n v).lkey = g.lkey := by unfold Gang.qset; split <;> rfl
@[simp] theorem Gang.qset_ctx (g : Gang) (n : Nat) (v : Bool) : (g.qset n v).ctx = g.ctx := by unfold Gang.qset; split <;> rfl
@[simp] theorem Gang.qset_team (g : Gang) (n : Nat) (v : Bool) : (g.qset n v).team = g.team := by unfold Gang.qset; split <;> rfl
@[simp] theorem Gang.qset_parent (g : Gang) (n : Nat) (v : Bool) : (g.qset n v).parent = g.parent := by unfold Gang.qset; split <;> rfl
@[simp] theorem Gang.qset_rank (g : Gang) (n : Nat) (v : Bool) : (g.qset n v).rank = g.rank := by unfold Gang.qset; split <;> rfl
@[simp] theorem Gang.qset_core (g : Gang) (n : Nat) (v : Bool) : (g.qset n v).core = g.core := by unfold Gang.qset; split <;> rfl
@[simp] theorem Gang.qset_part (g : Gang) (n : Nat) (v : Bool) : (g.qset n v).part = g.part := by unfold Gang.qset; split <;> rfl
@[simp] theorem Gang.qset_width (g : Gang) (n : Nat) (v : Bool) : (g.qset n v).width = g.width := by unfold Gang.qset; split <;> rfl
@[simp] theorem Gang.qset_vregs (g : Gang) (n : Nat) (v : Bool) : (g.qset n v).vregs = g.vregs := by unfold Gang.qset; split <;> rfl
@[simp] theorem Gang.qset_sregs (g : Gang) (n : Nat) (v : Bool) : (g.qset n v).sregs = g.sregs := by unfold Gang.qset; split <;> rfl
@[simp] theorem Gang.qset_m (g : Gang) (n : Nat) (v : Bool) : (g.qset n v).m = g.m := by unfold Gang.qset; split <;> rfl
@[simp] theorem Gang.qset_live (g : Gang) (n : Nat) (v : Bool) : (g.qset n v).live = g.live := by unfold Gang.qset; split <;> rfl
@[simp] theorem Gang.qset_ped (g : Gang) (n : Nat) (v : Bool) : (g.qset n v).ped = g.ped := by unfold Gang.qset; split <;> rfl
@[simp] theorem Gang.qset_arena (g : Gang) (n : Nat) (v : Bool) : (g.qset n v).arena = g.arena := by unfold Gang.qset; split <;> rfl
@[simp] theorem Gang.qset_views (g : Gang) (n : Nat) (v : Bool) : (g.qset n v).views = g.views := by unfold Gang.qset; split <;> rfl
@[simp] theorem Gang.qset_stat (g : Gang) (n : Nat) (v : Bool) : (g.qset n v).stat = g.stat := by unfold Gang.qset; split <;> rfl
@[simp] theorem Gang.qset_statarm (g : Gang) (n : Nat) (v : Bool) : (g.qset n v).statarm = g.statarm := by unfold Gang.qset; split <;> rfl
@[simp] theorem Gang.qset_seed (g : Gang) (n : Nat) (v : Bool) : (g.qset n v).seed = g.seed := by unfold Gang.qset; split <;> rfl
@[simp] theorem Gang.qset_tvec (g : Gang) (n : Nat) (v : Bool) : (g.qset n v).tvec = g.tvec := by unfold Gang.qset; split <;> rfl
@[simp] theorem Gang.qset_gangId (g : Gang) (n : Nat) (v : Bool) : (g.qset n v).gangId = g.gangId := by unfold Gang.qset; split <;> rfl
@[simp] theorem Gang.qset_teamId (g : Gang) (n : Nat) (v : Bool) : (g.qset n v).teamId = g.teamId := by unfold Gang.qset; split <;> rfl
@[simp] theorem Gang.qset_prio (g : Gang) (n : Nat) (v : Bool) : (g.qset n v).prio = g.prio := by unfold Gang.qset; split <;> rfl
@[simp] theorem Gang.qset_tcause (g : Gang) (n : Nat) (v : Bool) : (g.qset n v).tcause = g.tcause := by unfold Gang.qset; split <;> rfl
@[simp] theorem Gang.qset_tepc (g : Gang) (n : Nat) (v : Bool) : (g.qset n v).tepc = g.tepc := by unfold Gang.qset; split <;> rfl
@[simp] theorem Gang.qset_tmask (g : Gang) (n : Nat) (v : Bool) : (g.qset n v).tmask = g.tmask := by unfold Gang.qset; split <;> rfl
@[simp] theorem Gang.qset_tmaskh (g : Gang) (n : Nat) (v : Bool) : (g.qset n v).tmaskh = g.tmaskh := by unfold Gang.qset; split <;> rfl
@[simp] theorem Gang.qset_taddr (g : Gang) (n : Nat) (v : Bool) : (g.qset n v).taddr = g.taddr := by unfold Gang.qset; split <;> rfl
@[simp] theorem Gang.qset_taddrh (g : Gang) (n : Nat) (v : Bool) : (g.qset n v).taddrh = g.taddrh := by unfold Gang.qset; split <;> rfl
@[simp] theorem Gang.qset_tinfo (g : Gang) (n : Nat) (v : Bool) : (g.qset n v).tinfo = g.tinfo := by unfold Gang.qset; split <;> rfl
@[simp] theorem Gang.qset_batches (g : Gang) (n : Nat) (v : Bool) : (g.qset n v).batches = g.batches := by unfold Gang.qset; split <;> rfl
@[simp] theorem Gang.qset_trap (g : Gang) (n : Nat) (v : Bool) : (g.qset n v).trap = g.trap := by unfold Gang.qset; split <;> rfl
@[simp] theorem Gang.qset_pending (g : Gang) (n : Nat) (v : Bool) : (g.qset n v).pending = g.pending := by unfold Gang.qset; split <;> rfl
@[simp] theorem Gang.qset_fibres (g : Gang) (n : Nat) (v : Bool) : (g.qset n v).fibres = g.fibres := by unfold Gang.qset; split <;> rfl
@[simp] theorem Gang.qset_turns (g : Gang) (n : Nat) (v : Bool) : (g.qset n v).turns = g.turns := by unfold Gang.qset; split <;> rfl
@[simp] theorem Gang.qset_openTurn (g : Gang) (n : Nat) (v : Bool) : (g.qset n v).openTurn = g.openTurn := by unfold Gang.qset; split <;> rfl
@[simp] theorem Gang.qset_outstanding (g : Gang) (n : Nat) (v : Bool) : (g.qset n v).outstanding = g.outstanding := by unfold Gang.qset; split <;> rfl
@[simp] theorem Gang.qset_finals (g : Gang) (n : Nat) (v : Bool) : (g.qset n v).finals = g.finals := by unfold Gang.qset; split <;> rfl
@[simp] theorem Gang.qset_arrived (g : Gang) (n : Nat) (v : Bool) : (g.qset n v).arrived = g.arrived := by unfold Gang.qset; split <;> rfl
@[simp] theorem Gang.qset_cmdSeq (g : Gang) (n : Nat) (v : Bool) : (g.qset n v).cmdSeq = g.cmdSeq := by unfold Gang.qset; split <;> rfl
@[simp] theorem Gang.qset_joined (g : Gang) (n : Nat) (v : Bool) : (g.qset n v).joined = g.joined := by unfold Gang.qset; split <;> rfl
@[simp] theorem Gang.qset_ibuf (g : Gang) (n : Nat) (v : Bool) : (g.qset n v).ibuf = g.ibuf := by unfold Gang.qset; split <;> rfl
@[simp] theorem Gang.qset_sched (g : Gang) (n : Nat) (v : Bool) : (g.qset n v).sched = g.sched := by unfold Gang.qset; split <;> rfl
@[simp] theorem Gang.qset_exited (g : Gang) (n : Nat) (v : Bool) : (g.qset n v).exited = g.exited := by unfold Gang.qset; split <;> rfl
@[simp] theorem Gang.qset_inlined (g : Gang) (n : Nat) (v : Bool) : (g.qset n v).inlined = g.inlined := by unfold Gang.qset; split <;> rfl
@[simp] theorem Gang.qset_inlineFan (g : Gang) (n : Nat) (v : Bool) : (g.qset n v).inlineFan = g.inlineFan := by unfold Gang.qset; split <;> rfl
@[simp] theorem Gang.qset_poisonS (g : Gang) (n : Nat) (v : Bool) : (g.qset n v).poisonS = g.poisonS := by unfold Gang.qset; split <;> rfl
@[simp] theorem Gang.qset_behind (g : Gang) (n : Nat) (v : Bool) : (g.qset n v).behind = g.behind := by unfold Gang.qset; split <;> rfl
@[simp] theorem Gang.qset_owed (g : Gang) (n : Nat) (v : Bool) : (g.qset n v).owed = g.owed := by unfold Gang.qset; split <;> rfl

/-! ## Gang.mset -/

@[simp] theorem Gang.mset_gid (g : Gang) (n : Nat) (v : Mask) : (g.mset n v).gid = g.gid := by unfold Gang.mset; split <;> rfl
@[simp] theorem Gang.mset_lkey (g : Gang) (n : Nat) (v : Mask) : (g.mset n v).lkey = g.lkey := by unfold Gang.mset; split <;> rfl
@[simp] theorem Gang.mset_ctx (g : Gang) (n : Nat) (v : Mask) : (g.mset n v).ctx = g.ctx := by unfold Gang.mset; split <;> rfl
@[simp] theorem Gang.mset_team (g : Gang) (n : Nat) (v : Mask) : (g.mset n v).team = g.team := by unfold Gang.mset; split <;> rfl
@[simp] theorem Gang.mset_parent (g : Gang) (n : Nat) (v : Mask) : (g.mset n v).parent = g.parent := by unfold Gang.mset; split <;> rfl
@[simp] theorem Gang.mset_rank (g : Gang) (n : Nat) (v : Mask) : (g.mset n v).rank = g.rank := by unfold Gang.mset; split <;> rfl
@[simp] theorem Gang.mset_core (g : Gang) (n : Nat) (v : Mask) : (g.mset n v).core = g.core := by unfold Gang.mset; split <;> rfl
@[simp] theorem Gang.mset_part (g : Gang) (n : Nat) (v : Mask) : (g.mset n v).part = g.part := by unfold Gang.mset; split <;> rfl
@[simp] theorem Gang.mset_width (g : Gang) (n : Nat) (v : Mask) : (g.mset n v).width = g.width := by unfold Gang.mset; split <;> rfl
@[simp] theorem Gang.mset_vregs (g : Gang) (n : Nat) (v : Mask) : (g.mset n v).vregs = g.vregs := by unfold Gang.mset; split <;> rfl
@[simp] theorem Gang.mset_sregs (g : Gang) (n : Nat) (v : Mask) : (g.mset n v).sregs = g.sregs := by unfold Gang.mset; split <;> rfl
@[simp] theorem Gang.mset_q (g : Gang) (n : Nat) (v : Mask) : (g.mset n v).q = g.q := by unfold Gang.mset; split <;> rfl
@[simp] theorem Gang.mset_live (g : Gang) (n : Nat) (v : Mask) : (g.mset n v).live = g.live := by unfold Gang.mset; split <;> rfl
@[simp] theorem Gang.mset_ped (g : Gang) (n : Nat) (v : Mask) : (g.mset n v).ped = g.ped := by unfold Gang.mset; split <;> rfl
@[simp] theorem Gang.mset_arena (g : Gang) (n : Nat) (v : Mask) : (g.mset n v).arena = g.arena := by unfold Gang.mset; split <;> rfl
@[simp] theorem Gang.mset_views (g : Gang) (n : Nat) (v : Mask) : (g.mset n v).views = g.views := by unfold Gang.mset; split <;> rfl
@[simp] theorem Gang.mset_stat (g : Gang) (n : Nat) (v : Mask) : (g.mset n v).stat = g.stat := by unfold Gang.mset; split <;> rfl
@[simp] theorem Gang.mset_statarm (g : Gang) (n : Nat) (v : Mask) : (g.mset n v).statarm = g.statarm := by unfold Gang.mset; split <;> rfl
@[simp] theorem Gang.mset_seed (g : Gang) (n : Nat) (v : Mask) : (g.mset n v).seed = g.seed := by unfold Gang.mset; split <;> rfl
@[simp] theorem Gang.mset_tvec (g : Gang) (n : Nat) (v : Mask) : (g.mset n v).tvec = g.tvec := by unfold Gang.mset; split <;> rfl
@[simp] theorem Gang.mset_gangId (g : Gang) (n : Nat) (v : Mask) : (g.mset n v).gangId = g.gangId := by unfold Gang.mset; split <;> rfl
@[simp] theorem Gang.mset_teamId (g : Gang) (n : Nat) (v : Mask) : (g.mset n v).teamId = g.teamId := by unfold Gang.mset; split <;> rfl
@[simp] theorem Gang.mset_prio (g : Gang) (n : Nat) (v : Mask) : (g.mset n v).prio = g.prio := by unfold Gang.mset; split <;> rfl
@[simp] theorem Gang.mset_tcause (g : Gang) (n : Nat) (v : Mask) : (g.mset n v).tcause = g.tcause := by unfold Gang.mset; split <;> rfl
@[simp] theorem Gang.mset_tepc (g : Gang) (n : Nat) (v : Mask) : (g.mset n v).tepc = g.tepc := by unfold Gang.mset; split <;> rfl
@[simp] theorem Gang.mset_tmask (g : Gang) (n : Nat) (v : Mask) : (g.mset n v).tmask = g.tmask := by unfold Gang.mset; split <;> rfl
@[simp] theorem Gang.mset_tmaskh (g : Gang) (n : Nat) (v : Mask) : (g.mset n v).tmaskh = g.tmaskh := by unfold Gang.mset; split <;> rfl
@[simp] theorem Gang.mset_taddr (g : Gang) (n : Nat) (v : Mask) : (g.mset n v).taddr = g.taddr := by unfold Gang.mset; split <;> rfl
@[simp] theorem Gang.mset_taddrh (g : Gang) (n : Nat) (v : Mask) : (g.mset n v).taddrh = g.taddrh := by unfold Gang.mset; split <;> rfl
@[simp] theorem Gang.mset_tinfo (g : Gang) (n : Nat) (v : Mask) : (g.mset n v).tinfo = g.tinfo := by unfold Gang.mset; split <;> rfl
@[simp] theorem Gang.mset_batches (g : Gang) (n : Nat) (v : Mask) : (g.mset n v).batches = g.batches := by unfold Gang.mset; split <;> rfl
@[simp] theorem Gang.mset_trap (g : Gang) (n : Nat) (v : Mask) : (g.mset n v).trap = g.trap := by unfold Gang.mset; split <;> rfl
@[simp] theorem Gang.mset_pending (g : Gang) (n : Nat) (v : Mask) : (g.mset n v).pending = g.pending := by unfold Gang.mset; split <;> rfl
@[simp] theorem Gang.mset_fibres (g : Gang) (n : Nat) (v : Mask) : (g.mset n v).fibres = g.fibres := by unfold Gang.mset; split <;> rfl
@[simp] theorem Gang.mset_turns (g : Gang) (n : Nat) (v : Mask) : (g.mset n v).turns = g.turns := by unfold Gang.mset; split <;> rfl
@[simp] theorem Gang.mset_openTurn (g : Gang) (n : Nat) (v : Mask) : (g.mset n v).openTurn = g.openTurn := by unfold Gang.mset; split <;> rfl
@[simp] theorem Gang.mset_outstanding (g : Gang) (n : Nat) (v : Mask) : (g.mset n v).outstanding = g.outstanding := by unfold Gang.mset; split <;> rfl
@[simp] theorem Gang.mset_finals (g : Gang) (n : Nat) (v : Mask) : (g.mset n v).finals = g.finals := by unfold Gang.mset; split <;> rfl
@[simp] theorem Gang.mset_arrived (g : Gang) (n : Nat) (v : Mask) : (g.mset n v).arrived = g.arrived := by unfold Gang.mset; split <;> rfl
@[simp] theorem Gang.mset_cmdSeq (g : Gang) (n : Nat) (v : Mask) : (g.mset n v).cmdSeq = g.cmdSeq := by unfold Gang.mset; split <;> rfl
@[simp] theorem Gang.mset_joined (g : Gang) (n : Nat) (v : Mask) : (g.mset n v).joined = g.joined := by unfold Gang.mset; split <;> rfl
@[simp] theorem Gang.mset_ibuf (g : Gang) (n : Nat) (v : Mask) : (g.mset n v).ibuf = g.ibuf := by unfold Gang.mset; split <;> rfl
@[simp] theorem Gang.mset_sched (g : Gang) (n : Nat) (v : Mask) : (g.mset n v).sched = g.sched := by unfold Gang.mset; split <;> rfl
@[simp] theorem Gang.mset_exited (g : Gang) (n : Nat) (v : Mask) : (g.mset n v).exited = g.exited := by unfold Gang.mset; split <;> rfl
@[simp] theorem Gang.mset_inlined (g : Gang) (n : Nat) (v : Mask) : (g.mset n v).inlined = g.inlined := by unfold Gang.mset; split <;> rfl
@[simp] theorem Gang.mset_inlineFan (g : Gang) (n : Nat) (v : Mask) : (g.mset n v).inlineFan = g.inlineFan := by unfold Gang.mset; split <;> rfl
@[simp] theorem Gang.mset_poisonS (g : Gang) (n : Nat) (v : Mask) : (g.mset n v).poisonS = g.poisonS := by unfold Gang.mset; split <;> rfl
@[simp] theorem Gang.mset_behind (g : Gang) (n : Nat) (v : Mask) : (g.mset n v).behind = g.behind := by unfold Gang.mset; split <;> rfl
@[simp] theorem Gang.mset_owed (g : Gang) (n : Nat) (v : Mask) : (g.mset n v).owed = g.owed := by unfold Gang.mset; split <;> rfl

/-! ## Gang.place -/

@[simp] theorem Gang.place_gid (g : Gang) (pc : DWord) (m : Mask) : (g.place pc m).gid = g.gid := by unfold Gang.place; split <;> rfl
@[simp] theorem Gang.place_lkey (g : Gang) (pc : DWord) (m : Mask) : (g.place pc m).lkey = g.lkey := by unfold Gang.place; split <;> rfl
@[simp] theorem Gang.place_ctx (g : Gang) (pc : DWord) (m : Mask) : (g.place pc m).ctx = g.ctx := by unfold Gang.place; split <;> rfl
@[simp] theorem Gang.place_team (g : Gang) (pc : DWord) (m : Mask) : (g.place pc m).team = g.team := by unfold Gang.place; split <;> rfl
@[simp] theorem Gang.place_parent (g : Gang) (pc : DWord) (m : Mask) : (g.place pc m).parent = g.parent := by unfold Gang.place; split <;> rfl
@[simp] theorem Gang.place_rank (g : Gang) (pc : DWord) (m : Mask) : (g.place pc m).rank = g.rank := by unfold Gang.place; split <;> rfl
@[simp] theorem Gang.place_core (g : Gang) (pc : DWord) (m : Mask) : (g.place pc m).core = g.core := by unfold Gang.place; split <;> rfl
@[simp] theorem Gang.place_part (g : Gang) (pc : DWord) (m : Mask) : (g.place pc m).part = g.part := by unfold Gang.place; split <;> rfl
@[simp] theorem Gang.place_width (g : Gang) (pc : DWord) (m : Mask) : (g.place pc m).width = g.width := by unfold Gang.place; split <;> rfl
@[simp] theorem Gang.place_vregs (g : Gang) (pc : DWord) (m : Mask) : (g.place pc m).vregs = g.vregs := by unfold Gang.place; split <;> rfl
@[simp] theorem Gang.place_sregs (g : Gang) (pc : DWord) (m : Mask) : (g.place pc m).sregs = g.sregs := by unfold Gang.place; split <;> rfl
@[simp] theorem Gang.place_q (g : Gang) (pc : DWord) (m : Mask) : (g.place pc m).q = g.q := by unfold Gang.place; split <;> rfl
@[simp] theorem Gang.place_m (g : Gang) (pc : DWord) (m : Mask) : (g.place pc m).m = g.m := by unfold Gang.place; split <;> rfl
@[simp] theorem Gang.place_live (g : Gang) (pc : DWord) (m : Mask) : (g.place pc m).live = g.live := by unfold Gang.place; split <;> rfl
@[simp] theorem Gang.place_ped (g : Gang) (pc : DWord) (m : Mask) : (g.place pc m).ped = g.ped := by unfold Gang.place; split <;> rfl
@[simp] theorem Gang.place_arena (g : Gang) (pc : DWord) (m : Mask) : (g.place pc m).arena = g.arena := by unfold Gang.place; split <;> rfl
@[simp] theorem Gang.place_views (g : Gang) (pc : DWord) (m : Mask) : (g.place pc m).views = g.views := by unfold Gang.place; split <;> rfl
@[simp] theorem Gang.place_stat (g : Gang) (pc : DWord) (m : Mask) : (g.place pc m).stat = g.stat := by unfold Gang.place; split <;> rfl
@[simp] theorem Gang.place_statarm (g : Gang) (pc : DWord) (m : Mask) : (g.place pc m).statarm = g.statarm := by unfold Gang.place; split <;> rfl
@[simp] theorem Gang.place_seed (g : Gang) (pc : DWord) (m : Mask) : (g.place pc m).seed = g.seed := by unfold Gang.place; split <;> rfl
@[simp] theorem Gang.place_tvec (g : Gang) (pc : DWord) (m : Mask) : (g.place pc m).tvec = g.tvec := by unfold Gang.place; split <;> rfl
@[simp] theorem Gang.place_gangId (g : Gang) (pc : DWord) (m : Mask) : (g.place pc m).gangId = g.gangId := by unfold Gang.place; split <;> rfl
@[simp] theorem Gang.place_teamId (g : Gang) (pc : DWord) (m : Mask) : (g.place pc m).teamId = g.teamId := by unfold Gang.place; split <;> rfl
@[simp] theorem Gang.place_prio (g : Gang) (pc : DWord) (m : Mask) : (g.place pc m).prio = g.prio := by unfold Gang.place; split <;> rfl
@[simp] theorem Gang.place_tcause (g : Gang) (pc : DWord) (m : Mask) : (g.place pc m).tcause = g.tcause := by unfold Gang.place; split <;> rfl
@[simp] theorem Gang.place_tepc (g : Gang) (pc : DWord) (m : Mask) : (g.place pc m).tepc = g.tepc := by unfold Gang.place; split <;> rfl
@[simp] theorem Gang.place_tmask (g : Gang) (pc : DWord) (m : Mask) : (g.place pc m).tmask = g.tmask := by unfold Gang.place; split <;> rfl
@[simp] theorem Gang.place_tmaskh (g : Gang) (pc : DWord) (m : Mask) : (g.place pc m).tmaskh = g.tmaskh := by unfold Gang.place; split <;> rfl
@[simp] theorem Gang.place_taddr (g : Gang) (pc : DWord) (m : Mask) : (g.place pc m).taddr = g.taddr := by unfold Gang.place; split <;> rfl
@[simp] theorem Gang.place_taddrh (g : Gang) (pc : DWord) (m : Mask) : (g.place pc m).taddrh = g.taddrh := by unfold Gang.place; split <;> rfl
@[simp] theorem Gang.place_tinfo (g : Gang) (pc : DWord) (m : Mask) : (g.place pc m).tinfo = g.tinfo := by unfold Gang.place; split <;> rfl
@[simp] theorem Gang.place_trap (g : Gang) (pc : DWord) (m : Mask) : (g.place pc m).trap = g.trap := by unfold Gang.place; split <;> rfl
@[simp] theorem Gang.place_pending (g : Gang) (pc : DWord) (m : Mask) : (g.place pc m).pending = g.pending := by unfold Gang.place; split <;> rfl
@[simp] theorem Gang.place_fibres (g : Gang) (pc : DWord) (m : Mask) : (g.place pc m).fibres = g.fibres := by unfold Gang.place; split <;> rfl
@[simp] theorem Gang.place_turns (g : Gang) (pc : DWord) (m : Mask) : (g.place pc m).turns = g.turns := by unfold Gang.place; split <;> rfl
@[simp] theorem Gang.place_openTurn (g : Gang) (pc : DWord) (m : Mask) : (g.place pc m).openTurn = g.openTurn := by unfold Gang.place; split <;> rfl
@[simp] theorem Gang.place_outstanding (g : Gang) (pc : DWord) (m : Mask) : (g.place pc m).outstanding = g.outstanding := by unfold Gang.place; split <;> rfl
@[simp] theorem Gang.place_finals (g : Gang) (pc : DWord) (m : Mask) : (g.place pc m).finals = g.finals := by unfold Gang.place; split <;> rfl
@[simp] theorem Gang.place_arrived (g : Gang) (pc : DWord) (m : Mask) : (g.place pc m).arrived = g.arrived := by unfold Gang.place; split <;> rfl
@[simp] theorem Gang.place_cmdSeq (g : Gang) (pc : DWord) (m : Mask) : (g.place pc m).cmdSeq = g.cmdSeq := by unfold Gang.place; split <;> rfl
@[simp] theorem Gang.place_joined (g : Gang) (pc : DWord) (m : Mask) : (g.place pc m).joined = g.joined := by unfold Gang.place; split <;> rfl
@[simp] theorem Gang.place_ibuf (g : Gang) (pc : DWord) (m : Mask) : (g.place pc m).ibuf = g.ibuf := by unfold Gang.place; split <;> rfl
@[simp] theorem Gang.place_sched (g : Gang) (pc : DWord) (m : Mask) : (g.place pc m).sched = g.sched := by unfold Gang.place; split <;> rfl
@[simp] theorem Gang.place_exited (g : Gang) (pc : DWord) (m : Mask) : (g.place pc m).exited = g.exited := by unfold Gang.place; split <;> rfl
@[simp] theorem Gang.place_inlined (g : Gang) (pc : DWord) (m : Mask) : (g.place pc m).inlined = g.inlined := by unfold Gang.place; split <;> rfl
@[simp] theorem Gang.place_inlineFan (g : Gang) (pc : DWord) (m : Mask) : (g.place pc m).inlineFan = g.inlineFan := by unfold Gang.place; split <;> rfl
@[simp] theorem Gang.place_poisonS (g : Gang) (pc : DWord) (m : Mask) : (g.place pc m).poisonS = g.poisonS := by unfold Gang.place; split <;> rfl
@[simp] theorem Gang.place_behind (g : Gang) (pc : DWord) (m : Mask) : (g.place pc m).behind = g.behind := by unfold Gang.place; split <;> rfl
@[simp] theorem Gang.place_owed (g : Gang) (pc : DWord) (m : Mask) : (g.place pc m).owed = g.owed := by unfold Gang.place; split <;> rfl

/-! ## Fibre.setV -/

@[simp] theorem Fibre.setV_regs (f : Fibre) (n : Nat) (x : Word) : (f.setV n x).regs = f.regs.set (f.wb + n) x := rfl
@[simp] theorem Fibre.setV_wb (f : Fibre) (n : Nat) (x : Word) : (f.setV n x).wb = f.wb := rfl
@[simp] theorem Fibre.setV_p (f : Fibre) (n : Nat) (x : Word) : (f.setV n x).p = f.p := rfl
@[simp] theorem Fibre.setV_drw (f : Fibre) (n : Nat) (x : Word) : (f.setV n x).drw = f.drw := rfl
@[simp] theorem Fibre.setV_bad (f : Fibre) (n : Nat) (x : Word) : (f.setV n x).bad = f.bad.filter (· != f.wb + n) := rfl

/-! ## Fibre.drew -/

@[simp] theorem Fibre.drew_regs (f : Fibre) (n : Nat) : (f.drew n).regs = f.regs := rfl
@[simp] theorem Fibre.drew_wb (f : Fibre) (n : Nat) : (f.drew n).wb = f.wb := rfl
@[simp] theorem Fibre.drew_p (f : Fibre) (n : Nat) : (f.drew n).p = f.p := rfl
@[simp] theorem Fibre.drew_drw (f : Fibre) (n : Nat) : (f.drew n).drw = f.drw + BitVec.ofNat 32 n := rfl
@[simp] theorem Fibre.drew_bad (f : Fibre) (n : Nat) : (f.drew n).bad = f.bad := rfl

/-! ## Fibre.pset -/

@[simp] theorem Fibre.pset_regs (f : Fibre) (n : Nat) (v : Bool) : (f.pset n v).regs = f.regs := by unfold Fibre.pset; split <;> rfl
@[simp] theorem Fibre.pset_wb (f : Fibre) (n : Nat) (v : Bool) : (f.pset n v).wb = f.wb := by unfold Fibre.pset; split <;> rfl
@[simp] theorem Fibre.pset_drw (f : Fibre) (n : Nat) (v : Bool) : (f.pset n v).drw = f.drw := by unfold Fibre.pset; split <;> rfl
@[simp] theorem Fibre.pset_bad (f : Fibre) (n : Nat) (v : Bool) : (f.pset n v).bad = f.bad := by unfold Fibre.pset; split <;> rfl

/-! ## Fibre.setV2 -/

@[simp] theorem Fibre.setV2_regs (f : Fibre) (n : Nat) (x : DWord) : (f.setV2 n x).regs = (f.regs.set (f.wb + n) (loWord x)).set (f.wb + (n + 1)) (hiWord x) := rfl
@[simp] theorem Fibre.setV2_wb (f : Fibre) (n : Nat) (x : DWord) : (f.setV2 n x).wb = f.wb := rfl
@[simp] theorem Fibre.setV2_p (f : Fibre) (n : Nat) (x : DWord) : (f.setV2 n x).p = f.p := rfl
@[simp] theorem Fibre.setV2_drw (f : Fibre) (n : Nat) (x : DWord) : (f.setV2 n x).drw = f.drw := rfl

end Sys2Proof.Machine
end

