-- ==== Sys2Proof/Laws/Memory.lean ====
section
/-! SUPPORT. The laws of memory: every operation keeps its canonical form, and a read after a write. -/
namespace Sys2Proof.Machine

/-! ## The canonical form -/

theorem wf_cons {x : Host.Cell} {l : List Host.Cell} :
    Memory.wf (x :: l) = true ↔ x.2 ≠ Memory.blank ∧ (∀ y ∈ l, x.1 < y.1) ∧ Memory.wf l = true := by
  induction l generalizing x with
  | nil => simp [Memory.wf]
  | cons y l ih =>
    simp only [Memory.wf, Bool.and_eq_true, bne_iff_ne, ne_eq, decide_eq_true_eq, List.mem_cons, forall_eq_or_imp]
    constructor
    · rintro ⟨⟨h1, h2⟩, h3⟩
      have h4 := ih.1 h3
      exact ⟨h1, ⟨h2, fun z hz => Nat.lt_trans h2 (h4.2.1 z hz)⟩, h3⟩
    · rintro ⟨h1, ⟨h2, _⟩, h3⟩
      exact ⟨⟨h1, h2⟩, h3⟩

theorem wf_nil : Memory.wf [] = true := rfl

theorem mem_write {m : List Host.Cell} {a : Nat} {b : Byte} {y : Host.Cell} (h : y ∈ Memory.write m a b) :
    y ∈ m ∨ y = (a, b) := by
  induction m with
  | nil =>
    unfold Memory.write at h
    split at h
    · cases h
    · exact .inr (by simpa using h)
  | cons x xs ih =>
    unfold Memory.write at h
    split at h
    · rcases List.mem_cons.1 h with h | h
      · exact .inl (by simp [h])
      · rcases ih h with h | h
        · exact .inl (by simp [h])
        · exact .inr h
    · have hr : ∀ z, z ∈ (if x.1 = a then xs else x :: xs) → z ∈ x :: xs := by
        intro z hz; split at hz
        · simp [hz]
        · exact hz
      simp only at h
      split at h
      · exact .inl (hr y h)
      · rcases List.mem_cons.1 h with h | h
        · exact .inr h
        · exact .inl (hr y h)

/-- A write keeps the canonical form. -/
theorem wf_write {m : List Host.Cell} (a : Nat) (b : Byte) (h : Memory.wf m = true) :
    Memory.wf (Memory.write m a b) = true := by
  induction m with
  | nil =>
    unfold Memory.write
    split
    · rfl
    · rw [wf_cons]; exact ⟨‹_›, by simp, rfl⟩
  | cons x xs ih =>
    have hx := wf_cons.1 h
    unfold Memory.write
    split
    · rename_i hlt
      rw [wf_cons]
      refine ⟨hx.1, fun y hy => ?_, ih hx.2.2⟩
      rcases mem_write hy with hy | hy
      · exact hx.2.1 y hy
      · rw [hy]; exact hlt
    · rename_i hge
      simp only
      have hr : Memory.wf (if x.1 = a then xs else x :: xs) = true := by
        split
        · exact hx.2.2
        · exact h
      split
      · exact hr
      · rw [wf_cons]
        refine ⟨‹_›, fun y hy => ?_, hr⟩
        split at hy
        · have := hx.2.1 y hy; simp only; omega
        · rcases List.mem_cons.1 hy with hy | hy
          · subst hy; simp only; omega
          · have := hx.2.1 y hy; simp only; omega

theorem read_none {m : List Host.Cell} {a : Nat} (h : ∀ y ∈ m, y.1 ≠ a) : Memory.read m a = Memory.blank := by
  induction m with
  | nil => rfl
  | cons x xs ih =>
    unfold Memory.read
    rw [if_neg (h x (by simp)), ih fun y hy => h y (by simp [hy])]

/-- A read after a write: the byte written there, and every other byte as before. -/
theorem read_write {m : List Host.Cell} (a : Nat) (b : Byte) (h : Memory.wf m = true) (x : Nat) :
    Memory.read (Memory.write m a b) x = if x = a then b else Memory.read m x := by
  induction m with
  | nil =>
    unfold Memory.write
    split
    · rename_i hb; simp [Memory.read, hb]
    · simp only [Memory.read]
      by_cases hx : a = x
      · simp [hx]
      · have : ¬ x = a := fun e => hx e.symm
        simp [hx, this]
  | cons y ys ih =>
    have hy := wf_cons.1 h
    unfold Memory.write
    split
    · rename_i hlt
      unfold Memory.read
      by_cases hx : y.1 = x
      · have : ¬ x = a := by omega
        simp [hx, this]
      · simp only [hx, if_false]; exact ih hy.2.2
    · rename_i hge
      simp only
      by_cases hya : y.1 = a
      · simp only [hya, if_true]
        have hys : Memory.read ys a = Memory.blank := read_none fun z hz => by have := hy.2.1 z hz; omega
        split
        · rename_i hb
          by_cases hx : x = a
          · simp [hx, hys, hb]
          · have : ¬ a = x := fun e => hx e.symm
            simp [hx, Memory.read, hya, this]
        · by_cases hx : x = a
          · simp [hx, Memory.read]
          · have : ¬ a = x := fun e => hx e.symm
            simp [hx, Memory.read, hya, this]
      · simp only [hya, if_false]
        have hys : Memory.read (y :: ys) a = Memory.blank := read_none fun z hz => by
          rcases List.mem_cons.1 hz with hz | hz
          · subst hz; exact hya
          · have := hy.2.1 z hz; omega
        split
        · rename_i hb
          by_cases hx : x = a
          · simp [hx, hys, hb]
          · simp [hx]
        · by_cases hx : x = a
          · simp [hx, Memory.read]
          · have : ¬ a = x := fun e => hx e.symm
            simp [hx, Memory.read, this]

theorem wf_writes (bs : List Byte) : ∀ (m : List Host.Cell) (a : Nat), Memory.wf m = true → Memory.wf (Memory.writes m a bs) = true := by
  induction bs with
  | nil => intro m a h; exact h
  | cons b bs ih => intro m a h; exact ih _ _ (wf_write a b h)

theorem wf_writeMask (bs : List Byte) :
    ∀ (m : List Host.Cell) (a k : Nat), Memory.wf m = true → Memory.wf (Memory.writeMask m a k bs) = true := by
  induction bs with
  | nil => intro m a k h; exact h
  | cons b bs ih =>
    intro m a k h
    unfold Memory.writeMask
    apply ih
    split
    · exact wf_write a b h
    · exact h

theorem wf_filter (p : Host.Cell → Bool) (m : List Host.Cell) (h : Memory.wf m = true) : Memory.wf (m.filter p) = true := by
  induction m with
  | nil => rfl
  | cons x xs ih =>
    have hx := wf_cons.1 h
    rw [List.filter_cons]
    split
    · rw [wf_cons]
      exact ⟨hx.1, fun y hy => hx.2.1 y (List.mem_filter.1 hy).1, ih hx.2.2⟩
    · exact ih hx.2.2

theorem wf_clear (m : List Host.Cell) (a n : Nat) (h : Memory.wf m = true) : Memory.wf (Memory.clear m a n) = true :=
  wf_filter _ _ h

theorem wf_foldl_write {α : Type} (f : α → Nat) (g : α → Byte) (l : List α) :
    ∀ m : List Host.Cell, Memory.wf m = true → Memory.wf (l.foldl (fun r x => Memory.write r (f x) (g x)) m) = true := by
  induction l with
  | nil => intro m h; exact h
  | cons a l ih => intro m h; exact ih _ (wf_write _ _ h)

theorem wf_copy (m : List Host.Cell) (src dst n : Nat) (h : Memory.wf m = true) : Memory.wf (Memory.copy m src dst n) = true := by
  unfold Memory.copy
  exact wf_foldl_write _ _ _ _ (wf_clear _ _ _ h)

/-! ## Masked writes -/

/-- A byte of a masked write: the byte given where the mask is set, and memory's own elsewhere. -/
theorem read_writeMask (bs : List Byte) :
    ∀ (m : List Host.Cell) (a k x : Nat), Memory.wf m = true →
      Memory.read (Memory.writeMask m a k bs) x =
        if a ≤ x ∧ x < a + bs.length ∧ k.testBit (x - a) = true then bs.getD (x - a) 0 else Memory.read m x := by
  induction bs with
  | nil => intro m a k x _; unfold Memory.writeMask; rw [if_neg]; simp only [List.length_nil]; omega
  | cons b bs ih =>
    intro m a k x h
    unfold Memory.writeMask
    have h' : Memory.wf (if k % 2 = 1 then Memory.write m a b else m) = true := by
      split
      · exact wf_write a b h
      · exact h
    rw [ih _ (a + 1) (k / 2) x h']
    have hr : Memory.read (if k % 2 = 1 then Memory.write m a b else m) x =
        if x = a ∧ k % 2 = 1 then b else Memory.read m x := by
      by_cases hk : k % 2 = 1
      · simp only [hk, if_true, and_true]; exact read_write a b h x
      · simp [hk]
    rw [hr]
    by_cases hx : x = a
    · subst hx
      rw [if_neg (by omega)]
      have : k.testBit 0 = decide (k % 2 = 1) := by rw [Nat.testBit_zero]
      simp [this]
    · simp only [hx, false_and, if_false]
      by_cases hlt : a < x
      · have e : x - a = (x - (a + 1)) + 1 := by omega
        have e2 : (k / 2).testBit (x - (a + 1)) = k.testBit (x - a) := by rw [e, Nat.testBit_succ]
        have e3 : (b :: bs).getD (x - a) 0 = bs.getD (x - (a + 1)) 0 := by rw [e]; rfl
        rw [e2, e3]
        congr 1
        simp only [List.length_cons, eq_iff_iff]
        constructor <;> rintro ⟨h1, h2, h3⟩ <;> exact ⟨by omega, by omega, h3⟩
      · rw [if_neg (by omega), if_neg (by omega)]

/-! ## Copies -/

theorem read_filter {p : Host.Cell → Bool} {m : List Host.Cell} {x : Nat} (hx : ∀ b b', p (x, b) = p (x, b')) :
    Memory.read (m.filter p) x = if p (x, 0) then Memory.read m x else Memory.blank := by
  induction m with
  | nil => simp [Memory.read]
  | cons y ys ih =>
    rw [List.filter_cons]
    by_cases hy : y.1 = x
    · have e : p y = p (x, 0) := by
        have : y = (x, y.2) := by rw [← hy]
        rw [this]; exact hx _ _
      by_cases hp : p (x, 0) = true
      · rw [if_pos (by rw [e]; exact hp), if_pos hp]; simp [Memory.read, hy]
      · have hpf : p (x, 0) = false := by simpa using hp
        rw [if_neg (by rw [e]; exact hp), ih, if_neg hp, if_neg hp]
    · have h1 : Memory.read (y :: ys) x = Memory.read ys x := by simp [Memory.read, hy]
      rw [h1, ← ih]
      split
      · simp [Memory.read, hy]
      · rfl

theorem read_fold (src dst : Nat) : ∀ (l : List Host.Cell) (r : List Host.Cell), Memory.wf r = true → Memory.wf l = true → (∀ c ∈ l, src ≤ c.1) → ∀ x,
    Memory.read (l.foldl (fun r x => Memory.write r (x.1 - src + dst) x.2) r) x =
      if dst ≤ x ∧ ∃ c ∈ l, c.1 = x - dst + src then Memory.read l (x - dst + src) else Memory.read r x := by
  intro l
  induction l with
  | nil => intro r _ _ _ x; simp
  | cons c l ih =>
    intro r hr hl hs x
    have hc := wf_cons.1 hl
    rw [List.foldl_cons, ih _ (wf_write _ _ hr) hc.2.2 (fun d hd => hs d (by simp [hd])), read_write _ _ hr]
    have hcs := hs c (by simp)
    by_cases hx : dst ≤ x
    · by_cases he : ∃ d ∈ l, d.1 = x - dst + src
      · obtain ⟨d, hd, hde⟩ := he
        rw [if_pos ⟨hx, d, hd, hde⟩, if_pos ⟨hx, d, by simp [hd], hde⟩]
        have := hc.2.1 d hd
        rw [show Memory.read (c :: l) (x - dst + src) = Memory.read l (x - dst + src) by
          have : ¬ c.1 = x - dst + src := by omega
          simp [Memory.read, this]]
      · rw [if_neg (fun h => he h.2)]
        by_cases hce : c.1 = x - dst + src
        · rw [if_pos (by omega), if_pos ⟨hx, c, by simp, hce⟩]
          simp [Memory.read, hce]
        · rw [if_neg (by omega), if_neg]
          rintro ⟨_, d, hd, hde⟩
          rcases List.mem_cons.1 hd with rfl | hd
          · exact hce hde
          · exact he ⟨d, hd, hde⟩
    · rw [if_neg (fun h => hx h.1), if_neg (by omega), if_neg (fun h => hx h.1)]

/-- A byte of a copied range: the source's byte in the destination, and every other byte as before. -/
theorem read_copy (m : List Host.Cell) (src dst n : Nat) (h : Memory.wf m = true) (x : Nat) :
    Memory.read (Memory.copy m src dst n) x = if dst ≤ x ∧ x < dst + n then Memory.read m (x - dst + src) else Memory.read m x := by
  unfold Memory.copy
  rw [read_fold src dst _ _ (wf_clear _ _ _ h) (wf_filter _ _ h) (by
    intro c hc; have := (List.mem_filter.1 hc).2; simp at this; exact this.1)]
  unfold Memory.clear
  rw [read_filter (fun _ _ => rfl), read_filter (fun _ _ => rfl)]
  by_cases hx : dst ≤ x ∧ x < dst + n
  · rw [if_pos hx]
    have e1 : (decide (src ≤ x - dst + src) && decide (x - dst + src < src + n)) = true := by
      simp; omega
    have e2 : (decide (x < dst) || decide (dst + n ≤ x)) = false := by simp; omega
    simp only [e1, e2, if_true]
    by_cases he : ∃ c ∈ m, c.1 = x - dst + src
    · obtain ⟨c, hc, hce⟩ := he
      rw [if_pos ⟨hx.1, c, List.mem_filter.2 ⟨hc, by simp [hce]; omega⟩, hce⟩]
    · rw [if_neg]
      · have : Memory.read m (x - dst + src) = Memory.blank := read_none fun y hy e => he ⟨y, hy, e⟩
        rw [this]; rfl
      · rintro ⟨_, c, hc, hce⟩; exact he ⟨c, (List.mem_filter.1 hc).1, hce⟩
  · rw [if_neg hx]
    have e2 : (decide (x < dst) || decide (dst + n ≤ x)) = true := by simp; omega
    simp only [e2, if_true]
    rw [if_neg]
    rintro ⟨h1, c, hc, hce⟩
    have := (List.mem_filter.1 hc).2; simp at this; omega

theorem testBit_ones {n i : Nat} : (2 ^ n - 1).testBit i = decide (i < n) := Nat.testBit_two_pow_sub_one n i

end Sys2Proof.Machine
end

