-- ==== Sys2Proof/Laws/Cache.lean ====
section
/-! SUPPORT. What the cache actions may change: memory, the copies, what dies still see, poison, the snapshot, the performance
counters and the note of what a step has written. -/
namespace Sys2Proof.Machine

/-- From s to t only memory, the copies, what dies still see, poison, the snapshot, the performance counters and the note of
what the step has written have changed. -/
def MemOnly (s t : State) : Prop :=
  t = { s with mem := t.mem, l1 := t.l1, quads := t.quads, l2 := t.l2, late := t.late, poison := t.poison, snap := t.snap,
               perf := t.perf, wrote := t.wrote }

theorem MemOnly.refl (s : State) : MemOnly s s := rfl
theorem MemOnly.trans {a b c : State} (h : MemOnly a b) (h' : MemOnly b c) : MemOnly a c := by
  unfold MemOnly at *; rw [h', h]

theorem MemOnly.toL1 {a b : State} (h : MemOnly a b) (l : List Sector) : MemOnly a { b with l1 := l } := by unfold MemOnly at *; rw [h]
theorem MemOnly.toQuads {a b : State} (h : MemOnly a b) (l : List Sector) : MemOnly a { b with quads := l } := by unfold MemOnly at *; rw [h]
theorem MemOnly.toL2 {a b : State} (h : MemOnly a b) (l : List Sector) : MemOnly a { b with l2 := l } := by unfold MemOnly at *; rw [h]
theorem MemOnly.toLate {a b : State} (h : MemOnly a b) (l : List Late) : MemOnly a { b with late := l } := by unfold MemOnly at *; rw [h]
theorem MemOnly.toWrote {a b : State} (h : MemOnly a b) (l : List Nat) : MemOnly a { b with wrote := l } := by unfold MemOnly at *; rw [h]

theorem memOnly_foldl {α : Type} {f : State → α → State} (hf : ∀ s a, MemOnly s (f s a)) (l : List α) : ∀ s, MemOnly s (l.foldl f s) := by
  induction l with
  | nil => intro s; exact .refl s
  | cons a l ih => intro s; exact (hf s a).trans (ih _)

theorem copyBlock_only (s : State) (b : SnapBlock) : MemOnly s (s.copyBlock b) := rfl

theorem snapBefore_only (s : State) (pa n : Nat) : MemOnly s (s.snapBefore pa n) := by
  unfold State.snapBefore
  split
  · exact .refl s
  · split
    · exact memOnly_foldl copyBlock_only _ s
    · exact .refl s

theorem homeWrMask_only (s : State) (pa mask : Nat) (bs : List Byte) : MemOnly s (s.homeWrMask pa mask bs) := by
  have h := snapBefore_only s pa bs.length
  unfold State.homeWrMask
  unfold MemOnly at *
  simp only
  rw [h]

theorem poisonHome_only (s : State) (sect : Nat) (k : Option Nat) : MemOnly s (s.poisonHome sect k) := by
  cases k <;> rfl

theorem bump_only (s : State) (core k n : Nat) : MemOnly s (s.bump core k n) :=
  memOnly_foldl (f := fun s _ => s.perfSet _ _ _) (fun _ _ => rfl) _ s
theorem bumpDie_only (s : State) (die k n : Nat) : MemOnly s (s.bumpDie die k n) :=
  memOnly_foldl (f := fun s _ => s.perfSet _ _ _) (fun _ _ => rfl) _ s

theorem wbL2_only (s : State) (x : Sector) : MemOnly s (s.wbL2 x) := by
  unfold State.wbL2
  split
  · exact .refl s
  · exact ((homeWrMask_only s _ _ _).trans (poisonHome_only _ _ _)).toL2 _

theorem evictL2_only (s : State) (die sect : Nat) : MemOnly s (s.evictL2 die sect) := by
  unfold State.evictL2
  split
  · exact .refl s
  · exact (wbL2_only s _).toL2 _

theorem evictLate_only (s : State) (die sect : Nat) (dies : List Nat) : MemOnly s (s.evictLate die sect dies) := by
  unfold State.evictLate
  split
  · exact .refl s
  · exact (evictL2_only s _ _).toLate _

theorem l2Room_only (s : State) (die sect : Nat) : MemOnly s (s.l2Room die sect) := by
  unfold State.l2Room
  split
  · exact .refl s
  · exact memOnly_foldl (fun s _ => evictL2_only s _ _) _ s

theorem l2Fetch_only (s : State) (die sect : Nat) : MemOnly s (s.l2Fetch die sect).2 := by
  unfold State.l2Fetch
  simp only
  split
  · exact .refl s
  · split
    · split
      · exact .refl s
      · rfl
    · exact ((l2Room_only s _ _).toL2 _).trans (bumpDie_only _ _ _ _)

theorem l2Store_only (s : State) (die sect mask : Nat) (bs : List Byte) (bad : Option Nat) :
    MemOnly s (s.l2Store die sect mask bs bad) := by
  unfold State.l2Store
  split
  · exact (homeWrMask_only _ _ _ _).trans (poisonHome_only _ _ _)
  · have h := l2Room_only s die sect
    unfold State.seen MemOnly at *
    simp only
    rw [h]

theorem wbQuad_only (s : State) (x : Sector) : MemOnly s (s.wbQuad x) := by
  unfold State.wbQuad
  split
  · exact .refl s
  · exact (l2Store_only s _ _ _ _ _).toQuads _

theorem evictQuad_only (s : State) (quad sect : Nat) : MemOnly s (s.evictQuad quad sect) := by
  unfold State.evictQuad
  split
  · exact .refl s
  · exact (wbQuad_only s _).toQuads _

theorem quadFetch_only (s : State) (core sect : Nat) : MemOnly s (s.quadFetch core sect).2 := by
  unfold State.quadFetch
  split
  · split
    · exact .refl s
    · exact (l2Fetch_only s _ _).toQuads _
  · exact (l2Fetch_only s _ _).toQuads _

theorem lowFetch_only (s : State) (core sect : Nat) : MemOnly s (s.lowFetch core sect).2 := by
  unfold State.lowFetch
  split
  · exact quadFetch_only s _ _
  · exact l2Fetch_only s _ _

theorem lowStore_only (s : State) (core sect mask : Nat) (bs : List Byte) (bad : Option Nat) :
    MemOnly s (s.lowStore core sect mask bs bad) := by
  unfold State.lowStore
  split
  · rfl
  · exact l2Store_only s _ _ _ _ _

theorem wbL1_only (s : State) (x : Sector) : MemOnly s (s.wbL1 x) := by
  unfold State.wbL1
  split
  · exact .refl s
  · exact (lowStore_only s _ _ _ _ _).toL1 _

theorem evictL1_only (s : State) (core sect : Nat) : MemOnly s (s.evictL1 core sect) := by
  unfold State.evictL1
  split
  · exact .refl s
  · exact (wbL1_only s _).toL1 _

theorem l1Room_only (s : State) (core sect : Nat) : MemOnly s (s.l1Room core sect) := by
  unfold State.l1Room
  split
  · exact .refl s
  · exact memOnly_foldl (fun s _ => evictL1_only s _ _) _ s

theorem l1Share_only (s : State) (core sect : Nat) : MemOnly s (s.l1Share core sect) := by
  unfold State.l1Share
  split
  · split
    · exact .refl s
    · exact wbL1_only s _
  · exact .refl s

theorem l1Fetch_only (s : State) (core sect : Nat) : MemOnly s (s.l1Fetch core sect).2 := by
  unfold State.l1Fetch
  have h := l1Share_only s core sect
  simp only
  split
  · split
    · exact h
    · exact (h.trans (lowFetch_only _ _ _)).toL1 _
  · exact (((h.trans (l1Room_only _ _ _)).trans (lowFetch_only _ _ _)).toL1 _).trans (bump_only _ _ _ _)

theorem l1Store_only (s : State) (core sect mask : Nat) (bs : List Byte) : MemOnly s (s.l1Store core sect mask bs) := by
  have h := (l1Share_only s core sect).trans (l1Room_only (s.l1Share core sect) core sect)
  unfold State.l1Store
  unfold MemOnly at *
  simp only
  rw [h]

theorem writeBack_only (s : State) (core lv : Nat) : MemOnly s (s.writeBack core lv) := by
  unfold State.writeBack
  simp only
  have h : MemOnly s (if lv ≥ 1 then
      ((((s.l1.filter fun x => x.own == core && x.dirty != 0).foldl State.wbL1 s).quads.filter fun x =>
        x.own == quadOf core && x.dirty != 0).foldl State.wbQuad ((s.l1.filter fun x => x.own == core && x.dirty != 0).foldl State.wbL1 s))
      else s) := by
    split
    · exact (memOnly_foldl wbL1_only _ s).trans (memOnly_foldl wbQuad_only _ _)
    · exact .refl s
  split
  · exact (h.trans (memOnly_foldl wbL2_only _ _)).trans (bumpDie_only _ _ _ _)
  · exact h

theorem releaseLv_only (s : State) (core lv : Nat) : MemOnly s (s.releaseLv core lv) := by
  unfold State.releaseLv
  simp only
  split
  · exact (writeBack_only s core lv).toLate _
  · exact writeBack_only s core lv

theorem acquireLv_only (s : State) (core lv : Nat) : MemOnly s (s.acquireLv core lv) := by
  unfold State.acquireLv
  split <;> split <;> rfl

theorem syncDown_only (s : State) (core place sect : Nat) : MemOnly s (s.syncDown core place sect) := by
  unfold State.syncDown
  simp only
  have h : MemOnly s (if place ≥ 1 then s.evictL1 core sect else s) := by
    split
    · exact evictL1_only s _ _
    · exact .refl s
  generalize (if place ≥ 1 then s.evictL1 core sect else s) = a at h ⊢
  have h2 : MemOnly s (if place ≥ 2 then a.evictQuad (quadOf core) sect else a) := by
    split
    · exact h.trans (evictQuad_only _ _ _)
    · exact h
  split
  · exact (h2.trans (evictL2_only _ _ _)).toLate _
  · exact h2

theorem placeRd_only (s : State) (core place pa n : Nat) : MemOnly s (s.placeRd core place pa n).2 := by
  unfold State.placeRd
  simp only
  have h := syncDown_only s core place (pa / 16)
  split
  · exact h.trans (l1Fetch_only _ _ _)
  · split
    · exact h.trans (quadFetch_only _ _ _)
    · split
      · exact h.trans (l2Fetch_only _ _ _)
      · exact h

theorem placeWr_only (s : State) (core place pa : Nat) (bs : List Byte) : MemOnly s (s.placeWr core place pa bs) := by
  unfold State.placeWr
  simp only
  have h := syncDown_only s core place (pa / 16)
  split
  · exact h.trans (l1Store_only _ _ _ _ _)
  · split
    · have h' := h.trans (quadFetch_only (s.syncDown core place (pa / 16)) core (pa / 16))
      unfold MemOnly at *
      simp only
      rw [h']
    · split
      · exact h.trans (l2Store_only _ _ _ _ _ _)
      · exact h.trans (homeWrMask_only _ _ _ _)

end Sys2Proof.Machine
end

