-- ==== Sys2Proof/Laws/Access.lean ====
section
/-! SUPPORT. What a checked access may change: memory and its copies, translations, the race filter, counters and the
I/O dies; never a gang, a team, a command, a context or a register. -/
namespace Sys2Proof.Machine

/-- A launch but for the use of its fault log. -/
def launchLog (l : Launch) : Launch := { l with flogUsed := 0 }

/-- From s to t only what an access may touch has changed. -/
structure AccessOnly (s t : State) : Prop where
  rest : t = { s with mem := t.mem, remote := t.remote, l1 := t.l1, quads := t.quads, l2 := t.l2, late := t.late,
                      poison := t.poison, snap := t.snap, perf := t.perf, tlb := t.tlb, filter := t.filter,
                      strands := t.strands, launches := t.launches, fresh := t.fresh, io := t.io, out := t.out,
                      freePage := t.freePage, wrote := t.wrote, cur := t.cur }
  launches : t.launches.map launchLog = s.launches.map launchLog
  fresh : s.fresh ≤ t.fresh
  cur : t.cur.map (fun c => { c with reads := [], raced := false }) = s.cur.map fun c => { c with reads := [], raced := false }

theorem AccessOnly.refl (s : State) : AccessOnly s s := ⟨rfl, rfl, Nat.le_refl _, rfl⟩
theorem AccessOnly.trans {a b c : State} (h : AccessOnly a b) (h' : AccessOnly b c) : AccessOnly a c := by
  obtain ⟨h1, h2, h3, h4⟩ := h
  obtain ⟨k1, k2, k3, k4⟩ := h'
  exact ⟨by rw [k1, h1], k2.trans h2, Nat.le_trans h3 k3, k4.trans h4⟩

theorem MemOnly.access {s t : State} (h : MemOnly s t) : AccessOnly s t := by
  unfold MemOnly at h
  refine ⟨by rw [h], by rw [h], Nat.le_of_eq (by rw [h]), by rw [h]⟩

/-- A change of the fields that an access may touch, launches and the counter of names aside. -/
theorem AccessOnly.of (s t : State)
    (h : t = { s with mem := t.mem, remote := t.remote, tlb := t.tlb, filter := t.filter, strands := t.strands, io := t.io,
                      out := t.out, freePage := t.freePage, l1 := t.l1, quads := t.quads, l2 := t.l2 }) :
    AccessOnly s t := by
  refine ⟨by rw [h], by rw [h], Nat.le_of_eq (by rw [h]), by rw [h]⟩

theorem access_foldl {α : Type} {f : State → α → State} (hf : ∀ s a, AccessOnly s (f s a)) (l : List α) : ∀ s, AccessOnly s (l.foldl f s) := by
  induction l with
  | nil => intro s; exact .refl s
  | cons a l ih => intro s; exact (hf s a).trans (ih _)

/-- From s to t only memory, its copies, translations, counters and firmware's free pages have changed. -/
def PageOnly (s t : State) : Prop :=
  t = { s with mem := t.mem, l1 := t.l1, quads := t.quads, l2 := t.l2, late := t.late, poison := t.poison, snap := t.snap,
               perf := t.perf, tlb := t.tlb, freePage := t.freePage, wrote := t.wrote }

theorem PageOnly.refl (s : State) : PageOnly s s := rfl
theorem PageOnly.trans {a b c : State} (h : PageOnly a b) (h' : PageOnly b c) : PageOnly a c := by
  unfold PageOnly at *; rw [h', h]
theorem MemOnly.page {s t : State} (h : MemOnly s t) : PageOnly s t := by
  unfold MemOnly at h; unfold PageOnly; rw [h]
theorem PageOnly.access {s t : State} (h : PageOnly s t) : AccessOnly s t := by
  unfold PageOnly at h
  exact ⟨by rw [h], by rw [h], Nat.le_of_eq (by rw [h]), by rw [h]⟩

theorem homeWr_page (s : State) (pa : Nat) (bs : List Byte) : PageOnly s (s.homeWr pa bs) := (homeWrMask_only s _ _ _).page
theorem setPte_page (s : State) (a : Nat) (p : DWord) : PageOnly s (s.setPte a p) := homeWr_page _ _ _
theorem tlbFill_page (s : State) (core num : Nat) (l : Leaf) : PageOnly s (s.tlbFill core num l) := rfl

theorem page_page (s : State) (f : Nat) (m : List Host.Cell) (p : List (Nat × Nat)) :
    PageOnly s { s with freePage := f, mem := m, poison := p } := rfl
theorem ite_snd {α β : Type} {c : Prop} [Decidable c] (a b : α) (t : β) : (if c then (a, t) else (b, t)).2 = t := by split <;> rfl

theorem takePage_page {s t : State} {p : Nat} (h : s.takePage = some (p, t)) : PageOnly s t := by
  unfold State.takePage at h
  split at h
  · simp only [Option.some.injEq, Prod.mk.injEq] at h
    rw [← h.2]
    exact page_page s _ _ _
  · exact absurd h (by simp)

theorem mapPage_page (va : Nat) (pte : DWord) : ∀ (lv t : Nat) (s u : State), mapPage va pte lv t s = some u → PageOnly s u := by
  intro lv
  induction lv with
  | zero =>
    intro t s u h
    unfold mapPage at h
    simp only at h
    by_cases hc : bit (s.pteAt (t + 8 * levelIdx 0 va)) 0 = true
    · rw [if_pos hc] at h; exact absurd h (by simp)
    · rw [if_neg hc] at h; rw [← Option.some.inj h]; exact setPte_page _ _ _
  | succ lv ih =>
    intro t s u h
    unfold mapPage at h
    simp only at h
    generalize t + 8 * levelIdx (lv + 1) va = a at h
    by_cases hc : bit (s.pteAt a) 0 = true
    · rw [if_pos hc] at h
      by_cases hd : (ptrOk (s.pteAt a) && !bit (s.pteAt a) 3) = true
      · rw [if_pos hd] at h; exact ih _ _ _ h
      · rw [if_neg hd] at h; exact absurd h (by simp)
    · rw [if_neg hc] at h
      obtain ⟨x, hp, h⟩ := Option.bind_eq_some_iff.1 h
      exact ((takePage_page hp).trans (setPte_page x.2 a _)).trans (ih _ _ _ h)

theorem zeroFill_page {s t : State} {num va : Nat} (h : s.zeroFill num va = some t) : PageOnly s t := by
  unfold State.zeroFill at h
  cases hp : s.takePage with
  | none => rw [hp] at h; cases h
  | some x =>
    obtain ⟨pg, v⟩ := x
    rw [hp] at h
    exact (takePage_page hp).trans (mapPage_page _ _ _ _ _ _ h)

theorem tlbDropPage_page (s : State) (num va : Nat) : PageOnly s (s.tlbDropPage num va) := rfl
theorem dropRange_page (s : State) (pa n : Nat) : PageOnly s (s.dropRange pa n) := rfl

theorem migrate_page (s : State) (num va : Nat) : PageOnly s (s.migrate num va) := by
  unfold State.migrate
  split
  · exact .refl s
  · split
    · exact ((setPte_page s _ _).trans (tlbDropPage_page _ _ _)).trans (dropRange_page _ _ _)
    · exact .refl s

theorem migrateBy_page (s : State) (core num va : Nat) : PageOnly s (s.migrateBy core num va) := by
  unfold State.migrateBy
  split
  · split
    · exact (migrate_page _ _ _).trans (bump_only _ _ _ _).page
    · exact .refl s
  · exact .refl s

theorem xlate_page (s : State) (core num va : Nat) : PageOnly s (s.xlate core num va).2 := by
  unfold State.xlate
  split
  · exact .refl s
  · split
    · exact tlbFill_page _ _ _ _
    · split
      · cases hz : s.zeroFill num va with
        | none => exact .refl s
        | some t =>
          simp only
          split
          · exact (zeroFill_page hz).trans (tlbFill_page _ _ _ _)
          · exact .refl s
      · exact .refl s

theorem checkPage_page (s : State) (ag : Agent) (va : DWord) (wr : Bool) (ok : Tr → Bool) : PageOnly s (s.checkPage ag va wr ok).2 := by
  unfold State.checkPage
  have hx := xlate_page s ag.core ag.ctx va.toNat
  split
  · exact .refl s
  split
  · exact .refl s
  · cases h : s.xlate ag.core ag.ctx va.toNat with
    | mk l t =>
      rw [h] at hx
      cases l with
      | none => exact hx
      | some l =>
        simp only
        rw [ite_snd]
        exact hx

theorem checkVa_page (s : State) (ag : Agent) (va : DWord) (wr : Bool) (ok : Tr → Bool) : PageOnly s (s.checkVa ag va wr ok).2 := by
  unfold State.checkVa
  have hx := checkPage_page s ag va wr ok
  cases h : s.checkPage ag va wr ok with
  | mk l t =>
    rw [h] at hx
    cases l with
    | error e => exact hx
    | ok l => simp only; split <;> exact hx


theorem homeWr_access (s : State) (pa : Nat) (bs : List Byte) : AccessOnly s (s.homeWr pa bs) := (homeWr_page s pa bs).access
/-- Everything the service of a page can do to the machine. -/
theorem migrateBy_access (s : State) (core num va : Nat) : AccessOnly s (s.migrateBy core num va) := (migrateBy_page s core num va).access
/-- Everything the checks of an address can do to the machine. -/
theorem checkVa_access (s : State) (ag : Agent) (va : DWord) (wr : Bool) (ok : Tr → Bool) : AccessOnly s (s.checkVa ag va wr ok).2 :=
  (checkVa_page s ag va wr ok).access

theorem modIo_access (s : State) (i : Nat) (f : IoDie → IoDie) : AccessOnly s (s.modIo i f) := .of _ _ rfl
theorem logDiscard_access (s : State) (i pa kind : Nat) (rid : Half) (len : Nat) : AccessOnly s (s.logDiscard i pa kind rid len) := .of _ _ rfl

theorem broadcast_access (s : State) (i pa off : Nat) (bs : List Byte) (rid : Half) : AccessOnly s (s.broadcast i pa off bs rid) := by
  unfold State.broadcast
  simp only
  have h : ∀ n, AccessOnly s (if n = 0 then s else (List.range 8).foldl (fun s d => s.homeWrMask (latPa d off) n bs) s) := by
    intro n
    split
    · exact .refl s
    · exact access_foldl (f := fun s d => s.homeWrMask (latPa d off) n bs) (fun s a => (homeWrMask_only _ _ _ _).access) _ s
  split
  · exact (h _).trans (logDiscard_access _ _ _ _ _ _)
  · exact h _

theorem mmioWr_access (s : State) (log pa : Nat) (bs : List Byte) (rid : Half) : AccessOnly s (s.mmioWr log pa bs rid) := by
  unfold State.mmioWr
  simp only
  split
  · exact broadcast_access _ _ _ _ _ _
  · split
    · exact modIo_access _ _ _
    · split
      · exact logDiscard_access _ _ _ _ _ _
      · exact .refl s

theorem ioWr_access (s : State) (pa : Nat) (bs : List Byte) : AccessOnly s (s.ioWr pa bs) := by
  unfold State.ioWr
  split
  · exact mmioWr_access _ _ _ _ _
  · split
    · split
      · exact .of _ _ rfl
      · exact .refl s
    · exact homeWr_access _ _ _

theorem store_access (s : State) (core : Nat) (t : Tr) (bs : List Byte) (l2 : Bool) : AccessOnly s (s.store core t bs l2) := by
  unfold State.store
  split
  · exact ioWr_access _ _ _
  · exact (placeWr_only _ _ _ _ _).access

theorem noteRead_access (s : State) (n : Nat) : AccessOnly s (s.noteRead n) := by
  refine ⟨rfl, rfl, Nat.le_refl _, ?_⟩
  unfold State.noteRead
  simp only [Option.map_map]
  rfl

theorem load_access (s : State) (core : Nat) (t : Tr) (n : Nat) (l2 : Bool) : AccessOnly s (s.load core t n l2).2 := by
  unfold State.load
  simp only
  split
  · exact noteRead_access _ _
  · split
    · exact noteRead_access _ _
    · exact (noteRead_access _ _).trans (placeRd_only _ _ _ _ _).access

theorem modLaunch_log (s : State) (k : Nat) (f : Launch → Launch) (hf : ∀ l, launchLog (f l) = launchLog l) : AccessOnly s (s.modLaunch k f) := by
  refine ⟨rfl, ?_, Nat.le_refl _, rfl⟩
  unfold State.modLaunch
  simp only [List.map_map]
  congr 1
  funext l
  simp only [Function.comp]
  split
  · exact hf l
  · rfl

theorem strandOf_access (s : State) (ag : Agent) : AccessOnly s (s.strandOf ag).2 := by
  unfold State.strandOf
  simp only
  split
  · exact .refl s
  · exact ⟨rfl, rfl, Nat.le_succ _, rfl⟩

theorem firmWr_access (s : State) (num va : Nat) (bs : List Byte) : AccessOnly s (s.firmWr num va bs) := by
  unfold State.firmWr
  split
  · split
    · exact homeWr_access _ _ _
    · exact .refl s
  · exact .refl s

theorem putSpilled_access (s : State) (e : FEntry) : AccessOnly s (s.putSpilled e) := by
  unfold State.putSpilled
  split
  · exact firmWr_access _ _ _ _
  · exact .refl s

theorem recount_access (s : State) : AccessOnly s s.recount := .of _ _ rfl

/-- Everything that new filter entries can do to the machine. -/
theorem setFilter_access (s : State) (es : List FEntry) : AccessOnly s (s.setFilter es) := by
  unfold State.setFilter
  exact ((AccessOnly.of s { s with filter := es } rfl).trans (access_foldl putSpilled_access _ _)).trans (recount_access _)

theorem unrecord_access (s s₀ : State) (sects : List Nat) : AccessOnly s (s.unrecord s₀ sects) := setFilter_access _ _

theorem filterCheck_access (s : State) (ag : Agent) (sect : Nat) (m : Half) (rd : Bool) : AccessOnly s (s.filterCheck ag sect m rd).2 := by
  unfold State.filterCheck
  split
  · exact .refl s
  · simp only
    split
    · exact .refl s
    · exact (strandOf_access s ag).trans (setFilter_access _ _)

theorem checkOwn_access (s : State) (ag : Agent) (va : DWord) : AccessOnly s (s.checkOwn ag va).2 := by
  unfold State.checkOwn
  have h1 := checkVa_access s ag va true (fun t => !t.lattice)
  simp only
  split
  · exact (h1.trans (migrateBy_access _ _ _ _)).trans (checkVa_access _ _ _ _ _)
  · exact h1

/-- Everything the checks of a record can do to the machine. -/
theorem recordAddrs_access (ag : Agent) : ∀ (n : Nat) (va : DWord) (s : State), AccessOnly s (s.recordAddrs ag va n).2 := by
  intro n
  induction n with
  | zero => intro va s; exact .refl s
  | succ n ih =>
    intro va s
    unfold State.recordAddrs
    have h := checkOwn_access s ag va
    cases hk : s.checkOwn ag va with
    | mk x u =>
      rw [hk] at h
      cases x with
      | error e => exact h
      | ok t =>
        simp only
        have h2 : AccessOnly u (if isHbm t.pa = true then u.filterCheck ag (t.pa / 16) (BitVec.allOnes 16) false else (none, u)).2 := by
          split
          · exact filterCheck_access _ _ _ _ _
          · exact .refl u
        generalize (if isHbm t.pa = true then u.filterCheck ag (t.pa / 16) (BitVec.allOnes 16) false else (none, u)) = r at h2
        obtain ⟨r1, v⟩ := r
        cases r1 with
        | some e => exact h.trans h2
        | none => exact (h.trans h2).trans (ih _ v)

theorem wrPieces_access : ∀ (pas : List Nat) (bs : List Byte) (s : State), AccessOnly s (s.wrPieces pas bs) := by
  intro pas
  induction pas with
  | nil => intro bs s; exact .refl s
  | cons pa pas ih =>
    intro bs s
    unfold State.wrPieces
    refine AccessOnly.trans ?_ (ih _ _)
    split
    · exact homeWr_access _ _ _
    · exact ioWr_access _ _ _

theorem raced_access (s : State) : AccessOnly s { s with cur := s.cur.map fun (c : Cur) => { c with raced := true } } := by
  refine ⟨rfl, rfl, Nat.le_refl _, ?_⟩
  simp only [Option.map_map]
  rfl

theorem logRace_access (s : State) (ag : Agent) (va : DWord) (sect : Nat) (m : Half) (rd : Bool) (e : FEntry) : AccessOnly s (s.logRace ag va sect m rd e) := by
  unfold State.logRace
  split
  · exact .refl s
  · simp only
    have h0 := raced_access s
    generalize ({ s with cur := s.cur.map fun (c : Cur) => { c with raced := true } } : State) = s₁ at h0 ⊢
    split
    · exact h0
    · split
      · exact h0
      · rename_i l _ _
        have h1 := h0.trans (modLaunch_log s₁ ag.lkey (fun l => { l with flogUsed := l.flogUsed + 1 }) (fun _ => rfl))
        generalize s₁.modLaunch ag.lkey (fun l => { l with flogUsed := l.flogUsed + 1 }) = u at *
        have h2 := h1.trans (recordAddrs_access ag 16 (l.r.flogbase + BitVec.ofNat 64 (256 * l.flogUsed)) u)
        cases h : u.recordAddrs ag (l.r.flogbase + BitVec.ofNat 64 (256 * l.flogUsed)) 16 with
        | mk x t =>
          rw [h] at h2
          cases x with
          | none => exact h2.trans (.of _ _ rfl)
          | some pas => exact h2.trans (wrPieces_access _ _ _)

/-- Everything a checked load can do to the machine. -/
theorem loadVa_access (s : State) (ag : Agent) (va : DWord) (n : Nat) (l2 : Bool) (ok : Tr → Bool) : AccessOnly s (s.loadVa ag va n l2 ok).2 := by
  unfold State.loadVa
  split
  · exact .refl s
  · have h1 := checkVa_access s ag va false ok
    cases h : s.checkVa ag va false ok with
    | mk x t =>
      rw [h] at h1
      cases x with
      | error e => exact h1
      | ok x =>
        simp only
        have h2 : AccessOnly t (if (isHbm x.pa && !x.lattice) = true then t.filterCheck ag (x.pa / 16) (BitVec.ofNat 16 (sectMask x.pa n)) true else (none, t)).2 := by
          split
          · exact filterCheck_access _ _ _ _ _
          · exact .refl t
        generalize (if (isHbm x.pa && !x.lattice) = true then t.filterCheck ag (x.pa / 16) (BitVec.ofNat 16 (sectMask x.pa n)) true else (none, t)) = r at h2
        obtain ⟨r1, u⟩ := r
        cases r1 with
        | some e => exact (h1.trans h2).trans (logRace_access _ _ _ _ _ _ _)
        | none =>
          simp only
          have h3 := load_access u ag.core x n l2
          split <;> exact (h1.trans h2).trans h3

/-- Everything the checks of a store can do to the machine. -/
theorem storeCheck_access (s : State) (ag : Agent) (va : DWord) (n : Nat) (ok : Tr → Bool) : AccessOnly s (s.storeCheck ag va n ok).2 := by
  unfold State.storeCheck
  split
  · exact .refl s
  · have h1 := checkVa_access s ag va true ok
    cases h : s.checkVa ag va true ok with
    | mk x t =>
      rw [h] at h1
      cases x with
      | error e => exact h1
      | ok x =>
        simp only
        split
        · exact h1
        · have h2 : AccessOnly t (if isHbm x.pa = true then t.filterCheck ag (x.pa / 16) (BitVec.ofNat 16 (sectMask x.pa n)) false else (none, t)).2 := by
            split
            · exact filterCheck_access _ _ _ _ _
            · exact .refl t
          generalize (if isHbm x.pa = true then t.filterCheck ag (x.pa / 16) (BitVec.ofNat 16 (sectMask x.pa n)) false else (none, t)) = r at h2
          obtain ⟨r1, u⟩ := r
          cases r1 with
          | some e => exact (h1.trans h2).trans (logRace_access _ _ _ _ _ _ _)
          | none => exact h1.trans h2

/-- Everything a checked store can do to the machine. -/
theorem storeVa_access (s : State) (ag : Agent) (va : DWord) (bs : List Byte) (l2 : Bool) : AccessOnly s (s.storeVa ag va bs l2).2 := by
  unfold State.storeVa
  have h1 := storeCheck_access s ag va bs.length (fun _ => true)
  cases h : s.storeCheck ag va bs.length (fun _ => true) with
  | mk x t =>
    rw [h] at h1
    cases x with
    | error e => exact h1
    | ok x => exact h1.trans (store_access _ _ _ _ _)

/-- Everything the read of a record can do to the machine. -/
theorem loadBlock_access (ag : Agent) : ∀ (n : Nat) (va : DWord) (s : State), AccessOnly s (s.loadBlock ag va n).2 := by
  intro n
  induction n with
  | zero => intro va s; exact .refl s
  | succ n ih =>
    intro va s
    unfold State.loadBlock
    have h1 := loadVa_access s ag va 16 false (fun _ => true)
    cases h : s.loadVa ag va 16 false (fun _ => true) with
    | mk x t =>
      rw [h] at h1
      cases x with
      | error e => exact h1
      | ok x =>
        simp only
        have h2 := ih (va + 16) t
        cases h' : t.loadBlock ag (va + 16) n with
        | mk y u =>
          rw [h'] at h2
          cases y with
          | error e => exact (h1.trans h2).trans (unrecord_access _ _ _)
          | ok b => exact h1.trans h2

end Sys2Proof.Machine
end

