-- ==== Sys2Proof/Laws/Asm.lean ====
section
/-! SUPPORT. What the assembler guarantees of its output (R83). -/
namespace Sys2Proof.Asm
open Sys2Proof.Machine

/-- Words that the enforcing pass gives form a unit that breaks no rule (R75, R83). -/
theorem Env.words_legal {e : Env} {pre more ws : List Nat} {u : Made} (hs : e.strict = true)
    (h : e.words pre u more = some ws) :
    e.legal { hints := (pre ++ u.hints).map fun n => BitVec.ofNat 32 n, main := BitVec.ofNat 32 u.main,
              tgts := (u.tgts ++ more).map fun n => BitVec.ofNat 32 n, at_ := e.here, next := e.here } = none ∧
    ws = pre ++ u.hints ++ [u.main] ++ (u.tgts ++ more) := by
  simp only [Env.words, Env.chk, hs, Bool.not_true, Bool.or_false, Option.bind_eq_bind, Option.bind_eq_some_iff] at h
  obtain ⟨_, h1, h2⟩ := h
  split at h1
  · rename_i hl
    exact ⟨by simpa using hl, (by simpa using h2.symm)⟩
  · cases h1

end Sys2Proof.Asm
end

