-- ==== Sys2Proof/Laws/Exec.lean ====
section
/-! SUPPORT. The arms of exec, one equation for each constructor: a proof rewrites with the one it needs and never
unfolds exec. -/
namespace Sys2Proof.Machine

@[simp] theorem exec_nop (s : State) : exec .nop s = execNop s := rfl
@[simp] theorem exec_exit (s : State) : exec .exit s = execExit s := rfl
@[simp] theorem exec_yield (s : State) : exec .yield s = execYield s := rfl
@[simp] theorem exec_waitb (m : BitVec 3) (s : State) : exec (.waitb m) s = execWaitb m s := rfl
@[simp] theorem exec_bkpt (c : BitVec 16) (s : State) : exec (.bkpt c) s = execBkpt c s := rfl
@[simp] theorem exec_trap (c : BitVec 16) (s : State) : exec (.trap c) s = execTrap c s := rfl
@[simp] theorem exec_tret (a : BitVec 2) (s : State) : exec (.tret a) s = execTret a s := rfl
@[simp] theorem exec_iadd (g : BitVec 4) (d : BitVec 6) (a : BitVec 6) (b : BitVec 6) (s : State) : exec (.iadd g d a b) s = execIadd g d a b s := rfl
@[simp] theorem exec_isub (g : BitVec 4) (d : BitVec 6) (a : BitVec 6) (b : BitVec 6) (s : State) : exec (.isub g d a b) s = execIsub g d a b s := rfl
@[simp] theorem exec_imul (g : BitVec 4) (d : BitVec 6) (a : BitVec 6) (b : BitVec 6) (s : State) : exec (.imul g d a b) s = execImul g d a b s := rfl
@[simp] theorem exec_imulhS (g : BitVec 4) (d : BitVec 6) (a : BitVec 6) (b : BitVec 6) (s : State) : exec (.imulhS g d a b) s = execImulhS g d a b s := rfl
@[simp] theorem exec_imulhN (g : BitVec 4) (d : BitVec 6) (a : BitVec 6) (b : BitVec 6) (s : State) : exec (.imulhN g d a b) s = execImulhN g d a b s := rfl
@[simp] theorem exec_iand (g : BitVec 4) (d : BitVec 6) (a : BitVec 6) (b : BitVec 6) (s : State) : exec (.iand g d a b) s = execIand g d a b s := rfl
@[simp] theorem exec_ior (g : BitVec 4) (d : BitVec 6) (a : BitVec 6) (b : BitVec 6) (s : State) : exec (.ior g d a b) s = execIor g d a b s := rfl
@[simp] theorem exec_ixor (g : BitVec 4) (d : BitVec 6) (a : BitVec 6) (b : BitVec 6) (s : State) : exec (.ixor g d a b) s = execIxor g d a b s := rfl
@[simp] theorem exec_iandn (g : BitVec 4) (d : BitVec 6) (a : BitVec 6) (b : BitVec 6) (s : State) : exec (.iandn g d a b) s = execIandn g d a b s := rfl
@[simp] theorem exec_shl (g : BitVec 4) (d : BitVec 6) (a : BitVec 6) (b : BitVec 6) (s : State) : exec (.shl g d a b) s = execShl g d a b s := rfl
@[simp] theorem exec_shr (g : BitVec 4) (d : BitVec 6) (a : BitVec 6) (b : BitVec 6) (s : State) : exec (.shr g d a b) s = execShr g d a b s := rfl
@[simp] theorem exec_sha (g : BitVec 4) (d : BitVec 6) (a : BitVec 6) (b : BitVec 6) (s : State) : exec (.sha g d a b) s = execSha g d a b s := rfl
@[simp] theorem exec_iminS (g : BitVec 4) (d : BitVec 6) (a : BitVec 6) (b : BitVec 6) (s : State) : exec (.iminS g d a b) s = execIminS g d a b s := rfl
@[simp] theorem exec_iminN (g : BitVec 4) (d : BitVec 6) (a : BitVec 6) (b : BitVec 6) (s : State) : exec (.iminN g d a b) s = execIminN g d a b s := rfl
@[simp] theorem exec_imaxS (g : BitVec 4) (d : BitVec 6) (a : BitVec 6) (b : BitVec 6) (s : State) : exec (.imaxS g d a b) s = execImaxS g d a b s := rfl
@[simp] theorem exec_imaxN (g : BitVec 4) (d : BitVec 6) (a : BitVec 6) (b : BitVec 6) (s : State) : exec (.imaxN g d a b) s = execImaxN g d a b s := rfl
@[simp] theorem exec_iadd64 (g : BitVec 4) (d : BitVec 5) (a : BitVec 5) (b : BitVec 5) (s : State) : exec (.iadd64 g d a b) s = execIadd64 g d a b s := rfl
@[simp] theorem exec_isub64 (g : BitVec 4) (d : BitVec 5) (a : BitVec 5) (b : BitVec 5) (s : State) : exec (.isub64 g d a b) s = execIsub64 g d a b s := rfl
@[simp] theorem exec_shl64 (g : BitVec 4) (d : BitVec 5) (a : BitVec 5) (b : BitVec 6) (s : State) : exec (.shl64 g d a b) s = execShl64 g d a b s := rfl
@[simp] theorem exec_shr64 (g : BitVec 4) (d : BitVec 5) (a : BitVec 5) (b : BitVec 6) (s : State) : exec (.shr64 g d a b) s = execShr64 g d a b s := rfl
@[simp] theorem exec_sha64 (g : BitVec 4) (d : BitVec 5) (a : BitVec 5) (b : BitVec 6) (s : State) : exec (.sha64 g d a b) s = execSha64 g d a b s := rfl
@[simp] theorem exec_iabs (g : BitVec 4) (d : BitVec 6) (a : BitVec 6) (s : State) : exec (.iabs g d a) s = execIabs g d a s := rfl
@[simp] theorem exec_ineg (g : BitVec 4) (d : BitVec 6) (a : BitVec 6) (s : State) : exec (.ineg g d a) s = execIneg g d a s := rfl
@[simp] theorem exec_popc (g : BitVec 4) (d : BitVec 6) (a : BitVec 6) (s : State) : exec (.popc g d a) s = execPopc g d a s := rfl
@[simp] theorem exec_clz (g : BitVec 4) (d : BitVec 6) (a : BitVec 6) (s : State) : exec (.clz g d a) s = execClz g d a s := rfl
@[simp] theorem exec_brev (g : BitVec 4) (d : BitVec 6) (a : BitVec 6) (s : State) : exec (.brev g d a) s = execBrev g d a s := rfl
@[simp] theorem exec_bfxN (g : BitVec 4) (d : BitVec 6) (a : BitVec 6) (b : BitVec 6) (s : State) : exec (.bfxN g d a b) s = execBfxN g d a b s := rfl
@[simp] theorem exec_bfxS (g : BitVec 4) (d : BitVec 6) (a : BitVec 6) (b : BitVec 6) (s : State) : exec (.bfxS g d a b) s = execBfxS g d a b s := rfl
@[simp] theorem exec_prmt (g : BitVec 4) (d : BitVec 6) (a : BitVec 6) (b : BitVec 6) (s : State) : exec (.prmt g d a b) s = execPrmt g d a b s := rfl
@[simp] theorem exec_isad (g : BitVec 4) (d : BitVec 6) (a : BitVec 6) (b : BitVec 6) (s : State) : exec (.isad g d a b) s = execIsad g d a b s := rfl
@[simp] theorem exec_mov (g : BitVec 4) (d : BitVec 6) (a : BitVec 6) (s : State) : exec (.mov g d a) s = execMov g d a s := rfl
@[simp] theorem exec_sel (g : BitVec 4) (d : BitVec 6) (a : BitVec 6) (b : BitVec 6) (s : State) : exec (.sel g d a b) s = execSel g d a b s := rfl
@[simp] theorem exec_iaddi (g : BitVec 4) (d : BitVec 6) (a : BitVec 6) (i : BitVec 10) (s : State) : exec (.iaddi g d a i) s = execIaddi g d a i s := rfl
@[simp] theorem exec_iandi (g : BitVec 4) (d : BitVec 6) (a : BitVec 6) (i : BitVec 10) (s : State) : exec (.iandi g d a i) s = execIandi g d a i s := rfl
@[simp] theorem exec_iori (g : BitVec 4) (d : BitVec 6) (a : BitVec 6) (i : BitVec 10) (s : State) : exec (.iori g d a i) s = execIori g d a i s := rfl
@[simp] theorem exec_ixori (g : BitVec 4) (d : BitVec 6) (a : BitVec 6) (i : BitVec 10) (s : State) : exec (.ixori g d a i) s = execIxori g d a i s := rfl
@[simp] theorem exec_ishiShl (g : BitVec 4) (d : BitVec 6) (a : BitVec 6) (i : BitVec 6) (s : State) : exec (.ishiShl g d a i) s = execIshiShl g d a i s := rfl
@[simp] theorem exec_ishiShr (g : BitVec 4) (d : BitVec 6) (a : BitVec 6) (i : BitVec 6) (s : State) : exec (.ishiShr g d a i) s = execIshiShr g d a i s := rfl
@[simp] theorem exec_ishiSha (g : BitVec 4) (d : BitVec 6) (a : BitVec 6) (i : BitVec 6) (s : State) : exec (.ishiSha g d a i) s = execIshiSha g d a i s := rfl
@[simp] theorem exec_ishiRot (g : BitVec 4) (d : BitVec 6) (a : BitVec 6) (i : BitVec 6) (s : State) : exec (.ishiRot g d a i) s = execIshiRot g d a i s := rfl
@[simp] theorem exec_imovi (g : BitVec 4) (d : BitVec 6) (i : BitVec 16) (s : State) : exec (.imovi g d i) s = execImovi g d i s := rfl
@[simp] theorem exec_icmp (c : BitVec 4) (p : BitVec 3) (q : BitVec 3) (a : BitVec 6) (b : BitVec 6) (s : State) : exec (.icmp c p q a b) s = execIcmp c p q a b s := rfl
@[simp] theorem exec_imad (d : BitVec 6) (a : BitVec 6) (b : BitVec 6) (c : BitVec 6) (s : State) : exec (.imad d a b c) s = execImad d a b c s := rfl
@[simp] theorem exec_imadhS (d : BitVec 6) (a : BitVec 6) (b : BitVec 6) (c : BitVec 6) (s : State) : exec (.imadhS d a b c) s = execImadhS d a b c s := rfl
@[simp] theorem exec_imadhN (d : BitVec 6) (a : BitVec 6) (b : BitVec 6) (c : BitVec 6) (s : State) : exec (.imadhN d a b c) s = execImadhN d a b c s := rfl
@[simp] theorem exec_imadW (d : BitVec 5) (a : BitVec 6) (b : BitVec 6) (c : BitVec 5) (s : State) : exec (.imadW d a b c) s = execImadW d a b c s := rfl
@[simp] theorem exec_bfi (d : BitVec 6) (a : BitVec 6) (b : BitVec 6) (c : BitVec 6) (s : State) : exec (.bfi d a b c) s = execBfi d a b c s := rfl
@[simp] theorem exec_dp4S8 (d : BitVec 6) (a : BitVec 6) (b : BitVec 6) (c : BitVec 6) (s : State) : exec (.dp4S8 d a b c) s = execDp4S8 d a b c s := rfl
@[simp] theorem exec_dp4N8 (d : BitVec 6) (a : BitVec 6) (b : BitVec 6) (c : BitVec 6) (s : State) : exec (.dp4N8 d a b c) s = execDp4N8 d a b c s := rfl
@[simp] theorem exec_dp2S16 (d : BitVec 6) (a : BitVec 6) (b : BitVec 6) (c : BitVec 6) (s : State) : exec (.dp2S16 d a b c) s = execDp2S16 d a b c s := rfl
@[simp] theorem exec_fadd (g : BitVec 4) (d : BitVec 6) (a : BitVec 6) (b : BitVec 6) (s : State) : exec (.fadd g d a b) s = execFadd g d a b s := rfl
@[simp] theorem exec_fsub (g : BitVec 4) (d : BitVec 6) (a : BitVec 6) (b : BitVec 6) (s : State) : exec (.fsub g d a b) s = execFsub g d a b s := rfl
@[simp] theorem exec_fmul (g : BitVec 4) (d : BitVec 6) (a : BitVec 6) (b : BitVec 6) (s : State) : exec (.fmul g d a b) s = execFmul g d a b s := rfl
@[simp] theorem exec_fdiv (g : BitVec 4) (d : BitVec 6) (a : BitVec 6) (b : BitVec 6) (s : State) : exec (.fdiv g d a b) s = execFdiv g d a b s := rfl
@[simp] theorem exec_fmin (g : BitVec 4) (d : BitVec 6) (a : BitVec 6) (b : BitVec 6) (s : State) : exec (.fmin g d a b) s = execFmin g d a b s := rfl
@[simp] theorem exec_fmax (g : BitVec 4) (d : BitVec 6) (a : BitVec 6) (b : BitVec 6) (s : State) : exec (.fmax g d a b) s = execFmax g d a b s := rfl
@[simp] theorem exec_fcsgn (g : BitVec 4) (d : BitVec 6) (a : BitVec 6) (b : BitVec 6) (s : State) : exec (.fcsgn g d a b) s = execFcsgn g d a b s := rfl
@[simp] theorem exec_fabd (g : BitVec 4) (d : BitVec 6) (a : BitVec 6) (b : BitVec 6) (s : State) : exec (.fabd g d a b) s = execFabd g d a b s := rfl
@[simp] theorem exec_hadd2 (g : BitVec 4) (d : BitVec 6) (a : BitVec 6) (b : BitVec 6) (s : State) : exec (.hadd2 g d a b) s = execHadd2 g d a b s := rfl
@[simp] theorem exec_hsub2 (g : BitVec 4) (d : BitVec 6) (a : BitVec 6) (b : BitVec 6) (s : State) : exec (.hsub2 g d a b) s = execHsub2 g d a b s := rfl
@[simp] theorem exec_hmul2 (g : BitVec 4) (d : BitVec 6) (a : BitVec 6) (b : BitVec 6) (s : State) : exec (.hmul2 g d a b) s = execHmul2 g d a b s := rfl
@[simp] theorem exec_hmin2 (g : BitVec 4) (d : BitVec 6) (a : BitVec 6) (b : BitVec 6) (s : State) : exec (.hmin2 g d a b) s = execHmin2 g d a b s := rfl
@[simp] theorem exec_hmax2 (g : BitVec 4) (d : BitVec 6) (a : BitVec 6) (b : BitVec 6) (s : State) : exec (.hmax2 g d a b) s = execHmax2 g d a b s := rfl
@[simp] theorem exec_badd2 (g : BitVec 4) (d : BitVec 6) (a : BitVec 6) (b : BitVec 6) (s : State) : exec (.badd2 g d a b) s = execBadd2 g d a b s := rfl
@[simp] theorem exec_bsub2 (g : BitVec 4) (d : BitVec 6) (a : BitVec 6) (b : BitVec 6) (s : State) : exec (.bsub2 g d a b) s = execBsub2 g d a b s := rfl
@[simp] theorem exec_bmul2 (g : BitVec 4) (d : BitVec 6) (a : BitVec 6) (b : BitVec 6) (s : State) : exec (.bmul2 g d a b) s = execBmul2 g d a b s := rfl
@[simp] theorem exec_bmin2 (g : BitVec 4) (d : BitVec 6) (a : BitVec 6) (b : BitVec 6) (s : State) : exec (.bmin2 g d a b) s = execBmin2 g d a b s := rfl
@[simp] theorem exec_bmax2 (g : BitVec 4) (d : BitVec 6) (a : BitVec 6) (b : BitVec 6) (s : State) : exec (.bmax2 g d a b) s = execBmax2 g d a b s := rfl
@[simp] theorem exec_ffma (d : BitVec 6) (a : BitVec 6) (b : BitVec 6) (c : BitVec 6) (s : State) : exec (.ffma d a b c) s = execFfma d a b c s := rfl
@[simp] theorem exec_ffms (d : BitVec 6) (a : BitVec 6) (b : BitVec 6) (c : BitVec 6) (s : State) : exec (.ffms d a b c) s = execFfms d a b c s := rfl
@[simp] theorem exec_ffnma (d : BitVec 6) (a : BitVec 6) (b : BitVec 6) (c : BitVec 6) (s : State) : exec (.ffnma d a b c) s = execFfnma d a b c s := rfl
@[simp] theorem exec_ffnms (d : BitVec 6) (a : BitVec 6) (b : BitVec 6) (c : BitVec 6) (s : State) : exec (.ffnms d a b c) s = execFfnms d a b c s := rfl
@[simp] theorem exec_hfma2 (d : BitVec 6) (a : BitVec 6) (b : BitVec 6) (c : BitVec 6) (s : State) : exec (.hfma2 d a b c) s = execHfma2 d a b c s := rfl
@[simp] theorem exec_bfma2 (d : BitVec 6) (a : BitVec 6) (b : BitVec 6) (c : BitVec 6) (s : State) : exec (.bfma2 d a b c) s = execBfma2 d a b c s := rfl
@[simp] theorem exec_hfma2F32 (d : BitVec 6) (a : BitVec 6) (b : BitVec 6) (c : BitVec 6) (s : State) : exec (.hfma2F32 d a b c) s = execHfma2F32 d a b c s := rfl
@[simp] theorem exec_bfma2F32 (d : BitVec 6) (a : BitVec 6) (b : BitVec 6) (c : BitVec 6) (s : State) : exec (.bfma2F32 d a b c) s = execBfma2F32 d a b c s := rfl
@[simp] theorem exec_fcmp (c : BitVec 4) (p : BitVec 3) (q : BitVec 3) (a : BitVec 6) (b : BitVec 6) (s : State) : exec (.fcmp c p q a b) s = execFcmp c p q a b s := rfl
@[simp] theorem exec_frcp (g : BitVec 4) (d : BitVec 6) (a : BitVec 6) (s : State) : exec (.frcp g d a) s = execFrcp g d a s := rfl
@[simp] theorem exec_frsq (g : BitVec 4) (d : BitVec 6) (a : BitVec 6) (s : State) : exec (.frsq g d a) s = execFrsq g d a s := rfl
@[simp] theorem exec_fsqrt (g : BitVec 4) (d : BitVec 6) (a : BitVec 6) (s : State) : exec (.fsqrt g d a) s = execFsqrt g d a s := rfl
@[simp] theorem exec_fex2 (g : BitVec 4) (d : BitVec 6) (a : BitVec 6) (s : State) : exec (.fex2 g d a) s = execFex2 g d a s := rfl
@[simp] theorem exec_flg2 (g : BitVec 4) (d : BitVec 6) (a : BitVec 6) (s : State) : exec (.flg2 g d a) s = execFlg2 g d a s := rfl
@[simp] theorem exec_fsin (g : BitVec 4) (d : BitVec 6) (a : BitVec 6) (s : State) : exec (.fsin g d a) s = execFsin g d a s := rfl
@[simp] theorem exec_fcos (g : BitVec 4) (d : BitVec 6) (a : BitVec 6) (s : State) : exec (.fcos g d a) s = execFcos g d a s := rfl
@[simp] theorem exec_ftanh (g : BitVec 4) (d : BitVec 6) (a : BitVec 6) (s : State) : exec (.ftanh g d a) s = execFtanh g d a s := rfl
@[simp] theorem exec_frndRn (g : BitVec 4) (d : BitVec 6) (a : BitVec 6) (s : State) : exec (.frndRn g d a) s = execFrndRn g d a s := rfl
@[simp] theorem exec_frndRz (g : BitVec 4) (d : BitVec 6) (a : BitVec 6) (s : State) : exec (.frndRz g d a) s = execFrndRz g d a s := rfl
@[simp] theorem exec_frndRu (g : BitVec 4) (d : BitVec 6) (a : BitVec 6) (s : State) : exec (.frndRu g d a) s = execFrndRu g d a s := rfl
@[simp] theorem exec_frndRd (g : BitVec 4) (d : BitVec 6) (a : BitVec 6) (s : State) : exec (.frndRd g d a) s = execFrndRd g d a s := rfl
@[simp] theorem exec_fclass (g : BitVec 4) (d : BitVec 6) (a : BitVec 6) (s : State) : exec (.fclass g d a) s = execFclass g d a s := rfl
@[simp] theorem exec_fldexp (g : BitVec 4) (d : BitVec 6) (a : BitVec 6) (b : BitVec 6) (s : State) : exec (.fldexp g d a b) s = execFldexp g d a b s := rfl
@[simp] theorem exec_ffrexpM (g : BitVec 4) (d : BitVec 6) (a : BitVec 6) (s : State) : exec (.ffrexpM g d a) s = execFfrexpM g d a s := rfl
@[simp] theorem exec_ffrexpE (g : BitVec 4) (d : BitVec 6) (a : BitVec 6) (s : State) : exec (.ffrexpE g d a) s = execFfrexpE g d a s := rfl
@[simp] theorem exec_cvt (g : BitVec 4) (d : BitVec 6) (a : BitVec 6) (b : BitVec 6) (r : BitVec 4) (s : State) : exec (.cvt g d a b r) s = execCvt g d a b r s := rfl
@[simp] theorem exec_faddS (g : BitVec 4) (d : BitVec 6) (a : BitVec 6) (s_ : BitVec 8) (s : State) : exec (.faddS g d a s_) s = execFaddS g d a s_ s := rfl
@[simp] theorem exec_fmulS (g : BitVec 4) (d : BitVec 6) (a : BitVec 6) (s_ : BitVec 8) (s : State) : exec (.fmulS g d a s_) s = execFmulS g d a s_ s := rfl
@[simp] theorem exec_fmaxS (g : BitVec 4) (d : BitVec 6) (a : BitVec 6) (s_ : BitVec 8) (s : State) : exec (.fmaxS g d a s_) s = execFmaxS g d a s_ s := rfl
@[simp] theorem exec_fminS (g : BitVec 4) (d : BitVec 6) (a : BitVec 6) (s_ : BitVec 8) (s : State) : exec (.fminS g d a s_) s = execFminS g d a s_ s := rfl
@[simp] theorem exec_iaddS (g : BitVec 4) (d : BitVec 6) (a : BitVec 6) (s_ : BitVec 8) (s : State) : exec (.iaddS g d a s_) s = execIaddS g d a s_ s := rfl
@[simp] theorem exec_imulS (g : BitVec 4) (d : BitVec 6) (a : BitVec 6) (s_ : BitVec 8) (s : State) : exec (.imulS g d a s_) s = execImulS g d a s_ s := rfl
@[simp] theorem exec_iandS (g : BitVec 4) (d : BitVec 6) (a : BitVec 6) (s_ : BitVec 8) (s : State) : exec (.iandS g d a s_) s = execIandS g d a s_ s := rfl
@[simp] theorem exec_movS (g : BitVec 4) (d : BitVec 6) (s_ : BitVec 8) (s : State) : exec (.movS g d s_) s = execMovS g d s_ s := rfl
@[simp] theorem exec_pand (d : BitVec 3) (a : BitVec 3) (b : BitVec 3) (n : BitVec 1) (m : BitVec 1) (s : State) : exec (.pand d a b n m) s = execPand d a b n m s := rfl
@[simp] theorem exec_por (d : BitVec 3) (a : BitVec 3) (b : BitVec 3) (n : BitVec 1) (m : BitVec 1) (s : State) : exec (.por d a b n m) s = execPor d a b n m s := rfl
@[simp] theorem exec_pxor (d : BitVec 3) (a : BitVec 3) (b : BitVec 3) (n : BitVec 1) (m : BitVec 1) (s : State) : exec (.pxor d a b n m) s = execPxor d a b n m s := rfl
@[simp] theorem exec_pmov (d : BitVec 3) (a : BitVec 3) (n : BitVec 1) (s : State) : exec (.pmov d a n) s = execPmov d a n s := rfl
@[simp] theorem exec_shfl (m : BitVec 3) (d : BitVec 6) (a : BitVec 6) (b : BitVec 6) (s : State) : exec (.shfl m d a b) s = execShfl m d a b s := rfl
@[simp] theorem exec_shflx (m : BitVec 3) (d : BitVec 6) (a : BitVec 6) (i : BitVec 6) (s : State) : exec (.shflx m d a i) s = execShflx m d a i s := rfl
@[simp] theorem exec_shflu (m : BitVec 3) (d : BitVec 6) (a : BitVec 6) (b : BitVec 6) (s : State) : exec (.shflu m d a b) s = execShflu m d a b s := rfl
@[simp] theorem exec_shfld (m : BitVec 3) (d : BitVec 6) (a : BitVec 6) (b : BitVec 6) (s : State) : exec (.shfld m d a b) s = execShfld m d a b s := rfl
@[simp] theorem exec_rdxIadd (m : BitVec 3) (d : BitVec 6) (a : BitVec 6) (s : State) : exec (.rdxIadd m d a) s = execRdxIadd m d a s := rfl
@[simp] theorem exec_rdxIminS (m : BitVec 3) (d : BitVec 6) (a : BitVec 6) (s : State) : exec (.rdxIminS m d a) s = execRdxIminS m d a s := rfl
@[simp] theorem exec_rdxImaxS (m : BitVec 3) (d : BitVec 6) (a : BitVec 6) (s : State) : exec (.rdxImaxS m d a) s = execRdxImaxS m d a s := rfl
@[simp] theorem exec_rdxFadd (m : BitVec 3) (d : BitVec 6) (a : BitVec 6) (s : State) : exec (.rdxFadd m d a) s = execRdxFadd m d a s := rfl
@[simp] theorem exec_rdxFmin (m : BitVec 3) (d : BitVec 6) (a : BitVec 6) (s : State) : exec (.rdxFmin m d a) s = execRdxFmin m d a s := rfl
@[simp] theorem exec_rdxFmax (m : BitVec 3) (d : BitVec 6) (a : BitVec 6) (s : State) : exec (.rdxFmax m d a) s = execRdxFmax m d a s := rfl
@[simp] theorem exec_scanIadd (m : BitVec 3) (d : BitVec 6) (a : BitVec 6) (s : State) : exec (.scanIadd m d a) s = execScanIadd m d a s := rfl
@[simp] theorem exec_scanIaddx (m : BitVec 3) (d : BitVec 6) (a : BitVec 6) (s : State) : exec (.scanIaddx m d a) s = execScanIaddx m d a s := rfl
@[simp] theorem exec_scanFadd (m : BitVec 3) (d : BitVec 6) (a : BitVec 6) (s : State) : exec (.scanFadd m d a) s = execScanFadd m d a s := rfl
@[simp] theorem exec_scanFaddx (m : BitVec 3) (d : BitVec 6) (a : BitVec 6) (s : State) : exec (.scanFaddx m d a) s = execScanFaddx m d a s := rfl
@[simp] theorem exec_xmatch (m : BitVec 3) (d : BitVec 5) (a : BitVec 6) (s : State) : exec (.xmatch m d a) s = execXmatch m d a s := rfl
@[simp] theorem exec_xshf (m : BitVec 3) (d : BitVec 6) (a : BitVec 6) (b : BitVec 6) (s : State) : exec (.xshf m d a b) s = execXshf m d a b s := rfl
@[simp] theorem exec_voteAny (m : BitVec 3) (q : BitVec 3) (a : BitVec 4) (s : State) : exec (.voteAny m q a) s = execVoteAny m q a s := rfl
@[simp] theorem exec_voteAll (m : BitVec 3) (q : BitVec 3) (a : BitVec 4) (s : State) : exec (.voteAll m q a) s = execVoteAll m q a s := rfl
@[simp] theorem exec_voteEq (m : BitVec 3) (q : BitVec 3) (a : BitVec 4) (s : State) : exec (.voteEq m q a) s = execVoteEq m q a s := rfl
@[simp] theorem exec_voteBal (m : BitVec 3) (d : BitVec 3) (a : BitVec 4) (s : State) : exec (.voteBal m d a) s = execVoteBal m d a s := rfl
@[simp] theorem exec_bcast (m : BitVec 3) (d : BitVec 6) (a : BitVec 6) (s : State) : exec (.bcast m d a) s = execBcast m d a s := rfl
@[simp] theorem exec_rbal (m : BitVec 3) (d : BitVec 5) (a : BitVec 6) (b : BitVec 6) (s : State) : exec (.rbal m d a b) s = execRbal m d a b s := rfl
@[simp] theorem exec_fidx (d : BitVec 6) (s : State) : exec (.fidx d) s = execFidx d s := rfl
@[simp] theorem exec_sadd (d : BitVec 8) (a : BitVec 8) (b : BitVec 8) (s : State) : exec (.sadd d a b) s = execSadd d a b s := rfl
@[simp] theorem exec_ssub (d : BitVec 8) (a : BitVec 8) (b : BitVec 8) (s : State) : exec (.ssub d a b) s = execSsub d a b s := rfl
@[simp] theorem exec_smul (d : BitVec 8) (a : BitVec 8) (b : BitVec 8) (s : State) : exec (.smul d a b) s = execSmul d a b s := rfl
@[simp] theorem exec_smulhN (d : BitVec 8) (a : BitVec 8) (b : BitVec 8) (s : State) : exec (.smulhN d a b) s = execSmulhN d a b s := rfl
@[simp] theorem exec_sand (d : BitVec 8) (a : BitVec 8) (b : BitVec 8) (s : State) : exec (.sand d a b) s = execSand d a b s := rfl
@[simp] theorem exec_sor (d : BitVec 8) (a : BitVec 8) (b : BitVec 8) (s : State) : exec (.sor d a b) s = execSor d a b s := rfl
@[simp] theorem exec_sxor (d : BitVec 8) (a : BitVec 8) (b : BitVec 8) (s : State) : exec (.sxor d a b) s = execSxor d a b s := rfl
@[simp] theorem exec_sandn (d : BitVec 8) (a : BitVec 8) (b : BitVec 8) (s : State) : exec (.sandn d a b) s = execSandn d a b s := rfl
@[simp] theorem exec_sshl (d : BitVec 8) (a : BitVec 8) (b : BitVec 8) (s : State) : exec (.sshl d a b) s = execSshl d a b s := rfl
@[simp] theorem exec_sshr (d : BitVec 8) (a : BitVec 8) (b : BitVec 8) (s : State) : exec (.sshr d a b) s = execSshr d a b s := rfl
@[simp] theorem exec_ssha (d : BitVec 8) (a : BitVec 8) (b : BitVec 8) (s : State) : exec (.ssha d a b) s = execSsha d a b s := rfl
@[simp] theorem exec_srot (d : BitVec 8) (a : BitVec 8) (b : BitVec 8) (s : State) : exec (.srot d a b) s = execSrot d a b s := rfl
@[simp] theorem exec_sminS (d : BitVec 8) (a : BitVec 8) (b : BitVec 8) (s : State) : exec (.sminS d a b) s = execSminS d a b s := rfl
@[simp] theorem exec_sminN (d : BitVec 8) (a : BitVec 8) (b : BitVec 8) (s : State) : exec (.sminN d a b) s = execSminN d a b s := rfl
@[simp] theorem exec_smaxS (d : BitVec 8) (a : BitVec 8) (b : BitVec 8) (s : State) : exec (.smaxS d a b) s = execSmaxS d a b s := rfl
@[simp] theorem exec_smaxN (d : BitVec 8) (a : BitVec 8) (b : BitVec 8) (s : State) : exec (.smaxN d a b) s = execSmaxN d a b s := rfl
@[simp] theorem exec_sadd64 (d : BitVec 7) (a : BitVec 7) (b : BitVec 7) (s : State) : exec (.sadd64 d a b) s = execSadd64 d a b s := rfl
@[simp] theorem exec_ssub64 (d : BitVec 7) (a : BitVec 7) (b : BitVec 7) (s : State) : exec (.ssub64 d a b) s = execSsub64 d a b s := rfl
@[simp] theorem exec_smov (d : BitVec 8) (a : BitVec 8) (s : State) : exec (.smov d a) s = execSmov d a s := rfl
@[simp] theorem exec_ssel (d : BitVec 8) (a : BitVec 8) (b : BitVec 8) (s : State) : exec (.ssel d a b) s = execSsel d a b s := rfl
@[simp] theorem exec_scmp (c : BitVec 4) (p : BitVec 3) (q : BitVec 3) (a : BitVec 8) (b : BitVec 8) (s : State) : exec (.scmp c p q a b) s = execScmp c p q a b s := rfl
@[simp] theorem exec_saddi (d : BitVec 8) (a : BitVec 8) (i : BitVec 10) (s : State) : exec (.saddi d a i) s = execSaddi d a i s := rfl
@[simp] theorem exec_smovi (d : BitVec 8) (i : BitVec 18) (s : State) : exec (.smovi d i) s = execSmovi d i s := rfl
@[simp] theorem exec_smovh (d : BitVec 8) (i : BitVec 18) (s : State) : exec (.smovh d i) s = execSmovh d i s := rfl
@[simp] theorem exec_mand (d : BitVec 3) (a : BitVec 3) (b : BitVec 3) (s : State) : exec (.mand d a b) s = execMand d a b s := rfl
@[simp] theorem exec_mor (d : BitVec 3) (a : BitVec 3) (b : BitVec 3) (s : State) : exec (.mor d a b) s = execMor d a b s := rfl
@[simp] theorem exec_mxor (d : BitVec 3) (a : BitVec 3) (b : BitVec 3) (s : State) : exec (.mxor d a b) s = execMxor d a b s := rfl
@[simp] theorem exec_mandn (d : BitVec 3) (a : BitVec 3) (b : BitVec 3) (s : State) : exec (.mandn d a b) s = execMandn d a b s := rfl
@[simp] theorem exec_mnot (d : BitVec 3) (a : BitVec 3) (s : State) : exec (.mnot d a) s = execMnot d a s := rfl
@[simp] theorem exec_mpopc (a : BitVec 3) (s_ : BitVec 8) (s : State) : exec (.mpopc a s_) s = execMpopc a s_ s := rfl
@[simp] theorem exec_mffs (a : BitVec 3) (s_ : BitVec 8) (s : State) : exec (.mffs a s_) s = execMffs a s_ s := rfl
@[simp] theorem exec_mtos (a : BitVec 3) (s_ : BitVec 7) (s : State) : exec (.mtos a s_) s = execMtos a s_ s := rfl
@[simp] theorem exec_stom (d : BitVec 3) (s_ : BitVec 7) (s : State) : exec (.stom d s_) s = execStom d s_ s := rfl
@[simp] theorem exec_mq (d : BitVec 3) (a : BitVec 3) (b : BitVec 3) (s : State) : exec (.mq d a b) s = execMq d a b s := rfl
@[simp] theorem exec_qand (d : BitVec 3) (a : BitVec 3) (b : BitVec 3) (s : State) : exec (.qand d a b) s = execQand d a b s := rfl
@[simp] theorem exec_qor (d : BitVec 3) (a : BitVec 3) (b : BitVec 3) (s : State) : exec (.qor d a b) s = execQor d a b s := rfl
@[simp] theorem exec_qnot (d : BitVec 3) (a : BitVec 3) (s : State) : exec (.qnot d a) s = execQnot d a s := rfl
@[simp] theorem exec_bra (g : BitVec 4) (o : BitVec 22) (s : State) : exec (.bra g o) s = execBra g o s := rfl
@[simp] theorem exec_bru (g : BitVec 4) (o : BitVec 22) (s : State) : exec (.bru g o) s = execBru g o s := rfl
@[simp] theorem exec_brm (n : BitVec 2) (a : BitVec 4) (b : BitVec 4) (c : BitVec 4) (d : BitVec 4) (s : State) : exec (.brm n a b c d) s = execBrm n a b c d s := rfl
@[simp] theorem exec_call (g : BitVec 4) (o : BitVec 22) (s : State) : exec (.call g o) s = execCall g o s := rfl
@[simp] theorem exec_brx (g : BitVec 4) (a : BitVec 6) (s : State) : exec (.brx g a) s = execBrx g a s := rfl
@[simp] theorem exec_ret (g : BitVec 4) (s : State) : exec (.ret g) s = execRet g s := rfl
@[simp] theorem exec_callx (g : BitVec 4) (a : BitVec 6) (s : State) : exec (.callx g a) s = execCallx g a s := rfl
@[simp] theorem exec_winset (g : BitVec 4) (i : BitVec 5) (s : State) : exec (.winset g i) s = execWinset g i s := rfl
@[simp] theorem exec_winadd (g : BitVec 4) (i : BitVec 5) (s : State) : exec (.winadd g i) s = execWinadd g i s := rfl
@[simp] theorem exec_ld (g : BitVec 4) (d : BitVec 6) (a : BitVec 6) (p : BitVec 7) (z : BitVec 3) (s : State) : exec (.ld g d a p z) s = execLd g d a p z s := rfl
@[simp] theorem exec_ldv (g : BitVec 4) (d : BitVec 6) (a : BitVec 5) (z : BitVec 3) (s : State) : exec (.ldv g d a z) s = execLdv g d a z s := rfl
@[simp] theorem exec_st (g : BitVec 4) (d : BitVec 6) (a : BitVec 6) (p : BitVec 7) (z : BitVec 3) (s : State) : exec (.st g d a p z) s = execSt g d a p z s := rfl
@[simp] theorem exec_stv (g : BitVec 4) (d : BitVec 6) (a : BitVec 5) (z : BitVec 3) (s : State) : exec (.stv g d a z) s = execStv g d a z s := rfl
@[simp] theorem exec_lds (d : BitVec 8) (p : BitVec 7) (z : BitVec 3) (o : BitVec 8) (s : State) : exec (.lds d p z o) s = execLds d p z o s := rfl
@[simp] theorem exec_sts (d : BitVec 8) (p : BitVec 7) (z : BitVec 3) (o : BitVec 8) (s : State) : exec (.sts d p z o) s = execSts d p z o s := rfl
@[simp] theorem exec_atomIadd (d : BitVec 6) (a : BitVec 6) (p : BitVec 7) (k : BitVec 3) (s : State) : exec (.atomIadd d a p k) s = execAtomIadd d a p k s := rfl
@[simp] theorem exec_atomIminS (d : BitVec 6) (a : BitVec 6) (p : BitVec 7) (k : BitVec 3) (s : State) : exec (.atomIminS d a p k) s = execAtomIminS d a p k s := rfl
@[simp] theorem exec_atomIminN (d : BitVec 6) (a : BitVec 6) (p : BitVec 7) (k : BitVec 3) (s : State) : exec (.atomIminN d a p k) s = execAtomIminN d a p k s := rfl
@[simp] theorem exec_atomImaxS (d : BitVec 6) (a : BitVec 6) (p : BitVec 7) (k : BitVec 3) (s : State) : exec (.atomImaxS d a p k) s = execAtomImaxS d a p k s := rfl
@[simp] theorem exec_atomImaxN (d : BitVec 6) (a : BitVec 6) (p : BitVec 7) (k : BitVec 3) (s : State) : exec (.atomImaxN d a p k) s = execAtomImaxN d a p k s := rfl
@[simp] theorem exec_atomAnd (d : BitVec 6) (a : BitVec 6) (p : BitVec 7) (k : BitVec 3) (s : State) : exec (.atomAnd d a p k) s = execAtomAnd d a p k s := rfl
@[simp] theorem exec_atomOr (d : BitVec 6) (a : BitVec 6) (p : BitVec 7) (k : BitVec 3) (s : State) : exec (.atomOr d a p k) s = execAtomOr d a p k s := rfl
@[simp] theorem exec_atomXor (d : BitVec 6) (a : BitVec 6) (p : BitVec 7) (k : BitVec 3) (s : State) : exec (.atomXor d a p k) s = execAtomXor d a p k s := rfl
@[simp] theorem exec_atomExch (d : BitVec 6) (a : BitVec 6) (p : BitVec 7) (k : BitVec 3) (s : State) : exec (.atomExch d a p k) s = execAtomExch d a p k s := rfl
@[simp] theorem exec_atomCas (d : BitVec 5) (a : BitVec 6) (p : BitVec 7) (k : BitVec 3) (s : State) : exec (.atomCas d a p k) s = execAtomCas d a p k s := rfl
@[simp] theorem exec_atomIadd64 (d : BitVec 5) (a : BitVec 6) (p : BitVec 7) (k : BitVec 3) (s : State) : exec (.atomIadd64 d a p k) s = execAtomIadd64 d a p k s := rfl
@[simp] theorem exec_atomCas64 (d : BitVec 4) (a : BitVec 6) (p : BitVec 7) (k : BitVec 3) (s : State) : exec (.atomCas64 d a p k) s = execAtomCas64 d a p k s := rfl
@[simp] theorem exec_atomFadd (d : BitVec 6) (a : BitVec 6) (p : BitVec 7) (k : BitVec 3) (s : State) : exec (.atomFadd d a p k) s = execAtomFadd d a p k s := rfl
@[simp] theorem exec_atomFmin (d : BitVec 6) (a : BitVec 6) (p : BitVec 7) (k : BitVec 3) (s : State) : exec (.atomFmin d a p k) s = execAtomFmin d a p k s := rfl
@[simp] theorem exec_atomFmax (d : BitVec 6) (a : BitVec 6) (p : BitVec 7) (k : BitVec 3) (s : State) : exec (.atomFmax d a p k) s = execAtomFmax d a p k s := rfl
@[simp] theorem exec_atomOrd (f : BitVec 4) (d : BitVec 6) (a : BitVec 6) (p : BitVec 7) (s : State) : exec (.atomOrd f d a p) s = execAtomOrd f d a p s := rfl
@[simp] theorem exec_redIadd (d : BitVec 6) (a : BitVec 6) (p : BitVec 7) (k : BitVec 3) (s : State) : exec (.redIadd d a p k) s = execRedIadd d a p k s := rfl
@[simp] theorem exec_redIminS (d : BitVec 6) (a : BitVec 6) (p : BitVec 7) (k : BitVec 3) (s : State) : exec (.redIminS d a p k) s = execRedIminS d a p k s := rfl
@[simp] theorem exec_redIminN (d : BitVec 6) (a : BitVec 6) (p : BitVec 7) (k : BitVec 3) (s : State) : exec (.redIminN d a p k) s = execRedIminN d a p k s := rfl
@[simp] theorem exec_redImaxS (d : BitVec 6) (a : BitVec 6) (p : BitVec 7) (k : BitVec 3) (s : State) : exec (.redImaxS d a p k) s = execRedImaxS d a p k s := rfl
@[simp] theorem exec_redImaxN (d : BitVec 6) (a : BitVec 6) (p : BitVec 7) (k : BitVec 3) (s : State) : exec (.redImaxN d a p k) s = execRedImaxN d a p k s := rfl
@[simp] theorem exec_redAnd (d : BitVec 6) (a : BitVec 6) (p : BitVec 7) (k : BitVec 3) (s : State) : exec (.redAnd d a p k) s = execRedAnd d a p k s := rfl
@[simp] theorem exec_redOr (d : BitVec 6) (a : BitVec 6) (p : BitVec 7) (k : BitVec 3) (s : State) : exec (.redOr d a p k) s = execRedOr d a p k s := rfl
@[simp] theorem exec_redXor (d : BitVec 6) (a : BitVec 6) (p : BitVec 7) (k : BitVec 3) (s : State) : exec (.redXor d a p k) s = execRedXor d a p k s := rfl
@[simp] theorem exec_redExch (d : BitVec 6) (a : BitVec 6) (p : BitVec 7) (k : BitVec 3) (s : State) : exec (.redExch d a p k) s = execRedExch d a p k s := rfl
@[simp] theorem exec_redCas (d : BitVec 5) (a : BitVec 6) (p : BitVec 7) (k : BitVec 3) (s : State) : exec (.redCas d a p k) s = execRedCas d a p k s := rfl
@[simp] theorem exec_redIadd64 (d : BitVec 5) (a : BitVec 6) (p : BitVec 7) (k : BitVec 3) (s : State) : exec (.redIadd64 d a p k) s = execRedIadd64 d a p k s := rfl
@[simp] theorem exec_redCas64 (d : BitVec 4) (a : BitVec 6) (p : BitVec 7) (k : BitVec 3) (s : State) : exec (.redCas64 d a p k) s = execRedCas64 d a p k s := rfl
@[simp] theorem exec_redFadd (d : BitVec 6) (a : BitVec 6) (p : BitVec 7) (k : BitVec 3) (s : State) : exec (.redFadd d a p k) s = execRedFadd d a p k s := rfl
@[simp] theorem exec_redFmin (d : BitVec 6) (a : BitVec 6) (p : BitVec 7) (k : BitVec 3) (s : State) : exec (.redFmin d a p k) s = execRedFmin d a p k s := rfl
@[simp] theorem exec_redFmax (d : BitVec 6) (a : BitVec 6) (p : BitVec 7) (k : BitVec 3) (s : State) : exec (.redFmax d a p k) s = execRedFmax d a p k s := rfl
@[simp] theorem exec_redOrd (f : BitVec 4) (d : BitVec 6) (a : BitVec 6) (p : BitVec 7) (s : State) : exec (.redOrd f d a p) s = execRedOrd f d a p s := rfl
@[simp] theorem exec_fenceRel (k : BitVec 3) (s : State) : exec (.fenceRel k) s = execFenceRel k s := rfl
@[simp] theorem exec_fenceAcq (k : BitVec 3) (s : State) : exec (.fenceAcq k) s = execFenceAcq k s := rfl
@[simp] theorem exec_fenceAr (k : BitVec 3) (s : State) : exec (.fenceAr k) s = execFenceAr k s := rfl
@[simp] theorem exec_fenceSc (k : BitVec 3) (s : State) : exec (.fenceSc k) s = execFenceSc k s := rfl
@[simp] theorem exec_fencePkg (s : State) : exec .fencePkg s = execFencePkg s := rfl
@[simp] theorem exec_waita (c : BitVec 4) (s_ : BitVec 7) (v : BitVec 8) (z : BitVec 3) (k : BitVec 3) (s : State) : exec (.waita c s_ v z k) s = execWaita c s_ v z k s := rfl
@[simp] theorem exec_ljoin (d : BitVec 6) (a : BitVec 6) (p : BitVec 7) (x : BitVec 1) (s : State) : exec (.ljoin d a p x) s = execLjoin d a p x s := rfl
@[simp] theorem exec_lstc (d : BitVec 6) (a : BitVec 6) (p : BitVec 7) (x : BitVec 1) (s : State) : exec (.lstc d a p x) s = execLstc d a p x s := rfl
@[simp] theorem exec_lld (d : BitVec 6) (a : BitVec 6) (p : BitVec 7) (s : State) : exec (.lld d a p) s = execLld d a p s := rfl
@[simp] theorem exec_lwait (d : BitVec 6) (a : BitVec 6) (p : BitVec 7) (x : BitVec 1) (s : State) : exec (.lwait d a p x) s = execLwait d a p x s := rfl
@[simp] theorem exec_lsync (s : State) : exec .lsync s = execLsync s := rfl
@[simp] theorem exec_talloc (s_ : BitVec 8) (s : State) : exec (.talloc s_) s = execTalloc s_ s := rfl
@[simp] theorem exec_tfree (s_ : BitVec 8) (s : State) : exec (.tfree s_) s = execTfree s_ s := rfl
@[simp] theorem exec_ttag (s_ : BitVec 8) (s : State) : exec (.ttag s_) s = execTtag s_ s := rfl
@[simp] theorem exec_twait (s_ : BitVec 8) (s : State) : exec (.twait s_) s = execTwait s_ s := rfl
@[simp] theorem exec_tld (s_ : BitVec 8) (t : BitVec 7) (e : BitVec 1) (s : State) : exec (.tld s_ t e) s = execTld s_ t e s := rfl
@[simp] theorem exec_tst (s_ : BitVec 8) (t : BitVec 7) (e : BitVec 1) (s : State) : exec (.tst s_ t e) s = execTst s_ t e s := rfl
@[simp] theorem exec_tldt (s_ : BitVec 8) (t : BitVec 7) (e : BitVec 1) (s : State) : exec (.tldt s_ t e) s = execTldt s_ t e s := rfl
@[simp] theorem exec_tcopy (s_ : BitVec 8) (t : BitVec 7) (e : BitVec 1) (x : BitVec 1) (s : State) : exec (.tcopy s_ t e x) s = execTcopy s_ t e x s := rfl
@[simp] theorem exec_tfill (s_ : BitVec 8) (t : BitVec 7) (e : BitVec 1) (s : State) : exec (.tfill s_ t e) s = execTfill s_ t e s := rfl
@[simp] theorem exec_tstc (s_ : BitVec 8) (t : BitVec 7) (e : BitVec 1) (s : State) : exec (.tstc s_ t e) s = execTstc s_ t e s := rfl
@[simp] theorem exec_tldc (s_ : BitVec 8) (t : BitVec 7) (e : BitVec 1) (s : State) : exec (.tldc s_ t e) s = execTldc s_ t e s := rfl
@[simp] theorem exec_tcvt (s_ : BitVec 8) (t : BitVec 7) (e : BitVec 1) (s : State) : exec (.tcvt s_ t e) s = execTcvt s_ t e s := rfl
@[simp] theorem exec_trd (d : BitVec 6) (a : BitVec 6) (s_ : BitVec 8) (z : BitVec 1) (s : State) : exec (.trd d a s_ z) s = execTrd d a s_ z s := rfl
@[simp] theorem exec_twr (d : BitVec 6) (a : BitVec 6) (s_ : BitVec 8) (z : BitVec 1) (s : State) : exec (.twr d a s_ z) s = execTwr d a s_ z s := rfl
@[simp] theorem exec_trdt (d : BitVec 6) (a : BitVec 6) (s_ : BitVec 8) (z : BitVec 1) (s : State) : exec (.trdt d a s_ z) s = execTrdt d a s_ z s := rfl
@[simp] theorem exec_tatom (d : BitVec 6) (a : BitVec 6) (s_ : BitVec 8) (o : BitVec 4) (s : State) : exec (.tatom d a s_ o) s = execTatom d a s_ o s := rfl
@[simp] theorem exec_oclaim (s_ : BitVec 8) (s : State) : exec (.oclaim s_) s = execOclaim s_ s := rfl
@[simp] theorem exec_orel (s_ : BitVec 8) (s : State) : exec (.orel s_) s = execOrel s_ s := rfl
@[simp] theorem exec_ofill (s_ : BitVec 8) (t : BitVec 7) (e : BitVec 1) (s : State) : exec (.ofill s_ t e) s = execOfill s_ t e s := rfl
@[simp] theorem exec_ofillS24 (s_ : BitVec 8) (t : BitVec 7) (e : BitVec 1) (s : State) : exec (.ofillS24 s_ t e) s = execOfillS24 s_ t e s := rfl
@[simp] theorem exec_ofillG (s_ : BitVec 8) (t : BitVec 7) (e : BitVec 1) (s : State) : exec (.ofillG s_ t e) s = execOfillG s_ t e s := rfl
@[simp] theorem exec_owait (s_ : BitVec 8) (s : State) : exec (.owait s_) s = execOwait s_ s := rfl
@[simp] theorem exec_mma (s_ : BitVec 8) (t : BitVec 7) (e : BitVec 1) (s : State) : exec (.mma s_ t e) s = execMma s_ t e s := rfl
@[simp] theorem exec_mmas (s_ : BitVec 8) (t : BitVec 7) (e : BitVec 1) (s : State) : exec (.mmas s_ t e) s = execMmas s_ t e s := rfl
@[simp] theorem exec_mmat (s_ : BitVec 8) (t : BitVec 7) (e : BitVec 1) (s : State) : exec (.mmat s_ t e) s = execMmat s_ t e s := rfl
@[simp] theorem exec_spmm (s_ : BitVec 8) (t : BitVec 7) (e : BitVec 1) (s : State) : exec (.spmm s_ t e) s = execSpmm s_ t e s := rfl
@[simp] theorem exec_pgen (s_ : BitVec 8) (t : BitVec 7) (e : BitVec 1) (v : BitVec 1) (s : State) : exec (.pgen s_ t e v) s = execPgen s_ t e v s := rfl
@[simp] theorem exec_pgenMat (s_ : BitVec 8) (t : BitVec 7) (e : BitVec 1) (s : State) : exec (.pgenMat s_ t e) s = execPgenMat s_ t e s := rfl
@[simp] theorem exec_pmerge (s_ : BitVec 8) (t : BitVec 7) (e : BitVec 1) (k : BitVec 1) (n : BitVec 1) (s : State) : exec (.pmerge s_ t e k n) s = execPmerge s_ t e k n s := rfl
@[simp] theorem exec_pload (s_ : BitVec 8) (s : State) : exec (.pload s_) s = execPload s_ s := rfl
@[simp] theorem exec_pfree (s_ : BitVec 8) (s : State) : exec (.pfree s_) s = execPfree s_ s := rfl
@[simp] theorem exec_stream (s_ : BitVec 8) (t : BitVec 7) (e : BitVec 1) (m : BitVec 1) (s : State) : exec (.stream s_ t e m) s = execStream s_ t e m s := rfl
@[simp] theorem exec_hcopy (s_ : BitVec 7) (t : BitVec 7) (e : BitVec 1) (b : BitVec 1) (s : State) : exec (.hcopy s_ t e b) s = execHcopy s_ t e b s := rfl
@[simp] theorem exec_snap (s_ : BitVec 7) (t : BitVec 7) (e : BitVec 1) (s : State) : exec (.snap s_ t e) s = execSnap s_ t e s := rfl
@[simp] theorem exec_cwait (s_ : BitVec 8) (s : State) : exec (.cwait s_) s = execCwait s_ s := rfl
@[simp] theorem exec_evpop (s_ : BitVec 6) (n : BitVec 1) (s : State) : exec (.evpop s_ n) s = execEvpop s_ n s := rfl
@[simp] theorem exec_shdef (s_ : BitVec 8) (s : State) : exec (.shdef s_) s = execShdef s_ s := rfl
@[simp] theorem exec_shfree (s_ : BitVec 8) (s : State) : exec (.shfree s_) s = execShfree s_ s := rfl
@[simp] theorem exec_spawn (s_ : BitVec 7) (s : State) : exec (.spawn s_) s = execSpawn s_ s := rfl
@[simp] theorem exec_spawnn (s_ : BitVec 7) (s : State) : exec (.spawnn s_) s = execSpawnn s_ s := rfl
@[simp] theorem exec_spawna (s_ : BitVec 7) (t : BitVec 7) (s : State) : exec (.spawna s_ t) s = execSpawna s_ t s := rfl
@[simp] theorem exec_sync (s : State) : exec .sync s = execSync s := rfl
@[simp] theorem exec_launch (s_ : BitVec 7) (s : State) : exec (.launch s_) s = execLaunch s_ s := rfl
@[simp] theorem exec_barf (d : BitVec 3) (s : State) : exec (.barf d) s = execBarf d s := rfl
@[simp] theorem exec_pedrd (s_ : BitVec 8) (s : State) : exec (.pedrd s_) s = execPedrd s_ s := rfl
@[simp] theorem exec_pedcmp (s_ : BitVec 7) (s : State) : exec (.pedcmp s_) s = execPedcmp s_ s := rfl
@[simp] theorem exec_palloc (s_ : BitVec 7) (s : State) : exec (.palloc s_) s = execPalloc s_ s := rfl
@[simp] theorem exec_rview (s_ : BitVec 8) (m : BitVec 1) (s : State) : exec (.rview s_ m) s = execRview s_ m s := rfl
@[simp] theorem exec_oskip (s_ : BitVec 8) (s : State) : exec (.oskip s_) s = execOskip s_ s := rfl
@[simp] theorem exec_prio (s_ : BitVec 8) (s : State) : exec (.prio s_) s = execPrio s_ s := rfl
@[simp] theorem exec_prand (g : BitVec 4) (d : BitVec 6) (s : State) : exec (.prand g d) s = execPrand g d s := rfl
@[simp] theorem exec_prandf (g : BitVec 4) (d : BitVec 6) (s : State) : exec (.prandf g d) s = execPrandf g d s := rfl
@[simp] theorem exec_rupd (g : BitVec 4) (d : BitVec 6) (a : BitVec 6) (b : BitVec 6) (s : State) : exec (.rupd g d a b) s = execRupd g d a b s := rfl
@[simp] theorem exec_csrr (s_ : BitVec 8) (c : BitVec 12) (s : State) : exec (.csrr s_ c) s = execCsrr s_ c s := rfl
@[simp] theorem exec_csrw (s_ : BitVec 8) (c : BitVec 12) (s : State) : exec (.csrw s_ c) s = execCsrw s_ c s := rfl
@[simp] theorem exec_csrwStat (s_ : BitVec 8) (s : State) : exec (.csrwStat s_) s = execCsrwStat s_ s := rfl
@[simp] theorem exec_csrwSeed (s_ : BitVec 7) (s : State) : exec (.csrwSeed s_) s = execCsrwSeed s_ s := rfl
@[simp] theorem exec_csrwLxs (s_ : BitVec 8) (s : State) : exec (.csrwLxs s_) s = execCsrwLxs s_ s := rfl
@[simp] theorem exec_csrwLxp (s_ : BitVec 8) (s : State) : exec (.csrwLxp s_) s = execCsrwLxp s_ s := rfl
@[simp] theorem exec_csrwCpyshare (s_ : BitVec 8) (s : State) : exec (.csrwCpyshare s_) s = execCsrwCpyshare s_ s := rfl
@[simp] theorem exec_csrwPerfsel (s_ : BitVec 8) (k : BitVec 4) (s : State) : exec (.csrwPerfsel s_ k) s = execCsrwPerfsel s_ k s := rfl
@[simp] theorem exec_csrwLxt (s_ : BitVec 8) (k : BitVec 3) (s : State) : exec (.csrwLxt s_ k) s = execCsrwLxt s_ k s := rfl
@[simp] theorem exec_clock (s_ : BitVec 7) (s : State) : exec (.clock s_) s = execClock s_ s := rfl
@[simp] theorem exec_locq (s_ : BitVec 8) (s : State) : exec (.locq s_) s = execLocq s_ s := rfl
@[simp] theorem exec_perfrd (s_ : BitVec 8) (k : BitVec 4) (s : State) : exec (.perfrd s_ k) s = execPerfrd s_ k s := rfl
@[simp] theorem exec_tlbinv (s_ : BitVec 7) (s : State) : exec (.tlbinv s_) s = execTlbinv s_ s := rfl
@[simp] theorem exec_ctxsv (s_ : BitVec 7) (s : State) : exec (.ctxsv s_) s = execCtxsv s_ s := rfl
@[simp] theorem exec_ctxld (s_ : BitVec 7) (s : State) : exec (.ctxld s_) s = execCtxld s_ s := rfl
@[simp] theorem exec_himm (h : BitVec 22) (s : State) : exec (.himm h) s = execHimm h s := rfl
@[simp] theorem exec_hmod (n : BitVec 1) (t : BitVec 1) (v : BitVec 1) (k : BitVec 3) (c : BitVec 2) (o : BitVec 2) (r : BitVec 1) (m : BitVec 3) (s : State) : exec (.hmod n t v k c o r m) s = execHmod n t v k c o r m s := rfl
@[simp] theorem exec_hgrd (g : BitVec 4) (s : State) : exec (.hgrd g) s = execHgrd g s := rfl
@[simp] theorem exec_htgt (h : BitVec 22) (s : State) : exec (.htgt h) s = execHtgt h s := rfl
@[simp] theorem exec_hseq (s_ : BitVec 6) (s : State) : exec (.hseq s_) s = execHseq s_ s := rfl
@[simp] theorem exec_powerOnBoot (strap0 : Bool) (strap1 : Bool) (s : State) : exec (.powerOnBoot strap0 strap1) s = execPowerOnBoot strap0 strap1 s := rfl
@[simp] theorem exec_contextCreate (num : Nat) (sup : Bool) (ptroot : DWord) (seed : DWord) (ringPA : Nat) (latOff : Nat) (s : State) : exec (.contextCreate num sup ptroot seed ringPA latOff) s = execContextCreate num sup ptroot seed ringPA latOff s := rfl
@[simp] theorem exec_mgmtSetPowerCap (watts : Nat) (s : State) : exec (.mgmtSetPowerCap watts) s = execMgmtSetPowerCap watts s := rfl
@[simp] theorem exec_mgmtReportStatus (s : State) : exec .mgmtReportStatus s = execMgmtReportStatus s := rfl
@[simp] theorem exec_mgmtReplaceFrontProgram (num : Nat) (text : DWord) (textsz : Word) (entry : Word) (args : DWord) (s : State) : exec (.mgmtReplaceFrontProgram num text textsz entry args) s = execMgmtReplaceFrontProgram num text textsz entry args s := rfl
@[simp] theorem exec_mgmtTrainPort (iod : Nat) (port : Nat) (ok : Bool) (s : State) : exec (.mgmtTrainPort iod port ok) s = execMgmtTrainPort iod port ok s := rfl
@[simp] theorem exec_mgmtFirmwareUpdate (sigOk : Bool) (s : State) : exec (.mgmtFirmwareUpdate sigOk) s = execMgmtFirmwareUpdate sigOk s := rfl
@[simp] theorem exec_thermalThrottle (die : Nat) (celsius : Nat) (s : State) : exec (.thermalThrottle die celsius) s = execThermalThrottle die celsius s := rfl
@[simp] theorem exec_thermalShutdown (die : Nat) (celsius : Nat) (s : State) : exec (.thermalShutdown die celsius) s = execThermalShutdown die celsius s := rfl
@[simp] theorem exec_hostWrite (port : Nat) (pa : Nat) (bytes : List Byte) (rid : Half) (s : State) : exec (.hostWrite port pa bytes rid) s = execHostWrite port pa bytes rid s := rfl
@[simp] theorem exec_hostRead (port : Nat) (pa : Nat) (n : Nat) (s : State) : exec (.hostRead port pa n) s = execHostRead port pa n s := rfl
@[simp] theorem exec_errclr (iod : Nat) (val : DWord) (s : State) : exec (.errclr iod val) s = execErrclr iod val s := rfl
@[simp] theorem exec_winEntryWrite (iod : Nat) (w : Nat) (hi : Bool) (val : DWord) (s : State) : exec (.winEntryWrite iod w hi val) s = execWinEntryWrite iod w hi val s := rfl
@[simp] theorem exec_latticeBroadcastWrite (port : Nat) (iod : Nat) (off : Nat) (bytes : List Byte) (rid : Half) (s : State) : exec (.latticeBroadcastWrite port iod off bytes rid) s = execLatticeBroadcastWrite port iod off bytes rid s := rfl
@[simp] theorem exec_mmioRegisterWrite (port : Nat) (iod : Nat) (off : Nat) (bytes : List Byte) (rid : Half) (s : State) : exec (.mmioRegisterWrite port iod off bytes rid) s = execMmioRegisterWrite port iod off bytes rid s := rfl
@[simp] theorem exec_clolyFlitReceive (iod : Nat) (port : Nat) (crcOk : Bool) (payload : List Byte) (s : State) : exec (.clolyFlitReceive iod port crcOk payload) s = execClolyFlitReceive iod port crcOk payload s := rfl
@[simp] theorem exec_clolyLinkDown (iod : Nat) (port : Nat) (s : State) : exec (.clolyLinkDown iod port) s = execClolyLinkDown iod port s := rfl
@[simp] theorem exec_remoteWindowAccess (pa : Nat) (wr : Option (List Byte)) (n : Nat) (s : State) : exec (.remoteWindowAccess pa wr n) s = execRemoteWindowAccess pa wr n s := rfl
@[simp] theorem exec_latticeExchangeRound (s : State) : exec .latticeExchangeRound s = execLatticeExchangeRound s := rfl
@[simp] theorem exec_feldsparJoinArrival (s : State) : exec .feldsparJoinArrival s = execFeldsparJoinArrival s := rfl
@[simp] theorem exec_lsyncComplete (gid : Nat) (s : State) : exec (.lsyncComplete gid) s = execLsyncComplete gid s := rfl
@[simp] theorem exec_monitorReread (gid : Nat) (pc : DWord) (s : State) : exec (.monitorReread gid pc) s = execMonitorReread gid pc s := rfl
@[simp] theorem exec_waitPoll (gid : Nat) (pc : DWord) (s : State) : exec (.waitPoll gid pc) s = execWaitPoll gid pc s := rfl
@[simp] theorem exec_waitForWalk (s : State) : exec .waitForWalk s = execWaitForWalk s := rfl
@[simp] theorem exec_agingPromotion (gid : Nat) (s : State) : exec (.agingPromotion gid) s = execAgingPromotion gid s := rfl
@[simp] theorem exec_taskStart (core : Nat) (part : Nat) (s : State) : exec (.taskStart core part) s = execTaskStart core part s := rfl
@[simp] theorem exec_gangDrain (gid : Nat) (s : State) : exec (.gangDrain gid) s = execGangDrain gid s := rfl
@[simp] theorem exec_syncComplete (gid : Nat) (s : State) : exec (.syncComplete gid) s = execSyncComplete gid s := rfl
@[simp] theorem exec_barfPhaseComplete (tkey : Nat) (s : State) : exec (.barfPhaseComplete tkey) s = execBarfPhaseComplete tkey s := rfl
@[simp] theorem exec_launchStart (lkey : Nat) (s : State) : exec (.launchStart lkey) s = execLaunchStart lkey s := rfl
@[simp] theorem exec_teamPlacement (lkey : Nat) (s : State) : exec (.teamPlacement lkey) s = execTeamPlacement lkey s := rfl
@[simp] theorem exec_launchComplete (lkey : Nat) (s : State) : exec (.launchComplete lkey) s = execLaunchComplete lkey s := rfl
@[simp] theorem exec_engineCommandStart (cid : Nat) (s : State) : exec (.engineCommandStart cid) s = execEngineCommandStart cid s := rfl
@[simp] theorem exec_engineCommandCompletion (cid : Nat) (s : State) : exec (.engineCommandCompletion cid) s = execEngineCommandCompletion cid s := rfl
@[simp] theorem exec_snapCut (s : State) : exec .snapCut s = execSnapCut s := rfl
@[simp] theorem exec_snapBlockCopy (s : State) : exec .snapBlockCopy s = execSnapBlockCopy s := rfl
@[simp] theorem exec_raceCheck (gid : Nat) (pa : Nat) (mask : Half) (rd : Bool) (s : State) : exec (.raceCheck gid pa mask rd) s = execRaceCheck gid pa mask rd s := rfl
@[simp] theorem exec_filterSpill (sect : Nat) (s : State) : exec (.filterSpill sect) s = execFilterSpill sect s := rfl
@[simp] theorem exec_migrateService (num : Nat) (va : DWord) (s : State) : exec (.migrateService num va) s = execMigrateService num va s := rfl
@[simp] theorem exec_arenaZeroFill (num : Nat) (va : DWord) (s : State) : exec (.arenaZeroFill num va) s = execArenaZeroFill num va s := rfl
@[simp] theorem exec_pageWalk (num : Nat) (core : Nat) (va : DWord) (s : State) : exec (.pageWalk num core va) s = execPageWalk num core va s := rfl
@[simp] theorem exec_viewSpill (gid : Nat) (red : Nat) (out : Bool) (s : State) : exec (.viewSpill gid red out) s = execViewSpill gid red out s := rfl
@[simp] theorem exec_contextRestorePlacement (num : Nat) (s : State) : exec (.contextRestorePlacement num) s = execContextRestorePlacement num s := rfl
@[simp] theorem exec_illegalWord (w : Word) (s : State) : exec (.illegalWord w) s = execIllegalWord w s := rfl
@[simp] theorem exec_powerCapClockStep (down : Bool) (s : State) : exec (.powerCapClockStep down) s = execPowerCapClockStep down s := rfl
@[simp] theorem exec_hostConfigurationRequest (port : Nat) (s : State) : exec (.hostConfigurationRequest port) s = execHostConfigurationRequest port s := rfl

end Sys2Proof.Machine
end

