-- ==== Sys2Proof/Laws/Ops.lean ====
section
/-! SUPPORT. What the shared operations of Machine/Ops and Machine/Operands can do, said once. -/
namespace Sys2Proof.Safety
open Sys2Proof.Machine

theorem Quiet.refl (k : Nat) (s : State) : Quiet k s s := ⟨rfl, rfl, rfl, rfl⟩

theorem Quiet.trans {k : Nat} {a b c : State} (h : Quiet k a b) (h' : Quiet k b c) : Quiet k a c where
  gangs := h'.gangs.trans h.gangs
  teams := h'.teams.trans h.teams
  launches := h'.launches.trans h.launches
  rest := by rw [h'.rest, h.rest]

end Sys2Proof.Safety

namespace Sys2Proof.Machine
open Sys2Proof.Safety

/-! ## The unit being executed -/

theorem withCur_eq {s : State} {c : Cur} {g : Gang} (k : Cur → Gang → Out) (hc : s.cur = some c)
    (hg : s.gang? c.gid = some g) : withCur s k = k c g := by
  simp [withCur, hc, hg]

/-- A meaning that answers a next state was given a unit and its gang. -/
theorem withCur_next {s t : State} {k : Cur → Gang → Out} (h : withCur s k = .next t) :
    ∃ c g, s.cur = some c ∧ s.gang? c.gid = some g ∧ k c g = .next t := by
  unfold withCur at h
  split at h
  · cases h
  · split at h
    · cases h
    · exact ⟨_, _, ‹_›, ‹_›, h⟩

theorem gang?_gid {s : State} {k : Nat} {g : Gang} (h : s.gang? k = some g) : g.gid = k := by
  have := List.find?_some h
  simpa using this

theorem gang?_mem {s : State} {k : Nat} {g : Gang} (h : s.gang? k = some g) : g ∈ s.gangs := List.mem_of_find?_eq_some h

/-- A change of the gangs that keeps every gid keeps which gangs are found. -/
theorem find_map_gid (l : List Gang) (f : Gang → Gang) (k : Nat) (hf : ∀ g, (f g).gid = g.gid) :
    (l.map f).find? (·.gid == k) = (l.find? (·.gid == k)).map f := by
  induction l with
  | nil => rfl
  | cons a l ih => simp only [List.map_cons, List.find?_cons, hf]; split <;> simp_all

theorem modGang_gang? (s : State) (k j : Nat) (f : Gang → Gang) (hf : ∀ g, g.gid = k → (f g).gid = g.gid) :
    (s.modGang k f).gang? j = (s.gang? j).map fun g => if g.gid == k then f g else g := by
  unfold State.modGang State.gang?
  apply find_map_gid
  intro g; simp only [beq_iff_eq]; split
  · exact hf g ‹_›
  · rfl

/-! ## Quiet changes -/

theorem map_ext {α β : Type} {f : α → β} {l : List α} {h : α → α} (hf : ∀ x, f (h x) = f x) :
    (l.map h).map f = l.map f := by
  rw [List.map_map]; congr 1; funext x; exact hf x

theorem quiet_modGang (s : State) (k : Nat) (f : Gang → Gang) (hg : ∀ g, (f g).gid = g.gid)
    (hf : ∀ g, gangRegs (f g) = gangRegs g) : Quiet k s (s.modGang k f) := by
  refine ⟨?_, rfl, rfl, rfl⟩
  apply map_ext
  intro g
  by_cases h : g.gid = k
  · simp [gangBut, h, hg, hf]
  · simp [gangBut, h]

theorem quiet_modTeam (s : State) (k j : Nat) (f : Team → Team) (hf : ∀ g, teamBut (f g) = teamBut g) :
    Quiet k s (s.modTeam j f) := by
  refine ⟨rfl, ?_, rfl, rfl⟩
  apply map_ext; intro x; split <;> simp [hf]

theorem quiet_modLaunch (s : State) (k j : Nat) (f : Launch → Launch) (hf : ∀ g, launchBut (f g) = launchBut g) :
    Quiet k s (s.modLaunch j f) := by
  refine ⟨rfl, rfl, ?_, rfl⟩
  apply map_ext; intro x; split <;> simp [hf]

theorem moveCursors_quiet (s : State) (k l : Nat) : Quiet k s (s.moveCursors l) := by
  unfold State.moveCursors
  split
  · exact Quiet.refl k s
  · apply quiet_modLaunch; intro g; rfl

theorem freeMonitors_quiet (s : State) (k j : Nat) : Quiet k s (s.freeMonitors j) := ⟨rfl, rfl, rfl, rfl⟩

theorem exitGang_quiet (s : State) (k : Nat) : Quiet k s (s.exitGang k) := by
  unfold State.exitGang
  split
  · exact Quiet.refl k s
  · refine Quiet.trans ?_ (moveCursors_quiet _ k _)
    refine Quiet.trans ?_ (freeMonitors_quiet _ k k)
    exact quiet_modGang s k _ (fun _ => rfl) (fun _ => rfl)

theorem endFibres_quiet (s : State) (k : Nat) (m : Mask) : Quiet k s (s.endFibres k m) := by
  have h : Quiet k s (s.modGang k fun g => { (g.unbatch m) with live := g.live &&& ~~~m }) :=
    quiet_modGang s k _ (fun _ => rfl) (fun _ => rfl)
  unfold State.endFibres
  simp only
  split
  · split
    · exact h.trans (exitGang_quiet _ k)
    · exact h
  · exact h

theorem dropHeld_quiet (s : State) (k j : Nat) : Quiet k s (s.dropHeld j) := ⟨rfl, rfl, rfl, rfl⟩

theorem killFibres_quiet (s : State) (k : Nat) (m : Mask) : Quiet k s (s.killFibres k m) := by
  unfold State.killFibres
  split
  · exact Quiet.refl k s
  · have h : Quiet k s (s.modGang k (·.flags fBRK)) :=
      quiet_modGang s k _ (fun _ => rfl) (fun g => by simp [gangRegs, Gang.flags, BitVec.or_assoc])
    simp only
    split
    · refine Quiet.trans (h.trans ?_) (endFibres_quiet _ k m)
      exact quiet_modTeam _ k _ _ (fun _ => rfl)
    · exact h.trans (endFibres_quiet _ k m)

theorem killGang_quiet (s : State) (k : Nat) : Quiet k s (s.killGang k) := by
  unfold State.killGang
  split
  · exact Quiet.refl k s
  · exact (killFibres_quiet s k _).trans (dropHeld_quiet _ k k)

/-- Taking a trap moves batches and writes the fault CSRs; it changes nothing else of gang k, and nothing of others. -/
theorem takeTrap_quiet (s : State) (k : Nat) (pc : DWord) (t : Trap) : Quiet k s (s.takeTrap k pc t) := by
  unfold State.takeTrap
  split
  · exact Quiet.refl k s
  · rename_i g _
    have h1 := quiet_modLaunch s k g.lkey (fun l => { l with trapped := true }) (fun _ => rfl)
    have h2 : Quiet k s { s.modLaunch g.lkey (fun l => { l with trapped := true }) with
        monitors := s.monitors.filter fun m => !(m.gid == k && m.pc == pc && m.memb == t.bmask),
        watches := s.watches.filter fun m => !(m.gid == k && m.pc == pc && m.memb == t.bmask) } :=
      h1.trans ⟨rfl, rfl, rfl, rfl⟩
    refine h2.trans ?_
    simp only
    split
    · exact killGang_quiet _ k
    · split
      · refine Quiet.trans ?_ (killGang_quiet _ k)
        exact quiet_modGang _ k _ (fun _ => rfl) (fun _ => rfl)
      · split
        · exact quiet_modGang _ k _ (fun _ => rfl) (fun _ => rfl)
        · exact quiet_modGang _ k _ (fun _ => rfl) (fun _ => rfl)

theorem place_gangRegs (g : Gang) (pc : DWord) (m : Mask) : gangRegs (g.place pc m) = gangRegs g := by
  unfold Gang.place; split <;> rfl

theorem place_gid (g : Gang) (pc : DWord) (m : Mask) : (g.place pc m).gid = g.gid := by simp

theorem foldl_quiet {α : Type} {k : Nat} (f : State → α → State) (hf : ∀ s a, Quiet k s (f s a)) (l : List α) :
    ∀ s, Quiet k s (l.foldl f s) := by
  induction l with
  | nil => intro s; exact Quiet.refl k s
  | cons a l ih => intro s; exact (hf s a).trans (ih _)

theorem releaseBarrier_quiet (s : State) (k m : Nat) : Quiet k s (s.releaseBarrier k m) := by
  unfold State.releaseBarrier
  split
  · exact Quiet.refl k s
  · simp only
    split
    · exact takeTrap_quiet s k _ _
    · apply foldl_quiet
      intro s b
      split
      · exact Quiet.refl k s
      · split
        · exact takeTrap_quiet s k _ _
        · exact quiet_modGang s k _ (fun g => by simp) (fun g => by rw [place_gangRegs]; rfl)

/-- Evaluating a gang's waits again moves batches and may take traps; nothing else. -/
theorem settle_quiet (s : State) (k : Nat) : Quiet k s (s.settle k) := by
  have h1 : Quiet k s (s.modGang k Gang.wake) := quiet_modGang s k _ (fun _ => rfl) (fun _ => rfl)
  have h2 : ∀ l : List Nat, ∀ s : State, Quiet k s (l.foldl (fun s m =>
      match s.gang? k with
      | some g => if g.barrierDone m then s.releaseBarrier k m else s
      | none => s) s) := fun l => foldl_quiet _ (fun s m => by
        split
        · split
          · exact releaseBarrier_quiet s k m
          · exact Quiet.refl k s
        · exact Quiet.refl k s) l
  unfold State.settle
  simp only
  have h3 := (h1.trans (h2 (List.range 8) _)).trans (quiet_modGang _ k Gang.wake (fun _ => rfl) (fun _ => rfl))
  split
  · exact h3
  · split
    · exact h3.trans (takeTrap_quiet _ k _ _)
    · exact h3

theorem goGroups_quiet (s : State) (c : Cur) (gs : List (DWord × Mask)) : Quiet c.gid s (s.goGroups c gs) := by
  unfold State.goGroups
  refine Quiet.trans (quiet_modGang s c.gid _ ?_ ?_) (settle_quiet _ _)
  · intro g
    suffices ∀ g : Gang, (gs.foldl (fun g e => g.place e.1 e.2) g).gid = g.gid by rw [this]; rfl
    induction gs with
    | nil => intro g; rfl
    | cons e gs ih => intro g; simp [ih]
  · intro g
    suffices ∀ g : Gang, gangRegs (gs.foldl (fun g e => g.place e.1 e.2) g) = gangRegs g by rw [this]; rfl
    induction gs with
    | nil => intro g; rfl
    | cons e gs ih => intro g; simp only [List.foldl_cons]; rw [ih, place_gangRegs]

/-- A completed unit's batch goes on; nothing else changes but by its gang's waits and traps. -/
theorem advance_quiet (c : Cur) (s : State) : Quiet c.gid s (advance c s) := goGroups_quiet s c _

/-- A trap over the batch changes no register but the fault CSRs. -/
theorem trapBatch_quiet (c : Cur) (g : Gang) (cause : Cause) (addr : DWord) (info : Nat) (s : State) :
    ∃ t, trapBatch c g cause addr info s = .next t ∧ Quiet c.gid s t :=
  ⟨_, rfl, (takeTrap_quiet s c.gid _ _).trans (settle_quiet _ _)⟩

/-- A batch that waits changes nothing else. -/
theorem waitFor_quiet (c : Cur) (wk : Nat) (cap : List DWord) (s : State) :
    ∃ t, waitFor c wk cap s = .next t ∧ Quiet c.gid s t := by
  refine ⟨_, rfl, Quiet.trans ?_ (settle_quiet _ _)⟩
  exact quiet_modGang s c.gid _ (fun _ => rfl) (fun _ => rfl)

/-- A vector instruction's end moves batches, with or without a trap. -/
theorem finishWith_quiet (rank : Cause → Nat) (c : Cur) (kind : Nat) (fs : List FFault) (gs : List (DWord × Mask))
    (s t : State) (h : finishWith rank c kind fs gs s = .next t) : Quiet c.gid s t := by
  unfold finishWith at h
  split at h
  · exact Host.Outcome.next.inj h ▸ goGroups_quiet s c gs
  · split at h
    · cases h
    · exact Host.Outcome.next.inj h ▸ (takeTrap_quiet s c.gid _ _).trans (settle_quiet _ _)

/-- A quiet change keeps which gangs are found, with their registers. -/
theorem quiet_gang? {k j : Nat} {s t : State} (h : Quiet k s t) :
    (t.gang? j).map (gangBut k) = (s.gang? j).map (gangBut k) := by
  have e : ∀ l : List Gang, (l.find? (·.gid == j)).map (gangBut k) = (l.map (gangBut k)).find? (·.gid == j) := by
    intro l; rw [find_map_gid]; intro g; unfold gangBut; split <;> rfl
  unfold State.gang?
  rw [e, e, h.gangs]

/-! ## Running over fibres -/

/-- When no fibre's part faults, a run sets the fibres of its list, in order, and the flags of each. -/
theorem runFibres_ok (body : Body) (g0 : Gang) (u : Nat → Fibre → Fibre) (fl : Nat → Fibre → Flags) (l : List Nat) :
    ∀ g : Gang, (∀ i ∈ l, body g0 i (g0.fibre i) = .ok (u i (g0.fibre i), fl i (g0.fibre i))) →
      runFibres body g0 l g =
        ({ g with fibres := l.foldl (fun fs i => fs.set i (u i (g0.fibre i))) g.fibres,
                  stat := l.foldl (fun a i => a ||| fl i (g0.fibre i)) g.stat }, []) := by
  induction l with
  | nil => intro g _; rfl
  | cons i l ih =>
    intro g h
    have hi := h i (by simp)
    unfold runFibres
    simp only [hi]
    rw [ih _ fun j hj => h j (by simp [hj])]
    rfl

/-- Setting the fibres of a list with no repeats is one change of every fibre. -/
theorem foldl_set_mapIdx (u : Nat → Fibre → Fibre) (g0 : Gang) (l : List Nat) (hn : l.Nodup) :
    ∀ fs : List Fibre, (∀ i ∈ l, fs[i]? = g0.fibres[i]?) →
      l.foldl (fun fs i => fs.set i (u i (g0.fibre i))) fs =
        fs.mapIdx fun i f => if l.contains i then u i f else f := by
  induction l with
  | nil =>
    intro fs _
    apply List.ext_getElem?
    intro j
    simp
  | cons i l ih =>
    intro fs h
    have hn' := List.nodup_cons.1 hn
    rw [List.foldl_cons, ih hn'.2]
    · apply List.ext_getElem?
      intro j
      simp only [List.getElem?_mapIdx, List.getElem?_set]
      by_cases hj : i = j
      · subst hj
        have hi := h i (by simp)
        by_cases hl : i < fs.length
        · have : g0.fibre i = fs[i] := by
            unfold Gang.fibre; rw [List.getD_eq_getElem?_getD, ← hi]; simp [hl]
          simp [hl, hn'.1, this]
        · simp [hl]
      · have hj' : ¬ j = i := fun e => hj e.symm
        simp [hj, hj']
    · intro j hj
      have : i ≠ j := fun e => hn'.1 (e ▸ hj)
      simp only [List.getElem?_set, this, if_false]
      exact h j (by simp [hj])

theorem fibresOf_nodup (w : Nat) (m : Mask) : (fibresOf w m).Nodup := List.nodup_range.filter _

/-- A vector instruction none of whose fibres faults completes: each of them takes its new registers and flags. -/
theorem vecOver_ok (s : State) (c : Cur) (g : Gang) (act : List Nat) (body : Body) (u : Nat → Fibre → Fibre)
    (fl : Nat → Fibre → Flags) (hn : act.Nodup)
    (h : ∀ i ∈ act, body g i (g.fibre i) = .ok (u i (g.fibre i), fl i (g.fibre i))) :
    vecOver s c g act body = .next (advance c (s.modGang c.gid fun _ =>
      { g with fibres := g.fibres.mapIdx fun i f => if act.contains i then u i f else f,
               stat := act.foldl (fun a i => a ||| fl i (g.fibre i)) g.stat })) := by
  unfold vecOver
  simp only [runFibres_ok body g u fl act g h, foldl_set_mapIdx u g act hn g.fibres (fun _ _ => rfl)]
  rfl

/-- A vector instruction changes memory, other gangs and the device in no way, and its gang only in its fibres and STAT. -/
theorem runFibres_keeps (body : Body) (g0 : Gang) (l : List Nat) :
    ∀ g : Gang, ∃ fs st, (runFibres body g0 l g).1 = { g with fibres := fs, stat := g.stat ||| st } := by
  induction l with
  | nil => intro g; exact ⟨g.fibres, 0, by simp [runFibres]⟩
  | cons i l ih =>
    intro g
    unfold runFibres
    split
    · rename_i f fl _
      obtain ⟨fs, st, h⟩ := ih ((g.setFibre i f).flags fl)
      exact ⟨fs, fl ||| st, by rw [h]; simp [Gang.setFibre, Gang.flags, BitVec.or_assoc]⟩
    · exact ih g

/-! ## Uniform instructions -/

/-- A uniform instruction that reads no poisoned register completes. -/
theorem uni_ok (s : State) (srcs : Cur → List (Nat × Nat)) (f : Cur → Gang → Gang) (c : Cur) (g : Gang)
    (hc : s.cur = some c) (hg : s.gang? c.gid = some g)
    (hp : ∀ r ∈ g.poisonS, ∀ e ∈ srcs c, ¬ (e.1 ≤ r ∧ r < e.1 + e.2)) :
    uni s srcs f = .next (advance c (s.modGang c.gid fun _ => f c g)) := by
  unfold uni
  rw [withCur_eq _ hc hg]
  have : g.poisonS.find? (fun r => (srcs c).any fun e => decide (e.1 ≤ r ∧ r < e.1 + e.2)) = none := by
    rw [List.find?_eq_none]
    intro r hr
    simp only [List.any_eq_true, decide_eq_true_eq, not_exists, not_and]
    intro e he h; exact fun h2 => hp r hr e he ⟨h, h2⟩
  simp only [this]
  rfl

end Sys2Proof.Machine
end

