-- ==== Sys2Proof/Laws/PerInstr.lean ====
section
/-! SUPPORT. The encoder and the decoder, instruction by instruction: a well-formed instruction is read back from its word. -/
namespace Sys2Proof.Laws

/-- A well-formed instruction with a word is what the decoder reads from that word. -/
def RoundTrip.Statement (i : Instr) : Prop :=
  ∀ n : Nat, i.wf = true → encode i = some n → n < 2 ^ 32 ∧ decodeWord n = some i

theorem decodeWord_of {n : Nat} {i : Instr} {o : Option Instr} (hs : shape n = o) (h : o = some i) (hw : i.wf = true) :
    decodeWord n = some i := by
  unfold decodeWord; rw [hs, h]; exact if_pos hw

/-- The digits of a number in mixed radix: the rest above a digit, and the digit. -/
theorem div_next {n lo k p x : Nat} (h : n / 2 ^ lo = p * 2 ^ k + x) (hx : x < 2 ^ k) : n / 2 ^ (lo + k) = p := by
  rw [Nat.pow_add, ← Nat.div_div_eq_div_mul, h, Nat.mul_comm, Nat.mul_add_div (Nat.two_pow_pos k), Nat.div_eq_of_lt hx, Nat.add_zero]
theorem fld_digit {n lo k p x : Nat} (h : n / 2 ^ lo = p * 2 ^ k + x) (hx : x < 2 ^ k) : fld n lo k = x := by
  rw [fld, h, Nat.mul_comm, Nat.mul_add_mod, Nat.mod_eq_of_lt hx]
theorem bfld_digit {n lo k p : Nat} {x : BitVec k} (h : n / 2 ^ lo = p * 2 ^ k + x.toNat) : bfld n lo k = x := by
  apply BitVec.eq_of_toNat_eq
  rw [bfld, BitVec.toNat_ofNat]; exact fld_digit h x.isLt
theorem fld_join {n lo a b u v : Nat} (h : fld n lo a = u) (h' : fld n (lo + a) b = v) : fld n lo (a + b) = v * 2 ^ a + u := by
  rw [← h, ← h']
  unfold fld
  rw [Nat.pow_add, Nat.pow_add, Nat.mod_mul, ← Nat.div_div_eq_div_mul, Nat.mul_comm, Nat.add_comm, Nat.mul_comm]
theorem digits_lt {n p : Nat} (h : n / 2 ^ 26 = p) (hp : p < 2 ^ 6) : n < 2 ^ 32 := by omega

theorem shape_01 {n : Nat} (h : fld n 26 6 = 0x01) : shape n = shape01 n := by unfold shape; rw [h]; rfl
theorem shape_02 {n : Nat} (h : fld n 26 6 = 0x02) : shape n = shape02 n := by unfold shape; rw [h]; rfl
theorem shape_03 {n : Nat} (h : fld n 26 6 = 0x03) : shape n = shape03 n := by unfold shape; rw [h]; rfl
theorem shape_04 {n : Nat} (h : fld n 26 6 = 0x04) : shape n = shape04 n := by unfold shape; rw [h]; rfl
theorem shape_05 {n : Nat} (h : fld n 26 6 = 0x05) : shape n = shape05 n := by unfold shape; rw [h]; rfl
theorem shape_06 {n : Nat} (h : fld n 26 6 = 0x06) : shape n = shape06 n := by unfold shape; rw [h]; rfl
theorem shape_07 {n : Nat} (h : fld n 26 6 = 0x07) : shape n = shape07 n := by unfold shape; rw [h]; rfl
theorem shape_08 {n : Nat} (h : fld n 26 6 = 0x08) : shape n = shape08 n := by unfold shape; rw [h]; rfl
theorem shape_09 {n : Nat} (h : fld n 26 6 = 0x09) : shape n = shape09 n := by unfold shape; rw [h]; rfl
theorem shape_0A {n : Nat} (h : fld n 26 6 = 0x0A) : shape n = shape0A n := by unfold shape; rw [h]; rfl
theorem shape_0B {n : Nat} (h : fld n 26 6 = 0x0B) : shape n = shape0B n := by unfold shape; rw [h]; rfl
theorem shape_0C {n : Nat} (h : fld n 26 6 = 0x0C) : shape n = shape0C n := by unfold shape; rw [h]; rfl
theorem shape_0D {n : Nat} (h : fld n 26 6 = 0x0D) : shape n = shape0D n := by unfold shape; rw [h]; rfl
theorem shape_0E {n : Nat} (h : fld n 26 6 = 0x0E) : shape n = shape0E n := by unfold shape; rw [h]; rfl
theorem shape_0F {n : Nat} (h : fld n 26 6 = 0x0F) : shape n = shape0F n := by unfold shape; rw [h]; rfl
theorem shape_10 {n : Nat} (h : fld n 26 6 = 0x10) : shape n = shape10 n := by unfold shape; rw [h]; rfl
theorem shape_11 {n : Nat} (h : fld n 26 6 = 0x11) : shape n = shape11 n := by unfold shape; rw [h]; rfl
theorem shape_12 {n : Nat} (h : fld n 26 6 = 0x12) : shape n = shape12 n := by unfold shape; rw [h]; rfl
theorem shape_13 {n : Nat} (h : fld n 26 6 = 0x13) : shape n = shape13 n := by unfold shape; rw [h]; rfl
theorem shape_14 {n : Nat} (h : fld n 26 6 = 0x14) : shape n = shape14 n := by unfold shape; rw [h]; rfl
theorem shape_15 {n : Nat} (h : fld n 26 6 = 0x15) : shape n = shape15 n := by unfold shape; rw [h]; rfl
theorem shape_16 {n : Nat} (h : fld n 26 6 = 0x16) : shape n = shape16 n := by unfold shape; rw [h]; rfl
theorem shape_17 {n : Nat} (h : fld n 26 6 = 0x17) : shape n = shape17 n := by unfold shape; rw [h]; rfl
theorem shape_18 {n : Nat} (h : fld n 26 6 = 0x18) : shape n = shape18 n := by unfold shape; rw [h]; rfl
theorem shape_19 {n : Nat} (h : fld n 26 6 = 0x19) : shape n = shape19 n := by unfold shape; rw [h]; rfl
theorem shape_1A {n : Nat} (h : fld n 26 6 = 0x1A) : shape n = shape1A n := by unfold shape; rw [h]; rfl
theorem shape_1B {n : Nat} (h : fld n 26 6 = 0x1B) : shape n = shape1B n := by unfold shape; rw [h]; rfl
theorem shape_1C {n : Nat} (h : fld n 26 6 = 0x1C) : shape n = shape1C n := by unfold shape; rw [h]; rfl
theorem shape_1D {n : Nat} (h : fld n 26 6 = 0x1D) : shape n = shape1D n := by unfold shape; rw [h]; rfl
theorem shape_1E {n : Nat} (h : fld n 26 6 = 0x1E) : shape n = shape1E n := by unfold shape; rw [h]; rfl
theorem shape_1F {n : Nat} (h : fld n 26 6 = 0x1F) : shape n = shape1F n := by unfold shape; rw [h]; rfl
theorem shape_20 {n : Nat} (h : fld n 26 6 = 0x20) : shape n = shape20 n := by unfold shape; rw [h]; rfl
theorem shape_21 {n : Nat} (h : fld n 26 6 = 0x21) : shape n = shape21 n := by unfold shape; rw [h]; rfl
theorem shape_22 {n : Nat} (h : fld n 26 6 = 0x22) : shape n = shape22 n := by unfold shape; rw [h]; rfl
theorem shape_23 {n : Nat} (h : fld n 26 6 = 0x23) : shape n = shape23 n := by unfold shape; rw [h]; rfl
theorem shape_24 {n : Nat} (h : fld n 26 6 = 0x24) : shape n = shape24 n := by unfold shape; rw [h]; rfl
theorem shape_25 {n : Nat} (h : fld n 26 6 = 0x25) : shape n = shape25 n := by unfold shape; rw [h]; rfl
theorem shape_26 {n : Nat} (h : fld n 26 6 = 0x26) : shape n = shape26 n := by unfold shape; rw [h]; rfl
theorem shape_27 {n : Nat} (h : fld n 26 6 = 0x27) : shape n = shape27 n := by unfold shape; rw [h]; rfl
theorem shape_28 {n : Nat} (h : fld n 26 6 = 0x28) : shape n = shape28 n := by unfold shape; rw [h]; rfl
theorem shape_29 {n : Nat} (h : fld n 26 6 = 0x29) : shape n = shape29 n := by unfold shape; rw [h]; rfl
theorem shape_2A {n : Nat} (h : fld n 26 6 = 0x2A) : shape n = shape2A n := by unfold shape; rw [h]; rfl
theorem shape_2B {n : Nat} (h : fld n 26 6 = 0x2B) : shape n = shape2B n := by unfold shape; rw [h]; rfl
theorem shape_2C {n : Nat} (h : fld n 26 6 = 0x2C) : shape n = shape2C n := by unfold shape; rw [h]; rfl
theorem shape_2D {n : Nat} (h : fld n 26 6 = 0x2D) : shape n = shape2D n := by unfold shape; rw [h]; rfl
theorem shape_2E {n : Nat} (h : fld n 26 6 = 0x2E) : shape n = shape2E n := by unfold shape; rw [h]; rfl
theorem shape_2F {n : Nat} (h : fld n 26 6 = 0x2F) : shape n = shape2F n := by unfold shape; rw [h]; rfl
theorem shape_30 {n : Nat} (h : fld n 26 6 = 0x30) : shape n = shape30 n := by unfold shape; rw [h]; rfl
theorem shape_31 {n : Nat} (h : fld n 26 6 = 0x31) : shape n = shape31 n := by unfold shape; rw [h]; rfl
theorem shape_32 {n : Nat} (h : fld n 26 6 = 0x32) : shape n = shape32 n := by unfold shape; rw [h]; rfl
theorem shape_33 {n : Nat} (h : fld n 26 6 = 0x33) : shape n = shape33 n := by unfold shape; rw [h]; rfl
theorem shape_34 {n : Nat} (h : fld n 26 6 = 0x34) : shape n = shape34 n := by unfold shape; rw [h]; rfl
theorem shape_35 {n : Nat} (h : fld n 26 6 = 0x35) : shape n = shape35 n := by unfold shape; rw [h]; rfl
theorem shape_36 {n : Nat} (h : fld n 26 6 = 0x36) : shape n = shape36 n := by unfold shape; rw [h]; rfl
theorem shape_37 {n : Nat} (h : fld n 26 6 = 0x37) : shape n = shape37 n := by unfold shape; rw [h]; rfl
theorem shape_38 {n : Nat} (h : fld n 26 6 = 0x38) : shape n = shape38 n := by unfold shape; rw [h]; rfl
theorem shape_39 {n : Nat} (h : fld n 26 6 = 0x39) : shape n = shape39 n := by unfold shape; rw [h]; rfl
theorem shape_3A {n : Nat} (h : fld n 26 6 = 0x3A) : shape n = shape3A n := by unfold shape; rw [h]; rfl
theorem shape_3B {n : Nat} (h : fld n 26 6 = 0x3B) : shape n = shape3B n := by unfold shape; rw [h]; rfl
theorem shape_3C {n : Nat} (h : fld n 26 6 = 0x3C) : shape n = shape3C n := by unfold shape; rw [h]; rfl
theorem shape_3F {n : Nat} (h : fld n 26 6 = 0x3F) : shape n = shape3F n := by unfold shape; rw [h]; rfl

/-- Its word and back. -/
theorem RoundTrip.nop : RoundTrip.Statement .nop := by
  intro n hw hn
  have e0 : n / 2 ^ 0 = 1 * 2 ^ 26 + 0 := by
    have hn := Option.some.inj hn
    rw [Nat.pow_zero, Nat.div_one]; omega
  have e26 := div_next e0 (by decide)
  have k0_26 : fld n 0 26 = 0 := fld_digit e0 (by decide)
  refine ⟨digits_lt e26 (by decide), decodeWord_of (shape_01 (fld_digit (p := 0) (e26.trans (by decide)) (by decide))) ?_ hw⟩
  unfold shape01
  rw [if_pos k0_26]

/-- Its word and back. -/
theorem RoundTrip.exit : RoundTrip.Statement .exit := by
  intro n hw hn
  have e0 : n / 2 ^ 0 = 1 * 2 ^ 26 + 4194304 := by
    have hn := Option.some.inj hn
    rw [Nat.pow_zero, Nat.div_one]; omega
  have e26 := div_next e0 (by decide)
  have k0_26 : fld n 0 26 = 4194304 := fld_digit e0 (by decide)
  refine ⟨digits_lt e26 (by decide), decodeWord_of (shape_01 (fld_digit (p := 0) (e26.trans (by decide)) (by decide))) ?_ hw⟩
  unfold shape01
  rw [if_neg (fun h => absurd (k0_26.symm.trans h) (by decide))]
  rw [if_pos k0_26]

/-- Its word and back. -/
theorem RoundTrip.yield : RoundTrip.Statement .yield := by
  intro n hw hn
  have e0 : n / 2 ^ 0 = 1 * 2 ^ 26 + 8388608 := by
    have hn := Option.some.inj hn
    rw [Nat.pow_zero, Nat.div_one]; omega
  have e26 := div_next e0 (by decide)
  have k0_26 : fld n 0 26 = 8388608 := fld_digit e0 (by decide)
  refine ⟨digits_lt e26 (by decide), decodeWord_of (shape_01 (fld_digit (p := 0) (e26.trans (by decide)) (by decide))) ?_ hw⟩
  unfold shape01
  rw [if_neg (fun h => absurd (k0_26.symm.trans h) (by decide)), if_neg (fun h => absurd (k0_26.symm.trans h) (by decide))]
  rw [if_pos k0_26]

/-- Its word and back. -/
theorem RoundTrip.tret (x0 : BitVec 2) : RoundTrip.Statement (.tret x0) := by
  intro n hw hn
  have e0 : n / 2 ^ 0 = (1 * 2 ^ 24 + 6291456) * 2 ^ 2 + x0.toNat := by
    have hn := Option.some.inj hn
    rw [Nat.pow_zero, Nat.div_one]; omega
  have e2 := div_next e0 x0.isLt
  have e26 := div_next e2 (by decide)
  have k2_24 : fld n 2 24 = 6291456 := fld_digit e2 (by decide)
  have hx0 := x0.isLt
  have hn := Option.some.inj hn
  refine ⟨digits_lt e26 (by decide), decodeWord_of (shape_01 (fld_digit (p := 0) (e26.trans (by decide)) (by decide))) ?_ hw⟩
  unfold shape01
  rw [if_neg (by unfold fld; omega), if_neg (by unfold fld; omega), if_neg (by unfold fld; omega)]
  rw [if_pos k2_24]
  rw [show bfld n 0 2 = x0 from bfld_digit e0]

/-- Its word and back. -/
theorem RoundTrip.waitb (x0 : BitVec 3) : RoundTrip.Statement (.waitb x0) := by
  intro n hw hn
  have e0 : n / 2 ^ 0 = (1 * 2 ^ 23 + 1572864) * 2 ^ 3 + x0.toNat := by
    have hn := Option.some.inj hn
    rw [Nat.pow_zero, Nat.div_one]; omega
  have e3 := div_next e0 x0.isLt
  have e26 := div_next e3 (by decide)
  have k3_23 : fld n 3 23 = 1572864 := fld_digit e3 (by decide)
  have hx0 := x0.isLt
  have hn := Option.some.inj hn
  refine ⟨digits_lt e26 (by decide), decodeWord_of (shape_01 (fld_digit (p := 0) (e26.trans (by decide)) (by decide))) ?_ hw⟩
  unfold shape01
  rw [if_neg (by unfold fld; omega), if_neg (by unfold fld; omega), if_neg (by unfold fld; omega), if_neg (by unfold fld; omega)]
  rw [if_pos k3_23]
  rw [show bfld n 0 3 = x0 from bfld_digit e0]

/-- Its word and back. -/
theorem RoundTrip.bkpt (x0 : BitVec 16) : RoundTrip.Statement (.bkpt x0) := by
  intro n hw hn
  have e0 : n / 2 ^ 0 = (1 * 2 ^ 10 + 256) * 2 ^ 16 + x0.toNat := by
    have hn := Option.some.inj hn
    rw [Nat.pow_zero, Nat.div_one]; omega
  have e16 := div_next e0 x0.isLt
  have e26 := div_next e16 (by decide)
  have k16_10 : fld n 16 10 = 256 := fld_digit e16 (by decide)
  have hx0 := x0.isLt
  have hn := Option.some.inj hn
  refine ⟨digits_lt e26 (by decide), decodeWord_of (shape_01 (fld_digit (p := 0) (e26.trans (by decide)) (by decide))) ?_ hw⟩
  unfold shape01
  rw [if_neg (by unfold fld; omega), if_neg (by unfold fld; omega), if_neg (by unfold fld; omega), if_neg (by unfold fld; omega), if_neg (by unfold fld; omega)]
  rw [if_pos k16_10]
  rw [show bfld n 0 16 = x0 from bfld_digit e0]

/-- Its word and back. -/
theorem RoundTrip.trap (x0 : BitVec 16) : RoundTrip.Statement (.trap x0) := by
  intro n hw hn
  have e0 : n / 2 ^ 0 = (1 * 2 ^ 10 + 320) * 2 ^ 16 + x0.toNat := by
    have hn := Option.some.inj hn
    rw [Nat.pow_zero, Nat.div_one]; omega
  have e16 := div_next e0 x0.isLt
  have e26 := div_next e16 (by decide)
  have k16_10 : fld n 16 10 = 320 := fld_digit e16 (by decide)
  have hx0 := x0.isLt
  have hn := Option.some.inj hn
  refine ⟨digits_lt e26 (by decide), decodeWord_of (shape_01 (fld_digit (p := 0) (e26.trans (by decide)) (by decide))) ?_ hw⟩
  unfold shape01
  rw [if_neg (by unfold fld; omega), if_neg (by unfold fld; omega), if_neg (by unfold fld; omega), if_neg (by unfold fld; omega), if_neg (by unfold fld; omega), if_neg (fun h => absurd (k16_10.symm.trans h) (by decide))]
  rw [if_pos k16_10]
  rw [show bfld n 0 16 = x0 from bfld_digit e0]

/-- Its word and back. -/
theorem RoundTrip.iadd (x0 : BitVec 4) (x1 : BitVec 6) (x2 : BitVec 6) (x3 : BitVec 6) : RoundTrip.Statement (.iadd x0 x1 x2 x3) := by
  intro n hw hn
  have e0 : n / 2 ^ 0 = ((((2 * 2 ^ 4 + x0.toNat) * 2 ^ 6 + x1.toNat) * 2 ^ 6 + x2.toNat) * 2 ^ 6 + x3.toNat) * 2 ^ 4 + 0 := by
    have hn := Option.some.inj hn
    rw [Nat.pow_zero, Nat.div_one]; omega
  have e4 := div_next e0 (by decide)
  have e10 := div_next e4 x3.isLt
  have e16 := div_next e10 x2.isLt
  have e22 := div_next e16 x1.isLt
  have e26 := div_next e22 x0.isLt
  have k0_4 : fld n 0 4 = 0 := fld_digit e0 (by decide)
  refine ⟨digits_lt e26 (by decide), decodeWord_of (shape_02 (fld_digit (p := 0) (e26.trans (by decide)) (by decide))) ?_ hw⟩
  unfold shape02
  rw [if_pos k0_4]
  rw [show bfld n 22 4 = x0 from bfld_digit e22]
  rw [show bfld n 16 6 = x1 from bfld_digit e16]
  rw [show bfld n 10 6 = x2 from bfld_digit e10]
  rw [show bfld n 4 6 = x3 from bfld_digit e4]

/-- Its word and back. -/
theorem RoundTrip.isub (x0 : BitVec 4) (x1 : BitVec 6) (x2 : BitVec 6) (x3 : BitVec 6) : RoundTrip.Statement (.isub x0 x1 x2 x3) := by
  intro n hw hn
  have e0 : n / 2 ^ 0 = ((((2 * 2 ^ 4 + x0.toNat) * 2 ^ 6 + x1.toNat) * 2 ^ 6 + x2.toNat) * 2 ^ 6 + x3.toNat) * 2 ^ 4 + 1 := by
    have hn := Option.some.inj hn
    rw [Nat.pow_zero, Nat.div_one]; omega
  have e4 := div_next e0 (by decide)
  have e10 := div_next e4 x3.isLt
  have e16 := div_next e10 x2.isLt
  have e22 := div_next e16 x1.isLt
  have e26 := div_next e22 x0.isLt
  have k0_4 : fld n 0 4 = 1 := fld_digit e0 (by decide)
  refine ⟨digits_lt e26 (by decide), decodeWord_of (shape_02 (fld_digit (p := 0) (e26.trans (by decide)) (by decide))) ?_ hw⟩
  unfold shape02
  rw [if_neg (fun h => absurd (k0_4.symm.trans h) (by decide))]
  rw [if_pos k0_4]
  rw [show bfld n 22 4 = x0 from bfld_digit e22]
  rw [show bfld n 16 6 = x1 from bfld_digit e16]
  rw [show bfld n 10 6 = x2 from bfld_digit e10]
  rw [show bfld n 4 6 = x3 from bfld_digit e4]

/-- Its word and back. -/
theorem RoundTrip.imul (x0 : BitVec 4) (x1 : BitVec 6) (x2 : BitVec 6) (x3 : BitVec 6) : RoundTrip.Statement (.imul x0 x1 x2 x3) := by
  intro n hw hn
  have e0 : n / 2 ^ 0 = ((((2 * 2 ^ 4 + x0.toNat) * 2 ^ 6 + x1.toNat) * 2 ^ 6 + x2.toNat) * 2 ^ 6 + x3.toNat) * 2 ^ 4 + 2 := by
    have hn := Option.some.inj hn
    rw [Nat.pow_zero, Nat.div_one]; omega
  have e4 := div_next e0 (by decide)
  have e10 := div_next e4 x3.isLt
  have e16 := div_next e10 x2.isLt
  have e22 := div_next e16 x1.isLt
  have e26 := div_next e22 x0.isLt
  have k0_4 : fld n 0 4 = 2 := fld_digit e0 (by decide)
  refine ⟨digits_lt e26 (by decide), decodeWord_of (shape_02 (fld_digit (p := 0) (e26.trans (by decide)) (by decide))) ?_ hw⟩
  unfold shape02
  rw [if_neg (fun h => absurd (k0_4.symm.trans h) (by decide)), if_neg (fun h => absurd (k0_4.symm.trans h) (by decide))]
  rw [if_pos k0_4]
  rw [show bfld n 22 4 = x0 from bfld_digit e22]
  rw [show bfld n 16 6 = x1 from bfld_digit e16]
  rw [show bfld n 10 6 = x2 from bfld_digit e10]
  rw [show bfld n 4 6 = x3 from bfld_digit e4]

/-- Its word and back. -/
theorem RoundTrip.imulhS (x0 : BitVec 4) (x1 : BitVec 6) (x2 : BitVec 6) (x3 : BitVec 6) : RoundTrip.Statement (.imulhS x0 x1 x2 x3) := by
  intro n hw hn
  have e0 : n / 2 ^ 0 = ((((2 * 2 ^ 4 + x0.toNat) * 2 ^ 6 + x1.toNat) * 2 ^ 6 + x2.toNat) * 2 ^ 6 + x3.toNat) * 2 ^ 4 + 3 := by
    have hn := Option.some.inj hn
    rw [Nat.pow_zero, Nat.div_one]; omega
  have e4 := div_next e0 (by decide)
  have e10 := div_next e4 x3.isLt
  have e16 := div_next e10 x2.isLt
  have e22 := div_next e16 x1.isLt
  have e26 := div_next e22 x0.isLt
  have k0_4 : fld n 0 4 = 3 := fld_digit e0 (by decide)
  refine ⟨digits_lt e26 (by decide), decodeWord_of (shape_02 (fld_digit (p := 0) (e26.trans (by decide)) (by decide))) ?_ hw⟩
  unfold shape02
  rw [if_neg (fun h => absurd (k0_4.symm.trans h) (by decide)), if_neg (fun h => absurd (k0_4.symm.trans h) (by decide)), if_neg (fun h => absurd (k0_4.symm.trans h) (by decide))]
  rw [if_pos k0_4]
  rw [show bfld n 22 4 = x0 from bfld_digit e22]
  rw [show bfld n 16 6 = x1 from bfld_digit e16]
  rw [show bfld n 10 6 = x2 from bfld_digit e10]
  rw [show bfld n 4 6 = x3 from bfld_digit e4]

/-- Its word and back. -/
theorem RoundTrip.imulhN (x0 : BitVec 4) (x1 : BitVec 6) (x2 : BitVec 6) (x3 : BitVec 6) : RoundTrip.Statement (.imulhN x0 x1 x2 x3) := by
  intro n hw hn
  have e0 : n / 2 ^ 0 = ((((2 * 2 ^ 4 + x0.toNat) * 2 ^ 6 + x1.toNat) * 2 ^ 6 + x2.toNat) * 2 ^ 6 + x3.toNat) * 2 ^ 4 + 4 := by
    have hn := Option.some.inj hn
    rw [Nat.pow_zero, Nat.div_one]; omega
  have e4 := div_next e0 (by decide)
  have e10 := div_next e4 x3.isLt
  have e16 := div_next e10 x2.isLt
  have e22 := div_next e16 x1.isLt
  have e26 := div_next e22 x0.isLt
  have k0_4 : fld n 0 4 = 4 := fld_digit e0 (by decide)
  refine ⟨digits_lt e26 (by decide), decodeWord_of (shape_02 (fld_digit (p := 0) (e26.trans (by decide)) (by decide))) ?_ hw⟩
  unfold shape02
  rw [if_neg (fun h => absurd (k0_4.symm.trans h) (by decide)), if_neg (fun h => absurd (k0_4.symm.trans h) (by decide)), if_neg (fun h => absurd (k0_4.symm.trans h) (by decide)), if_neg (fun h => absurd (k0_4.symm.trans h) (by decide))]
  rw [if_pos k0_4]
  rw [show bfld n 22 4 = x0 from bfld_digit e22]
  rw [show bfld n 16 6 = x1 from bfld_digit e16]
  rw [show bfld n 10 6 = x2 from bfld_digit e10]
  rw [show bfld n 4 6 = x3 from bfld_digit e4]

/-- Its word and back. -/
theorem RoundTrip.iand (x0 : BitVec 4) (x1 : BitVec 6) (x2 : BitVec 6) (x3 : BitVec 6) : RoundTrip.Statement (.iand x0 x1 x2 x3) := by
  intro n hw hn
  have e0 : n / 2 ^ 0 = ((((2 * 2 ^ 4 + x0.toNat) * 2 ^ 6 + x1.toNat) * 2 ^ 6 + x2.toNat) * 2 ^ 6 + x3.toNat) * 2 ^ 4 + 5 := by
    have hn := Option.some.inj hn
    rw [Nat.pow_zero, Nat.div_one]; omega
  have e4 := div_next e0 (by decide)
  have e10 := div_next e4 x3.isLt
  have e16 := div_next e10 x2.isLt
  have e22 := div_next e16 x1.isLt
  have e26 := div_next e22 x0.isLt
  have k0_4 : fld n 0 4 = 5 := fld_digit e0 (by decide)
  refine ⟨digits_lt e26 (by decide), decodeWord_of (shape_02 (fld_digit (p := 0) (e26.trans (by decide)) (by decide))) ?_ hw⟩
  unfold shape02
  rw [if_neg (fun h => absurd (k0_4.symm.trans h) (by decide)), if_neg (fun h => absurd (k0_4.symm.trans h) (by decide)), if_neg (fun h => absurd (k0_4.symm.trans h) (by decide)), if_neg (fun h => absurd (k0_4.symm.trans h) (by decide)), if_neg (fun h => absurd (k0_4.symm.trans h) (by decide))]
  rw [if_pos k0_4]
  rw [show bfld n 22 4 = x0 from bfld_digit e22]
  rw [show bfld n 16 6 = x1 from bfld_digit e16]
  rw [show bfld n 10 6 = x2 from bfld_digit e10]
  rw [show bfld n 4 6 = x3 from bfld_digit e4]

/-- Its word and back. -/
theorem RoundTrip.ior (x0 : BitVec 4) (x1 : BitVec 6) (x2 : BitVec 6) (x3 : BitVec 6) : RoundTrip.Statement (.ior x0 x1 x2 x3) := by
  intro n hw hn
  have e0 : n / 2 ^ 0 = ((((2 * 2 ^ 4 + x0.toNat) * 2 ^ 6 + x1.toNat) * 2 ^ 6 + x2.toNat) * 2 ^ 6 + x3.toNat) * 2 ^ 4 + 6 := by
    have hn := Option.some.inj hn
    rw [Nat.pow_zero, Nat.div_one]; omega
  have e4 := div_next e0 (by decide)
  have e10 := div_next e4 x3.isLt
  have e16 := div_next e10 x2.isLt
  have e22 := div_next e16 x1.isLt
  have e26 := div_next e22 x0.isLt
  have k0_4 : fld n 0 4 = 6 := fld_digit e0 (by decide)
  refine ⟨digits_lt e26 (by decide), decodeWord_of (shape_02 (fld_digit (p := 0) (e26.trans (by decide)) (by decide))) ?_ hw⟩
  unfold shape02
  rw [if_neg (fun h => absurd (k0_4.symm.trans h) (by decide)), if_neg (fun h => absurd (k0_4.symm.trans h) (by decide)), if_neg (fun h => absurd (k0_4.symm.trans h) (by decide)), if_neg (fun h => absurd (k0_4.symm.trans h) (by decide)), if_neg (fun h => absurd (k0_4.symm.trans h) (by decide)), if_neg (fun h => absurd (k0_4.symm.trans h) (by decide))]
  rw [if_pos k0_4]
  rw [show bfld n 22 4 = x0 from bfld_digit e22]
  rw [show bfld n 16 6 = x1 from bfld_digit e16]
  rw [show bfld n 10 6 = x2 from bfld_digit e10]
  rw [show bfld n 4 6 = x3 from bfld_digit e4]

/-- Its word and back. -/
theorem RoundTrip.ixor (x0 : BitVec 4) (x1 : BitVec 6) (x2 : BitVec 6) (x3 : BitVec 6) : RoundTrip.Statement (.ixor x0 x1 x2 x3) := by
  intro n hw hn
  have e0 : n / 2 ^ 0 = ((((2 * 2 ^ 4 + x0.toNat) * 2 ^ 6 + x1.toNat) * 2 ^ 6 + x2.toNat) * 2 ^ 6 + x3.toNat) * 2 ^ 4 + 7 := by
    have hn := Option.some.inj hn
    rw [Nat.pow_zero, Nat.div_one]; omega
  have e4 := div_next e0 (by decide)
  have e10 := div_next e4 x3.isLt
  have e16 := div_next e10 x2.isLt
  have e22 := div_next e16 x1.isLt
  have e26 := div_next e22 x0.isLt
  have k0_4 : fld n 0 4 = 7 := fld_digit e0 (by decide)
  refine ⟨digits_lt e26 (by decide), decodeWord_of (shape_02 (fld_digit (p := 0) (e26.trans (by decide)) (by decide))) ?_ hw⟩
  unfold shape02
  rw [if_neg (fun h => absurd (k0_4.symm.trans h) (by decide)), if_neg (fun h => absurd (k0_4.symm.trans h) (by decide)), if_neg (fun h => absurd (k0_4.symm.trans h) (by decide)), if_neg (fun h => absurd (k0_4.symm.trans h) (by decide)), if_neg (fun h => absurd (k0_4.symm.trans h) (by decide)), if_neg (fun h => absurd (k0_4.symm.trans h) (by decide)), if_neg (fun h => absurd (k0_4.symm.trans h) (by decide))]
  rw [if_pos k0_4]
  rw [show bfld n 22 4 = x0 from bfld_digit e22]
  rw [show bfld n 16 6 = x1 from bfld_digit e16]
  rw [show bfld n 10 6 = x2 from bfld_digit e10]
  rw [show bfld n 4 6 = x3 from bfld_digit e4]

/-- Its word and back. -/
theorem RoundTrip.iandn (x0 : BitVec 4) (x1 : BitVec 6) (x2 : BitVec 6) (x3 : BitVec 6) : RoundTrip.Statement (.iandn x0 x1 x2 x3) := by
  intro n hw hn
  have e0 : n / 2 ^ 0 = ((((2 * 2 ^ 4 + x0.toNat) * 2 ^ 6 + x1.toNat) * 2 ^ 6 + x2.toNat) * 2 ^ 6 + x3.toNat) * 2 ^ 4 + 8 := by
    have hn := Option.some.inj hn
    rw [Nat.pow_zero, Nat.div_one]; omega
  have e4 := div_next e0 (by decide)
  have e10 := div_next e4 x3.isLt
  have e16 := div_next e10 x2.isLt
  have e22 := div_next e16 x1.isLt
  have e26 := div_next e22 x0.isLt
  have k0_4 : fld n 0 4 = 8 := fld_digit e0 (by decide)
  refine ⟨digits_lt e26 (by decide), decodeWord_of (shape_02 (fld_digit (p := 0) (e26.trans (by decide)) (by decide))) ?_ hw⟩
  unfold shape02
  rw [if_neg (fun h => absurd (k0_4.symm.trans h) (by decide)), if_neg (fun h => absurd (k0_4.symm.trans h) (by decide)), if_neg (fun h => absurd (k0_4.symm.trans h) (by decide)), if_neg (fun h => absurd (k0_4.symm.trans h) (by decide)), if_neg (fun h => absurd (k0_4.symm.trans h) (by decide)), if_neg (fun h => absurd (k0_4.symm.trans h) (by decide)), if_neg (fun h => absurd (k0_4.symm.trans h) (by decide)), if_neg (fun h => absurd (k0_4.symm.trans h) (by decide))]
  rw [if_pos k0_4]
  rw [show bfld n 22 4 = x0 from bfld_digit e22]
  rw [show bfld n 16 6 = x1 from bfld_digit e16]
  rw [show bfld n 10 6 = x2 from bfld_digit e10]
  rw [show bfld n 4 6 = x3 from bfld_digit e4]

/-- Its word and back. -/
theorem RoundTrip.shl (x0 : BitVec 4) (x1 : BitVec 6) (x2 : BitVec 6) (x3 : BitVec 6) : RoundTrip.Statement (.shl x0 x1 x2 x3) := by
  intro n hw hn
  have e0 : n / 2 ^ 0 = ((((2 * 2 ^ 4 + x0.toNat) * 2 ^ 6 + x1.toNat) * 2 ^ 6 + x2.toNat) * 2 ^ 6 + x3.toNat) * 2 ^ 4 + 9 := by
    have hn := Option.some.inj hn
    rw [Nat.pow_zero, Nat.div_one]; omega
  have e4 := div_next e0 (by decide)
  have e10 := div_next e4 x3.isLt
  have e16 := div_next e10 x2.isLt
  have e22 := div_next e16 x1.isLt
  have e26 := div_next e22 x0.isLt
  have k0_4 : fld n 0 4 = 9 := fld_digit e0 (by decide)
  refine ⟨digits_lt e26 (by decide), decodeWord_of (shape_02 (fld_digit (p := 0) (e26.trans (by decide)) (by decide))) ?_ hw⟩
  unfold shape02
  rw [if_neg (fun h => absurd (k0_4.symm.trans h) (by decide)), if_neg (fun h => absurd (k0_4.symm.trans h) (by decide)), if_neg (fun h => absurd (k0_4.symm.trans h) (by decide)), if_neg (fun h => absurd (k0_4.symm.trans h) (by decide)), if_neg (fun h => absurd (k0_4.symm.trans h) (by decide)), if_neg (fun h => absurd (k0_4.symm.trans h) (by decide)), if_neg (fun h => absurd (k0_4.symm.trans h) (by decide)), if_neg (fun h => absurd (k0_4.symm.trans h) (by decide)), if_neg (fun h => absurd (k0_4.symm.trans h) (by decide))]
  rw [if_pos k0_4]
  rw [show bfld n 22 4 = x0 from bfld_digit e22]
  rw [show bfld n 16 6 = x1 from bfld_digit e16]
  rw [show bfld n 10 6 = x2 from bfld_digit e10]
  rw [show bfld n 4 6 = x3 from bfld_digit e4]

/-- Its word and back. -/
theorem RoundTrip.shr (x0 : BitVec 4) (x1 : BitVec 6) (x2 : BitVec 6) (x3 : BitVec 6) : RoundTrip.Statement (.shr x0 x1 x2 x3) := by
  intro n hw hn
  have e0 : n / 2 ^ 0 = ((((2 * 2 ^ 4 + x0.toNat) * 2 ^ 6 + x1.toNat) * 2 ^ 6 + x2.toNat) * 2 ^ 6 + x3.toNat) * 2 ^ 4 + 10 := by
    have hn := Option.some.inj hn
    rw [Nat.pow_zero, Nat.div_one]; omega
  have e4 := div_next e0 (by decide)
  have e10 := div_next e4 x3.isLt
  have e16 := div_next e10 x2.isLt
  have e22 := div_next e16 x1.isLt
  have e26 := div_next e22 x0.isLt
  have k0_4 : fld n 0 4 = 10 := fld_digit e0 (by decide)
  refine ⟨digits_lt e26 (by decide), decodeWord_of (shape_02 (fld_digit (p := 0) (e26.trans (by decide)) (by decide))) ?_ hw⟩
  unfold shape02
  rw [if_neg (fun h => absurd (k0_4.symm.trans h) (by decide)), if_neg (fun h => absurd (k0_4.symm.trans h) (by decide)), if_neg (fun h => absurd (k0_4.symm.trans h) (by decide)), if_neg (fun h => absurd (k0_4.symm.trans h) (by decide)), if_neg (fun h => absurd (k0_4.symm.trans h) (by decide)), if_neg (fun h => absurd (k0_4.symm.trans h) (by decide)), if_neg (fun h => absurd (k0_4.symm.trans h) (by decide)), if_neg (fun h => absurd (k0_4.symm.trans h) (by decide)), if_neg (fun h => absurd (k0_4.symm.trans h) (by decide)), if_neg (fun h => absurd (k0_4.symm.trans h) (by decide))]
  rw [if_pos k0_4]
  rw [show bfld n 22 4 = x0 from bfld_digit e22]
  rw [show bfld n 16 6 = x1 from bfld_digit e16]
  rw [show bfld n 10 6 = x2 from bfld_digit e10]
  rw [show bfld n 4 6 = x3 from bfld_digit e4]

/-- Its word and back. -/
theorem RoundTrip.sha (x0 : BitVec 4) (x1 : BitVec 6) (x2 : BitVec 6) (x3 : BitVec 6) : RoundTrip.Statement (.sha x0 x1 x2 x3) := by
  intro n hw hn
  have e0 : n / 2 ^ 0 = ((((2 * 2 ^ 4 + x0.toNat) * 2 ^ 6 + x1.toNat) * 2 ^ 6 + x2.toNat) * 2 ^ 6 + x3.toNat) * 2 ^ 4 + 11 := by
    have hn := Option.some.inj hn
    rw [Nat.pow_zero, Nat.div_one]; omega
  have e4 := div_next e0 (by decide)
  have e10 := div_next e4 x3.isLt
  have e16 := div_next e10 x2.isLt
  have e22 := div_next e16 x1.isLt
  have e26 := div_next e22 x0.isLt
  have k0_4 : fld n 0 4 = 11 := fld_digit e0 (by decide)
  refine ⟨digits_lt e26 (by decide), decodeWord_of (shape_02 (fld_digit (p := 0) (e26.trans (by decide)) (by decide))) ?_ hw⟩
  unfold shape02
  rw [if_neg (fun h => absurd (k0_4.symm.trans h) (by decide)), if_neg (fun h => absurd (k0_4.symm.trans h) (by decide)), if_neg (fun h => absurd (k0_4.symm.trans h) (by decide)), if_neg (fun h => absurd (k0_4.symm.trans h) (by decide)), if_neg (fun h => absurd (k0_4.symm.trans h) (by decide)), if_neg (fun h => absurd (k0_4.symm.trans h) (by decide)), if_neg (fun h => absurd (k0_4.symm.trans h) (by decide)), if_neg (fun h => absurd (k0_4.symm.trans h) (by decide)), if_neg (fun h => absurd (k0_4.symm.trans h) (by decide)), if_neg (fun h => absurd (k0_4.symm.trans h) (by decide)), if_neg (fun h => absurd (k0_4.symm.trans h) (by decide))]
  rw [if_pos k0_4]
  rw [show bfld n 22 4 = x0 from bfld_digit e22]
  rw [show bfld n 16 6 = x1 from bfld_digit e16]
  rw [show bfld n 10 6 = x2 from bfld_digit e10]
  rw [show bfld n 4 6 = x3 from bfld_digit e4]

/-- Its word and back. -/
theorem RoundTrip.iminS (x0 : BitVec 4) (x1 : BitVec 6) (x2 : BitVec 6) (x3 : BitVec 6) : RoundTrip.Statement (.iminS x0 x1 x2 x3) := by
  intro n hw hn
  have e0 : n / 2 ^ 0 = ((((2 * 2 ^ 4 + x0.toNat) * 2 ^ 6 + x1.toNat) * 2 ^ 6 + x2.toNat) * 2 ^ 6 + x3.toNat) * 2 ^ 4 + 12 := by
    have hn := Option.some.inj hn
    rw [Nat.pow_zero, Nat.div_one]; omega
  have e4 := div_next e0 (by decide)
  have e10 := div_next e4 x3.isLt
  have e16 := div_next e10 x2.isLt
  have e22 := div_next e16 x1.isLt
  have e26 := div_next e22 x0.isLt
  have k0_4 : fld n 0 4 = 12 := fld_digit e0 (by decide)
  refine ⟨digits_lt e26 (by decide), decodeWord_of (shape_02 (fld_digit (p := 0) (e26.trans (by decide)) (by decide))) ?_ hw⟩
  unfold shape02
  rw [if_neg (fun h => absurd (k0_4.symm.trans h) (by decide)), if_neg (fun h => absurd (k0_4.symm.trans h) (by decide)), if_neg (fun h => absurd (k0_4.symm.trans h) (by decide)), if_neg (fun h => absurd (k0_4.symm.trans h) (by decide)), if_neg (fun h => absurd (k0_4.symm.trans h) (by decide)), if_neg (fun h => absurd (k0_4.symm.trans h) (by decide)), if_neg (fun h => absurd (k0_4.symm.trans h) (by decide)), if_neg (fun h => absurd (k0_4.symm.trans h) (by decide)), if_neg (fun h => absurd (k0_4.symm.trans h) (by decide)), if_neg (fun h => absurd (k0_4.symm.trans h) (by decide)), if_neg (fun h => absurd (k0_4.symm.trans h) (by decide)), if_neg (fun h => absurd (k0_4.symm.trans h) (by decide))]
  rw [if_pos k0_4]
  rw [show bfld n 22 4 = x0 from bfld_digit e22]
  rw [show bfld n 16 6 = x1 from bfld_digit e16]
  rw [show bfld n 10 6 = x2 from bfld_digit e10]
  rw [show bfld n 4 6 = x3 from bfld_digit e4]

/-- Its word and back. -/
theorem RoundTrip.iminN (x0 : BitVec 4) (x1 : BitVec 6) (x2 : BitVec 6) (x3 : BitVec 6) : RoundTrip.Statement (.iminN x0 x1 x2 x3) := by
  intro n hw hn
  have e0 : n / 2 ^ 0 = ((((2 * 2 ^ 4 + x0.toNat) * 2 ^ 6 + x1.toNat) * 2 ^ 6 + x2.toNat) * 2 ^ 6 + x3.toNat) * 2 ^ 4 + 13 := by
    have hn := Option.some.inj hn
    rw [Nat.pow_zero, Nat.div_one]; omega
  have e4 := div_next e0 (by decide)
  have e10 := div_next e4 x3.isLt
  have e16 := div_next e10 x2.isLt
  have e22 := div_next e16 x1.isLt
  have e26 := div_next e22 x0.isLt
  have k0_4 : fld n 0 4 = 13 := fld_digit e0 (by decide)
  refine ⟨digits_lt e26 (by decide), decodeWord_of (shape_02 (fld_digit (p := 0) (e26.trans (by decide)) (by decide))) ?_ hw⟩
  unfold shape02
  rw [if_neg (fun h => absurd (k0_4.symm.trans h) (by decide)), if_neg (fun h => absurd (k0_4.symm.trans h) (by decide)), if_neg (fun h => absurd (k0_4.symm.trans h) (by decide)), if_neg (fun h => absurd (k0_4.symm.trans h) (by decide)), if_neg (fun h => absurd (k0_4.symm.trans h) (by decide)), if_neg (fun h => absurd (k0_4.symm.trans h) (by decide)), if_neg (fun h => absurd (k0_4.symm.trans h) (by decide)), if_neg (fun h => absurd (k0_4.symm.trans h) (by decide)), if_neg (fun h => absurd (k0_4.symm.trans h) (by decide)), if_neg (fun h => absurd (k0_4.symm.trans h) (by decide)), if_neg (fun h => absurd (k0_4.symm.trans h) (by decide)), if_neg (fun h => absurd (k0_4.symm.trans h) (by decide)), if_neg (fun h => absurd (k0_4.symm.trans h) (by decide))]
  rw [if_pos k0_4]
  rw [show bfld n 22 4 = x0 from bfld_digit e22]
  rw [show bfld n 16 6 = x1 from bfld_digit e16]
  rw [show bfld n 10 6 = x2 from bfld_digit e10]
  rw [show bfld n 4 6 = x3 from bfld_digit e4]

/-- Its word and back. -/
theorem RoundTrip.imaxS (x0 : BitVec 4) (x1 : BitVec 6) (x2 : BitVec 6) (x3 : BitVec 6) : RoundTrip.Statement (.imaxS x0 x1 x2 x3) := by
  intro n hw hn
  have e0 : n / 2 ^ 0 = ((((2 * 2 ^ 4 + x0.toNat) * 2 ^ 6 + x1.toNat) * 2 ^ 6 + x2.toNat) * 2 ^ 6 + x3.toNat) * 2 ^ 4 + 14 := by
    have hn := Option.some.inj hn
    rw [Nat.pow_zero, Nat.div_one]; omega
  have e4 := div_next e0 (by decide)
  have e10 := div_next e4 x3.isLt
  have e16 := div_next e10 x2.isLt
  have e22 := div_next e16 x1.isLt
  have e26 := div_next e22 x0.isLt
  have k0_4 : fld n 0 4 = 14 := fld_digit e0 (by decide)
  refine ⟨digits_lt e26 (by decide), decodeWord_of (shape_02 (fld_digit (p := 0) (e26.trans (by decide)) (by decide))) ?_ hw⟩
  unfold shape02
  rw [if_neg (fun h => absurd (k0_4.symm.trans h) (by decide)), if_neg (fun h => absurd (k0_4.symm.trans h) (by decide)), if_neg (fun h => absurd (k0_4.symm.trans h) (by decide)), if_neg (fun h => absurd (k0_4.symm.trans h) (by decide)), if_neg (fun h => absurd (k0_4.symm.trans h) (by decide)), if_neg (fun h => absurd (k0_4.symm.trans h) (by decide)), if_neg (fun h => absurd (k0_4.symm.trans h) (by decide)), if_neg (fun h => absurd (k0_4.symm.trans h) (by decide)), if_neg (fun h => absurd (k0_4.symm.trans h) (by decide)), if_neg (fun h => absurd (k0_4.symm.trans h) (by decide)), if_neg (fun h => absurd (k0_4.symm.trans h) (by decide)), if_neg (fun h => absurd (k0_4.symm.trans h) (by decide)), if_neg (fun h => absurd (k0_4.symm.trans h) (by decide)), if_neg (fun h => absurd (k0_4.symm.trans h) (by decide))]
  rw [if_pos k0_4]
  rw [show bfld n 22 4 = x0 from bfld_digit e22]
  rw [show bfld n 16 6 = x1 from bfld_digit e16]
  rw [show bfld n 10 6 = x2 from bfld_digit e10]
  rw [show bfld n 4 6 = x3 from bfld_digit e4]

/-- Its word and back. -/
theorem RoundTrip.imaxN (x0 : BitVec 4) (x1 : BitVec 6) (x2 : BitVec 6) (x3 : BitVec 6) : RoundTrip.Statement (.imaxN x0 x1 x2 x3) := by
  intro n hw hn
  have e0 : n / 2 ^ 0 = ((((2 * 2 ^ 4 + x0.toNat) * 2 ^ 6 + x1.toNat) * 2 ^ 6 + x2.toNat) * 2 ^ 6 + x3.toNat) * 2 ^ 4 + 15 := by
    have hn := Option.some.inj hn
    rw [Nat.pow_zero, Nat.div_one]; omega
  have e4 := div_next e0 (by decide)
  have e10 := div_next e4 x3.isLt
  have e16 := div_next e10 x2.isLt
  have e22 := div_next e16 x1.isLt
  have e26 := div_next e22 x0.isLt
  have k0_4 : fld n 0 4 = 15 := fld_digit e0 (by decide)
  refine ⟨digits_lt e26 (by decide), decodeWord_of (shape_02 (fld_digit (p := 0) (e26.trans (by decide)) (by decide))) ?_ hw⟩
  unfold shape02
  rw [if_neg (fun h => absurd (k0_4.symm.trans h) (by decide)), if_neg (fun h => absurd (k0_4.symm.trans h) (by decide)), if_neg (fun h => absurd (k0_4.symm.trans h) (by decide)), if_neg (fun h => absurd (k0_4.symm.trans h) (by decide)), if_neg (fun h => absurd (k0_4.symm.trans h) (by decide)), if_neg (fun h => absurd (k0_4.symm.trans h) (by decide)), if_neg (fun h => absurd (k0_4.symm.trans h) (by decide)), if_neg (fun h => absurd (k0_4.symm.trans h) (by decide)), if_neg (fun h => absurd (k0_4.symm.trans h) (by decide)), if_neg (fun h => absurd (k0_4.symm.trans h) (by decide)), if_neg (fun h => absurd (k0_4.symm.trans h) (by decide)), if_neg (fun h => absurd (k0_4.symm.trans h) (by decide)), if_neg (fun h => absurd (k0_4.symm.trans h) (by decide)), if_neg (fun h => absurd (k0_4.symm.trans h) (by decide)), if_neg (fun h => absurd (k0_4.symm.trans h) (by decide))]
  rw [if_pos k0_4]
  rw [show bfld n 22 4 = x0 from bfld_digit e22]
  rw [show bfld n 16 6 = x1 from bfld_digit e16]
  rw [show bfld n 10 6 = x2 from bfld_digit e10]
  rw [show bfld n 4 6 = x3 from bfld_digit e4]

/-- Its word and back. -/
theorem RoundTrip.iabs (x0 : BitVec 4) (x1 : BitVec 6) (x2 : BitVec 6) : RoundTrip.Statement (.iabs x0 x1 x2) := by
  intro n hw hn
  have e0 : n / 2 ^ 0 = (((3 * 2 ^ 4 + x0.toNat) * 2 ^ 6 + x1.toNat) * 2 ^ 6 + x2.toNat) * 2 ^ 10 + 5 := by
    have hn := Option.some.inj hn
    rw [Nat.pow_zero, Nat.div_one]; omega
  have e10 := div_next e0 (by decide)
  have e16 := div_next e10 x2.isLt
  have e22 := div_next e16 x1.isLt
  have e26 := div_next e22 x0.isLt
  have k0_10 : fld n 0 10 = 5 := fld_digit e0 (by decide)
  refine ⟨digits_lt e26 (by decide), decodeWord_of (shape_03 (fld_digit (p := 0) (e26.trans (by decide)) (by decide))) ?_ hw⟩
  unfold shape03
  rw [if_pos k0_10]
  rw [show bfld n 22 4 = x0 from bfld_digit e22]
  rw [show bfld n 16 6 = x1 from bfld_digit e16]
  rw [show bfld n 10 6 = x2 from bfld_digit e10]

/-- Its word and back. -/
theorem RoundTrip.ineg (x0 : BitVec 4) (x1 : BitVec 6) (x2 : BitVec 6) : RoundTrip.Statement (.ineg x0 x1 x2) := by
  intro n hw hn
  have e0 : n / 2 ^ 0 = (((3 * 2 ^ 4 + x0.toNat) * 2 ^ 6 + x1.toNat) * 2 ^ 6 + x2.toNat) * 2 ^ 10 + 6 := by
    have hn := Option.some.inj hn
    rw [Nat.pow_zero, Nat.div_one]; omega
  have e10 := div_next e0 (by decide)
  have e16 := div_next e10 x2.isLt
  have e22 := div_next e16 x1.isLt
  have e26 := div_next e22 x0.isLt
  have k0_10 : fld n 0 10 = 6 := fld_digit e0 (by decide)
  refine ⟨digits_lt e26 (by decide), decodeWord_of (shape_03 (fld_digit (p := 0) (e26.trans (by decide)) (by decide))) ?_ hw⟩
  unfold shape03
  rw [if_neg (fun h => absurd (k0_10.symm.trans h) (by decide))]
  rw [if_pos k0_10]
  rw [show bfld n 22 4 = x0 from bfld_digit e22]
  rw [show bfld n 16 6 = x1 from bfld_digit e16]
  rw [show bfld n 10 6 = x2 from bfld_digit e10]

/-- Its word and back. -/
theorem RoundTrip.popc (x0 : BitVec 4) (x1 : BitVec 6) (x2 : BitVec 6) : RoundTrip.Statement (.popc x0 x1 x2) := by
  intro n hw hn
  have e0 : n / 2 ^ 0 = (((3 * 2 ^ 4 + x0.toNat) * 2 ^ 6 + x1.toNat) * 2 ^ 6 + x2.toNat) * 2 ^ 10 + 7 := by
    have hn := Option.some.inj hn
    rw [Nat.pow_zero, Nat.div_one]; omega
  have e10 := div_next e0 (by decide)
  have e16 := div_next e10 x2.isLt
  have e22 := div_next e16 x1.isLt
  have e26 := div_next e22 x0.isLt
  have k0_10 : fld n 0 10 = 7 := fld_digit e0 (by decide)
  refine ⟨digits_lt e26 (by decide), decodeWord_of (shape_03 (fld_digit (p := 0) (e26.trans (by decide)) (by decide))) ?_ hw⟩
  unfold shape03
  rw [if_neg (fun h => absurd (k0_10.symm.trans h) (by decide)), if_neg (fun h => absurd (k0_10.symm.trans h) (by decide))]
  rw [if_pos k0_10]
  rw [show bfld n 22 4 = x0 from bfld_digit e22]
  rw [show bfld n 16 6 = x1 from bfld_digit e16]
  rw [show bfld n 10 6 = x2 from bfld_digit e10]

/-- Its word and back. -/
theorem RoundTrip.clz (x0 : BitVec 4) (x1 : BitVec 6) (x2 : BitVec 6) : RoundTrip.Statement (.clz x0 x1 x2) := by
  intro n hw hn
  have e0 : n / 2 ^ 0 = (((3 * 2 ^ 4 + x0.toNat) * 2 ^ 6 + x1.toNat) * 2 ^ 6 + x2.toNat) * 2 ^ 10 + 8 := by
    have hn := Option.some.inj hn
    rw [Nat.pow_zero, Nat.div_one]; omega
  have e10 := div_next e0 (by decide)
  have e16 := div_next e10 x2.isLt
  have e22 := div_next e16 x1.isLt
  have e26 := div_next e22 x0.isLt
  have k0_10 : fld n 0 10 = 8 := fld_digit e0 (by decide)
  refine ⟨digits_lt e26 (by decide), decodeWord_of (shape_03 (fld_digit (p := 0) (e26.trans (by decide)) (by decide))) ?_ hw⟩
  unfold shape03
  rw [if_neg (fun h => absurd (k0_10.symm.trans h) (by decide)), if_neg (fun h => absurd (k0_10.symm.trans h) (by decide)), if_neg (fun h => absurd (k0_10.symm.trans h) (by decide))]
  rw [if_pos k0_10]
  rw [show bfld n 22 4 = x0 from bfld_digit e22]
  rw [show bfld n 16 6 = x1 from bfld_digit e16]
  rw [show bfld n 10 6 = x2 from bfld_digit e10]

/-- Its word and back. -/
theorem RoundTrip.brev (x0 : BitVec 4) (x1 : BitVec 6) (x2 : BitVec 6) : RoundTrip.Statement (.brev x0 x1 x2) := by
  intro n hw hn
  have e0 : n / 2 ^ 0 = (((3 * 2 ^ 4 + x0.toNat) * 2 ^ 6 + x1.toNat) * 2 ^ 6 + x2.toNat) * 2 ^ 10 + 9 := by
    have hn := Option.some.inj hn
    rw [Nat.pow_zero, Nat.div_one]; omega
  have e10 := div_next e0 (by decide)
  have e16 := div_next e10 x2.isLt
  have e22 := div_next e16 x1.isLt
  have e26 := div_next e22 x0.isLt
  have k0_10 : fld n 0 10 = 9 := fld_digit e0 (by decide)
  refine ⟨digits_lt e26 (by decide), decodeWord_of (shape_03 (fld_digit (p := 0) (e26.trans (by decide)) (by decide))) ?_ hw⟩
  unfold shape03
  rw [if_neg (fun h => absurd (k0_10.symm.trans h) (by decide)), if_neg (fun h => absurd (k0_10.symm.trans h) (by decide)), if_neg (fun h => absurd (k0_10.symm.trans h) (by decide)), if_neg (fun h => absurd (k0_10.symm.trans h) (by decide))]
  rw [if_pos k0_10]
  rw [show bfld n 22 4 = x0 from bfld_digit e22]
  rw [show bfld n 16 6 = x1 from bfld_digit e16]
  rw [show bfld n 10 6 = x2 from bfld_digit e10]

/-- Its word and back. -/
theorem RoundTrip.mov (x0 : BitVec 4) (x1 : BitVec 6) (x2 : BitVec 6) : RoundTrip.Statement (.mov x0 x1 x2) := by
  intro n hw hn
  have e0 : n / 2 ^ 0 = (((3 * 2 ^ 4 + x0.toNat) * 2 ^ 6 + x1.toNat) * 2 ^ 6 + x2.toNat) * 2 ^ 10 + 14 := by
    have hn := Option.some.inj hn
    rw [Nat.pow_zero, Nat.div_one]; omega
  have e10 := div_next e0 (by decide)
  have e16 := div_next e10 x2.isLt
  have e22 := div_next e16 x1.isLt
  have e26 := div_next e22 x0.isLt
  have k0_10 : fld n 0 10 = 14 := fld_digit e0 (by decide)
  refine ⟨digits_lt e26 (by decide), decodeWord_of (shape_03 (fld_digit (p := 0) (e26.trans (by decide)) (by decide))) ?_ hw⟩
  unfold shape03
  rw [if_neg (fun h => absurd (k0_10.symm.trans h) (by decide)), if_neg (fun h => absurd (k0_10.symm.trans h) (by decide)), if_neg (fun h => absurd (k0_10.symm.trans h) (by decide)), if_neg (fun h => absurd (k0_10.symm.trans h) (by decide)), if_neg (fun h => absurd (k0_10.symm.trans h) (by decide))]
  rw [if_pos k0_10]
  rw [show bfld n 22 4 = x0 from bfld_digit e22]
  rw [show bfld n 16 6 = x1 from bfld_digit e16]
  rw [show bfld n 10 6 = x2 from bfld_digit e10]

/-- Its word and back. -/
theorem RoundTrip.iadd64 (x0 : BitVec 4) (x1 : BitVec 5) (x2 : BitVec 5) (x3 : BitVec 5) : RoundTrip.Statement (.iadd64 x0 x1 x2 x3) := by
  intro n hw hn
  have e0 : n / 2 ^ 0 = ((((((3 * 2 ^ 4 + x0.toNat) * 2 ^ 5 + x1.toNat) * 2 ^ 1 + 0) * 2 ^ 5 + x2.toNat) * 2 ^ 1 + 0) * 2 ^ 5 + x3.toNat) * 2 ^ 5 + 0 := by
    have hn := Option.some.inj hn
    rw [Nat.pow_zero, Nat.div_one]; omega
  have e5 := div_next e0 (by decide)
  have e10 := div_next e5 x3.isLt
  have e11 := div_next e10 (by decide)
  have e16 := div_next e11 x2.isLt
  have e17 := div_next e16 (by decide)
  have e22 := div_next e17 x1.isLt
  have e26 := div_next e22 x0.isLt
  have k16_1 : fld n 16 1 = 0 := fld_digit e16 (by decide)
  have k10_1 : fld n 10 1 = 0 := fld_digit e10 (by decide)
  have k0_5 : fld n 0 5 = 0 := fld_digit e0 (by decide)
  have hx0 := x0.isLt
  have hx1 := x1.isLt
  have hx2 := x2.isLt
  have hx3 := x3.isLt
  have hn := Option.some.inj hn
  refine ⟨digits_lt e26 (by decide), decodeWord_of (shape_03 (fld_digit (p := 0) (e26.trans (by decide)) (by decide))) ?_ hw⟩
  unfold shape03
  rw [if_neg (by unfold fld; omega), if_neg (by unfold fld; omega), if_neg (by unfold fld; omega), if_neg (by unfold fld; omega), if_neg (by unfold fld; omega), if_neg (by unfold fld; omega)]
  rw [if_pos ⟨k16_1, k10_1, k0_5⟩]
  rw [show bfld n 22 4 = x0 from bfld_digit e22]
  rw [show bfld n 17 5 = x1 from bfld_digit e17]
  rw [show bfld n 11 5 = x2 from bfld_digit e11]
  rw [show bfld n 5 5 = x3 from bfld_digit e5]

/-- Its word and back. -/
theorem RoundTrip.isub64 (x0 : BitVec 4) (x1 : BitVec 5) (x2 : BitVec 5) (x3 : BitVec 5) : RoundTrip.Statement (.isub64 x0 x1 x2 x3) := by
  intro n hw hn
  have e0 : n / 2 ^ 0 = ((((((3 * 2 ^ 4 + x0.toNat) * 2 ^ 5 + x1.toNat) * 2 ^ 1 + 0) * 2 ^ 5 + x2.toNat) * 2 ^ 1 + 0) * 2 ^ 5 + x3.toNat) * 2 ^ 5 + 1 := by
    have hn := Option.some.inj hn
    rw [Nat.pow_zero, Nat.div_one]; omega
  have e5 := div_next e0 (by decide)
  have e10 := div_next e5 x3.isLt
  have e11 := div_next e10 (by decide)
  have e16 := div_next e11 x2.isLt
  have e17 := div_next e16 (by decide)
  have e22 := div_next e17 x1.isLt
  have e26 := div_next e22 x0.isLt
  have k0_5 : fld n 0 5 = 1 := fld_digit e0 (by decide)
  have k16_1 : fld n 16 1 = 0 := fld_digit e16 (by decide)
  have k10_1 : fld n 10 1 = 0 := fld_digit e10 (by decide)
  have hx0 := x0.isLt
  have hx1 := x1.isLt
  have hx2 := x2.isLt
  have hx3 := x3.isLt
  have hn := Option.some.inj hn
  refine ⟨digits_lt e26 (by decide), decodeWord_of (shape_03 (fld_digit (p := 0) (e26.trans (by decide)) (by decide))) ?_ hw⟩
  unfold shape03
  rw [if_neg (by unfold fld; omega), if_neg (by unfold fld; omega), if_neg (by unfold fld; omega), if_neg (by unfold fld; omega), if_neg (by unfold fld; omega), if_neg (by unfold fld; omega), if_neg (fun h => absurd (k0_5.symm.trans h.2.2) (by decide))]
  rw [if_pos ⟨k16_1, k10_1, k0_5⟩]
  rw [show bfld n 22 4 = x0 from bfld_digit e22]
  rw [show bfld n 17 5 = x1 from bfld_digit e17]
  rw [show bfld n 11 5 = x2 from bfld_digit e11]
  rw [show bfld n 5 5 = x3 from bfld_digit e5]

/-- Its word and back. -/
theorem RoundTrip.shl64 (x0 : BitVec 4) (x1 : BitVec 5) (x2 : BitVec 5) (x3 : BitVec 6) : RoundTrip.Statement (.shl64 x0 x1 x2 x3) := by
  intro n hw hn
  have e0 : n / 2 ^ 0 = ((((((3 * 2 ^ 4 + x0.toNat) * 2 ^ 5 + x1.toNat) * 2 ^ 1 + 0) * 2 ^ 5 + x2.toNat) * 2 ^ 1 + 0) * 2 ^ 6 + x3.toNat) * 2 ^ 4 + 2 := by
    have hn := Option.some.inj hn
    rw [Nat.pow_zero, Nat.div_one]; omega
  have e4 := div_next e0 (by decide)
  have e10 := div_next e4 x3.isLt
  have e11 := div_next e10 (by decide)
  have e16 := div_next e11 x2.isLt
  have e17 := div_next e16 (by decide)
  have e22 := div_next e17 x1.isLt
  have e26 := div_next e22 x0.isLt
  have k16_1 : fld n 16 1 = 0 := fld_digit e16 (by decide)
  have k10_1 : fld n 10 1 = 0 := fld_digit e10 (by decide)
  have k0_4 : fld n 0 4 = 2 := fld_digit e0 (by decide)
  have hx0 := x0.isLt
  have hx1 := x1.isLt
  have hx2 := x2.isLt
  have hx3 := x3.isLt
  have hn := Option.some.inj hn
  refine ⟨digits_lt e26 (by decide), decodeWord_of (shape_03 (fld_digit (p := 0) (e26.trans (by decide)) (by decide))) ?_ hw⟩
  unfold shape03
  rw [if_neg (by unfold fld; omega), if_neg (by unfold fld; omega), if_neg (by unfold fld; omega), if_neg (by unfold fld; omega), if_neg (by unfold fld; omega), if_neg (by unfold fld; omega), if_neg (by unfold fld; omega), if_neg (by unfold fld; omega)]
  rw [if_pos ⟨k16_1, k10_1, k0_4⟩]
  rw [show bfld n 22 4 = x0 from bfld_digit e22]
  rw [show bfld n 17 5 = x1 from bfld_digit e17]
  rw [show bfld n 11 5 = x2 from bfld_digit e11]
  rw [show bfld n 4 6 = x3 from bfld_digit e4]

/-- Its word and back. -/
theorem RoundTrip.shr64 (x0 : BitVec 4) (x1 : BitVec 5) (x2 : BitVec 5) (x3 : BitVec 6) : RoundTrip.Statement (.shr64 x0 x1 x2 x3) := by
  intro n hw hn
  have e0 : n / 2 ^ 0 = ((((((3 * 2 ^ 4 + x0.toNat) * 2 ^ 5 + x1.toNat) * 2 ^ 1 + 0) * 2 ^ 5 + x2.toNat) * 2 ^ 1 + 0) * 2 ^ 6 + x3.toNat) * 2 ^ 4 + 3 := by
    have hn := Option.some.inj hn
    rw [Nat.pow_zero, Nat.div_one]; omega
  have e4 := div_next e0 (by decide)
  have e10 := div_next e4 x3.isLt
  have e11 := div_next e10 (by decide)
  have e16 := div_next e11 x2.isLt
  have e17 := div_next e16 (by decide)
  have e22 := div_next e17 x1.isLt
  have e26 := div_next e22 x0.isLt
  have k0_4 : fld n 0 4 = 3 := fld_digit e0 (by decide)
  have k16_1 : fld n 16 1 = 0 := fld_digit e16 (by decide)
  have k10_1 : fld n 10 1 = 0 := fld_digit e10 (by decide)
  have hx0 := x0.isLt
  have hx1 := x1.isLt
  have hx2 := x2.isLt
  have hx3 := x3.isLt
  have hn := Option.some.inj hn
  refine ⟨digits_lt e26 (by decide), decodeWord_of (shape_03 (fld_digit (p := 0) (e26.trans (by decide)) (by decide))) ?_ hw⟩
  unfold shape03
  rw [if_neg (by unfold fld; omega), if_neg (by unfold fld; omega), if_neg (by unfold fld; omega), if_neg (by unfold fld; omega), if_neg (by unfold fld; omega), if_neg (by unfold fld; omega), if_neg (by unfold fld; omega), if_neg (by unfold fld; omega), if_neg (fun h => absurd (k0_4.symm.trans h.2.2) (by decide))]
  rw [if_pos ⟨k16_1, k10_1, k0_4⟩]
  rw [show bfld n 22 4 = x0 from bfld_digit e22]
  rw [show bfld n 17 5 = x1 from bfld_digit e17]
  rw [show bfld n 11 5 = x2 from bfld_digit e11]
  rw [show bfld n 4 6 = x3 from bfld_digit e4]

/-- Its word and back. -/
theorem RoundTrip.sha64 (x0 : BitVec 4) (x1 : BitVec 5) (x2 : BitVec 5) (x3 : BitVec 6) : RoundTrip.Statement (.sha64 x0 x1 x2 x3) := by
  intro n hw hn
  have e0 : n / 2 ^ 0 = ((((((3 * 2 ^ 4 + x0.toNat) * 2 ^ 5 + x1.toNat) * 2 ^ 1 + 0) * 2 ^ 5 + x2.toNat) * 2 ^ 1 + 0) * 2 ^ 6 + x3.toNat) * 2 ^ 4 + 4 := by
    have hn := Option.some.inj hn
    rw [Nat.pow_zero, Nat.div_one]; omega
  have e4 := div_next e0 (by decide)
  have e10 := div_next e4 x3.isLt
  have e11 := div_next e10 (by decide)
  have e16 := div_next e11 x2.isLt
  have e17 := div_next e16 (by decide)
  have e22 := div_next e17 x1.isLt
  have e26 := div_next e22 x0.isLt
  have k0_4 : fld n 0 4 = 4 := fld_digit e0 (by decide)
  have k16_1 : fld n 16 1 = 0 := fld_digit e16 (by decide)
  have k10_1 : fld n 10 1 = 0 := fld_digit e10 (by decide)
  have hx0 := x0.isLt
  have hx1 := x1.isLt
  have hx2 := x2.isLt
  have hx3 := x3.isLt
  have hn := Option.some.inj hn
  refine ⟨digits_lt e26 (by decide), decodeWord_of (shape_03 (fld_digit (p := 0) (e26.trans (by decide)) (by decide))) ?_ hw⟩
  unfold shape03
  rw [if_neg (by unfold fld; omega), if_neg (by unfold fld; omega), if_neg (by unfold fld; omega), if_neg (by unfold fld; omega), if_neg (by unfold fld; omega), if_neg (by unfold fld; omega), if_neg (by unfold fld; omega), if_neg (by unfold fld; omega), if_neg (fun h => absurd (k0_4.symm.trans h.2.2) (by decide)), if_neg (fun h => absurd (k0_4.symm.trans h.2.2) (by decide))]
  rw [if_pos ⟨k16_1, k10_1, k0_4⟩]
  rw [show bfld n 22 4 = x0 from bfld_digit e22]
  rw [show bfld n 17 5 = x1 from bfld_digit e17]
  rw [show bfld n 11 5 = x2 from bfld_digit e11]
  rw [show bfld n 4 6 = x3 from bfld_digit e4]

/-- Its word and back. -/
theorem RoundTrip.bfxN (x0 : BitVec 4) (x1 : BitVec 6) (x2 : BitVec 6) (x3 : BitVec 6) : RoundTrip.Statement (.bfxN x0 x1 x2 x3) := by
  intro n hw hn
  have e0 : n / 2 ^ 0 = ((((3 * 2 ^ 4 + x0.toNat) * 2 ^ 6 + x1.toNat) * 2 ^ 6 + x2.toNat) * 2 ^ 6 + x3.toNat) * 2 ^ 4 + 10 := by
    have hn := Option.some.inj hn
    rw [Nat.pow_zero, Nat.div_one]; omega
  have e4 := div_next e0 (by decide)
  have e10 := div_next e4 x3.isLt
  have e16 := div_next e10 x2.isLt
  have e22 := div_next e16 x1.isLt
  have e26 := div_next e22 x0.isLt
  have k0_4 : fld n 0 4 = 10 := fld_digit e0 (by decide)
  have hx0 := x0.isLt
  have hx1 := x1.isLt
  have hx2 := x2.isLt
  have hx3 := x3.isLt
  have hn := Option.some.inj hn
  refine ⟨digits_lt e26 (by decide), decodeWord_of (shape_03 (fld_digit (p := 0) (e26.trans (by decide)) (by decide))) ?_ hw⟩
  unfold shape03
  rw [if_neg (by unfold fld; omega), if_neg (by unfold fld; omega), if_neg (by unfold fld; omega), if_neg (by unfold fld; omega), if_neg (by unfold fld; omega), if_neg (by unfold fld; omega), if_neg (by unfold fld; omega), if_neg (by unfold fld; omega), if_neg (fun h => absurd (k0_4.symm.trans h.2.2) (by decide)), if_neg (fun h => absurd (k0_4.symm.trans h.2.2) (by decide)), if_neg (fun h => absurd (k0_4.symm.trans h.2.2) (by decide))]
  rw [if_pos k0_4]
  rw [show bfld n 22 4 = x0 from bfld_digit e22]
  rw [show bfld n 16 6 = x1 from bfld_digit e16]
  rw [show bfld n 10 6 = x2 from bfld_digit e10]
  rw [show bfld n 4 6 = x3 from bfld_digit e4]

/-- Its word and back. -/
theorem RoundTrip.bfxS (x0 : BitVec 4) (x1 : BitVec 6) (x2 : BitVec 6) (x3 : BitVec 6) : RoundTrip.Statement (.bfxS x0 x1 x2 x3) := by
  intro n hw hn
  have e0 : n / 2 ^ 0 = ((((3 * 2 ^ 4 + x0.toNat) * 2 ^ 6 + x1.toNat) * 2 ^ 6 + x2.toNat) * 2 ^ 6 + x3.toNat) * 2 ^ 4 + 11 := by
    have hn := Option.some.inj hn
    rw [Nat.pow_zero, Nat.div_one]; omega
  have e4 := div_next e0 (by decide)
  have e10 := div_next e4 x3.isLt
  have e16 := div_next e10 x2.isLt
  have e22 := div_next e16 x1.isLt
  have e26 := div_next e22 x0.isLt
  have k0_4 : fld n 0 4 = 11 := fld_digit e0 (by decide)
  have hx0 := x0.isLt
  have hx1 := x1.isLt
  have hx2 := x2.isLt
  have hx3 := x3.isLt
  have hn := Option.some.inj hn
  refine ⟨digits_lt e26 (by decide), decodeWord_of (shape_03 (fld_digit (p := 0) (e26.trans (by decide)) (by decide))) ?_ hw⟩
  unfold shape03
  rw [if_neg (by unfold fld; omega), if_neg (by unfold fld; omega), if_neg (by unfold fld; omega), if_neg (by unfold fld; omega), if_neg (by unfold fld; omega), if_neg (by unfold fld; omega), if_neg (by unfold fld; omega), if_neg (by unfold fld; omega), if_neg (fun h => absurd (k0_4.symm.trans h.2.2) (by decide)), if_neg (fun h => absurd (k0_4.symm.trans h.2.2) (by decide)), if_neg (fun h => absurd (k0_4.symm.trans h.2.2) (by decide)), if_neg (fun h => absurd (k0_4.symm.trans h) (by decide))]
  rw [if_pos k0_4]
  rw [show bfld n 22 4 = x0 from bfld_digit e22]
  rw [show bfld n 16 6 = x1 from bfld_digit e16]
  rw [show bfld n 10 6 = x2 from bfld_digit e10]
  rw [show bfld n 4 6 = x3 from bfld_digit e4]

/-- Its word and back. -/
theorem RoundTrip.prmt (x0 : BitVec 4) (x1 : BitVec 6) (x2 : BitVec 6) (x3 : BitVec 6) : RoundTrip.Statement (.prmt x0 x1 x2 x3) := by
  intro n hw hn
  have e0 : n / 2 ^ 0 = ((((3 * 2 ^ 4 + x0.toNat) * 2 ^ 6 + x1.toNat) * 2 ^ 6 + x2.toNat) * 2 ^ 6 + x3.toNat) * 2 ^ 4 + 12 := by
    have hn := Option.some.inj hn
    rw [Nat.pow_zero, Nat.div_one]; omega
  have e4 := div_next e0 (by decide)
  have e10 := div_next e4 x3.isLt
  have e16 := div_next e10 x2.isLt
  have e22 := div_next e16 x1.isLt
  have e26 := div_next e22 x0.isLt
  have k0_4 : fld n 0 4 = 12 := fld_digit e0 (by decide)
  have hx0 := x0.isLt
  have hx1 := x1.isLt
  have hx2 := x2.isLt
  have hx3 := x3.isLt
  have hn := Option.some.inj hn
  refine ⟨digits_lt e26 (by decide), decodeWord_of (shape_03 (fld_digit (p := 0) (e26.trans (by decide)) (by decide))) ?_ hw⟩
  unfold shape03
  rw [if_neg (by unfold fld; omega), if_neg (by unfold fld; omega), if_neg (by unfold fld; omega), if_neg (by unfold fld; omega), if_neg (by unfold fld; omega), if_neg (by unfold fld; omega), if_neg (by unfold fld; omega), if_neg (by unfold fld; omega), if_neg (fun h => absurd (k0_4.symm.trans h.2.2) (by decide)), if_neg (fun h => absurd (k0_4.symm.trans h.2.2) (by decide)), if_neg (fun h => absurd (k0_4.symm.trans h.2.2) (by decide)), if_neg (fun h => absurd (k0_4.symm.trans h) (by decide)), if_neg (fun h => absurd (k0_4.symm.trans h) (by decide))]
  rw [if_pos k0_4]
  rw [show bfld n 22 4 = x0 from bfld_digit e22]
  rw [show bfld n 16 6 = x1 from bfld_digit e16]
  rw [show bfld n 10 6 = x2 from bfld_digit e10]
  rw [show bfld n 4 6 = x3 from bfld_digit e4]

/-- Its word and back. -/
theorem RoundTrip.isad (x0 : BitVec 4) (x1 : BitVec 6) (x2 : BitVec 6) (x3 : BitVec 6) : RoundTrip.Statement (.isad x0 x1 x2 x3) := by
  intro n hw hn
  have e0 : n / 2 ^ 0 = ((((3 * 2 ^ 4 + x0.toNat) * 2 ^ 6 + x1.toNat) * 2 ^ 6 + x2.toNat) * 2 ^ 6 + x3.toNat) * 2 ^ 4 + 13 := by
    have hn := Option.some.inj hn
    rw [Nat.pow_zero, Nat.div_one]; omega
  have e4 := div_next e0 (by decide)
  have e10 := div_next e4 x3.isLt
  have e16 := div_next e10 x2.isLt
  have e22 := div_next e16 x1.isLt
  have e26 := div_next e22 x0.isLt
  have k0_4 : fld n 0 4 = 13 := fld_digit e0 (by decide)
  have hx0 := x0.isLt
  have hx1 := x1.isLt
  have hx2 := x2.isLt
  have hx3 := x3.isLt
  have hn := Option.some.inj hn
  refine ⟨digits_lt e26 (by decide), decodeWord_of (shape_03 (fld_digit (p := 0) (e26.trans (by decide)) (by decide))) ?_ hw⟩
  unfold shape03
  rw [if_neg (by unfold fld; omega), if_neg (by unfold fld; omega), if_neg (by unfold fld; omega), if_neg (by unfold fld; omega), if_neg (by unfold fld; omega), if_neg (by unfold fld; omega), if_neg (by unfold fld; omega), if_neg (by unfold fld; omega), if_neg (fun h => absurd (k0_4.symm.trans h.2.2) (by decide)), if_neg (fun h => absurd (k0_4.symm.trans h.2.2) (by decide)), if_neg (fun h => absurd (k0_4.symm.trans h.2.2) (by decide)), if_neg (fun h => absurd (k0_4.symm.trans h) (by decide)), if_neg (fun h => absurd (k0_4.symm.trans h) (by decide)), if_neg (fun h => absurd (k0_4.symm.trans h) (by decide))]
  rw [if_pos k0_4]
  rw [show bfld n 22 4 = x0 from bfld_digit e22]
  rw [show bfld n 16 6 = x1 from bfld_digit e16]
  rw [show bfld n 10 6 = x2 from bfld_digit e10]
  rw [show bfld n 4 6 = x3 from bfld_digit e4]

/-- Its word and back. -/
theorem RoundTrip.sel (x0 : BitVec 4) (x1 : BitVec 6) (x2 : BitVec 6) (x3 : BitVec 6) : RoundTrip.Statement (.sel x0 x1 x2 x3) := by
  intro n hw hn
  have e0 : n / 2 ^ 0 = ((((3 * 2 ^ 4 + x0.toNat) * 2 ^ 6 + x1.toNat) * 2 ^ 6 + x2.toNat) * 2 ^ 6 + x3.toNat) * 2 ^ 4 + 15 := by
    have hn := Option.some.inj hn
    rw [Nat.pow_zero, Nat.div_one]; omega
  have e4 := div_next e0 (by decide)
  have e10 := div_next e4 x3.isLt
  have e16 := div_next e10 x2.isLt
  have e22 := div_next e16 x1.isLt
  have e26 := div_next e22 x0.isLt
  have k0_4 : fld n 0 4 = 15 := fld_digit e0 (by decide)
  have hx0 := x0.isLt
  have hx1 := x1.isLt
  have hx2 := x2.isLt
  have hx3 := x3.isLt
  have hn := Option.some.inj hn
  refine ⟨digits_lt e26 (by decide), decodeWord_of (shape_03 (fld_digit (p := 0) (e26.trans (by decide)) (by decide))) ?_ hw⟩
  unfold shape03
  rw [if_neg (by unfold fld; omega), if_neg (by unfold fld; omega), if_neg (by unfold fld; omega), if_neg (by unfold fld; omega), if_neg (by unfold fld; omega), if_neg (by unfold fld; omega), if_neg (by unfold fld; omega), if_neg (by unfold fld; omega), if_neg (fun h => absurd (k0_4.symm.trans h.2.2) (by decide)), if_neg (fun h => absurd (k0_4.symm.trans h.2.2) (by decide)), if_neg (fun h => absurd (k0_4.symm.trans h.2.2) (by decide)), if_neg (fun h => absurd (k0_4.symm.trans h) (by decide)), if_neg (fun h => absurd (k0_4.symm.trans h) (by decide)), if_neg (fun h => absurd (k0_4.symm.trans h) (by decide)), if_neg (fun h => absurd (k0_4.symm.trans h) (by decide))]
  rw [if_pos k0_4]
  rw [show bfld n 22 4 = x0 from bfld_digit e22]
  rw [show bfld n 16 6 = x1 from bfld_digit e16]
  rw [show bfld n 10 6 = x2 from bfld_digit e10]
  rw [show bfld n 4 6 = x3 from bfld_digit e4]

/-- Its word and back. -/
theorem RoundTrip.iaddi (x0 : BitVec 4) (x1 : BitVec 6) (x2 : BitVec 6) (x3 : BitVec 10) : RoundTrip.Statement (.iaddi x0 x1 x2 x3) := by
  intro n hw hn
  have e0 : n / 2 ^ 0 = (((4 * 2 ^ 4 + x0.toNat) * 2 ^ 6 + x1.toNat) * 2 ^ 6 + x2.toNat) * 2 ^ 10 + x3.toNat := by
    have hn := Option.some.inj hn
    rw [Nat.pow_zero, Nat.div_one]; omega
  have e10 := div_next e0 x3.isLt
  have e16 := div_next e10 x2.isLt
  have e22 := div_next e16 x1.isLt
  have e26 := div_next e22 x0.isLt
  refine ⟨digits_lt e26 (by decide), decodeWord_of (shape_04 (fld_digit (p := 0) (e26.trans (by decide)) (by decide))) ?_ hw⟩
  unfold shape04
  rw [show bfld n 22 4 = x0 from bfld_digit e22]
  rw [show bfld n 16 6 = x1 from bfld_digit e16]
  rw [show bfld n 10 6 = x2 from bfld_digit e10]
  rw [show bfld n 0 10 = x3 from bfld_digit e0]

/-- Its word and back. -/
theorem RoundTrip.iandi (x0 : BitVec 4) (x1 : BitVec 6) (x2 : BitVec 6) (x3 : BitVec 10) : RoundTrip.Statement (.iandi x0 x1 x2 x3) := by
  intro n hw hn
  have e0 : n / 2 ^ 0 = (((5 * 2 ^ 4 + x0.toNat) * 2 ^ 6 + x1.toNat) * 2 ^ 6 + x2.toNat) * 2 ^ 10 + x3.toNat := by
    have hn := Option.some.inj hn
    rw [Nat.pow_zero, Nat.div_one]; omega
  have e10 := div_next e0 x3.isLt
  have e16 := div_next e10 x2.isLt
  have e22 := div_next e16 x1.isLt
  have e26 := div_next e22 x0.isLt
  refine ⟨digits_lt e26 (by decide), decodeWord_of (shape_05 (fld_digit (p := 0) (e26.trans (by decide)) (by decide))) ?_ hw⟩
  unfold shape05
  rw [show bfld n 22 4 = x0 from bfld_digit e22]
  rw [show bfld n 16 6 = x1 from bfld_digit e16]
  rw [show bfld n 10 6 = x2 from bfld_digit e10]
  rw [show bfld n 0 10 = x3 from bfld_digit e0]

/-- Its word and back. -/
theorem RoundTrip.iori (x0 : BitVec 4) (x1 : BitVec 6) (x2 : BitVec 6) (x3 : BitVec 10) : RoundTrip.Statement (.iori x0 x1 x2 x3) := by
  intro n hw hn
  have e0 : n / 2 ^ 0 = (((6 * 2 ^ 4 + x0.toNat) * 2 ^ 6 + x1.toNat) * 2 ^ 6 + x2.toNat) * 2 ^ 10 + x3.toNat := by
    have hn := Option.some.inj hn
    rw [Nat.pow_zero, Nat.div_one]; omega
  have e10 := div_next e0 x3.isLt
  have e16 := div_next e10 x2.isLt
  have e22 := div_next e16 x1.isLt
  have e26 := div_next e22 x0.isLt
  refine ⟨digits_lt e26 (by decide), decodeWord_of (shape_06 (fld_digit (p := 0) (e26.trans (by decide)) (by decide))) ?_ hw⟩
  unfold shape06
  rw [show bfld n 22 4 = x0 from bfld_digit e22]
  rw [show bfld n 16 6 = x1 from bfld_digit e16]
  rw [show bfld n 10 6 = x2 from bfld_digit e10]
  rw [show bfld n 0 10 = x3 from bfld_digit e0]

/-- Its word and back. -/
theorem RoundTrip.ixori (x0 : BitVec 4) (x1 : BitVec 6) (x2 : BitVec 6) (x3 : BitVec 10) : RoundTrip.Statement (.ixori x0 x1 x2 x3) := by
  intro n hw hn
  have e0 : n / 2 ^ 0 = (((7 * 2 ^ 4 + x0.toNat) * 2 ^ 6 + x1.toNat) * 2 ^ 6 + x2.toNat) * 2 ^ 10 + x3.toNat := by
    have hn := Option.some.inj hn
    rw [Nat.pow_zero, Nat.div_one]; omega
  have e10 := div_next e0 x3.isLt
  have e16 := div_next e10 x2.isLt
  have e22 := div_next e16 x1.isLt
  have e26 := div_next e22 x0.isLt
  refine ⟨digits_lt e26 (by decide), decodeWord_of (shape_07 (fld_digit (p := 0) (e26.trans (by decide)) (by decide))) ?_ hw⟩
  unfold shape07
  rw [show bfld n 22 4 = x0 from bfld_digit e22]
  rw [show bfld n 16 6 = x1 from bfld_digit e16]
  rw [show bfld n 10 6 = x2 from bfld_digit e10]
  rw [show bfld n 0 10 = x3 from bfld_digit e0]

/-- Its word and back. -/
theorem RoundTrip.ishiShl (x0 : BitVec 4) (x1 : BitVec 6) (x2 : BitVec 6) (x3 : BitVec 6) : RoundTrip.Statement (.ishiShl x0 x1 x2 x3) := by
  intro n hw hn
  have e0 : n / 2 ^ 0 = ((((8 * 2 ^ 4 + x0.toNat) * 2 ^ 6 + x1.toNat) * 2 ^ 6 + x2.toNat) * 2 ^ 4 + 0) * 2 ^ 6 + x3.toNat := by
    have hn := Option.some.inj hn
    rw [Nat.pow_zero, Nat.div_one]; omega
  have e6 := div_next e0 x3.isLt
  have e10 := div_next e6 (by decide)
  have e16 := div_next e10 x2.isLt
  have e22 := div_next e16 x1.isLt
  have e26 := div_next e22 x0.isLt
  have k6_4 : fld n 6 4 = 0 := fld_digit e6 (by decide)
  refine ⟨digits_lt e26 (by decide), decodeWord_of (shape_08 (fld_digit (p := 0) (e26.trans (by decide)) (by decide))) ?_ hw⟩
  unfold shape08
  rw [if_pos k6_4]
  rw [show bfld n 22 4 = x0 from bfld_digit e22]
  rw [show bfld n 16 6 = x1 from bfld_digit e16]
  rw [show bfld n 10 6 = x2 from bfld_digit e10]
  rw [show bfld n 0 6 = x3 from bfld_digit e0]

/-- Its word and back. -/
theorem RoundTrip.ishiShr (x0 : BitVec 4) (x1 : BitVec 6) (x2 : BitVec 6) (x3 : BitVec 6) : RoundTrip.Statement (.ishiShr x0 x1 x2 x3) := by
  intro n hw hn
  have e0 : n / 2 ^ 0 = ((((8 * 2 ^ 4 + x0.toNat) * 2 ^ 6 + x1.toNat) * 2 ^ 6 + x2.toNat) * 2 ^ 4 + 4) * 2 ^ 6 + x3.toNat := by
    have hn := Option.some.inj hn
    rw [Nat.pow_zero, Nat.div_one]; omega
  have e6 := div_next e0 x3.isLt
  have e10 := div_next e6 (by decide)
  have e16 := div_next e10 x2.isLt
  have e22 := div_next e16 x1.isLt
  have e26 := div_next e22 x0.isLt
  have k6_4 : fld n 6 4 = 4 := fld_digit e6 (by decide)
  refine ⟨digits_lt e26 (by decide), decodeWord_of (shape_08 (fld_digit (p := 0) (e26.trans (by decide)) (by decide))) ?_ hw⟩
  unfold shape08
  rw [if_neg (fun h => absurd (k6_4.symm.trans h) (by decide))]
  rw [if_pos k6_4]
  rw [show bfld n 22 4 = x0 from bfld_digit e22]
  rw [show bfld n 16 6 = x1 from bfld_digit e16]
  rw [show bfld n 10 6 = x2 from bfld_digit e10]
  rw [show bfld n 0 6 = x3 from bfld_digit e0]

/-- Its word and back. -/
theorem RoundTrip.ishiSha (x0 : BitVec 4) (x1 : BitVec 6) (x2 : BitVec 6) (x3 : BitVec 6) : RoundTrip.Statement (.ishiSha x0 x1 x2 x3) := by
  intro n hw hn
  have e0 : n / 2 ^ 0 = ((((8 * 2 ^ 4 + x0.toNat) * 2 ^ 6 + x1.toNat) * 2 ^ 6 + x2.toNat) * 2 ^ 4 + 8) * 2 ^ 6 + x3.toNat := by
    have hn := Option.some.inj hn
    rw [Nat.pow_zero, Nat.div_one]; omega
  have e6 := div_next e0 x3.isLt
  have e10 := div_next e6 (by decide)
  have e16 := div_next e10 x2.isLt
  have e22 := div_next e16 x1.isLt
  have e26 := div_next e22 x0.isLt
  have k6_4 : fld n 6 4 = 8 := fld_digit e6 (by decide)
  refine ⟨digits_lt e26 (by decide), decodeWord_of (shape_08 (fld_digit (p := 0) (e26.trans (by decide)) (by decide))) ?_ hw⟩
  unfold shape08
  rw [if_neg (fun h => absurd (k6_4.symm.trans h) (by decide)), if_neg (fun h => absurd (k6_4.symm.trans h) (by decide))]
  rw [if_pos k6_4]
  rw [show bfld n 22 4 = x0 from bfld_digit e22]
  rw [show bfld n 16 6 = x1 from bfld_digit e16]
  rw [show bfld n 10 6 = x2 from bfld_digit e10]
  rw [show bfld n 0 6 = x3 from bfld_digit e0]

/-- Its word and back. -/
theorem RoundTrip.ishiRot (x0 : BitVec 4) (x1 : BitVec 6) (x2 : BitVec 6) (x3 : BitVec 6) : RoundTrip.Statement (.ishiRot x0 x1 x2 x3) := by
  intro n hw hn
  have e0 : n / 2 ^ 0 = ((((8 * 2 ^ 4 + x0.toNat) * 2 ^ 6 + x1.toNat) * 2 ^ 6 + x2.toNat) * 2 ^ 4 + 12) * 2 ^ 6 + x3.toNat := by
    have hn := Option.some.inj hn
    rw [Nat.pow_zero, Nat.div_one]; omega
  have e6 := div_next e0 x3.isLt
  have e10 := div_next e6 (by decide)
  have e16 := div_next e10 x2.isLt
  have e22 := div_next e16 x1.isLt
  have e26 := div_next e22 x0.isLt
  have k6_4 : fld n 6 4 = 12 := fld_digit e6 (by decide)
  refine ⟨digits_lt e26 (by decide), decodeWord_of (shape_08 (fld_digit (p := 0) (e26.trans (by decide)) (by decide))) ?_ hw⟩
  unfold shape08
  rw [if_neg (fun h => absurd (k6_4.symm.trans h) (by decide)), if_neg (fun h => absurd (k6_4.symm.trans h) (by decide)), if_neg (fun h => absurd (k6_4.symm.trans h) (by decide))]
  rw [if_pos k6_4]
  rw [show bfld n 22 4 = x0 from bfld_digit e22]
  rw [show bfld n 16 6 = x1 from bfld_digit e16]
  rw [show bfld n 10 6 = x2 from bfld_digit e10]
  rw [show bfld n 0 6 = x3 from bfld_digit e0]

/-- Its word and back. -/
theorem RoundTrip.imovi (x0 : BitVec 4) (x1 : BitVec 6) (x2 : BitVec 16) : RoundTrip.Statement (.imovi x0 x1 x2) := by
  intro n hw hn
  have e0 : n / 2 ^ 0 = ((9 * 2 ^ 4 + x0.toNat) * 2 ^ 6 + x1.toNat) * 2 ^ 16 + x2.toNat := by
    have hn := Option.some.inj hn
    rw [Nat.pow_zero, Nat.div_one]; omega
  have e16 := div_next e0 x2.isLt
  have e22 := div_next e16 x1.isLt
  have e26 := div_next e22 x0.isLt
  refine ⟨digits_lt e26 (by decide), decodeWord_of (shape_09 (fld_digit (p := 0) (e26.trans (by decide)) (by decide))) ?_ hw⟩
  unfold shape09
  rw [show bfld n 22 4 = x0 from bfld_digit e22]
  rw [show bfld n 16 6 = x1 from bfld_digit e16]
  rw [show bfld n 0 16 = x2 from bfld_digit e0]

/-- Its word and back. -/
theorem RoundTrip.icmp (x0 : BitVec 4) (x1 : BitVec 3) (x2 : BitVec 3) (x3 : BitVec 6) (x4 : BitVec 6) : RoundTrip.Statement (.icmp x0 x1 x2 x3 x4) := by
  intro n hw hn
  have e0 : n / 2 ^ 0 = (((((10 * 2 ^ 4 + x0.toNat) * 2 ^ 3 + x1.toNat) * 2 ^ 3 + x2.toNat) * 2 ^ 6 + x3.toNat) * 2 ^ 6 + x4.toNat) * 2 ^ 4 + 0 := by
    have hn := Option.some.inj hn
    rw [Nat.pow_zero, Nat.div_one]; omega
  have e4 := div_next e0 (by decide)
  have e10 := div_next e4 x4.isLt
  have e16 := div_next e10 x3.isLt
  have e19 := div_next e16 x2.isLt
  have e22 := div_next e19 x1.isLt
  have e26 := div_next e22 x0.isLt
  have k0_4 : fld n 0 4 = 0 := fld_digit e0 (by decide)
  refine ⟨digits_lt e26 (by decide), decodeWord_of (shape_0A (fld_digit (p := 0) (e26.trans (by decide)) (by decide))) ?_ hw⟩
  unfold shape0A
  rw [if_pos k0_4]
  rw [show bfld n 22 4 = x0 from bfld_digit e22]
  rw [show bfld n 19 3 = x1 from bfld_digit e19]
  rw [show bfld n 16 3 = x2 from bfld_digit e16]
  rw [show bfld n 10 6 = x3 from bfld_digit e10]
  rw [show bfld n 4 6 = x4 from bfld_digit e4]

/-- Its word and back. -/
theorem RoundTrip.imadW (x0 : BitVec 5) (x1 : BitVec 6) (x2 : BitVec 6) (x3 : BitVec 5) : RoundTrip.Statement (.imadW x0 x1 x2 x3) := by
  intro n hw hn
  have e0 : n / 2 ^ 0 = (((((11 * 2 ^ 5 + x0.toNat) * 2 ^ 1 + 0) * 2 ^ 6 + x1.toNat) * 2 ^ 6 + x2.toNat) * 2 ^ 5 + x3.toNat) * 2 ^ 3 + 3 := by
    have hn := Option.some.inj hn
    rw [Nat.pow_zero, Nat.div_one]; omega
  have e3 := div_next e0 (by decide)
  have e8 := div_next e3 x3.isLt
  have e14 := div_next e8 x2.isLt
  have e20 := div_next e14 x1.isLt
  have e21 := div_next e20 (by decide)
  have e26 := div_next e21 x0.isLt
  have k20_1 : fld n 20 1 = 0 := fld_digit e20 (by decide)
  have k0_3 : fld n 0 3 = 3 := fld_digit e0 (by decide)
  refine ⟨digits_lt e26 (by decide), decodeWord_of (shape_0B (fld_digit (p := 0) (e26.trans (by decide)) (by decide))) ?_ hw⟩
  unfold shape0B
  rw [if_pos ⟨k20_1, k0_3⟩]
  rw [show bfld n 21 5 = x0 from bfld_digit e21]
  rw [show bfld n 14 6 = x1 from bfld_digit e14]
  rw [show bfld n 8 6 = x2 from bfld_digit e8]
  rw [show bfld n 3 5 = x3 from bfld_digit e3]

/-- Its word and back. -/
theorem RoundTrip.imad (x0 : BitVec 6) (x1 : BitVec 6) (x2 : BitVec 6) (x3 : BitVec 6) : RoundTrip.Statement (.imad x0 x1 x2 x3) := by
  intro n hw hn
  have e0 : n / 2 ^ 0 = ((((11 * 2 ^ 6 + x0.toNat) * 2 ^ 6 + x1.toNat) * 2 ^ 6 + x2.toNat) * 2 ^ 6 + x3.toNat) * 2 ^ 2 + 0 := by
    have hn := Option.some.inj hn
    rw [Nat.pow_zero, Nat.div_one]; omega
  have e2 := div_next e0 (by decide)
  have e8 := div_next e2 x3.isLt
  have e14 := div_next e8 x2.isLt
  have e20 := div_next e14 x1.isLt
  have e26 := div_next e20 x0.isLt
  have k0_2 : fld n 0 2 = 0 := fld_digit e0 (by decide)
  have hx0 := x0.isLt
  have hx1 := x1.isLt
  have hx2 := x2.isLt
  have hx3 := x3.isLt
  have hn := Option.some.inj hn
  refine ⟨digits_lt e26 (by decide), decodeWord_of (shape_0B (fld_digit (p := 0) (e26.trans (by decide)) (by decide))) ?_ hw⟩
  unfold shape0B
  rw [if_neg (by unfold fld; omega)]
  rw [if_pos k0_2]
  rw [show bfld n 20 6 = x0 from bfld_digit e20]
  rw [show bfld n 14 6 = x1 from bfld_digit e14]
  rw [show bfld n 8 6 = x2 from bfld_digit e8]
  rw [show bfld n 2 6 = x3 from bfld_digit e2]

/-- Its word and back. -/
theorem RoundTrip.imadhS (x0 : BitVec 6) (x1 : BitVec 6) (x2 : BitVec 6) (x3 : BitVec 6) : RoundTrip.Statement (.imadhS x0 x1 x2 x3) := by
  intro n hw hn
  have e0 : n / 2 ^ 0 = ((((11 * 2 ^ 6 + x0.toNat) * 2 ^ 6 + x1.toNat) * 2 ^ 6 + x2.toNat) * 2 ^ 6 + x3.toNat) * 2 ^ 2 + 1 := by
    have hn := Option.some.inj hn
    rw [Nat.pow_zero, Nat.div_one]; omega
  have e2 := div_next e0 (by decide)
  have e8 := div_next e2 x3.isLt
  have e14 := div_next e8 x2.isLt
  have e20 := div_next e14 x1.isLt
  have e26 := div_next e20 x0.isLt
  have k0_2 : fld n 0 2 = 1 := fld_digit e0 (by decide)
  have hx0 := x0.isLt
  have hx1 := x1.isLt
  have hx2 := x2.isLt
  have hx3 := x3.isLt
  have hn := Option.some.inj hn
  refine ⟨digits_lt e26 (by decide), decodeWord_of (shape_0B (fld_digit (p := 0) (e26.trans (by decide)) (by decide))) ?_ hw⟩
  unfold shape0B
  rw [if_neg (by unfold fld; omega), if_neg (fun h => absurd (k0_2.symm.trans h) (by decide))]
  rw [if_pos k0_2]
  rw [show bfld n 20 6 = x0 from bfld_digit e20]
  rw [show bfld n 14 6 = x1 from bfld_digit e14]
  rw [show bfld n 8 6 = x2 from bfld_digit e8]
  rw [show bfld n 2 6 = x3 from bfld_digit e2]

/-- Its word and back. -/
theorem RoundTrip.imadhN (x0 : BitVec 6) (x1 : BitVec 6) (x2 : BitVec 6) (x3 : BitVec 6) : RoundTrip.Statement (.imadhN x0 x1 x2 x3) := by
  intro n hw hn
  have e0 : n / 2 ^ 0 = ((((11 * 2 ^ 6 + x0.toNat) * 2 ^ 6 + x1.toNat) * 2 ^ 6 + x2.toNat) * 2 ^ 6 + x3.toNat) * 2 ^ 2 + 2 := by
    have hn := Option.some.inj hn
    rw [Nat.pow_zero, Nat.div_one]; omega
  have e2 := div_next e0 (by decide)
  have e8 := div_next e2 x3.isLt
  have e14 := div_next e8 x2.isLt
  have e20 := div_next e14 x1.isLt
  have e26 := div_next e20 x0.isLt
  have k0_2 : fld n 0 2 = 2 := fld_digit e0 (by decide)
  have hx0 := x0.isLt
  have hx1 := x1.isLt
  have hx2 := x2.isLt
  have hx3 := x3.isLt
  have hn := Option.some.inj hn
  refine ⟨digits_lt e26 (by decide), decodeWord_of (shape_0B (fld_digit (p := 0) (e26.trans (by decide)) (by decide))) ?_ hw⟩
  unfold shape0B
  rw [if_neg (by unfold fld; omega), if_neg (fun h => absurd (k0_2.symm.trans h) (by decide)), if_neg (fun h => absurd (k0_2.symm.trans h) (by decide))]
  rw [if_pos k0_2]
  rw [show bfld n 20 6 = x0 from bfld_digit e20]
  rw [show bfld n 14 6 = x1 from bfld_digit e14]
  rw [show bfld n 8 6 = x2 from bfld_digit e8]
  rw [show bfld n 2 6 = x3 from bfld_digit e2]

/-- Its word and back. -/
theorem RoundTrip.bfi (x0 : BitVec 6) (x1 : BitVec 6) (x2 : BitVec 6) (x3 : BitVec 6) : RoundTrip.Statement (.bfi x0 x1 x2 x3) := by
  intro n hw hn
  have e0 : n / 2 ^ 0 = ((((12 * 2 ^ 6 + x0.toNat) * 2 ^ 6 + x1.toNat) * 2 ^ 6 + x2.toNat) * 2 ^ 6 + x3.toNat) * 2 ^ 2 + 0 := by
    have hn := Option.some.inj hn
    rw [Nat.pow_zero, Nat.div_one]; omega
  have e2 := div_next e0 (by decide)
  have e8 := div_next e2 x3.isLt
  have e14 := div_next e8 x2.isLt
  have e20 := div_next e14 x1.isLt
  have e26 := div_next e20 x0.isLt
  have k0_2 : fld n 0 2 = 0 := fld_digit e0 (by decide)
  refine ⟨digits_lt e26 (by decide), decodeWord_of (shape_0C (fld_digit (p := 0) (e26.trans (by decide)) (by decide))) ?_ hw⟩
  unfold shape0C
  rw [if_pos k0_2]
  rw [show bfld n 20 6 = x0 from bfld_digit e20]
  rw [show bfld n 14 6 = x1 from bfld_digit e14]
  rw [show bfld n 8 6 = x2 from bfld_digit e8]
  rw [show bfld n 2 6 = x3 from bfld_digit e2]

/-- Its word and back. -/
theorem RoundTrip.dp4S8 (x0 : BitVec 6) (x1 : BitVec 6) (x2 : BitVec 6) (x3 : BitVec 6) : RoundTrip.Statement (.dp4S8 x0 x1 x2 x3) := by
  intro n hw hn
  have e0 : n / 2 ^ 0 = ((((12 * 2 ^ 6 + x0.toNat) * 2 ^ 6 + x1.toNat) * 2 ^ 6 + x2.toNat) * 2 ^ 6 + x3.toNat) * 2 ^ 2 + 1 := by
    have hn := Option.some.inj hn
    rw [Nat.pow_zero, Nat.div_one]; omega
  have e2 := div_next e0 (by decide)
  have e8 := div_next e2 x3.isLt
  have e14 := div_next e8 x2.isLt
  have e20 := div_next e14 x1.isLt
  have e26 := div_next e20 x0.isLt
  have k0_2 : fld n 0 2 = 1 := fld_digit e0 (by decide)
  refine ⟨digits_lt e26 (by decide), decodeWord_of (shape_0C (fld_digit (p := 0) (e26.trans (by decide)) (by decide))) ?_ hw⟩
  unfold shape0C
  rw [if_neg (fun h => absurd (k0_2.symm.trans h) (by decide))]
  rw [if_pos k0_2]
  rw [show bfld n 20 6 = x0 from bfld_digit e20]
  rw [show bfld n 14 6 = x1 from bfld_digit e14]
  rw [show bfld n 8 6 = x2 from bfld_digit e8]
  rw [show bfld n 2 6 = x3 from bfld_digit e2]

/-- Its word and back. -/
theorem RoundTrip.dp4N8 (x0 : BitVec 6) (x1 : BitVec 6) (x2 : BitVec 6) (x3 : BitVec 6) : RoundTrip.Statement (.dp4N8 x0 x1 x2 x3) := by
  intro n hw hn
  have e0 : n / 2 ^ 0 = ((((12 * 2 ^ 6 + x0.toNat) * 2 ^ 6 + x1.toNat) * 2 ^ 6 + x2.toNat) * 2 ^ 6 + x3.toNat) * 2 ^ 2 + 2 := by
    have hn := Option.some.inj hn
    rw [Nat.pow_zero, Nat.div_one]; omega
  have e2 := div_next e0 (by decide)
  have e8 := div_next e2 x3.isLt
  have e14 := div_next e8 x2.isLt
  have e20 := div_next e14 x1.isLt
  have e26 := div_next e20 x0.isLt
  have k0_2 : fld n 0 2 = 2 := fld_digit e0 (by decide)
  refine ⟨digits_lt e26 (by decide), decodeWord_of (shape_0C (fld_digit (p := 0) (e26.trans (by decide)) (by decide))) ?_ hw⟩
  unfold shape0C
  rw [if_neg (fun h => absurd (k0_2.symm.trans h) (by decide)), if_neg (fun h => absurd (k0_2.symm.trans h) (by decide))]
  rw [if_pos k0_2]
  rw [show bfld n 20 6 = x0 from bfld_digit e20]
  rw [show bfld n 14 6 = x1 from bfld_digit e14]
  rw [show bfld n 8 6 = x2 from bfld_digit e8]
  rw [show bfld n 2 6 = x3 from bfld_digit e2]

/-- Its word and back. -/
theorem RoundTrip.dp2S16 (x0 : BitVec 6) (x1 : BitVec 6) (x2 : BitVec 6) (x3 : BitVec 6) : RoundTrip.Statement (.dp2S16 x0 x1 x2 x3) := by
  intro n hw hn
  have e0 : n / 2 ^ 0 = ((((12 * 2 ^ 6 + x0.toNat) * 2 ^ 6 + x1.toNat) * 2 ^ 6 + x2.toNat) * 2 ^ 6 + x3.toNat) * 2 ^ 2 + 3 := by
    have hn := Option.some.inj hn
    rw [Nat.pow_zero, Nat.div_one]; omega
  have e2 := div_next e0 (by decide)
  have e8 := div_next e2 x3.isLt
  have e14 := div_next e8 x2.isLt
  have e20 := div_next e14 x1.isLt
  have e26 := div_next e20 x0.isLt
  have k0_2 : fld n 0 2 = 3 := fld_digit e0 (by decide)
  refine ⟨digits_lt e26 (by decide), decodeWord_of (shape_0C (fld_digit (p := 0) (e26.trans (by decide)) (by decide))) ?_ hw⟩
  unfold shape0C
  rw [if_neg (fun h => absurd (k0_2.symm.trans h) (by decide)), if_neg (fun h => absurd (k0_2.symm.trans h) (by decide)), if_neg (fun h => absurd (k0_2.symm.trans h) (by decide))]
  rw [if_pos k0_2]
  rw [show bfld n 20 6 = x0 from bfld_digit e20]
  rw [show bfld n 14 6 = x1 from bfld_digit e14]
  rw [show bfld n 8 6 = x2 from bfld_digit e8]
  rw [show bfld n 2 6 = x3 from bfld_digit e2]

/-- Its word and back. -/
theorem RoundTrip.fadd (x0 : BitVec 4) (x1 : BitVec 6) (x2 : BitVec 6) (x3 : BitVec 6) : RoundTrip.Statement (.fadd x0 x1 x2 x3) := by
  intro n hw hn
  have e0 : n / 2 ^ 0 = ((((13 * 2 ^ 4 + x0.toNat) * 2 ^ 6 + x1.toNat) * 2 ^ 6 + x2.toNat) * 2 ^ 6 + x3.toNat) * 2 ^ 4 + 0 := by
    have hn := Option.some.inj hn
    rw [Nat.pow_zero, Nat.div_one]; omega
  have e4 := div_next e0 (by decide)
  have e10 := div_next e4 x3.isLt
  have e16 := div_next e10 x2.isLt
  have e22 := div_next e16 x1.isLt
  have e26 := div_next e22 x0.isLt
  have k0_4 : fld n 0 4 = 0 := fld_digit e0 (by decide)
  refine ⟨digits_lt e26 (by decide), decodeWord_of (shape_0D (fld_digit (p := 0) (e26.trans (by decide)) (by decide))) ?_ hw⟩
  unfold shape0D
  rw [if_pos k0_4]
  rw [show bfld n 22 4 = x0 from bfld_digit e22]
  rw [show bfld n 16 6 = x1 from bfld_digit e16]
  rw [show bfld n 10 6 = x2 from bfld_digit e10]
  rw [show bfld n 4 6 = x3 from bfld_digit e4]

/-- Its word and back. -/
theorem RoundTrip.fsub (x0 : BitVec 4) (x1 : BitVec 6) (x2 : BitVec 6) (x3 : BitVec 6) : RoundTrip.Statement (.fsub x0 x1 x2 x3) := by
  intro n hw hn
  have e0 : n / 2 ^ 0 = ((((13 * 2 ^ 4 + x0.toNat) * 2 ^ 6 + x1.toNat) * 2 ^ 6 + x2.toNat) * 2 ^ 6 + x3.toNat) * 2 ^ 4 + 1 := by
    have hn := Option.some.inj hn
    rw [Nat.pow_zero, Nat.div_one]; omega
  have e4 := div_next e0 (by decide)
  have e10 := div_next e4 x3.isLt
  have e16 := div_next e10 x2.isLt
  have e22 := div_next e16 x1.isLt
  have e26 := div_next e22 x0.isLt
  have k0_4 : fld n 0 4 = 1 := fld_digit e0 (by decide)
  refine ⟨digits_lt e26 (by decide), decodeWord_of (shape_0D (fld_digit (p := 0) (e26.trans (by decide)) (by decide))) ?_ hw⟩
  unfold shape0D
  rw [if_neg (fun h => absurd (k0_4.symm.trans h) (by decide))]
  rw [if_pos k0_4]
  rw [show bfld n 22 4 = x0 from bfld_digit e22]
  rw [show bfld n 16 6 = x1 from bfld_digit e16]
  rw [show bfld n 10 6 = x2 from bfld_digit e10]
  rw [show bfld n 4 6 = x3 from bfld_digit e4]

/-- Its word and back. -/
theorem RoundTrip.fmul (x0 : BitVec 4) (x1 : BitVec 6) (x2 : BitVec 6) (x3 : BitVec 6) : RoundTrip.Statement (.fmul x0 x1 x2 x3) := by
  intro n hw hn
  have e0 : n / 2 ^ 0 = ((((13 * 2 ^ 4 + x0.toNat) * 2 ^ 6 + x1.toNat) * 2 ^ 6 + x2.toNat) * 2 ^ 6 + x3.toNat) * 2 ^ 4 + 2 := by
    have hn := Option.some.inj hn
    rw [Nat.pow_zero, Nat.div_one]; omega
  have e4 := div_next e0 (by decide)
  have e10 := div_next e4 x3.isLt
  have e16 := div_next e10 x2.isLt
  have e22 := div_next e16 x1.isLt
  have e26 := div_next e22 x0.isLt
  have k0_4 : fld n 0 4 = 2 := fld_digit e0 (by decide)
  refine ⟨digits_lt e26 (by decide), decodeWord_of (shape_0D (fld_digit (p := 0) (e26.trans (by decide)) (by decide))) ?_ hw⟩
  unfold shape0D
  rw [if_neg (fun h => absurd (k0_4.symm.trans h) (by decide)), if_neg (fun h => absurd (k0_4.symm.trans h) (by decide))]
  rw [if_pos k0_4]
  rw [show bfld n 22 4 = x0 from bfld_digit e22]
  rw [show bfld n 16 6 = x1 from bfld_digit e16]
  rw [show bfld n 10 6 = x2 from bfld_digit e10]
  rw [show bfld n 4 6 = x3 from bfld_digit e4]

/-- Its word and back. -/
theorem RoundTrip.fdiv (x0 : BitVec 4) (x1 : BitVec 6) (x2 : BitVec 6) (x3 : BitVec 6) : RoundTrip.Statement (.fdiv x0 x1 x2 x3) := by
  intro n hw hn
  have e0 : n / 2 ^ 0 = ((((13 * 2 ^ 4 + x0.toNat) * 2 ^ 6 + x1.toNat) * 2 ^ 6 + x2.toNat) * 2 ^ 6 + x3.toNat) * 2 ^ 4 + 3 := by
    have hn := Option.some.inj hn
    rw [Nat.pow_zero, Nat.div_one]; omega
  have e4 := div_next e0 (by decide)
  have e10 := div_next e4 x3.isLt
  have e16 := div_next e10 x2.isLt
  have e22 := div_next e16 x1.isLt
  have e26 := div_next e22 x0.isLt
  have k0_4 : fld n 0 4 = 3 := fld_digit e0 (by decide)
  refine ⟨digits_lt e26 (by decide), decodeWord_of (shape_0D (fld_digit (p := 0) (e26.trans (by decide)) (by decide))) ?_ hw⟩
  unfold shape0D
  rw [if_neg (fun h => absurd (k0_4.symm.trans h) (by decide)), if_neg (fun h => absurd (k0_4.symm.trans h) (by decide)), if_neg (fun h => absurd (k0_4.symm.trans h) (by decide))]
  rw [if_pos k0_4]
  rw [show bfld n 22 4 = x0 from bfld_digit e22]
  rw [show bfld n 16 6 = x1 from bfld_digit e16]
  rw [show bfld n 10 6 = x2 from bfld_digit e10]
  rw [show bfld n 4 6 = x3 from bfld_digit e4]

/-- Its word and back. -/
theorem RoundTrip.fmin (x0 : BitVec 4) (x1 : BitVec 6) (x2 : BitVec 6) (x3 : BitVec 6) : RoundTrip.Statement (.fmin x0 x1 x2 x3) := by
  intro n hw hn
  have e0 : n / 2 ^ 0 = ((((13 * 2 ^ 4 + x0.toNat) * 2 ^ 6 + x1.toNat) * 2 ^ 6 + x2.toNat) * 2 ^ 6 + x3.toNat) * 2 ^ 4 + 4 := by
    have hn := Option.some.inj hn
    rw [Nat.pow_zero, Nat.div_one]; omega
  have e4 := div_next e0 (by decide)
  have e10 := div_next e4 x3.isLt
  have e16 := div_next e10 x2.isLt
  have e22 := div_next e16 x1.isLt
  have e26 := div_next e22 x0.isLt
  have k0_4 : fld n 0 4 = 4 := fld_digit e0 (by decide)
  refine ⟨digits_lt e26 (by decide), decodeWord_of (shape_0D (fld_digit (p := 0) (e26.trans (by decide)) (by decide))) ?_ hw⟩
  unfold shape0D
  rw [if_neg (fun h => absurd (k0_4.symm.trans h) (by decide)), if_neg (fun h => absurd (k0_4.symm.trans h) (by decide)), if_neg (fun h => absurd (k0_4.symm.trans h) (by decide)), if_neg (fun h => absurd (k0_4.symm.trans h) (by decide))]
  rw [if_pos k0_4]
  rw [show bfld n 22 4 = x0 from bfld_digit e22]
  rw [show bfld n 16 6 = x1 from bfld_digit e16]
  rw [show bfld n 10 6 = x2 from bfld_digit e10]
  rw [show bfld n 4 6 = x3 from bfld_digit e4]

/-- Its word and back. -/
theorem RoundTrip.fmax (x0 : BitVec 4) (x1 : BitVec 6) (x2 : BitVec 6) (x3 : BitVec 6) : RoundTrip.Statement (.fmax x0 x1 x2 x3) := by
  intro n hw hn
  have e0 : n / 2 ^ 0 = ((((13 * 2 ^ 4 + x0.toNat) * 2 ^ 6 + x1.toNat) * 2 ^ 6 + x2.toNat) * 2 ^ 6 + x3.toNat) * 2 ^ 4 + 5 := by
    have hn := Option.some.inj hn
    rw [Nat.pow_zero, Nat.div_one]; omega
  have e4 := div_next e0 (by decide)
  have e10 := div_next e4 x3.isLt
  have e16 := div_next e10 x2.isLt
  have e22 := div_next e16 x1.isLt
  have e26 := div_next e22 x0.isLt
  have k0_4 : fld n 0 4 = 5 := fld_digit e0 (by decide)
  refine ⟨digits_lt e26 (by decide), decodeWord_of (shape_0D (fld_digit (p := 0) (e26.trans (by decide)) (by decide))) ?_ hw⟩
  unfold shape0D
  rw [if_neg (fun h => absurd (k0_4.symm.trans h) (by decide)), if_neg (fun h => absurd (k0_4.symm.trans h) (by decide)), if_neg (fun h => absurd (k0_4.symm.trans h) (by decide)), if_neg (fun h => absurd (k0_4.symm.trans h) (by decide)), if_neg (fun h => absurd (k0_4.symm.trans h) (by decide))]
  rw [if_pos k0_4]
  rw [show bfld n 22 4 = x0 from bfld_digit e22]
  rw [show bfld n 16 6 = x1 from bfld_digit e16]
  rw [show bfld n 10 6 = x2 from bfld_digit e10]
  rw [show bfld n 4 6 = x3 from bfld_digit e4]

/-- Its word and back. -/
theorem RoundTrip.fcsgn (x0 : BitVec 4) (x1 : BitVec 6) (x2 : BitVec 6) (x3 : BitVec 6) : RoundTrip.Statement (.fcsgn x0 x1 x2 x3) := by
  intro n hw hn
  have e0 : n / 2 ^ 0 = ((((13 * 2 ^ 4 + x0.toNat) * 2 ^ 6 + x1.toNat) * 2 ^ 6 + x2.toNat) * 2 ^ 6 + x3.toNat) * 2 ^ 4 + 6 := by
    have hn := Option.some.inj hn
    rw [Nat.pow_zero, Nat.div_one]; omega
  have e4 := div_next e0 (by decide)
  have e10 := div_next e4 x3.isLt
  have e16 := div_next e10 x2.isLt
  have e22 := div_next e16 x1.isLt
  have e26 := div_next e22 x0.isLt
  have k0_4 : fld n 0 4 = 6 := fld_digit e0 (by decide)
  refine ⟨digits_lt e26 (by decide), decodeWord_of (shape_0D (fld_digit (p := 0) (e26.trans (by decide)) (by decide))) ?_ hw⟩
  unfold shape0D
  rw [if_neg (fun h => absurd (k0_4.symm.trans h) (by decide)), if_neg (fun h => absurd (k0_4.symm.trans h) (by decide)), if_neg (fun h => absurd (k0_4.symm.trans h) (by decide)), if_neg (fun h => absurd (k0_4.symm.trans h) (by decide)), if_neg (fun h => absurd (k0_4.symm.trans h) (by decide)), if_neg (fun h => absurd (k0_4.symm.trans h) (by decide))]
  rw [if_pos k0_4]
  rw [show bfld n 22 4 = x0 from bfld_digit e22]
  rw [show bfld n 16 6 = x1 from bfld_digit e16]
  rw [show bfld n 10 6 = x2 from bfld_digit e10]
  rw [show bfld n 4 6 = x3 from bfld_digit e4]

/-- Its word and back. -/
theorem RoundTrip.fabd (x0 : BitVec 4) (x1 : BitVec 6) (x2 : BitVec 6) (x3 : BitVec 6) : RoundTrip.Statement (.fabd x0 x1 x2 x3) := by
  intro n hw hn
  have e0 : n / 2 ^ 0 = ((((13 * 2 ^ 4 + x0.toNat) * 2 ^ 6 + x1.toNat) * 2 ^ 6 + x2.toNat) * 2 ^ 6 + x3.toNat) * 2 ^ 4 + 7 := by
    have hn := Option.some.inj hn
    rw [Nat.pow_zero, Nat.div_one]; omega
  have e4 := div_next e0 (by decide)
  have e10 := div_next e4 x3.isLt
  have e16 := div_next e10 x2.isLt
  have e22 := div_next e16 x1.isLt
  have e26 := div_next e22 x0.isLt
  have k0_4 : fld n 0 4 = 7 := fld_digit e0 (by decide)
  refine ⟨digits_lt e26 (by decide), decodeWord_of (shape_0D (fld_digit (p := 0) (e26.trans (by decide)) (by decide))) ?_ hw⟩
  unfold shape0D
  rw [if_neg (fun h => absurd (k0_4.symm.trans h) (by decide)), if_neg (fun h => absurd (k0_4.symm.trans h) (by decide)), if_neg (fun h => absurd (k0_4.symm.trans h) (by decide)), if_neg (fun h => absurd (k0_4.symm.trans h) (by decide)), if_neg (fun h => absurd (k0_4.symm.trans h) (by decide)), if_neg (fun h => absurd (k0_4.symm.trans h) (by decide)), if_neg (fun h => absurd (k0_4.symm.trans h) (by decide))]
  rw [if_pos k0_4]
  rw [show bfld n 22 4 = x0 from bfld_digit e22]
  rw [show bfld n 16 6 = x1 from bfld_digit e16]
  rw [show bfld n 10 6 = x2 from bfld_digit e10]
  rw [show bfld n 4 6 = x3 from bfld_digit e4]

/-- Its word and back. -/
theorem RoundTrip.hadd2 (x0 : BitVec 4) (x1 : BitVec 6) (x2 : BitVec 6) (x3 : BitVec 6) : RoundTrip.Statement (.hadd2 x0 x1 x2 x3) := by
  intro n hw hn
  have e0 : n / 2 ^ 0 = ((((14 * 2 ^ 4 + x0.toNat) * 2 ^ 6 + x1.toNat) * 2 ^ 6 + x2.toNat) * 2 ^ 6 + x3.toNat) * 2 ^ 4 + 0 := by
    have hn := Option.some.inj hn
    rw [Nat.pow_zero, Nat.div_one]; omega
  have e4 := div_next e0 (by decide)
  have e10 := div_next e4 x3.isLt
  have e16 := div_next e10 x2.isLt
  have e22 := div_next e16 x1.isLt
  have e26 := div_next e22 x0.isLt
  have k0_4 : fld n 0 4 = 0 := fld_digit e0 (by decide)
  refine ⟨digits_lt e26 (by decide), decodeWord_of (shape_0E (fld_digit (p := 0) (e26.trans (by decide)) (by decide))) ?_ hw⟩
  unfold shape0E
  rw [if_pos k0_4]
  rw [show bfld n 22 4 = x0 from bfld_digit e22]
  rw [show bfld n 16 6 = x1 from bfld_digit e16]
  rw [show bfld n 10 6 = x2 from bfld_digit e10]
  rw [show bfld n 4 6 = x3 from bfld_digit e4]

/-- Its word and back. -/
theorem RoundTrip.hsub2 (x0 : BitVec 4) (x1 : BitVec 6) (x2 : BitVec 6) (x3 : BitVec 6) : RoundTrip.Statement (.hsub2 x0 x1 x2 x3) := by
  intro n hw hn
  have e0 : n / 2 ^ 0 = ((((14 * 2 ^ 4 + x0.toNat) * 2 ^ 6 + x1.toNat) * 2 ^ 6 + x2.toNat) * 2 ^ 6 + x3.toNat) * 2 ^ 4 + 1 := by
    have hn := Option.some.inj hn
    rw [Nat.pow_zero, Nat.div_one]; omega
  have e4 := div_next e0 (by decide)
  have e10 := div_next e4 x3.isLt
  have e16 := div_next e10 x2.isLt
  have e22 := div_next e16 x1.isLt
  have e26 := div_next e22 x0.isLt
  have k0_4 : fld n 0 4 = 1 := fld_digit e0 (by decide)
  refine ⟨digits_lt e26 (by decide), decodeWord_of (shape_0E (fld_digit (p := 0) (e26.trans (by decide)) (by decide))) ?_ hw⟩
  unfold shape0E
  rw [if_neg (fun h => absurd (k0_4.symm.trans h) (by decide))]
  rw [if_pos k0_4]
  rw [show bfld n 22 4 = x0 from bfld_digit e22]
  rw [show bfld n 16 6 = x1 from bfld_digit e16]
  rw [show bfld n 10 6 = x2 from bfld_digit e10]
  rw [show bfld n 4 6 = x3 from bfld_digit e4]

/-- Its word and back. -/
theorem RoundTrip.hmul2 (x0 : BitVec 4) (x1 : BitVec 6) (x2 : BitVec 6) (x3 : BitVec 6) : RoundTrip.Statement (.hmul2 x0 x1 x2 x3) := by
  intro n hw hn
  have e0 : n / 2 ^ 0 = ((((14 * 2 ^ 4 + x0.toNat) * 2 ^ 6 + x1.toNat) * 2 ^ 6 + x2.toNat) * 2 ^ 6 + x3.toNat) * 2 ^ 4 + 2 := by
    have hn := Option.some.inj hn
    rw [Nat.pow_zero, Nat.div_one]; omega
  have e4 := div_next e0 (by decide)
  have e10 := div_next e4 x3.isLt
  have e16 := div_next e10 x2.isLt
  have e22 := div_next e16 x1.isLt
  have e26 := div_next e22 x0.isLt
  have k0_4 : fld n 0 4 = 2 := fld_digit e0 (by decide)
  refine ⟨digits_lt e26 (by decide), decodeWord_of (shape_0E (fld_digit (p := 0) (e26.trans (by decide)) (by decide))) ?_ hw⟩
  unfold shape0E
  rw [if_neg (fun h => absurd (k0_4.symm.trans h) (by decide)), if_neg (fun h => absurd (k0_4.symm.trans h) (by decide))]
  rw [if_pos k0_4]
  rw [show bfld n 22 4 = x0 from bfld_digit e22]
  rw [show bfld n 16 6 = x1 from bfld_digit e16]
  rw [show bfld n 10 6 = x2 from bfld_digit e10]
  rw [show bfld n 4 6 = x3 from bfld_digit e4]

/-- Its word and back. -/
theorem RoundTrip.hmin2 (x0 : BitVec 4) (x1 : BitVec 6) (x2 : BitVec 6) (x3 : BitVec 6) : RoundTrip.Statement (.hmin2 x0 x1 x2 x3) := by
  intro n hw hn
  have e0 : n / 2 ^ 0 = ((((14 * 2 ^ 4 + x0.toNat) * 2 ^ 6 + x1.toNat) * 2 ^ 6 + x2.toNat) * 2 ^ 6 + x3.toNat) * 2 ^ 4 + 3 := by
    have hn := Option.some.inj hn
    rw [Nat.pow_zero, Nat.div_one]; omega
  have e4 := div_next e0 (by decide)
  have e10 := div_next e4 x3.isLt
  have e16 := div_next e10 x2.isLt
  have e22 := div_next e16 x1.isLt
  have e26 := div_next e22 x0.isLt
  have k0_4 : fld n 0 4 = 3 := fld_digit e0 (by decide)
  refine ⟨digits_lt e26 (by decide), decodeWord_of (shape_0E (fld_digit (p := 0) (e26.trans (by decide)) (by decide))) ?_ hw⟩
  unfold shape0E
  rw [if_neg (fun h => absurd (k0_4.symm.trans h) (by decide)), if_neg (fun h => absurd (k0_4.symm.trans h) (by decide)), if_neg (fun h => absurd (k0_4.symm.trans h) (by decide))]
  rw [if_pos k0_4]
  rw [show bfld n 22 4 = x0 from bfld_digit e22]
  rw [show bfld n 16 6 = x1 from bfld_digit e16]
  rw [show bfld n 10 6 = x2 from bfld_digit e10]
  rw [show bfld n 4 6 = x3 from bfld_digit e4]

/-- Its word and back. -/
theorem RoundTrip.hmax2 (x0 : BitVec 4) (x1 : BitVec 6) (x2 : BitVec 6) (x3 : BitVec 6) : RoundTrip.Statement (.hmax2 x0 x1 x2 x3) := by
  intro n hw hn
  have e0 : n / 2 ^ 0 = ((((14 * 2 ^ 4 + x0.toNat) * 2 ^ 6 + x1.toNat) * 2 ^ 6 + x2.toNat) * 2 ^ 6 + x3.toNat) * 2 ^ 4 + 4 := by
    have hn := Option.some.inj hn
    rw [Nat.pow_zero, Nat.div_one]; omega
  have e4 := div_next e0 (by decide)
  have e10 := div_next e4 x3.isLt
  have e16 := div_next e10 x2.isLt
  have e22 := div_next e16 x1.isLt
  have e26 := div_next e22 x0.isLt
  have k0_4 : fld n 0 4 = 4 := fld_digit e0 (by decide)
  refine ⟨digits_lt e26 (by decide), decodeWord_of (shape_0E (fld_digit (p := 0) (e26.trans (by decide)) (by decide))) ?_ hw⟩
  unfold shape0E
  rw [if_neg (fun h => absurd (k0_4.symm.trans h) (by decide)), if_neg (fun h => absurd (k0_4.symm.trans h) (by decide)), if_neg (fun h => absurd (k0_4.symm.trans h) (by decide)), if_neg (fun h => absurd (k0_4.symm.trans h) (by decide))]
  rw [if_pos k0_4]
  rw [show bfld n 22 4 = x0 from bfld_digit e22]
  rw [show bfld n 16 6 = x1 from bfld_digit e16]
  rw [show bfld n 10 6 = x2 from bfld_digit e10]
  rw [show bfld n 4 6 = x3 from bfld_digit e4]

/-- Its word and back. -/
theorem RoundTrip.badd2 (x0 : BitVec 4) (x1 : BitVec 6) (x2 : BitVec 6) (x3 : BitVec 6) : RoundTrip.Statement (.badd2 x0 x1 x2 x3) := by
  intro n hw hn
  have e0 : n / 2 ^ 0 = ((((14 * 2 ^ 4 + x0.toNat) * 2 ^ 6 + x1.toNat) * 2 ^ 6 + x2.toNat) * 2 ^ 6 + x3.toNat) * 2 ^ 4 + 8 := by
    have hn := Option.some.inj hn
    rw [Nat.pow_zero, Nat.div_one]; omega
  have e4 := div_next e0 (by decide)
  have e10 := div_next e4 x3.isLt
  have e16 := div_next e10 x2.isLt
  have e22 := div_next e16 x1.isLt
  have e26 := div_next e22 x0.isLt
  have k0_4 : fld n 0 4 = 8 := fld_digit e0 (by decide)
  refine ⟨digits_lt e26 (by decide), decodeWord_of (shape_0E (fld_digit (p := 0) (e26.trans (by decide)) (by decide))) ?_ hw⟩
  unfold shape0E
  rw [if_neg (fun h => absurd (k0_4.symm.trans h) (by decide)), if_neg (fun h => absurd (k0_4.symm.trans h) (by decide)), if_neg (fun h => absurd (k0_4.symm.trans h) (by decide)), if_neg (fun h => absurd (k0_4.symm.trans h) (by decide)), if_neg (fun h => absurd (k0_4.symm.trans h) (by decide))]
  rw [if_pos k0_4]
  rw [show bfld n 22 4 = x0 from bfld_digit e22]
  rw [show bfld n 16 6 = x1 from bfld_digit e16]
  rw [show bfld n 10 6 = x2 from bfld_digit e10]
  rw [show bfld n 4 6 = x3 from bfld_digit e4]

/-- Its word and back. -/
theorem RoundTrip.bsub2 (x0 : BitVec 4) (x1 : BitVec 6) (x2 : BitVec 6) (x3 : BitVec 6) : RoundTrip.Statement (.bsub2 x0 x1 x2 x3) := by
  intro n hw hn
  have e0 : n / 2 ^ 0 = ((((14 * 2 ^ 4 + x0.toNat) * 2 ^ 6 + x1.toNat) * 2 ^ 6 + x2.toNat) * 2 ^ 6 + x3.toNat) * 2 ^ 4 + 9 := by
    have hn := Option.some.inj hn
    rw [Nat.pow_zero, Nat.div_one]; omega
  have e4 := div_next e0 (by decide)
  have e10 := div_next e4 x3.isLt
  have e16 := div_next e10 x2.isLt
  have e22 := div_next e16 x1.isLt
  have e26 := div_next e22 x0.isLt
  have k0_4 : fld n 0 4 = 9 := fld_digit e0 (by decide)
  refine ⟨digits_lt e26 (by decide), decodeWord_of (shape_0E (fld_digit (p := 0) (e26.trans (by decide)) (by decide))) ?_ hw⟩
  unfold shape0E
  rw [if_neg (fun h => absurd (k0_4.symm.trans h) (by decide)), if_neg (fun h => absurd (k0_4.symm.trans h) (by decide)), if_neg (fun h => absurd (k0_4.symm.trans h) (by decide)), if_neg (fun h => absurd (k0_4.symm.trans h) (by decide)), if_neg (fun h => absurd (k0_4.symm.trans h) (by decide)), if_neg (fun h => absurd (k0_4.symm.trans h) (by decide))]
  rw [if_pos k0_4]
  rw [show bfld n 22 4 = x0 from bfld_digit e22]
  rw [show bfld n 16 6 = x1 from bfld_digit e16]
  rw [show bfld n 10 6 = x2 from bfld_digit e10]
  rw [show bfld n 4 6 = x3 from bfld_digit e4]

/-- Its word and back. -/
theorem RoundTrip.bmul2 (x0 : BitVec 4) (x1 : BitVec 6) (x2 : BitVec 6) (x3 : BitVec 6) : RoundTrip.Statement (.bmul2 x0 x1 x2 x3) := by
  intro n hw hn
  have e0 : n / 2 ^ 0 = ((((14 * 2 ^ 4 + x0.toNat) * 2 ^ 6 + x1.toNat) * 2 ^ 6 + x2.toNat) * 2 ^ 6 + x3.toNat) * 2 ^ 4 + 10 := by
    have hn := Option.some.inj hn
    rw [Nat.pow_zero, Nat.div_one]; omega
  have e4 := div_next e0 (by decide)
  have e10 := div_next e4 x3.isLt
  have e16 := div_next e10 x2.isLt
  have e22 := div_next e16 x1.isLt
  have e26 := div_next e22 x0.isLt
  have k0_4 : fld n 0 4 = 10 := fld_digit e0 (by decide)
  refine ⟨digits_lt e26 (by decide), decodeWord_of (shape_0E (fld_digit (p := 0) (e26.trans (by decide)) (by decide))) ?_ hw⟩
  unfold shape0E
  rw [if_neg (fun h => absurd (k0_4.symm.trans h) (by decide)), if_neg (fun h => absurd (k0_4.symm.trans h) (by decide)), if_neg (fun h => absurd (k0_4.symm.trans h) (by decide)), if_neg (fun h => absurd (k0_4.symm.trans h) (by decide)), if_neg (fun h => absurd (k0_4.symm.trans h) (by decide)), if_neg (fun h => absurd (k0_4.symm.trans h) (by decide)), if_neg (fun h => absurd (k0_4.symm.trans h) (by decide))]
  rw [if_pos k0_4]
  rw [show bfld n 22 4 = x0 from bfld_digit e22]
  rw [show bfld n 16 6 = x1 from bfld_digit e16]
  rw [show bfld n 10 6 = x2 from bfld_digit e10]
  rw [show bfld n 4 6 = x3 from bfld_digit e4]

/-- Its word and back. -/
theorem RoundTrip.bmin2 (x0 : BitVec 4) (x1 : BitVec 6) (x2 : BitVec 6) (x3 : BitVec 6) : RoundTrip.Statement (.bmin2 x0 x1 x2 x3) := by
  intro n hw hn
  have e0 : n / 2 ^ 0 = ((((14 * 2 ^ 4 + x0.toNat) * 2 ^ 6 + x1.toNat) * 2 ^ 6 + x2.toNat) * 2 ^ 6 + x3.toNat) * 2 ^ 4 + 11 := by
    have hn := Option.some.inj hn
    rw [Nat.pow_zero, Nat.div_one]; omega
  have e4 := div_next e0 (by decide)
  have e10 := div_next e4 x3.isLt
  have e16 := div_next e10 x2.isLt
  have e22 := div_next e16 x1.isLt
  have e26 := div_next e22 x0.isLt
  have k0_4 : fld n 0 4 = 11 := fld_digit e0 (by decide)
  refine ⟨digits_lt e26 (by decide), decodeWord_of (shape_0E (fld_digit (p := 0) (e26.trans (by decide)) (by decide))) ?_ hw⟩
  unfold shape0E
  rw [if_neg (fun h => absurd (k0_4.symm.trans h) (by decide)), if_neg (fun h => absurd (k0_4.symm.trans h) (by decide)), if_neg (fun h => absurd (k0_4.symm.trans h) (by decide)), if_neg (fun h => absurd (k0_4.symm.trans h) (by decide)), if_neg (fun h => absurd (k0_4.symm.trans h) (by decide)), if_neg (fun h => absurd (k0_4.symm.trans h) (by decide)), if_neg (fun h => absurd (k0_4.symm.trans h) (by decide)), if_neg (fun h => absurd (k0_4.symm.trans h) (by decide))]
  rw [if_pos k0_4]
  rw [show bfld n 22 4 = x0 from bfld_digit e22]
  rw [show bfld n 16 6 = x1 from bfld_digit e16]
  rw [show bfld n 10 6 = x2 from bfld_digit e10]
  rw [show bfld n 4 6 = x3 from bfld_digit e4]

/-- Its word and back. -/
theorem RoundTrip.bmax2 (x0 : BitVec 4) (x1 : BitVec 6) (x2 : BitVec 6) (x3 : BitVec 6) : RoundTrip.Statement (.bmax2 x0 x1 x2 x3) := by
  intro n hw hn
  have e0 : n / 2 ^ 0 = ((((14 * 2 ^ 4 + x0.toNat) * 2 ^ 6 + x1.toNat) * 2 ^ 6 + x2.toNat) * 2 ^ 6 + x3.toNat) * 2 ^ 4 + 12 := by
    have hn := Option.some.inj hn
    rw [Nat.pow_zero, Nat.div_one]; omega
  have e4 := div_next e0 (by decide)
  have e10 := div_next e4 x3.isLt
  have e16 := div_next e10 x2.isLt
  have e22 := div_next e16 x1.isLt
  have e26 := div_next e22 x0.isLt
  have k0_4 : fld n 0 4 = 12 := fld_digit e0 (by decide)
  refine ⟨digits_lt e26 (by decide), decodeWord_of (shape_0E (fld_digit (p := 0) (e26.trans (by decide)) (by decide))) ?_ hw⟩
  unfold shape0E
  rw [if_neg (fun h => absurd (k0_4.symm.trans h) (by decide)), if_neg (fun h => absurd (k0_4.symm.trans h) (by decide)), if_neg (fun h => absurd (k0_4.symm.trans h) (by decide)), if_neg (fun h => absurd (k0_4.symm.trans h) (by decide)), if_neg (fun h => absurd (k0_4.symm.trans h) (by decide)), if_neg (fun h => absurd (k0_4.symm.trans h) (by decide)), if_neg (fun h => absurd (k0_4.symm.trans h) (by decide)), if_neg (fun h => absurd (k0_4.symm.trans h) (by decide)), if_neg (fun h => absurd (k0_4.symm.trans h) (by decide))]
  rw [if_pos k0_4]
  rw [show bfld n 22 4 = x0 from bfld_digit e22]
  rw [show bfld n 16 6 = x1 from bfld_digit e16]
  rw [show bfld n 10 6 = x2 from bfld_digit e10]
  rw [show bfld n 4 6 = x3 from bfld_digit e4]

/-- Its word and back. -/
theorem RoundTrip.ffma (x0 : BitVec 6) (x1 : BitVec 6) (x2 : BitVec 6) (x3 : BitVec 6) : RoundTrip.Statement (.ffma x0 x1 x2 x3) := by
  intro n hw hn
  have e0 : n / 2 ^ 0 = ((((15 * 2 ^ 6 + x0.toNat) * 2 ^ 6 + x1.toNat) * 2 ^ 6 + x2.toNat) * 2 ^ 6 + x3.toNat) * 2 ^ 2 + 0 := by
    have hn := Option.some.inj hn
    rw [Nat.pow_zero, Nat.div_one]; omega
  have e2 := div_next e0 (by decide)
  have e8 := div_next e2 x3.isLt
  have e14 := div_next e8 x2.isLt
  have e20 := div_next e14 x1.isLt
  have e26 := div_next e20 x0.isLt
  have k0_2 : fld n 0 2 = 0 := fld_digit e0 (by decide)
  refine ⟨digits_lt e26 (by decide), decodeWord_of (shape_0F (fld_digit (p := 0) (e26.trans (by decide)) (by decide))) ?_ hw⟩
  unfold shape0F
  rw [if_pos k0_2]
  rw [show bfld n 20 6 = x0 from bfld_digit e20]
  rw [show bfld n 14 6 = x1 from bfld_digit e14]
  rw [show bfld n 8 6 = x2 from bfld_digit e8]
  rw [show bfld n 2 6 = x3 from bfld_digit e2]

/-- Its word and back. -/
theorem RoundTrip.ffms (x0 : BitVec 6) (x1 : BitVec 6) (x2 : BitVec 6) (x3 : BitVec 6) : RoundTrip.Statement (.ffms x0 x1 x2 x3) := by
  intro n hw hn
  have e0 : n / 2 ^ 0 = ((((15 * 2 ^ 6 + x0.toNat) * 2 ^ 6 + x1.toNat) * 2 ^ 6 + x2.toNat) * 2 ^ 6 + x3.toNat) * 2 ^ 2 + 1 := by
    have hn := Option.some.inj hn
    rw [Nat.pow_zero, Nat.div_one]; omega
  have e2 := div_next e0 (by decide)
  have e8 := div_next e2 x3.isLt
  have e14 := div_next e8 x2.isLt
  have e20 := div_next e14 x1.isLt
  have e26 := div_next e20 x0.isLt
  have k0_2 : fld n 0 2 = 1 := fld_digit e0 (by decide)
  refine ⟨digits_lt e26 (by decide), decodeWord_of (shape_0F (fld_digit (p := 0) (e26.trans (by decide)) (by decide))) ?_ hw⟩
  unfold shape0F
  rw [if_neg (fun h => absurd (k0_2.symm.trans h) (by decide))]
  rw [if_pos k0_2]
  rw [show bfld n 20 6 = x0 from bfld_digit e20]
  rw [show bfld n 14 6 = x1 from bfld_digit e14]
  rw [show bfld n 8 6 = x2 from bfld_digit e8]
  rw [show bfld n 2 6 = x3 from bfld_digit e2]

/-- Its word and back. -/
theorem RoundTrip.ffnma (x0 : BitVec 6) (x1 : BitVec 6) (x2 : BitVec 6) (x3 : BitVec 6) : RoundTrip.Statement (.ffnma x0 x1 x2 x3) := by
  intro n hw hn
  have e0 : n / 2 ^ 0 = ((((15 * 2 ^ 6 + x0.toNat) * 2 ^ 6 + x1.toNat) * 2 ^ 6 + x2.toNat) * 2 ^ 6 + x3.toNat) * 2 ^ 2 + 2 := by
    have hn := Option.some.inj hn
    rw [Nat.pow_zero, Nat.div_one]; omega
  have e2 := div_next e0 (by decide)
  have e8 := div_next e2 x3.isLt
  have e14 := div_next e8 x2.isLt
  have e20 := div_next e14 x1.isLt
  have e26 := div_next e20 x0.isLt
  have k0_2 : fld n 0 2 = 2 := fld_digit e0 (by decide)
  refine ⟨digits_lt e26 (by decide), decodeWord_of (shape_0F (fld_digit (p := 0) (e26.trans (by decide)) (by decide))) ?_ hw⟩
  unfold shape0F
  rw [if_neg (fun h => absurd (k0_2.symm.trans h) (by decide)), if_neg (fun h => absurd (k0_2.symm.trans h) (by decide))]
  rw [if_pos k0_2]
  rw [show bfld n 20 6 = x0 from bfld_digit e20]
  rw [show bfld n 14 6 = x1 from bfld_digit e14]
  rw [show bfld n 8 6 = x2 from bfld_digit e8]
  rw [show bfld n 2 6 = x3 from bfld_digit e2]

/-- Its word and back. -/
theorem RoundTrip.ffnms (x0 : BitVec 6) (x1 : BitVec 6) (x2 : BitVec 6) (x3 : BitVec 6) : RoundTrip.Statement (.ffnms x0 x1 x2 x3) := by
  intro n hw hn
  have e0 : n / 2 ^ 0 = ((((15 * 2 ^ 6 + x0.toNat) * 2 ^ 6 + x1.toNat) * 2 ^ 6 + x2.toNat) * 2 ^ 6 + x3.toNat) * 2 ^ 2 + 3 := by
    have hn := Option.some.inj hn
    rw [Nat.pow_zero, Nat.div_one]; omega
  have e2 := div_next e0 (by decide)
  have e8 := div_next e2 x3.isLt
  have e14 := div_next e8 x2.isLt
  have e20 := div_next e14 x1.isLt
  have e26 := div_next e20 x0.isLt
  have k0_2 : fld n 0 2 = 3 := fld_digit e0 (by decide)
  refine ⟨digits_lt e26 (by decide), decodeWord_of (shape_0F (fld_digit (p := 0) (e26.trans (by decide)) (by decide))) ?_ hw⟩
  unfold shape0F
  rw [if_neg (fun h => absurd (k0_2.symm.trans h) (by decide)), if_neg (fun h => absurd (k0_2.symm.trans h) (by decide)), if_neg (fun h => absurd (k0_2.symm.trans h) (by decide))]
  rw [if_pos k0_2]
  rw [show bfld n 20 6 = x0 from bfld_digit e20]
  rw [show bfld n 14 6 = x1 from bfld_digit e14]
  rw [show bfld n 8 6 = x2 from bfld_digit e8]
  rw [show bfld n 2 6 = x3 from bfld_digit e2]

/-- Its word and back. -/
theorem RoundTrip.hfma2 (x0 : BitVec 6) (x1 : BitVec 6) (x2 : BitVec 6) (x3 : BitVec 6) : RoundTrip.Statement (.hfma2 x0 x1 x2 x3) := by
  intro n hw hn
  have e0 : n / 2 ^ 0 = ((((16 * 2 ^ 6 + x0.toNat) * 2 ^ 6 + x1.toNat) * 2 ^ 6 + x2.toNat) * 2 ^ 6 + x3.toNat) * 2 ^ 2 + 0 := by
    have hn := Option.some.inj hn
    rw [Nat.pow_zero, Nat.div_one]; omega
  have e2 := div_next e0 (by decide)
  have e8 := div_next e2 x3.isLt
  have e14 := div_next e8 x2.isLt
  have e20 := div_next e14 x1.isLt
  have e26 := div_next e20 x0.isLt
  have k0_2 : fld n 0 2 = 0 := fld_digit e0 (by decide)
  refine ⟨digits_lt e26 (by decide), decodeWord_of (shape_10 (fld_digit (p := 0) (e26.trans (by decide)) (by decide))) ?_ hw⟩
  unfold shape10
  rw [if_pos k0_2]
  rw [show bfld n 20 6 = x0 from bfld_digit e20]
  rw [show bfld n 14 6 = x1 from bfld_digit e14]
  rw [show bfld n 8 6 = x2 from bfld_digit e8]
  rw [show bfld n 2 6 = x3 from bfld_digit e2]

/-- Its word and back. -/
theorem RoundTrip.bfma2 (x0 : BitVec 6) (x1 : BitVec 6) (x2 : BitVec 6) (x3 : BitVec 6) : RoundTrip.Statement (.bfma2 x0 x1 x2 x3) := by
  intro n hw hn
  have e0 : n / 2 ^ 0 = ((((16 * 2 ^ 6 + x0.toNat) * 2 ^ 6 + x1.toNat) * 2 ^ 6 + x2.toNat) * 2 ^ 6 + x3.toNat) * 2 ^ 2 + 1 := by
    have hn := Option.some.inj hn
    rw [Nat.pow_zero, Nat.div_one]; omega
  have e2 := div_next e0 (by decide)
  have e8 := div_next e2 x3.isLt
  have e14 := div_next e8 x2.isLt
  have e20 := div_next e14 x1.isLt
  have e26 := div_next e20 x0.isLt
  have k0_2 : fld n 0 2 = 1 := fld_digit e0 (by decide)
  refine ⟨digits_lt e26 (by decide), decodeWord_of (shape_10 (fld_digit (p := 0) (e26.trans (by decide)) (by decide))) ?_ hw⟩
  unfold shape10
  rw [if_neg (fun h => absurd (k0_2.symm.trans h) (by decide))]
  rw [if_pos k0_2]
  rw [show bfld n 20 6 = x0 from bfld_digit e20]
  rw [show bfld n 14 6 = x1 from bfld_digit e14]
  rw [show bfld n 8 6 = x2 from bfld_digit e8]
  rw [show bfld n 2 6 = x3 from bfld_digit e2]

/-- Its word and back. -/
theorem RoundTrip.hfma2F32 (x0 : BitVec 6) (x1 : BitVec 6) (x2 : BitVec 6) (x3 : BitVec 6) : RoundTrip.Statement (.hfma2F32 x0 x1 x2 x3) := by
  intro n hw hn
  have e0 : n / 2 ^ 0 = ((((16 * 2 ^ 6 + x0.toNat) * 2 ^ 6 + x1.toNat) * 2 ^ 6 + x2.toNat) * 2 ^ 6 + x3.toNat) * 2 ^ 2 + 2 := by
    have hn := Option.some.inj hn
    rw [Nat.pow_zero, Nat.div_one]; omega
  have e2 := div_next e0 (by decide)
  have e8 := div_next e2 x3.isLt
  have e14 := div_next e8 x2.isLt
  have e20 := div_next e14 x1.isLt
  have e26 := div_next e20 x0.isLt
  have k0_2 : fld n 0 2 = 2 := fld_digit e0 (by decide)
  refine ⟨digits_lt e26 (by decide), decodeWord_of (shape_10 (fld_digit (p := 0) (e26.trans (by decide)) (by decide))) ?_ hw⟩
  unfold shape10
  rw [if_neg (fun h => absurd (k0_2.symm.trans h) (by decide)), if_neg (fun h => absurd (k0_2.symm.trans h) (by decide))]
  rw [if_pos k0_2]
  rw [show bfld n 20 6 = x0 from bfld_digit e20]
  rw [show bfld n 14 6 = x1 from bfld_digit e14]
  rw [show bfld n 8 6 = x2 from bfld_digit e8]
  rw [show bfld n 2 6 = x3 from bfld_digit e2]

/-- Its word and back. -/
theorem RoundTrip.bfma2F32 (x0 : BitVec 6) (x1 : BitVec 6) (x2 : BitVec 6) (x3 : BitVec 6) : RoundTrip.Statement (.bfma2F32 x0 x1 x2 x3) := by
  intro n hw hn
  have e0 : n / 2 ^ 0 = ((((16 * 2 ^ 6 + x0.toNat) * 2 ^ 6 + x1.toNat) * 2 ^ 6 + x2.toNat) * 2 ^ 6 + x3.toNat) * 2 ^ 2 + 3 := by
    have hn := Option.some.inj hn
    rw [Nat.pow_zero, Nat.div_one]; omega
  have e2 := div_next e0 (by decide)
  have e8 := div_next e2 x3.isLt
  have e14 := div_next e8 x2.isLt
  have e20 := div_next e14 x1.isLt
  have e26 := div_next e20 x0.isLt
  have k0_2 : fld n 0 2 = 3 := fld_digit e0 (by decide)
  refine ⟨digits_lt e26 (by decide), decodeWord_of (shape_10 (fld_digit (p := 0) (e26.trans (by decide)) (by decide))) ?_ hw⟩
  unfold shape10
  rw [if_neg (fun h => absurd (k0_2.symm.trans h) (by decide)), if_neg (fun h => absurd (k0_2.symm.trans h) (by decide)), if_neg (fun h => absurd (k0_2.symm.trans h) (by decide))]
  rw [if_pos k0_2]
  rw [show bfld n 20 6 = x0 from bfld_digit e20]
  rw [show bfld n 14 6 = x1 from bfld_digit e14]
  rw [show bfld n 8 6 = x2 from bfld_digit e8]
  rw [show bfld n 2 6 = x3 from bfld_digit e2]

/-- Its word and back. -/
theorem RoundTrip.fcmp (x0 : BitVec 4) (x1 : BitVec 3) (x2 : BitVec 3) (x3 : BitVec 6) (x4 : BitVec 6) : RoundTrip.Statement (.fcmp x0 x1 x2 x3 x4) := by
  intro n hw hn
  have e0 : n / 2 ^ 0 = (((((17 * 2 ^ 4 + x0.toNat) * 2 ^ 3 + x1.toNat) * 2 ^ 3 + x2.toNat) * 2 ^ 6 + x3.toNat) * 2 ^ 6 + x4.toNat) * 2 ^ 4 + 0 := by
    have hn := Option.some.inj hn
    rw [Nat.pow_zero, Nat.div_one]; omega
  have e4 := div_next e0 (by decide)
  have e10 := div_next e4 x4.isLt
  have e16 := div_next e10 x3.isLt
  have e19 := div_next e16 x2.isLt
  have e22 := div_next e19 x1.isLt
  have e26 := div_next e22 x0.isLt
  have k0_4 : fld n 0 4 = 0 := fld_digit e0 (by decide)
  refine ⟨digits_lt e26 (by decide), decodeWord_of (shape_11 (fld_digit (p := 0) (e26.trans (by decide)) (by decide))) ?_ hw⟩
  unfold shape11
  rw [if_pos k0_4]
  rw [show bfld n 22 4 = x0 from bfld_digit e22]
  rw [show bfld n 19 3 = x1 from bfld_digit e19]
  rw [show bfld n 16 3 = x2 from bfld_digit e16]
  rw [show bfld n 10 6 = x3 from bfld_digit e10]
  rw [show bfld n 4 6 = x4 from bfld_digit e4]

/-- Its word and back. -/
theorem RoundTrip.frcp (x0 : BitVec 4) (x1 : BitVec 6) (x2 : BitVec 6) : RoundTrip.Statement (.frcp x0 x1 x2) := by
  intro n hw hn
  have e0 : n / 2 ^ 0 = (((18 * 2 ^ 4 + x0.toNat) * 2 ^ 6 + x1.toNat) * 2 ^ 6 + x2.toNat) * 2 ^ 10 + 0 := by
    have hn := Option.some.inj hn
    rw [Nat.pow_zero, Nat.div_one]; omega
  have e10 := div_next e0 (by decide)
  have e16 := div_next e10 x2.isLt
  have e22 := div_next e16 x1.isLt
  have e26 := div_next e22 x0.isLt
  have k0_10 : fld n 0 10 = 0 := fld_digit e0 (by decide)
  refine ⟨digits_lt e26 (by decide), decodeWord_of (shape_12 (fld_digit (p := 0) (e26.trans (by decide)) (by decide))) ?_ hw⟩
  unfold shape12
  rw [if_pos k0_10]
  rw [show bfld n 22 4 = x0 from bfld_digit e22]
  rw [show bfld n 16 6 = x1 from bfld_digit e16]
  rw [show bfld n 10 6 = x2 from bfld_digit e10]

/-- Its word and back. -/
theorem RoundTrip.frsq (x0 : BitVec 4) (x1 : BitVec 6) (x2 : BitVec 6) : RoundTrip.Statement (.frsq x0 x1 x2) := by
  intro n hw hn
  have e0 : n / 2 ^ 0 = (((18 * 2 ^ 4 + x0.toNat) * 2 ^ 6 + x1.toNat) * 2 ^ 6 + x2.toNat) * 2 ^ 10 + 1 := by
    have hn := Option.some.inj hn
    rw [Nat.pow_zero, Nat.div_one]; omega
  have e10 := div_next e0 (by decide)
  have e16 := div_next e10 x2.isLt
  have e22 := div_next e16 x1.isLt
  have e26 := div_next e22 x0.isLt
  have k0_10 : fld n 0 10 = 1 := fld_digit e0 (by decide)
  refine ⟨digits_lt e26 (by decide), decodeWord_of (shape_12 (fld_digit (p := 0) (e26.trans (by decide)) (by decide))) ?_ hw⟩
  unfold shape12
  rw [if_neg (fun h => absurd (k0_10.symm.trans h) (by decide))]
  rw [if_pos k0_10]
  rw [show bfld n 22 4 = x0 from bfld_digit e22]
  rw [show bfld n 16 6 = x1 from bfld_digit e16]
  rw [show bfld n 10 6 = x2 from bfld_digit e10]

/-- Its word and back. -/
theorem RoundTrip.fsqrt (x0 : BitVec 4) (x1 : BitVec 6) (x2 : BitVec 6) : RoundTrip.Statement (.fsqrt x0 x1 x2) := by
  intro n hw hn
  have e0 : n / 2 ^ 0 = (((18 * 2 ^ 4 + x0.toNat) * 2 ^ 6 + x1.toNat) * 2 ^ 6 + x2.toNat) * 2 ^ 10 + 2 := by
    have hn := Option.some.inj hn
    rw [Nat.pow_zero, Nat.div_one]; omega
  have e10 := div_next e0 (by decide)
  have e16 := div_next e10 x2.isLt
  have e22 := div_next e16 x1.isLt
  have e26 := div_next e22 x0.isLt
  have k0_10 : fld n 0 10 = 2 := fld_digit e0 (by decide)
  refine ⟨digits_lt e26 (by decide), decodeWord_of (shape_12 (fld_digit (p := 0) (e26.trans (by decide)) (by decide))) ?_ hw⟩
  unfold shape12
  rw [if_neg (fun h => absurd (k0_10.symm.trans h) (by decide)), if_neg (fun h => absurd (k0_10.symm.trans h) (by decide))]
  rw [if_pos k0_10]
  rw [show bfld n 22 4 = x0 from bfld_digit e22]
  rw [show bfld n 16 6 = x1 from bfld_digit e16]
  rw [show bfld n 10 6 = x2 from bfld_digit e10]

/-- Its word and back. -/
theorem RoundTrip.fex2 (x0 : BitVec 4) (x1 : BitVec 6) (x2 : BitVec 6) : RoundTrip.Statement (.fex2 x0 x1 x2) := by
  intro n hw hn
  have e0 : n / 2 ^ 0 = (((18 * 2 ^ 4 + x0.toNat) * 2 ^ 6 + x1.toNat) * 2 ^ 6 + x2.toNat) * 2 ^ 10 + 3 := by
    have hn := Option.some.inj hn
    rw [Nat.pow_zero, Nat.div_one]; omega
  have e10 := div_next e0 (by decide)
  have e16 := div_next e10 x2.isLt
  have e22 := div_next e16 x1.isLt
  have e26 := div_next e22 x0.isLt
  have k0_10 : fld n 0 10 = 3 := fld_digit e0 (by decide)
  refine ⟨digits_lt e26 (by decide), decodeWord_of (shape_12 (fld_digit (p := 0) (e26.trans (by decide)) (by decide))) ?_ hw⟩
  unfold shape12
  rw [if_neg (fun h => absurd (k0_10.symm.trans h) (by decide)), if_neg (fun h => absurd (k0_10.symm.trans h) (by decide)), if_neg (fun h => absurd (k0_10.symm.trans h) (by decide))]
  rw [if_pos k0_10]
  rw [show bfld n 22 4 = x0 from bfld_digit e22]
  rw [show bfld n 16 6 = x1 from bfld_digit e16]
  rw [show bfld n 10 6 = x2 from bfld_digit e10]

/-- Its word and back. -/
theorem RoundTrip.flg2 (x0 : BitVec 4) (x1 : BitVec 6) (x2 : BitVec 6) : RoundTrip.Statement (.flg2 x0 x1 x2) := by
  intro n hw hn
  have e0 : n / 2 ^ 0 = (((18 * 2 ^ 4 + x0.toNat) * 2 ^ 6 + x1.toNat) * 2 ^ 6 + x2.toNat) * 2 ^ 10 + 4 := by
    have hn := Option.some.inj hn
    rw [Nat.pow_zero, Nat.div_one]; omega
  have e10 := div_next e0 (by decide)
  have e16 := div_next e10 x2.isLt
  have e22 := div_next e16 x1.isLt
  have e26 := div_next e22 x0.isLt
  have k0_10 : fld n 0 10 = 4 := fld_digit e0 (by decide)
  refine ⟨digits_lt e26 (by decide), decodeWord_of (shape_12 (fld_digit (p := 0) (e26.trans (by decide)) (by decide))) ?_ hw⟩
  unfold shape12
  rw [if_neg (fun h => absurd (k0_10.symm.trans h) (by decide)), if_neg (fun h => absurd (k0_10.symm.trans h) (by decide)), if_neg (fun h => absurd (k0_10.symm.trans h) (by decide)), if_neg (fun h => absurd (k0_10.symm.trans h) (by decide))]
  rw [if_pos k0_10]
  rw [show bfld n 22 4 = x0 from bfld_digit e22]
  rw [show bfld n 16 6 = x1 from bfld_digit e16]
  rw [show bfld n 10 6 = x2 from bfld_digit e10]

/-- Its word and back. -/
theorem RoundTrip.fsin (x0 : BitVec 4) (x1 : BitVec 6) (x2 : BitVec 6) : RoundTrip.Statement (.fsin x0 x1 x2) := by
  intro n hw hn
  have e0 : n / 2 ^ 0 = (((18 * 2 ^ 4 + x0.toNat) * 2 ^ 6 + x1.toNat) * 2 ^ 6 + x2.toNat) * 2 ^ 10 + 5 := by
    have hn := Option.some.inj hn
    rw [Nat.pow_zero, Nat.div_one]; omega
  have e10 := div_next e0 (by decide)
  have e16 := div_next e10 x2.isLt
  have e22 := div_next e16 x1.isLt
  have e26 := div_next e22 x0.isLt
  have k0_10 : fld n 0 10 = 5 := fld_digit e0 (by decide)
  refine ⟨digits_lt e26 (by decide), decodeWord_of (shape_12 (fld_digit (p := 0) (e26.trans (by decide)) (by decide))) ?_ hw⟩
  unfold shape12
  rw [if_neg (fun h => absurd (k0_10.symm.trans h) (by decide)), if_neg (fun h => absurd (k0_10.symm.trans h) (by decide)), if_neg (fun h => absurd (k0_10.symm.trans h) (by decide)), if_neg (fun h => absurd (k0_10.symm.trans h) (by decide)), if_neg (fun h => absurd (k0_10.symm.trans h) (by decide))]
  rw [if_pos k0_10]
  rw [show bfld n 22 4 = x0 from bfld_digit e22]
  rw [show bfld n 16 6 = x1 from bfld_digit e16]
  rw [show bfld n 10 6 = x2 from bfld_digit e10]

/-- Its word and back. -/
theorem RoundTrip.fcos (x0 : BitVec 4) (x1 : BitVec 6) (x2 : BitVec 6) : RoundTrip.Statement (.fcos x0 x1 x2) := by
  intro n hw hn
  have e0 : n / 2 ^ 0 = (((18 * 2 ^ 4 + x0.toNat) * 2 ^ 6 + x1.toNat) * 2 ^ 6 + x2.toNat) * 2 ^ 10 + 6 := by
    have hn := Option.some.inj hn
    rw [Nat.pow_zero, Nat.div_one]; omega
  have e10 := div_next e0 (by decide)
  have e16 := div_next e10 x2.isLt
  have e22 := div_next e16 x1.isLt
  have e26 := div_next e22 x0.isLt
  have k0_10 : fld n 0 10 = 6 := fld_digit e0 (by decide)
  refine ⟨digits_lt e26 (by decide), decodeWord_of (shape_12 (fld_digit (p := 0) (e26.trans (by decide)) (by decide))) ?_ hw⟩
  unfold shape12
  rw [if_neg (fun h => absurd (k0_10.symm.trans h) (by decide)), if_neg (fun h => absurd (k0_10.symm.trans h) (by decide)), if_neg (fun h => absurd (k0_10.symm.trans h) (by decide)), if_neg (fun h => absurd (k0_10.symm.trans h) (by decide)), if_neg (fun h => absurd (k0_10.symm.trans h) (by decide)), if_neg (fun h => absurd (k0_10.symm.trans h) (by decide))]
  rw [if_pos k0_10]
  rw [show bfld n 22 4 = x0 from bfld_digit e22]
  rw [show bfld n 16 6 = x1 from bfld_digit e16]
  rw [show bfld n 10 6 = x2 from bfld_digit e10]

/-- Its word and back. -/
theorem RoundTrip.ftanh (x0 : BitVec 4) (x1 : BitVec 6) (x2 : BitVec 6) : RoundTrip.Statement (.ftanh x0 x1 x2) := by
  intro n hw hn
  have e0 : n / 2 ^ 0 = (((18 * 2 ^ 4 + x0.toNat) * 2 ^ 6 + x1.toNat) * 2 ^ 6 + x2.toNat) * 2 ^ 10 + 7 := by
    have hn := Option.some.inj hn
    rw [Nat.pow_zero, Nat.div_one]; omega
  have e10 := div_next e0 (by decide)
  have e16 := div_next e10 x2.isLt
  have e22 := div_next e16 x1.isLt
  have e26 := div_next e22 x0.isLt
  have k0_10 : fld n 0 10 = 7 := fld_digit e0 (by decide)
  refine ⟨digits_lt e26 (by decide), decodeWord_of (shape_12 (fld_digit (p := 0) (e26.trans (by decide)) (by decide))) ?_ hw⟩
  unfold shape12
  rw [if_neg (fun h => absurd (k0_10.symm.trans h) (by decide)), if_neg (fun h => absurd (k0_10.symm.trans h) (by decide)), if_neg (fun h => absurd (k0_10.symm.trans h) (by decide)), if_neg (fun h => absurd (k0_10.symm.trans h) (by decide)), if_neg (fun h => absurd (k0_10.symm.trans h) (by decide)), if_neg (fun h => absurd (k0_10.symm.trans h) (by decide)), if_neg (fun h => absurd (k0_10.symm.trans h) (by decide))]
  rw [if_pos k0_10]
  rw [show bfld n 22 4 = x0 from bfld_digit e22]
  rw [show bfld n 16 6 = x1 from bfld_digit e16]
  rw [show bfld n 10 6 = x2 from bfld_digit e10]

/-- Its word and back. -/
theorem RoundTrip.frndRn (x0 : BitVec 4) (x1 : BitVec 6) (x2 : BitVec 6) : RoundTrip.Statement (.frndRn x0 x1 x2) := by
  intro n hw hn
  have e0 : n / 2 ^ 0 = (((18 * 2 ^ 4 + x0.toNat) * 2 ^ 6 + x1.toNat) * 2 ^ 6 + x2.toNat) * 2 ^ 10 + 8 := by
    have hn := Option.some.inj hn
    rw [Nat.pow_zero, Nat.div_one]; omega
  have e10 := div_next e0 (by decide)
  have e16 := div_next e10 x2.isLt
  have e22 := div_next e16 x1.isLt
  have e26 := div_next e22 x0.isLt
  have k0_10 : fld n 0 10 = 8 := fld_digit e0 (by decide)
  refine ⟨digits_lt e26 (by decide), decodeWord_of (shape_12 (fld_digit (p := 0) (e26.trans (by decide)) (by decide))) ?_ hw⟩
  unfold shape12
  rw [if_neg (fun h => absurd (k0_10.symm.trans h) (by decide)), if_neg (fun h => absurd (k0_10.symm.trans h) (by decide)), if_neg (fun h => absurd (k0_10.symm.trans h) (by decide)), if_neg (fun h => absurd (k0_10.symm.trans h) (by decide)), if_neg (fun h => absurd (k0_10.symm.trans h) (by decide)), if_neg (fun h => absurd (k0_10.symm.trans h) (by decide)), if_neg (fun h => absurd (k0_10.symm.trans h) (by decide)), if_neg (fun h => absurd (k0_10.symm.trans h) (by decide))]
  rw [if_pos k0_10]
  rw [show bfld n 22 4 = x0 from bfld_digit e22]
  rw [show bfld n 16 6 = x1 from bfld_digit e16]
  rw [show bfld n 10 6 = x2 from bfld_digit e10]

/-- Its word and back. -/
theorem RoundTrip.frndRz (x0 : BitVec 4) (x1 : BitVec 6) (x2 : BitVec 6) : RoundTrip.Statement (.frndRz x0 x1 x2) := by
  intro n hw hn
  have e0 : n / 2 ^ 0 = (((18 * 2 ^ 4 + x0.toNat) * 2 ^ 6 + x1.toNat) * 2 ^ 6 + x2.toNat) * 2 ^ 10 + 9 := by
    have hn := Option.some.inj hn
    rw [Nat.pow_zero, Nat.div_one]; omega
  have e10 := div_next e0 (by decide)
  have e16 := div_next e10 x2.isLt
  have e22 := div_next e16 x1.isLt
  have e26 := div_next e22 x0.isLt
  have k0_10 : fld n 0 10 = 9 := fld_digit e0 (by decide)
  refine ⟨digits_lt e26 (by decide), decodeWord_of (shape_12 (fld_digit (p := 0) (e26.trans (by decide)) (by decide))) ?_ hw⟩
  unfold shape12
  rw [if_neg (fun h => absurd (k0_10.symm.trans h) (by decide)), if_neg (fun h => absurd (k0_10.symm.trans h) (by decide)), if_neg (fun h => absurd (k0_10.symm.trans h) (by decide)), if_neg (fun h => absurd (k0_10.symm.trans h) (by decide)), if_neg (fun h => absurd (k0_10.symm.trans h) (by decide)), if_neg (fun h => absurd (k0_10.symm.trans h) (by decide)), if_neg (fun h => absurd (k0_10.symm.trans h) (by decide)), if_neg (fun h => absurd (k0_10.symm.trans h) (by decide)), if_neg (fun h => absurd (k0_10.symm.trans h) (by decide))]
  rw [if_pos k0_10]
  rw [show bfld n 22 4 = x0 from bfld_digit e22]
  rw [show bfld n 16 6 = x1 from bfld_digit e16]
  rw [show bfld n 10 6 = x2 from bfld_digit e10]

/-- Its word and back. -/
theorem RoundTrip.frndRu (x0 : BitVec 4) (x1 : BitVec 6) (x2 : BitVec 6) : RoundTrip.Statement (.frndRu x0 x1 x2) := by
  intro n hw hn
  have e0 : n / 2 ^ 0 = (((18 * 2 ^ 4 + x0.toNat) * 2 ^ 6 + x1.toNat) * 2 ^ 6 + x2.toNat) * 2 ^ 10 + 10 := by
    have hn := Option.some.inj hn
    rw [Nat.pow_zero, Nat.div_one]; omega
  have e10 := div_next e0 (by decide)
  have e16 := div_next e10 x2.isLt
  have e22 := div_next e16 x1.isLt
  have e26 := div_next e22 x0.isLt
  have k0_10 : fld n 0 10 = 10 := fld_digit e0 (by decide)
  refine ⟨digits_lt e26 (by decide), decodeWord_of (shape_12 (fld_digit (p := 0) (e26.trans (by decide)) (by decide))) ?_ hw⟩
  unfold shape12
  rw [if_neg (fun h => absurd (k0_10.symm.trans h) (by decide)), if_neg (fun h => absurd (k0_10.symm.trans h) (by decide)), if_neg (fun h => absurd (k0_10.symm.trans h) (by decide)), if_neg (fun h => absurd (k0_10.symm.trans h) (by decide)), if_neg (fun h => absurd (k0_10.symm.trans h) (by decide)), if_neg (fun h => absurd (k0_10.symm.trans h) (by decide)), if_neg (fun h => absurd (k0_10.symm.trans h) (by decide)), if_neg (fun h => absurd (k0_10.symm.trans h) (by decide)), if_neg (fun h => absurd (k0_10.symm.trans h) (by decide)), if_neg (fun h => absurd (k0_10.symm.trans h) (by decide))]
  rw [if_pos k0_10]
  rw [show bfld n 22 4 = x0 from bfld_digit e22]
  rw [show bfld n 16 6 = x1 from bfld_digit e16]
  rw [show bfld n 10 6 = x2 from bfld_digit e10]

/-- Its word and back. -/
theorem RoundTrip.frndRd (x0 : BitVec 4) (x1 : BitVec 6) (x2 : BitVec 6) : RoundTrip.Statement (.frndRd x0 x1 x2) := by
  intro n hw hn
  have e0 : n / 2 ^ 0 = (((18 * 2 ^ 4 + x0.toNat) * 2 ^ 6 + x1.toNat) * 2 ^ 6 + x2.toNat) * 2 ^ 10 + 11 := by
    have hn := Option.some.inj hn
    rw [Nat.pow_zero, Nat.div_one]; omega
  have e10 := div_next e0 (by decide)
  have e16 := div_next e10 x2.isLt
  have e22 := div_next e16 x1.isLt
  have e26 := div_next e22 x0.isLt
  have k0_10 : fld n 0 10 = 11 := fld_digit e0 (by decide)
  refine ⟨digits_lt e26 (by decide), decodeWord_of (shape_12 (fld_digit (p := 0) (e26.trans (by decide)) (by decide))) ?_ hw⟩
  unfold shape12
  rw [if_neg (fun h => absurd (k0_10.symm.trans h) (by decide)), if_neg (fun h => absurd (k0_10.symm.trans h) (by decide)), if_neg (fun h => absurd (k0_10.symm.trans h) (by decide)), if_neg (fun h => absurd (k0_10.symm.trans h) (by decide)), if_neg (fun h => absurd (k0_10.symm.trans h) (by decide)), if_neg (fun h => absurd (k0_10.symm.trans h) (by decide)), if_neg (fun h => absurd (k0_10.symm.trans h) (by decide)), if_neg (fun h => absurd (k0_10.symm.trans h) (by decide)), if_neg (fun h => absurd (k0_10.symm.trans h) (by decide)), if_neg (fun h => absurd (k0_10.symm.trans h) (by decide)), if_neg (fun h => absurd (k0_10.symm.trans h) (by decide))]
  rw [if_pos k0_10]
  rw [show bfld n 22 4 = x0 from bfld_digit e22]
  rw [show bfld n 16 6 = x1 from bfld_digit e16]
  rw [show bfld n 10 6 = x2 from bfld_digit e10]

/-- Its word and back. -/
theorem RoundTrip.fclass (x0 : BitVec 4) (x1 : BitVec 6) (x2 : BitVec 6) : RoundTrip.Statement (.fclass x0 x1 x2) := by
  intro n hw hn
  have e0 : n / 2 ^ 0 = (((18 * 2 ^ 4 + x0.toNat) * 2 ^ 6 + x1.toNat) * 2 ^ 6 + x2.toNat) * 2 ^ 10 + 12 := by
    have hn := Option.some.inj hn
    rw [Nat.pow_zero, Nat.div_one]; omega
  have e10 := div_next e0 (by decide)
  have e16 := div_next e10 x2.isLt
  have e22 := div_next e16 x1.isLt
  have e26 := div_next e22 x0.isLt
  have k0_10 : fld n 0 10 = 12 := fld_digit e0 (by decide)
  refine ⟨digits_lt e26 (by decide), decodeWord_of (shape_12 (fld_digit (p := 0) (e26.trans (by decide)) (by decide))) ?_ hw⟩
  unfold shape12
  rw [if_neg (fun h => absurd (k0_10.symm.trans h) (by decide)), if_neg (fun h => absurd (k0_10.symm.trans h) (by decide)), if_neg (fun h => absurd (k0_10.symm.trans h) (by decide)), if_neg (fun h => absurd (k0_10.symm.trans h) (by decide)), if_neg (fun h => absurd (k0_10.symm.trans h) (by decide)), if_neg (fun h => absurd (k0_10.symm.trans h) (by decide)), if_neg (fun h => absurd (k0_10.symm.trans h) (by decide)), if_neg (fun h => absurd (k0_10.symm.trans h) (by decide)), if_neg (fun h => absurd (k0_10.symm.trans h) (by decide)), if_neg (fun h => absurd (k0_10.symm.trans h) (by decide)), if_neg (fun h => absurd (k0_10.symm.trans h) (by decide)), if_neg (fun h => absurd (k0_10.symm.trans h) (by decide))]
  rw [if_pos k0_10]
  rw [show bfld n 22 4 = x0 from bfld_digit e22]
  rw [show bfld n 16 6 = x1 from bfld_digit e16]
  rw [show bfld n 10 6 = x2 from bfld_digit e10]

/-- Its word and back. -/
theorem RoundTrip.ffrexpM (x0 : BitVec 4) (x1 : BitVec 6) (x2 : BitVec 6) : RoundTrip.Statement (.ffrexpM x0 x1 x2) := by
  intro n hw hn
  have e0 : n / 2 ^ 0 = (((18 * 2 ^ 4 + x0.toNat) * 2 ^ 6 + x1.toNat) * 2 ^ 6 + x2.toNat) * 2 ^ 10 + 14 := by
    have hn := Option.some.inj hn
    rw [Nat.pow_zero, Nat.div_one]; omega
  have e10 := div_next e0 (by decide)
  have e16 := div_next e10 x2.isLt
  have e22 := div_next e16 x1.isLt
  have e26 := div_next e22 x0.isLt
  have k0_10 : fld n 0 10 = 14 := fld_digit e0 (by decide)
  refine ⟨digits_lt e26 (by decide), decodeWord_of (shape_12 (fld_digit (p := 0) (e26.trans (by decide)) (by decide))) ?_ hw⟩
  unfold shape12
  rw [if_neg (fun h => absurd (k0_10.symm.trans h) (by decide)), if_neg (fun h => absurd (k0_10.symm.trans h) (by decide)), if_neg (fun h => absurd (k0_10.symm.trans h) (by decide)), if_neg (fun h => absurd (k0_10.symm.trans h) (by decide)), if_neg (fun h => absurd (k0_10.symm.trans h) (by decide)), if_neg (fun h => absurd (k0_10.symm.trans h) (by decide)), if_neg (fun h => absurd (k0_10.symm.trans h) (by decide)), if_neg (fun h => absurd (k0_10.symm.trans h) (by decide)), if_neg (fun h => absurd (k0_10.symm.trans h) (by decide)), if_neg (fun h => absurd (k0_10.symm.trans h) (by decide)), if_neg (fun h => absurd (k0_10.symm.trans h) (by decide)), if_neg (fun h => absurd (k0_10.symm.trans h) (by decide)), if_neg (fun h => absurd (k0_10.symm.trans h) (by decide))]
  rw [if_pos k0_10]
  rw [show bfld n 22 4 = x0 from bfld_digit e22]
  rw [show bfld n 16 6 = x1 from bfld_digit e16]
  rw [show bfld n 10 6 = x2 from bfld_digit e10]

/-- Its word and back. -/
theorem RoundTrip.ffrexpE (x0 : BitVec 4) (x1 : BitVec 6) (x2 : BitVec 6) : RoundTrip.Statement (.ffrexpE x0 x1 x2) := by
  intro n hw hn
  have e0 : n / 2 ^ 0 = (((18 * 2 ^ 4 + x0.toNat) * 2 ^ 6 + x1.toNat) * 2 ^ 6 + x2.toNat) * 2 ^ 10 + 15 := by
    have hn := Option.some.inj hn
    rw [Nat.pow_zero, Nat.div_one]; omega
  have e10 := div_next e0 (by decide)
  have e16 := div_next e10 x2.isLt
  have e22 := div_next e16 x1.isLt
  have e26 := div_next e22 x0.isLt
  have k0_10 : fld n 0 10 = 15 := fld_digit e0 (by decide)
  refine ⟨digits_lt e26 (by decide), decodeWord_of (shape_12 (fld_digit (p := 0) (e26.trans (by decide)) (by decide))) ?_ hw⟩
  unfold shape12
  rw [if_neg (fun h => absurd (k0_10.symm.trans h) (by decide)), if_neg (fun h => absurd (k0_10.symm.trans h) (by decide)), if_neg (fun h => absurd (k0_10.symm.trans h) (by decide)), if_neg (fun h => absurd (k0_10.symm.trans h) (by decide)), if_neg (fun h => absurd (k0_10.symm.trans h) (by decide)), if_neg (fun h => absurd (k0_10.symm.trans h) (by decide)), if_neg (fun h => absurd (k0_10.symm.trans h) (by decide)), if_neg (fun h => absurd (k0_10.symm.trans h) (by decide)), if_neg (fun h => absurd (k0_10.symm.trans h) (by decide)), if_neg (fun h => absurd (k0_10.symm.trans h) (by decide)), if_neg (fun h => absurd (k0_10.symm.trans h) (by decide)), if_neg (fun h => absurd (k0_10.symm.trans h) (by decide)), if_neg (fun h => absurd (k0_10.symm.trans h) (by decide)), if_neg (fun h => absurd (k0_10.symm.trans h) (by decide))]
  rw [if_pos k0_10]
  rw [show bfld n 22 4 = x0 from bfld_digit e22]
  rw [show bfld n 16 6 = x1 from bfld_digit e16]
  rw [show bfld n 10 6 = x2 from bfld_digit e10]

/-- Its word and back. -/
theorem RoundTrip.fldexp (x0 : BitVec 4) (x1 : BitVec 6) (x2 : BitVec 6) (x3 : BitVec 6) : RoundTrip.Statement (.fldexp x0 x1 x2 x3) := by
  intro n hw hn
  have e0 : n / 2 ^ 0 = ((((18 * 2 ^ 4 + x0.toNat) * 2 ^ 6 + x1.toNat) * 2 ^ 6 + x2.toNat) * 2 ^ 6 + x3.toNat) * 2 ^ 4 + 13 := by
    have hn := Option.some.inj hn
    rw [Nat.pow_zero, Nat.div_one]; omega
  have e4 := div_next e0 (by decide)
  have e10 := div_next e4 x3.isLt
  have e16 := div_next e10 x2.isLt
  have e22 := div_next e16 x1.isLt
  have e26 := div_next e22 x0.isLt
  have k0_4 : fld n 0 4 = 13 := fld_digit e0 (by decide)
  have hx0 := x0.isLt
  have hx1 := x1.isLt
  have hx2 := x2.isLt
  have hx3 := x3.isLt
  have hn := Option.some.inj hn
  refine ⟨digits_lt e26 (by decide), decodeWord_of (shape_12 (fld_digit (p := 0) (e26.trans (by decide)) (by decide))) ?_ hw⟩
  unfold shape12
  rw [if_neg (by unfold fld; omega), if_neg (by unfold fld; omega), if_neg (by unfold fld; omega), if_neg (by unfold fld; omega), if_neg (by unfold fld; omega), if_neg (by unfold fld; omega), if_neg (by unfold fld; omega), if_neg (by unfold fld; omega), if_neg (by unfold fld; omega), if_neg (by unfold fld; omega), if_neg (by unfold fld; omega), if_neg (by unfold fld; omega), if_neg (by unfold fld; omega), if_neg (by unfold fld; omega), if_neg (by unfold fld; omega)]
  rw [if_pos k0_4]
  rw [show bfld n 22 4 = x0 from bfld_digit e22]
  rw [show bfld n 16 6 = x1 from bfld_digit e16]
  rw [show bfld n 10 6 = x2 from bfld_digit e10]
  rw [show bfld n 4 6 = x3 from bfld_digit e4]

/-- Its word and back. -/
theorem RoundTrip.cvt (x0 : BitVec 4) (x1 : BitVec 6) (x2 : BitVec 6) (x3 : BitVec 6) (x4 : BitVec 4) : RoundTrip.Statement (.cvt x0 x1 x2 x3 x4) := by
  intro n hw hn
  have e0 : n / 2 ^ 0 = ((((19 * 2 ^ 4 + x0.toNat) * 2 ^ 6 + x1.toNat) * 2 ^ 6 + x2.toNat) * 2 ^ 6 + x3.toNat) * 2 ^ 4 + x4.toNat := by
    have hn := Option.some.inj hn
    rw [Nat.pow_zero, Nat.div_one]; omega
  have e4 := div_next e0 x4.isLt
  have e10 := div_next e4 x3.isLt
  have e16 := div_next e10 x2.isLt
  have e22 := div_next e16 x1.isLt
  have e26 := div_next e22 x0.isLt
  refine ⟨digits_lt e26 (by decide), decodeWord_of (shape_13 (fld_digit (p := 0) (e26.trans (by decide)) (by decide))) ?_ hw⟩
  unfold shape13
  rw [show bfld n 22 4 = x0 from bfld_digit e22]
  rw [show bfld n 16 6 = x1 from bfld_digit e16]
  rw [show bfld n 10 6 = x2 from bfld_digit e10]
  rw [show bfld n 4 6 = x3 from bfld_digit e4]
  rw [show bfld n 0 4 = x4 from bfld_digit e0]

/-- Its word and back. -/
theorem RoundTrip.faddS (x0 : BitVec 4) (x1 : BitVec 6) (x2 : BitVec 6) (x3 : BitVec 8) : RoundTrip.Statement (.faddS x0 x1 x2 x3) := by
  intro n hw hn
  have e0 : n / 2 ^ 0 = ((((20 * 2 ^ 4 + x0.toNat) * 2 ^ 6 + x1.toNat) * 2 ^ 6 + x2.toNat) * 2 ^ 8 + x3.toNat) * 2 ^ 2 + 0 := by
    have hn := Option.some.inj hn
    rw [Nat.pow_zero, Nat.div_one]; omega
  have e2 := div_next e0 (by decide)
  have e10 := div_next e2 x3.isLt
  have e16 := div_next e10 x2.isLt
  have e22 := div_next e16 x1.isLt
  have e26 := div_next e22 x0.isLt
  have k0_2 : fld n 0 2 = 0 := fld_digit e0 (by decide)
  refine ⟨digits_lt e26 (by decide), decodeWord_of (shape_14 (fld_digit (p := 0) (e26.trans (by decide)) (by decide))) ?_ hw⟩
  unfold shape14
  rw [if_pos k0_2]
  rw [show bfld n 22 4 = x0 from bfld_digit e22]
  rw [show bfld n 16 6 = x1 from bfld_digit e16]
  rw [show bfld n 10 6 = x2 from bfld_digit e10]
  rw [show bfld n 2 8 = x3 from bfld_digit e2]

/-- Its word and back. -/
theorem RoundTrip.fmulS (x0 : BitVec 4) (x1 : BitVec 6) (x2 : BitVec 6) (x3 : BitVec 8) : RoundTrip.Statement (.fmulS x0 x1 x2 x3) := by
  intro n hw hn
  have e0 : n / 2 ^ 0 = ((((20 * 2 ^ 4 + x0.toNat) * 2 ^ 6 + x1.toNat) * 2 ^ 6 + x2.toNat) * 2 ^ 8 + x3.toNat) * 2 ^ 2 + 1 := by
    have hn := Option.some.inj hn
    rw [Nat.pow_zero, Nat.div_one]; omega
  have e2 := div_next e0 (by decide)
  have e10 := div_next e2 x3.isLt
  have e16 := div_next e10 x2.isLt
  have e22 := div_next e16 x1.isLt
  have e26 := div_next e22 x0.isLt
  have k0_2 : fld n 0 2 = 1 := fld_digit e0 (by decide)
  refine ⟨digits_lt e26 (by decide), decodeWord_of (shape_14 (fld_digit (p := 0) (e26.trans (by decide)) (by decide))) ?_ hw⟩
  unfold shape14
  rw [if_neg (fun h => absurd (k0_2.symm.trans h) (by decide))]
  rw [if_pos k0_2]
  rw [show bfld n 22 4 = x0 from bfld_digit e22]
  rw [show bfld n 16 6 = x1 from bfld_digit e16]
  rw [show bfld n 10 6 = x2 from bfld_digit e10]
  rw [show bfld n 2 8 = x3 from bfld_digit e2]

/-- Its word and back. -/
theorem RoundTrip.fmaxS (x0 : BitVec 4) (x1 : BitVec 6) (x2 : BitVec 6) (x3 : BitVec 8) : RoundTrip.Statement (.fmaxS x0 x1 x2 x3) := by
  intro n hw hn
  have e0 : n / 2 ^ 0 = ((((20 * 2 ^ 4 + x0.toNat) * 2 ^ 6 + x1.toNat) * 2 ^ 6 + x2.toNat) * 2 ^ 8 + x3.toNat) * 2 ^ 2 + 2 := by
    have hn := Option.some.inj hn
    rw [Nat.pow_zero, Nat.div_one]; omega
  have e2 := div_next e0 (by decide)
  have e10 := div_next e2 x3.isLt
  have e16 := div_next e10 x2.isLt
  have e22 := div_next e16 x1.isLt
  have e26 := div_next e22 x0.isLt
  have k0_2 : fld n 0 2 = 2 := fld_digit e0 (by decide)
  refine ⟨digits_lt e26 (by decide), decodeWord_of (shape_14 (fld_digit (p := 0) (e26.trans (by decide)) (by decide))) ?_ hw⟩
  unfold shape14
  rw [if_neg (fun h => absurd (k0_2.symm.trans h) (by decide)), if_neg (fun h => absurd (k0_2.symm.trans h) (by decide))]
  rw [if_pos k0_2]
  rw [show bfld n 22 4 = x0 from bfld_digit e22]
  rw [show bfld n 16 6 = x1 from bfld_digit e16]
  rw [show bfld n 10 6 = x2 from bfld_digit e10]
  rw [show bfld n 2 8 = x3 from bfld_digit e2]

/-- Its word and back. -/
theorem RoundTrip.fminS (x0 : BitVec 4) (x1 : BitVec 6) (x2 : BitVec 6) (x3 : BitVec 8) : RoundTrip.Statement (.fminS x0 x1 x2 x3) := by
  intro n hw hn
  have e0 : n / 2 ^ 0 = ((((20 * 2 ^ 4 + x0.toNat) * 2 ^ 6 + x1.toNat) * 2 ^ 6 + x2.toNat) * 2 ^ 8 + x3.toNat) * 2 ^ 2 + 3 := by
    have hn := Option.some.inj hn
    rw [Nat.pow_zero, Nat.div_one]; omega
  have e2 := div_next e0 (by decide)
  have e10 := div_next e2 x3.isLt
  have e16 := div_next e10 x2.isLt
  have e22 := div_next e16 x1.isLt
  have e26 := div_next e22 x0.isLt
  have k0_2 : fld n 0 2 = 3 := fld_digit e0 (by decide)
  refine ⟨digits_lt e26 (by decide), decodeWord_of (shape_14 (fld_digit (p := 0) (e26.trans (by decide)) (by decide))) ?_ hw⟩
  unfold shape14
  rw [if_neg (fun h => absurd (k0_2.symm.trans h) (by decide)), if_neg (fun h => absurd (k0_2.symm.trans h) (by decide)), if_neg (fun h => absurd (k0_2.symm.trans h) (by decide))]
  rw [if_pos k0_2]
  rw [show bfld n 22 4 = x0 from bfld_digit e22]
  rw [show bfld n 16 6 = x1 from bfld_digit e16]
  rw [show bfld n 10 6 = x2 from bfld_digit e10]
  rw [show bfld n 2 8 = x3 from bfld_digit e2]

/-- Its word and back. -/
theorem RoundTrip.movS (x0 : BitVec 4) (x1 : BitVec 6) (x2 : BitVec 8) : RoundTrip.Statement (.movS x0 x1 x2) := by
  intro n hw hn
  have e0 : n / 2 ^ 0 = ((((21 * 2 ^ 4 + x0.toNat) * 2 ^ 6 + x1.toNat) * 2 ^ 6 + 0) * 2 ^ 8 + x2.toNat) * 2 ^ 2 + 3 := by
    have hn := Option.some.inj hn
    rw [Nat.pow_zero, Nat.div_one]; omega
  have e2 := div_next e0 (by decide)
  have e10 := div_next e2 x2.isLt
  have e16 := div_next e10 (by decide)
  have e22 := div_next e16 x1.isLt
  have e26 := div_next e22 x0.isLt
  have k10_6 : fld n 10 6 = 0 := fld_digit e10 (by decide)
  have k0_2 : fld n 0 2 = 3 := fld_digit e0 (by decide)
  refine ⟨digits_lt e26 (by decide), decodeWord_of (shape_15 (fld_digit (p := 0) (e26.trans (by decide)) (by decide))) ?_ hw⟩
  unfold shape15
  rw [if_pos ⟨k10_6, k0_2⟩]
  rw [show bfld n 22 4 = x0 from bfld_digit e22]
  rw [show bfld n 16 6 = x1 from bfld_digit e16]
  rw [show bfld n 2 8 = x2 from bfld_digit e2]

/-- Its word and back. -/
theorem RoundTrip.iaddS (x0 : BitVec 4) (x1 : BitVec 6) (x2 : BitVec 6) (x3 : BitVec 8) : RoundTrip.Statement (.iaddS x0 x1 x2 x3) := by
  intro n hw hn
  have e0 : n / 2 ^ 0 = ((((21 * 2 ^ 4 + x0.toNat) * 2 ^ 6 + x1.toNat) * 2 ^ 6 + x2.toNat) * 2 ^ 8 + x3.toNat) * 2 ^ 2 + 0 := by
    have hn := Option.some.inj hn
    rw [Nat.pow_zero, Nat.div_one]; omega
  have e2 := div_next e0 (by decide)
  have e10 := div_next e2 x3.isLt
  have e16 := div_next e10 x2.isLt
  have e22 := div_next e16 x1.isLt
  have e26 := div_next e22 x0.isLt
  have k0_2 : fld n 0 2 = 0 := fld_digit e0 (by decide)
  refine ⟨digits_lt e26 (by decide), decodeWord_of (shape_15 (fld_digit (p := 0) (e26.trans (by decide)) (by decide))) ?_ hw⟩
  unfold shape15
  rw [if_neg (fun h => absurd (k0_2.symm.trans h.2) (by decide))]
  rw [if_pos k0_2]
  rw [show bfld n 22 4 = x0 from bfld_digit e22]
  rw [show bfld n 16 6 = x1 from bfld_digit e16]
  rw [show bfld n 10 6 = x2 from bfld_digit e10]
  rw [show bfld n 2 8 = x3 from bfld_digit e2]

/-- Its word and back. -/
theorem RoundTrip.imulS (x0 : BitVec 4) (x1 : BitVec 6) (x2 : BitVec 6) (x3 : BitVec 8) : RoundTrip.Statement (.imulS x0 x1 x2 x3) := by
  intro n hw hn
  have e0 : n / 2 ^ 0 = ((((21 * 2 ^ 4 + x0.toNat) * 2 ^ 6 + x1.toNat) * 2 ^ 6 + x2.toNat) * 2 ^ 8 + x3.toNat) * 2 ^ 2 + 1 := by
    have hn := Option.some.inj hn
    rw [Nat.pow_zero, Nat.div_one]; omega
  have e2 := div_next e0 (by decide)
  have e10 := div_next e2 x3.isLt
  have e16 := div_next e10 x2.isLt
  have e22 := div_next e16 x1.isLt
  have e26 := div_next e22 x0.isLt
  have k0_2 : fld n 0 2 = 1 := fld_digit e0 (by decide)
  refine ⟨digits_lt e26 (by decide), decodeWord_of (shape_15 (fld_digit (p := 0) (e26.trans (by decide)) (by decide))) ?_ hw⟩
  unfold shape15
  rw [if_neg (fun h => absurd (k0_2.symm.trans h.2) (by decide)), if_neg (fun h => absurd (k0_2.symm.trans h) (by decide))]
  rw [if_pos k0_2]
  rw [show bfld n 22 4 = x0 from bfld_digit e22]
  rw [show bfld n 16 6 = x1 from bfld_digit e16]
  rw [show bfld n 10 6 = x2 from bfld_digit e10]
  rw [show bfld n 2 8 = x3 from bfld_digit e2]

/-- Its word and back. -/
theorem RoundTrip.iandS (x0 : BitVec 4) (x1 : BitVec 6) (x2 : BitVec 6) (x3 : BitVec 8) : RoundTrip.Statement (.iandS x0 x1 x2 x3) := by
  intro n hw hn
  have e0 : n / 2 ^ 0 = ((((21 * 2 ^ 4 + x0.toNat) * 2 ^ 6 + x1.toNat) * 2 ^ 6 + x2.toNat) * 2 ^ 8 + x3.toNat) * 2 ^ 2 + 2 := by
    have hn := Option.some.inj hn
    rw [Nat.pow_zero, Nat.div_one]; omega
  have e2 := div_next e0 (by decide)
  have e10 := div_next e2 x3.isLt
  have e16 := div_next e10 x2.isLt
  have e22 := div_next e16 x1.isLt
  have e26 := div_next e22 x0.isLt
  have k0_2 : fld n 0 2 = 2 := fld_digit e0 (by decide)
  refine ⟨digits_lt e26 (by decide), decodeWord_of (shape_15 (fld_digit (p := 0) (e26.trans (by decide)) (by decide))) ?_ hw⟩
  unfold shape15
  rw [if_neg (fun h => absurd (k0_2.symm.trans h.2) (by decide)), if_neg (fun h => absurd (k0_2.symm.trans h) (by decide)), if_neg (fun h => absurd (k0_2.symm.trans h) (by decide))]
  rw [if_pos k0_2]
  rw [show bfld n 22 4 = x0 from bfld_digit e22]
  rw [show bfld n 16 6 = x1 from bfld_digit e16]
  rw [show bfld n 10 6 = x2 from bfld_digit e10]
  rw [show bfld n 2 8 = x3 from bfld_digit e2]

/-- Its word and back. -/
theorem RoundTrip.pmov (x0 : BitVec 3) (x1 : BitVec 3) (x2 : BitVec 1) : RoundTrip.Statement (.pmov x0 x1 x2) := by
  intro n hw hn
  have e0 : n / 2 ^ 0 = (((((22 * 2 ^ 4 + 3) * 2 ^ 3 + x0.toNat) * 2 ^ 3 + x1.toNat) * 2 ^ 3 + 0) * 2 ^ 1 + x2.toNat) * 2 ^ 12 + 0 := by
    have hn := Option.some.inj hn
    rw [Nat.pow_zero, Nat.div_one]; omega
  have e12 := div_next e0 (by decide)
  have e13 := div_next e12 x2.isLt
  have e16 := div_next e13 (by decide)
  have e19 := div_next e16 x1.isLt
  have e22 := div_next e19 x0.isLt
  have e26 := div_next e22 (by decide)
  have k22_4 : fld n 22 4 = 3 := fld_digit e22 (by decide)
  have k13_3 : fld n 13 3 = 0 := fld_digit e13 (by decide)
  have k0_12 : fld n 0 12 = 0 := fld_digit e0 (by decide)
  refine ⟨digits_lt e26 (by decide), decodeWord_of (shape_16 (fld_digit (p := 0) (e26.trans (by decide)) (by decide))) ?_ hw⟩
  unfold shape16
  rw [if_pos ⟨k22_4, k13_3, k0_12⟩]
  rw [show bfld n 19 3 = x0 from bfld_digit e19]
  rw [show bfld n 16 3 = x1 from bfld_digit e16]
  rw [show bfld n 12 1 = x2 from bfld_digit e12]

/-- Its word and back. -/
theorem RoundTrip.pand (x0 : BitVec 3) (x1 : BitVec 3) (x2 : BitVec 3) (x3 : BitVec 1) (x4 : BitVec 1) : RoundTrip.Statement (.pand x0 x1 x2 x3 x4) := by
  intro n hw hn
  have e0 : n / 2 ^ 0 = ((((((22 * 2 ^ 4 + 0) * 2 ^ 3 + x0.toNat) * 2 ^ 3 + x1.toNat) * 2 ^ 3 + x2.toNat) * 2 ^ 1 + x3.toNat) * 2 ^ 1 + x4.toNat) * 2 ^ 11 + 0 := by
    have hn := Option.some.inj hn
    rw [Nat.pow_zero, Nat.div_one]; omega
  have e11 := div_next e0 (by decide)
  have e12 := div_next e11 x4.isLt
  have e13 := div_next e12 x3.isLt
  have e16 := div_next e13 x2.isLt
  have e19 := div_next e16 x1.isLt
  have e22 := div_next e19 x0.isLt
  have e26 := div_next e22 (by decide)
  have k22_4 : fld n 22 4 = 0 := fld_digit e22 (by decide)
  have k0_11 : fld n 0 11 = 0 := fld_digit e0 (by decide)
  refine ⟨digits_lt e26 (by decide), decodeWord_of (shape_16 (fld_digit (p := 0) (e26.trans (by decide)) (by decide))) ?_ hw⟩
  unfold shape16
  rw [if_neg (fun h => absurd (k22_4.symm.trans h.1) (by decide))]
  rw [if_pos ⟨k22_4, k0_11⟩]
  rw [show bfld n 19 3 = x0 from bfld_digit e19]
  rw [show bfld n 16 3 = x1 from bfld_digit e16]
  rw [show bfld n 13 3 = x2 from bfld_digit e13]
  rw [show bfld n 12 1 = x3 from bfld_digit e12]
  rw [show bfld n 11 1 = x4 from bfld_digit e11]

/-- Its word and back. -/
theorem RoundTrip.por (x0 : BitVec 3) (x1 : BitVec 3) (x2 : BitVec 3) (x3 : BitVec 1) (x4 : BitVec 1) : RoundTrip.Statement (.por x0 x1 x2 x3 x4) := by
  intro n hw hn
  have e0 : n / 2 ^ 0 = ((((((22 * 2 ^ 4 + 1) * 2 ^ 3 + x0.toNat) * 2 ^ 3 + x1.toNat) * 2 ^ 3 + x2.toNat) * 2 ^ 1 + x3.toNat) * 2 ^ 1 + x4.toNat) * 2 ^ 11 + 0 := by
    have hn := Option.some.inj hn
    rw [Nat.pow_zero, Nat.div_one]; omega
  have e11 := div_next e0 (by decide)
  have e12 := div_next e11 x4.isLt
  have e13 := div_next e12 x3.isLt
  have e16 := div_next e13 x2.isLt
  have e19 := div_next e16 x1.isLt
  have e22 := div_next e19 x0.isLt
  have e26 := div_next e22 (by decide)
  have k22_4 : fld n 22 4 = 1 := fld_digit e22 (by decide)
  have k0_11 : fld n 0 11 = 0 := fld_digit e0 (by decide)
  refine ⟨digits_lt e26 (by decide), decodeWord_of (shape_16 (fld_digit (p := 0) (e26.trans (by decide)) (by decide))) ?_ hw⟩
  unfold shape16
  rw [if_neg (fun h => absurd (k22_4.symm.trans h.1) (by decide)), if_neg (fun h => absurd (k22_4.symm.trans h.1) (by decide))]
  rw [if_pos ⟨k22_4, k0_11⟩]
  rw [show bfld n 19 3 = x0 from bfld_digit e19]
  rw [show bfld n 16 3 = x1 from bfld_digit e16]
  rw [show bfld n 13 3 = x2 from bfld_digit e13]
  rw [show bfld n 12 1 = x3 from bfld_digit e12]
  rw [show bfld n 11 1 = x4 from bfld_digit e11]

/-- Its word and back. -/
theorem RoundTrip.pxor (x0 : BitVec 3) (x1 : BitVec 3) (x2 : BitVec 3) (x3 : BitVec 1) (x4 : BitVec 1) : RoundTrip.Statement (.pxor x0 x1 x2 x3 x4) := by
  intro n hw hn
  have e0 : n / 2 ^ 0 = ((((((22 * 2 ^ 4 + 2) * 2 ^ 3 + x0.toNat) * 2 ^ 3 + x1.toNat) * 2 ^ 3 + x2.toNat) * 2 ^ 1 + x3.toNat) * 2 ^ 1 + x4.toNat) * 2 ^ 11 + 0 := by
    have hn := Option.some.inj hn
    rw [Nat.pow_zero, Nat.div_one]; omega
  have e11 := div_next e0 (by decide)
  have e12 := div_next e11 x4.isLt
  have e13 := div_next e12 x3.isLt
  have e16 := div_next e13 x2.isLt
  have e19 := div_next e16 x1.isLt
  have e22 := div_next e19 x0.isLt
  have e26 := div_next e22 (by decide)
  have k22_4 : fld n 22 4 = 2 := fld_digit e22 (by decide)
  have k0_11 : fld n 0 11 = 0 := fld_digit e0 (by decide)
  refine ⟨digits_lt e26 (by decide), decodeWord_of (shape_16 (fld_digit (p := 0) (e26.trans (by decide)) (by decide))) ?_ hw⟩
  unfold shape16
  rw [if_neg (fun h => absurd (k22_4.symm.trans h.1) (by decide)), if_neg (fun h => absurd (k22_4.symm.trans h.1) (by decide)), if_neg (fun h => absurd (k22_4.symm.trans h.1) (by decide))]
  rw [if_pos ⟨k22_4, k0_11⟩]
  rw [show bfld n 19 3 = x0 from bfld_digit e19]
  rw [show bfld n 16 3 = x1 from bfld_digit e16]
  rw [show bfld n 13 3 = x2 from bfld_digit e13]
  rw [show bfld n 12 1 = x3 from bfld_digit e12]
  rw [show bfld n 11 1 = x4 from bfld_digit e11]

/-- Its word and back. -/
theorem RoundTrip.xmatch (x0 : BitVec 3) (x1 : BitVec 5) (x2 : BitVec 6) : RoundTrip.Statement (.xmatch x0 x1 x2) := by
  intro n hw hn
  have e0 : n / 2 ^ 0 = (((((23 * 2 ^ 1 + 0) * 2 ^ 3 + x0.toNat) * 2 ^ 5 + x1.toNat) * 2 ^ 1 + 0) * 2 ^ 6 + x2.toNat) * 2 ^ 10 + 14 := by
    have hn := Option.some.inj hn
    rw [Nat.pow_zero, Nat.div_one]; omega
  have e10 := div_next e0 (by decide)
  have e16 := div_next e10 x2.isLt
  have e17 := div_next e16 (by decide)
  have e22 := div_next e17 x1.isLt
  have e25 := div_next e22 x0.isLt
  have e26 := div_next e25 (by decide)
  have k25_1 : fld n 25 1 = 0 := fld_digit e25 (by decide)
  have k16_1 : fld n 16 1 = 0 := fld_digit e16 (by decide)
  have k0_10 : fld n 0 10 = 14 := fld_digit e0 (by decide)
  refine ⟨digits_lt e26 (by decide), decodeWord_of (shape_17 (fld_digit (p := 0) (e26.trans (by decide)) (by decide))) ?_ hw⟩
  unfold shape17
  rw [if_pos ⟨k25_1, k16_1, k0_10⟩]
  rw [show bfld n 22 3 = x0 from bfld_digit e22]
  rw [show bfld n 17 5 = x1 from bfld_digit e17]
  rw [show bfld n 10 6 = x2 from bfld_digit e10]

/-- Its word and back. -/
theorem RoundTrip.rdxIadd (x0 : BitVec 3) (x1 : BitVec 6) (x2 : BitVec 6) : RoundTrip.Statement (.rdxIadd x0 x1 x2) := by
  intro n hw hn
  have e0 : n / 2 ^ 0 = ((((23 * 2 ^ 1 + 0) * 2 ^ 3 + x0.toNat) * 2 ^ 6 + x1.toNat) * 2 ^ 6 + x2.toNat) * 2 ^ 10 + 4 := by
    have hn := Option.some.inj hn
    rw [Nat.pow_zero, Nat.div_one]; omega
  have e10 := div_next e0 (by decide)
  have e16 := div_next e10 x2.isLt
  have e22 := div_next e16 x1.isLt
  have e25 := div_next e22 x0.isLt
  have e26 := div_next e25 (by decide)
  have k0_10 : fld n 0 10 = 4 := fld_digit e0 (by decide)
  have k25_1 : fld n 25 1 = 0 := fld_digit e25 (by decide)
  refine ⟨digits_lt e26 (by decide), decodeWord_of (shape_17 (fld_digit (p := 0) (e26.trans (by decide)) (by decide))) ?_ hw⟩
  unfold shape17
  rw [if_neg (fun h => absurd (k0_10.symm.trans h.2.2) (by decide))]
  rw [if_pos ⟨k25_1, k0_10⟩]
  rw [show bfld n 22 3 = x0 from bfld_digit e22]
  rw [show bfld n 16 6 = x1 from bfld_digit e16]
  rw [show bfld n 10 6 = x2 from bfld_digit e10]

/-- Its word and back. -/
theorem RoundTrip.rdxIminS (x0 : BitVec 3) (x1 : BitVec 6) (x2 : BitVec 6) : RoundTrip.Statement (.rdxIminS x0 x1 x2) := by
  intro n hw hn
  have e0 : n / 2 ^ 0 = ((((23 * 2 ^ 1 + 0) * 2 ^ 3 + x0.toNat) * 2 ^ 6 + x1.toNat) * 2 ^ 6 + x2.toNat) * 2 ^ 10 + 5 := by
    have hn := Option.some.inj hn
    rw [Nat.pow_zero, Nat.div_one]; omega
  have e10 := div_next e0 (by decide)
  have e16 := div_next e10 x2.isLt
  have e22 := div_next e16 x1.isLt
  have e25 := div_next e22 x0.isLt
  have e26 := div_next e25 (by decide)
  have k0_10 : fld n 0 10 = 5 := fld_digit e0 (by decide)
  have k25_1 : fld n 25 1 = 0 := fld_digit e25 (by decide)
  refine ⟨digits_lt e26 (by decide), decodeWord_of (shape_17 (fld_digit (p := 0) (e26.trans (by decide)) (by decide))) ?_ hw⟩
  unfold shape17
  rw [if_neg (fun h => absurd (k0_10.symm.trans h.2.2) (by decide)), if_neg (fun h => absurd (k0_10.symm.trans h.2) (by decide))]
  rw [if_pos ⟨k25_1, k0_10⟩]
  rw [show bfld n 22 3 = x0 from bfld_digit e22]
  rw [show bfld n 16 6 = x1 from bfld_digit e16]
  rw [show bfld n 10 6 = x2 from bfld_digit e10]

/-- Its word and back. -/
theorem RoundTrip.rdxImaxS (x0 : BitVec 3) (x1 : BitVec 6) (x2 : BitVec 6) : RoundTrip.Statement (.rdxImaxS x0 x1 x2) := by
  intro n hw hn
  have e0 : n / 2 ^ 0 = ((((23 * 2 ^ 1 + 0) * 2 ^ 3 + x0.toNat) * 2 ^ 6 + x1.toNat) * 2 ^ 6 + x2.toNat) * 2 ^ 10 + 6 := by
    have hn := Option.some.inj hn
    rw [Nat.pow_zero, Nat.div_one]; omega
  have e10 := div_next e0 (by decide)
  have e16 := div_next e10 x2.isLt
  have e22 := div_next e16 x1.isLt
  have e25 := div_next e22 x0.isLt
  have e26 := div_next e25 (by decide)
  have k0_10 : fld n 0 10 = 6 := fld_digit e0 (by decide)
  have k25_1 : fld n 25 1 = 0 := fld_digit e25 (by decide)
  refine ⟨digits_lt e26 (by decide), decodeWord_of (shape_17 (fld_digit (p := 0) (e26.trans (by decide)) (by decide))) ?_ hw⟩
  unfold shape17
  rw [if_neg (fun h => absurd (k0_10.symm.trans h.2.2) (by decide)), if_neg (fun h => absurd (k0_10.symm.trans h.2) (by decide)), if_neg (fun h => absurd (k0_10.symm.trans h.2) (by decide))]
  rw [if_pos ⟨k25_1, k0_10⟩]
  rw [show bfld n 22 3 = x0 from bfld_digit e22]
  rw [show bfld n 16 6 = x1 from bfld_digit e16]
  rw [show bfld n 10 6 = x2 from bfld_digit e10]

/-- Its word and back. -/
theorem RoundTrip.rdxFadd (x0 : BitVec 3) (x1 : BitVec 6) (x2 : BitVec 6) : RoundTrip.Statement (.rdxFadd x0 x1 x2) := by
  intro n hw hn
  have e0 : n / 2 ^ 0 = ((((23 * 2 ^ 1 + 0) * 2 ^ 3 + x0.toNat) * 2 ^ 6 + x1.toNat) * 2 ^ 6 + x2.toNat) * 2 ^ 10 + 7 := by
    have hn := Option.some.inj hn
    rw [Nat.pow_zero, Nat.div_one]; omega
  have e10 := div_next e0 (by decide)
  have e16 := div_next e10 x2.isLt
  have e22 := div_next e16 x1.isLt
  have e25 := div_next e22 x0.isLt
  have e26 := div_next e25 (by decide)
  have k0_10 : fld n 0 10 = 7 := fld_digit e0 (by decide)
  have k25_1 : fld n 25 1 = 0 := fld_digit e25 (by decide)
  refine ⟨digits_lt e26 (by decide), decodeWord_of (shape_17 (fld_digit (p := 0) (e26.trans (by decide)) (by decide))) ?_ hw⟩
  unfold shape17
  rw [if_neg (fun h => absurd (k0_10.symm.trans h.2.2) (by decide)), if_neg (fun h => absurd (k0_10.symm.trans h.2) (by decide)), if_neg (fun h => absurd (k0_10.symm.trans h.2) (by decide)), if_neg (fun h => absurd (k0_10.symm.trans h.2) (by decide))]
  rw [if_pos ⟨k25_1, k0_10⟩]
  rw [show bfld n 22 3 = x0 from bfld_digit e22]
  rw [show bfld n 16 6 = x1 from bfld_digit e16]
  rw [show bfld n 10 6 = x2 from bfld_digit e10]

/-- Its word and back. -/
theorem RoundTrip.rdxFmin (x0 : BitVec 3) (x1 : BitVec 6) (x2 : BitVec 6) : RoundTrip.Statement (.rdxFmin x0 x1 x2) := by
  intro n hw hn
  have e0 : n / 2 ^ 0 = ((((23 * 2 ^ 1 + 0) * 2 ^ 3 + x0.toNat) * 2 ^ 6 + x1.toNat) * 2 ^ 6 + x2.toNat) * 2 ^ 10 + 8 := by
    have hn := Option.some.inj hn
    rw [Nat.pow_zero, Nat.div_one]; omega
  have e10 := div_next e0 (by decide)
  have e16 := div_next e10 x2.isLt
  have e22 := div_next e16 x1.isLt
  have e25 := div_next e22 x0.isLt
  have e26 := div_next e25 (by decide)
  have k0_10 : fld n 0 10 = 8 := fld_digit e0 (by decide)
  have k25_1 : fld n 25 1 = 0 := fld_digit e25 (by decide)
  refine ⟨digits_lt e26 (by decide), decodeWord_of (shape_17 (fld_digit (p := 0) (e26.trans (by decide)) (by decide))) ?_ hw⟩
  unfold shape17
  rw [if_neg (fun h => absurd (k0_10.symm.trans h.2.2) (by decide)), if_neg (fun h => absurd (k0_10.symm.trans h.2) (by decide)), if_neg (fun h => absurd (k0_10.symm.trans h.2) (by decide)), if_neg (fun h => absurd (k0_10.symm.trans h.2) (by decide)), if_neg (fun h => absurd (k0_10.symm.trans h.2) (by decide))]
  rw [if_pos ⟨k25_1, k0_10⟩]
  rw [show bfld n 22 3 = x0 from bfld_digit e22]
  rw [show bfld n 16 6 = x1 from bfld_digit e16]
  rw [show bfld n 10 6 = x2 from bfld_digit e10]

/-- Its word and back. -/
theorem RoundTrip.rdxFmax (x0 : BitVec 3) (x1 : BitVec 6) (x2 : BitVec 6) : RoundTrip.Statement (.rdxFmax x0 x1 x2) := by
  intro n hw hn
  have e0 : n / 2 ^ 0 = ((((23 * 2 ^ 1 + 0) * 2 ^ 3 + x0.toNat) * 2 ^ 6 + x1.toNat) * 2 ^ 6 + x2.toNat) * 2 ^ 10 + 9 := by
    have hn := Option.some.inj hn
    rw [Nat.pow_zero, Nat.div_one]; omega
  have e10 := div_next e0 (by decide)
  have e16 := div_next e10 x2.isLt
  have e22 := div_next e16 x1.isLt
  have e25 := div_next e22 x0.isLt
  have e26 := div_next e25 (by decide)
  have k0_10 : fld n 0 10 = 9 := fld_digit e0 (by decide)
  have k25_1 : fld n 25 1 = 0 := fld_digit e25 (by decide)
  refine ⟨digits_lt e26 (by decide), decodeWord_of (shape_17 (fld_digit (p := 0) (e26.trans (by decide)) (by decide))) ?_ hw⟩
  unfold shape17
  rw [if_neg (fun h => absurd (k0_10.symm.trans h.2.2) (by decide)), if_neg (fun h => absurd (k0_10.symm.trans h.2) (by decide)), if_neg (fun h => absurd (k0_10.symm.trans h.2) (by decide)), if_neg (fun h => absurd (k0_10.symm.trans h.2) (by decide)), if_neg (fun h => absurd (k0_10.symm.trans h.2) (by decide)), if_neg (fun h => absurd (k0_10.symm.trans h.2) (by decide))]
  rw [if_pos ⟨k25_1, k0_10⟩]
  rw [show bfld n 22 3 = x0 from bfld_digit e22]
  rw [show bfld n 16 6 = x1 from bfld_digit e16]
  rw [show bfld n 10 6 = x2 from bfld_digit e10]

/-- Its word and back. -/
theorem RoundTrip.scanIadd (x0 : BitVec 3) (x1 : BitVec 6) (x2 : BitVec 6) : RoundTrip.Statement (.scanIadd x0 x1 x2) := by
  intro n hw hn
  have e0 : n / 2 ^ 0 = ((((23 * 2 ^ 1 + 0) * 2 ^ 3 + x0.toNat) * 2 ^ 6 + x1.toNat) * 2 ^ 6 + x2.toNat) * 2 ^ 10 + 10 := by
    have hn := Option.some.inj hn
    rw [Nat.pow_zero, Nat.div_one]; omega
  have e10 := div_next e0 (by decide)
  have e16 := div_next e10 x2.isLt
  have e22 := div_next e16 x1.isLt
  have e25 := div_next e22 x0.isLt
  have e26 := div_next e25 (by decide)
  have k0_10 : fld n 0 10 = 10 := fld_digit e0 (by decide)
  have k25_1 : fld n 25 1 = 0 := fld_digit e25 (by decide)
  refine ⟨digits_lt e26 (by decide), decodeWord_of (shape_17 (fld_digit (p := 0) (e26.trans (by decide)) (by decide))) ?_ hw⟩
  unfold shape17
  rw [if_neg (fun h => absurd (k0_10.symm.trans h.2.2) (by decide)), if_neg (fun h => absurd (k0_10.symm.trans h.2) (by decide)), if_neg (fun h => absurd (k0_10.symm.trans h.2) (by decide)), if_neg (fun h => absurd (k0_10.symm.trans h.2) (by decide)), if_neg (fun h => absurd (k0_10.symm.trans h.2) (by decide)), if_neg (fun h => absurd (k0_10.symm.trans h.2) (by decide)), if_neg (fun h => absurd (k0_10.symm.trans h.2) (by decide))]
  rw [if_pos ⟨k25_1, k0_10⟩]
  rw [show bfld n 22 3 = x0 from bfld_digit e22]
  rw [show bfld n 16 6 = x1 from bfld_digit e16]
  rw [show bfld n 10 6 = x2 from bfld_digit e10]

/-- Its word and back. -/
theorem RoundTrip.scanIaddx (x0 : BitVec 3) (x1 : BitVec 6) (x2 : BitVec 6) : RoundTrip.Statement (.scanIaddx x0 x1 x2) := by
  intro n hw hn
  have e0 : n / 2 ^ 0 = ((((23 * 2 ^ 1 + 0) * 2 ^ 3 + x0.toNat) * 2 ^ 6 + x1.toNat) * 2 ^ 6 + x2.toNat) * 2 ^ 10 + 11 := by
    have hn := Option.some.inj hn
    rw [Nat.pow_zero, Nat.div_one]; omega
  have e10 := div_next e0 (by decide)
  have e16 := div_next e10 x2.isLt
  have e22 := div_next e16 x1.isLt
  have e25 := div_next e22 x0.isLt
  have e26 := div_next e25 (by decide)
  have k0_10 : fld n 0 10 = 11 := fld_digit e0 (by decide)
  have k25_1 : fld n 25 1 = 0 := fld_digit e25 (by decide)
  refine ⟨digits_lt e26 (by decide), decodeWord_of (shape_17 (fld_digit (p := 0) (e26.trans (by decide)) (by decide))) ?_ hw⟩
  unfold shape17
  rw [if_neg (fun h => absurd (k0_10.symm.trans h.2.2) (by decide)), if_neg (fun h => absurd (k0_10.symm.trans h.2) (by decide)), if_neg (fun h => absurd (k0_10.symm.trans h.2) (by decide)), if_neg (fun h => absurd (k0_10.symm.trans h.2) (by decide)), if_neg (fun h => absurd (k0_10.symm.trans h.2) (by decide)), if_neg (fun h => absurd (k0_10.symm.trans h.2) (by decide)), if_neg (fun h => absurd (k0_10.symm.trans h.2) (by decide)), if_neg (fun h => absurd (k0_10.symm.trans h.2) (by decide))]
  rw [if_pos ⟨k25_1, k0_10⟩]
  rw [show bfld n 22 3 = x0 from bfld_digit e22]
  rw [show bfld n 16 6 = x1 from bfld_digit e16]
  rw [show bfld n 10 6 = x2 from bfld_digit e10]

/-- Its word and back. -/
theorem RoundTrip.scanFadd (x0 : BitVec 3) (x1 : BitVec 6) (x2 : BitVec 6) : RoundTrip.Statement (.scanFadd x0 x1 x2) := by
  intro n hw hn
  have e0 : n / 2 ^ 0 = ((((23 * 2 ^ 1 + 0) * 2 ^ 3 + x0.toNat) * 2 ^ 6 + x1.toNat) * 2 ^ 6 + x2.toNat) * 2 ^ 10 + 12 := by
    have hn := Option.some.inj hn
    rw [Nat.pow_zero, Nat.div_one]; omega
  have e10 := div_next e0 (by decide)
  have e16 := div_next e10 x2.isLt
  have e22 := div_next e16 x1.isLt
  have e25 := div_next e22 x0.isLt
  have e26 := div_next e25 (by decide)
  have k0_10 : fld n 0 10 = 12 := fld_digit e0 (by decide)
  have k25_1 : fld n 25 1 = 0 := fld_digit e25 (by decide)
  refine ⟨digits_lt e26 (by decide), decodeWord_of (shape_17 (fld_digit (p := 0) (e26.trans (by decide)) (by decide))) ?_ hw⟩
  unfold shape17
  rw [if_neg (fun h => absurd (k0_10.symm.trans h.2.2) (by decide)), if_neg (fun h => absurd (k0_10.symm.trans h.2) (by decide)), if_neg (fun h => absurd (k0_10.symm.trans h.2) (by decide)), if_neg (fun h => absurd (k0_10.symm.trans h.2) (by decide)), if_neg (fun h => absurd (k0_10.symm.trans h.2) (by decide)), if_neg (fun h => absurd (k0_10.symm.trans h.2) (by decide)), if_neg (fun h => absurd (k0_10.symm.trans h.2) (by decide)), if_neg (fun h => absurd (k0_10.symm.trans h.2) (by decide)), if_neg (fun h => absurd (k0_10.symm.trans h.2) (by decide))]
  rw [if_pos ⟨k25_1, k0_10⟩]
  rw [show bfld n 22 3 = x0 from bfld_digit e22]
  rw [show bfld n 16 6 = x1 from bfld_digit e16]
  rw [show bfld n 10 6 = x2 from bfld_digit e10]

/-- Its word and back. -/
theorem RoundTrip.scanFaddx (x0 : BitVec 3) (x1 : BitVec 6) (x2 : BitVec 6) : RoundTrip.Statement (.scanFaddx x0 x1 x2) := by
  intro n hw hn
  have e0 : n / 2 ^ 0 = ((((23 * 2 ^ 1 + 0) * 2 ^ 3 + x0.toNat) * 2 ^ 6 + x1.toNat) * 2 ^ 6 + x2.toNat) * 2 ^ 10 + 13 := by
    have hn := Option.some.inj hn
    rw [Nat.pow_zero, Nat.div_one]; omega
  have e10 := div_next e0 (by decide)
  have e16 := div_next e10 x2.isLt
  have e22 := div_next e16 x1.isLt
  have e25 := div_next e22 x0.isLt
  have e26 := div_next e25 (by decide)
  have k0_10 : fld n 0 10 = 13 := fld_digit e0 (by decide)
  have k25_1 : fld n 25 1 = 0 := fld_digit e25 (by decide)
  refine ⟨digits_lt e26 (by decide), decodeWord_of (shape_17 (fld_digit (p := 0) (e26.trans (by decide)) (by decide))) ?_ hw⟩
  unfold shape17
  rw [if_neg (fun h => absurd (k0_10.symm.trans h.2.2) (by decide)), if_neg (fun h => absurd (k0_10.symm.trans h.2) (by decide)), if_neg (fun h => absurd (k0_10.symm.trans h.2) (by decide)), if_neg (fun h => absurd (k0_10.symm.trans h.2) (by decide)), if_neg (fun h => absurd (k0_10.symm.trans h.2) (by decide)), if_neg (fun h => absurd (k0_10.symm.trans h.2) (by decide)), if_neg (fun h => absurd (k0_10.symm.trans h.2) (by decide)), if_neg (fun h => absurd (k0_10.symm.trans h.2) (by decide)), if_neg (fun h => absurd (k0_10.symm.trans h.2) (by decide)), if_neg (fun h => absurd (k0_10.symm.trans h.2) (by decide))]
  rw [if_pos ⟨k25_1, k0_10⟩]
  rw [show bfld n 22 3 = x0 from bfld_digit e22]
  rw [show bfld n 16 6 = x1 from bfld_digit e16]
  rw [show bfld n 10 6 = x2 from bfld_digit e10]

/-- Its word and back. -/
theorem RoundTrip.shfl (x0 : BitVec 3) (x1 : BitVec 6) (x2 : BitVec 6) (x3 : BitVec 6) : RoundTrip.Statement (.shfl x0 x1 x2 x3) := by
  intro n hw hn
  have e0 : n / 2 ^ 0 = (((((23 * 2 ^ 1 + 0) * 2 ^ 3 + x0.toNat) * 2 ^ 6 + x1.toNat) * 2 ^ 6 + x2.toNat) * 2 ^ 6 + x3.toNat) * 2 ^ 4 + 0 := by
    have hn := Option.some.inj hn
    rw [Nat.pow_zero, Nat.div_one]; omega
  have e4 := div_next e0 (by decide)
  have e10 := div_next e4 x3.isLt
  have e16 := div_next e10 x2.isLt
  have e22 := div_next e16 x1.isLt
  have e25 := div_next e22 x0.isLt
  have e26 := div_next e25 (by decide)
  have k25_1 : fld n 25 1 = 0 := fld_digit e25 (by decide)
  have k0_4 : fld n 0 4 = 0 := fld_digit e0 (by decide)
  have hx0 := x0.isLt
  have hx1 := x1.isLt
  have hx2 := x2.isLt
  have hx3 := x3.isLt
  have hn := Option.some.inj hn
  refine ⟨digits_lt e26 (by decide), decodeWord_of (shape_17 (fld_digit (p := 0) (e26.trans (by decide)) (by decide))) ?_ hw⟩
  unfold shape17
  rw [if_neg (by unfold fld; omega), if_neg (by unfold fld; omega), if_neg (by unfold fld; omega), if_neg (by unfold fld; omega), if_neg (by unfold fld; omega), if_neg (by unfold fld; omega), if_neg (by unfold fld; omega), if_neg (by unfold fld; omega), if_neg (by unfold fld; omega), if_neg (by unfold fld; omega), if_neg (by unfold fld; omega)]
  rw [if_pos ⟨k25_1, k0_4⟩]
  rw [show bfld n 22 3 = x0 from bfld_digit e22]
  rw [show bfld n 16 6 = x1 from bfld_digit e16]
  rw [show bfld n 10 6 = x2 from bfld_digit e10]
  rw [show bfld n 4 6 = x3 from bfld_digit e4]

/-- Its word and back. -/
theorem RoundTrip.shflx (x0 : BitVec 3) (x1 : BitVec 6) (x2 : BitVec 6) (x3 : BitVec 6) : RoundTrip.Statement (.shflx x0 x1 x2 x3) := by
  intro n hw hn
  have e0 : n / 2 ^ 0 = (((((23 * 2 ^ 1 + 0) * 2 ^ 3 + x0.toNat) * 2 ^ 6 + x1.toNat) * 2 ^ 6 + x2.toNat) * 2 ^ 6 + x3.toNat) * 2 ^ 4 + 1 := by
    have hn := Option.some.inj hn
    rw [Nat.pow_zero, Nat.div_one]; omega
  have e4 := div_next e0 (by decide)
  have e10 := div_next e4 x3.isLt
  have e16 := div_next e10 x2.isLt
  have e22 := div_next e16 x1.isLt
  have e25 := div_next e22 x0.isLt
  have e26 := div_next e25 (by decide)
  have k0_4 : fld n 0 4 = 1 := fld_digit e0 (by decide)
  have k25_1 : fld n 25 1 = 0 := fld_digit e25 (by decide)
  have hx0 := x0.isLt
  have hx1 := x1.isLt
  have hx2 := x2.isLt
  have hx3 := x3.isLt
  have hn := Option.some.inj hn
  refine ⟨digits_lt e26 (by decide), decodeWord_of (shape_17 (fld_digit (p := 0) (e26.trans (by decide)) (by decide))) ?_ hw⟩
  unfold shape17
  rw [if_neg (by unfold fld; omega), if_neg (by unfold fld; omega), if_neg (by unfold fld; omega), if_neg (by unfold fld; omega), if_neg (by unfold fld; omega), if_neg (by unfold fld; omega), if_neg (by unfold fld; omega), if_neg (by unfold fld; omega), if_neg (by unfold fld; omega), if_neg (by unfold fld; omega), if_neg (by unfold fld; omega), if_neg (fun h => absurd (k0_4.symm.trans h.2) (by decide))]
  rw [if_pos ⟨k25_1, k0_4⟩]
  rw [show bfld n 22 3 = x0 from bfld_digit e22]
  rw [show bfld n 16 6 = x1 from bfld_digit e16]
  rw [show bfld n 10 6 = x2 from bfld_digit e10]
  rw [show bfld n 4 6 = x3 from bfld_digit e4]

/-- Its word and back. -/
theorem RoundTrip.shflu (x0 : BitVec 3) (x1 : BitVec 6) (x2 : BitVec 6) (x3 : BitVec 6) : RoundTrip.Statement (.shflu x0 x1 x2 x3) := by
  intro n hw hn
  have e0 : n / 2 ^ 0 = (((((23 * 2 ^ 1 + 0) * 2 ^ 3 + x0.toNat) * 2 ^ 6 + x1.toNat) * 2 ^ 6 + x2.toNat) * 2 ^ 6 + x3.toNat) * 2 ^ 4 + 2 := by
    have hn := Option.some.inj hn
    rw [Nat.pow_zero, Nat.div_one]; omega
  have e4 := div_next e0 (by decide)
  have e10 := div_next e4 x3.isLt
  have e16 := div_next e10 x2.isLt
  have e22 := div_next e16 x1.isLt
  have e25 := div_next e22 x0.isLt
  have e26 := div_next e25 (by decide)
  have k0_4 : fld n 0 4 = 2 := fld_digit e0 (by decide)
  have k25_1 : fld n 25 1 = 0 := fld_digit e25 (by decide)
  have hx0 := x0.isLt
  have hx1 := x1.isLt
  have hx2 := x2.isLt
  have hx3 := x3.isLt
  have hn := Option.some.inj hn
  refine ⟨digits_lt e26 (by decide), decodeWord_of (shape_17 (fld_digit (p := 0) (e26.trans (by decide)) (by decide))) ?_ hw⟩
  unfold shape17
  rw [if_neg (by unfold fld; omega), if_neg (by unfold fld; omega), if_neg (by unfold fld; omega), if_neg (by unfold fld; omega), if_neg (by unfold fld; omega), if_neg (by unfold fld; omega), if_neg (by unfold fld; omega), if_neg (by unfold fld; omega), if_neg (by unfold fld; omega), if_neg (by unfold fld; omega), if_neg (by unfold fld; omega), if_neg (fun h => absurd (k0_4.symm.trans h.2) (by decide)), if_neg (fun h => absurd (k0_4.symm.trans h.2) (by decide))]
  rw [if_pos ⟨k25_1, k0_4⟩]
  rw [show bfld n 22 3 = x0 from bfld_digit e22]
  rw [show bfld n 16 6 = x1 from bfld_digit e16]
  rw [show bfld n 10 6 = x2 from bfld_digit e10]
  rw [show bfld n 4 6 = x3 from bfld_digit e4]

/-- Its word and back. -/
theorem RoundTrip.shfld (x0 : BitVec 3) (x1 : BitVec 6) (x2 : BitVec 6) (x3 : BitVec 6) : RoundTrip.Statement (.shfld x0 x1 x2 x3) := by
  intro n hw hn
  have e0 : n / 2 ^ 0 = (((((23 * 2 ^ 1 + 0) * 2 ^ 3 + x0.toNat) * 2 ^ 6 + x1.toNat) * 2 ^ 6 + x2.toNat) * 2 ^ 6 + x3.toNat) * 2 ^ 4 + 3 := by
    have hn := Option.some.inj hn
    rw [Nat.pow_zero, Nat.div_one]; omega
  have e4 := div_next e0 (by decide)
  have e10 := div_next e4 x3.isLt
  have e16 := div_next e10 x2.isLt
  have e22 := div_next e16 x1.isLt
  have e25 := div_next e22 x0.isLt
  have e26 := div_next e25 (by decide)
  have k0_4 : fld n 0 4 = 3 := fld_digit e0 (by decide)
  have k25_1 : fld n 25 1 = 0 := fld_digit e25 (by decide)
  have hx0 := x0.isLt
  have hx1 := x1.isLt
  have hx2 := x2.isLt
  have hx3 := x3.isLt
  have hn := Option.some.inj hn
  refine ⟨digits_lt e26 (by decide), decodeWord_of (shape_17 (fld_digit (p := 0) (e26.trans (by decide)) (by decide))) ?_ hw⟩
  unfold shape17
  rw [if_neg (by unfold fld; omega), if_neg (by unfold fld; omega), if_neg (by unfold fld; omega), if_neg (by unfold fld; omega), if_neg (by unfold fld; omega), if_neg (by unfold fld; omega), if_neg (by unfold fld; omega), if_neg (by unfold fld; omega), if_neg (by unfold fld; omega), if_neg (by unfold fld; omega), if_neg (by unfold fld; omega), if_neg (fun h => absurd (k0_4.symm.trans h.2) (by decide)), if_neg (fun h => absurd (k0_4.symm.trans h.2) (by decide)), if_neg (fun h => absurd (k0_4.symm.trans h.2) (by decide))]
  rw [if_pos ⟨k25_1, k0_4⟩]
  rw [show bfld n 22 3 = x0 from bfld_digit e22]
  rw [show bfld n 16 6 = x1 from bfld_digit e16]
  rw [show bfld n 10 6 = x2 from bfld_digit e10]
  rw [show bfld n 4 6 = x3 from bfld_digit e4]

/-- Its word and back. -/
theorem RoundTrip.xshf (x0 : BitVec 3) (x1 : BitVec 6) (x2 : BitVec 6) (x3 : BitVec 6) : RoundTrip.Statement (.xshf x0 x1 x2 x3) := by
  intro n hw hn
  have e0 : n / 2 ^ 0 = (((((23 * 2 ^ 1 + 0) * 2 ^ 3 + x0.toNat) * 2 ^ 6 + x1.toNat) * 2 ^ 6 + x2.toNat) * 2 ^ 6 + x3.toNat) * 2 ^ 4 + 15 := by
    have hn := Option.some.inj hn
    rw [Nat.pow_zero, Nat.div_one]; omega
  have e4 := div_next e0 (by decide)
  have e10 := div_next e4 x3.isLt
  have e16 := div_next e10 x2.isLt
  have e22 := div_next e16 x1.isLt
  have e25 := div_next e22 x0.isLt
  have e26 := div_next e25 (by decide)
  have k0_4 : fld n 0 4 = 15 := fld_digit e0 (by decide)
  have k25_1 : fld n 25 1 = 0 := fld_digit e25 (by decide)
  have hx0 := x0.isLt
  have hx1 := x1.isLt
  have hx2 := x2.isLt
  have hx3 := x3.isLt
  have hn := Option.some.inj hn
  refine ⟨digits_lt e26 (by decide), decodeWord_of (shape_17 (fld_digit (p := 0) (e26.trans (by decide)) (by decide))) ?_ hw⟩
  unfold shape17
  rw [if_neg (by unfold fld; omega), if_neg (by unfold fld; omega), if_neg (by unfold fld; omega), if_neg (by unfold fld; omega), if_neg (by unfold fld; omega), if_neg (by unfold fld; omega), if_neg (by unfold fld; omega), if_neg (by unfold fld; omega), if_neg (by unfold fld; omega), if_neg (by unfold fld; omega), if_neg (by unfold fld; omega), if_neg (fun h => absurd (k0_4.symm.trans h.2) (by decide)), if_neg (fun h => absurd (k0_4.symm.trans h.2) (by decide)), if_neg (fun h => absurd (k0_4.symm.trans h.2) (by decide)), if_neg (fun h => absurd (k0_4.symm.trans h.2) (by decide))]
  rw [if_pos ⟨k25_1, k0_4⟩]
  rw [show bfld n 22 3 = x0 from bfld_digit e22]
  rw [show bfld n 16 6 = x1 from bfld_digit e16]
  rw [show bfld n 10 6 = x2 from bfld_digit e10]
  rw [show bfld n 4 6 = x3 from bfld_digit e4]

/-- Its word and back. -/
theorem RoundTrip.fidx (x0 : BitVec 6) : RoundTrip.Statement (.fidx x0) := by
  intro n hw hn
  have e0 : n / 2 ^ 0 = ((24 * 2 ^ 4 + 7) * 2 ^ 6 + x0.toNat) * 2 ^ 16 + 6 := by
    have hn := Option.some.inj hn
    rw [Nat.pow_zero, Nat.div_one]; omega
  have e16 := div_next e0 (by decide)
  have e22 := div_next e16 x0.isLt
  have e26 := div_next e22 (by decide)
  have k22_4 : fld n 22 4 = 7 := fld_digit e22 (by decide)
  have k0_16 : fld n 0 16 = 6 := fld_digit e0 (by decide)
  refine ⟨digits_lt e26 (by decide), decodeWord_of (shape_18 (fld_digit (p := 0) (e26.trans (by decide)) (by decide))) ?_ hw⟩
  unfold shape18
  rw [if_pos ⟨k22_4, k0_16⟩]
  rw [show bfld n 16 6 = x0 from bfld_digit e16]

/-- Its word and back. -/
theorem RoundTrip.voteAny (x0 : BitVec 3) (x1 : BitVec 3) (x2 : BitVec 4) : RoundTrip.Statement (.voteAny x0 x1 x2) := by
  intro n hw hn
  have e0 : n / 2 ^ 0 = ((((((24 * 2 ^ 1 + 0) * 2 ^ 3 + x0.toNat) * 2 ^ 3 + 0) * 2 ^ 3 + x1.toNat) * 2 ^ 2 + 0) * 2 ^ 4 + x2.toNat) * 2 ^ 10 + 0 := by
    have hn := Option.some.inj hn
    rw [Nat.pow_zero, Nat.div_one]; omega
  have e10 := div_next e0 (by decide)
  have e14 := div_next e10 x2.isLt
  have e16 := div_next e14 (by decide)
  have e19 := div_next e16 x1.isLt
  have e22 := div_next e19 (by decide)
  have e25 := div_next e22 x0.isLt
  have e26 := div_next e25 (by decide)
  have k25_1 : fld n 25 1 = 0 := fld_digit e25 (by decide)
  have k19_3 : fld n 19 3 = 0 := fld_digit e19 (by decide)
  have k14_2 : fld n 14 2 = 0 := fld_digit e14 (by decide)
  have k0_10 : fld n 0 10 = 0 := fld_digit e0 (by decide)
  have hx0 := x0.isLt
  have hx1 := x1.isLt
  have hx2 := x2.isLt
  have hn := Option.some.inj hn
  refine ⟨digits_lt e26 (by decide), decodeWord_of (shape_18 (fld_digit (p := 0) (e26.trans (by decide)) (by decide))) ?_ hw⟩
  unfold shape18
  rw [if_neg (by unfold fld; omega)]
  rw [if_pos ⟨k25_1, k19_3, k14_2, k0_10⟩]
  rw [show bfld n 22 3 = x0 from bfld_digit e22]
  rw [show bfld n 16 3 = x1 from bfld_digit e16]
  rw [show bfld n 10 4 = x2 from bfld_digit e10]

/-- Its word and back. -/
theorem RoundTrip.voteAll (x0 : BitVec 3) (x1 : BitVec 3) (x2 : BitVec 4) : RoundTrip.Statement (.voteAll x0 x1 x2) := by
  intro n hw hn
  have e0 : n / 2 ^ 0 = ((((((24 * 2 ^ 1 + 0) * 2 ^ 3 + x0.toNat) * 2 ^ 3 + 0) * 2 ^ 3 + x1.toNat) * 2 ^ 2 + 0) * 2 ^ 4 + x2.toNat) * 2 ^ 10 + 1 := by
    have hn := Option.some.inj hn
    rw [Nat.pow_zero, Nat.div_one]; omega
  have e10 := div_next e0 (by decide)
  have e14 := div_next e10 x2.isLt
  have e16 := div_next e14 (by decide)
  have e19 := div_next e16 x1.isLt
  have e22 := div_next e19 (by decide)
  have e25 := div_next e22 x0.isLt
  have e26 := div_next e25 (by decide)
  have k0_10 : fld n 0 10 = 1 := fld_digit e0 (by decide)
  have k25_1 : fld n 25 1 = 0 := fld_digit e25 (by decide)
  have k19_3 : fld n 19 3 = 0 := fld_digit e19 (by decide)
  have k14_2 : fld n 14 2 = 0 := fld_digit e14 (by decide)
  have hx0 := x0.isLt
  have hx1 := x1.isLt
  have hx2 := x2.isLt
  have hn := Option.some.inj hn
  refine ⟨digits_lt e26 (by decide), decodeWord_of (shape_18 (fld_digit (p := 0) (e26.trans (by decide)) (by decide))) ?_ hw⟩
  unfold shape18
  rw [if_neg (by unfold fld; omega), if_neg (fun h => absurd (k0_10.symm.trans h.2.2.2) (by decide))]
  rw [if_pos ⟨k25_1, k19_3, k14_2, k0_10⟩]
  rw [show bfld n 22 3 = x0 from bfld_digit e22]
  rw [show bfld n 16 3 = x1 from bfld_digit e16]
  rw [show bfld n 10 4 = x2 from bfld_digit e10]

/-- Its word and back. -/
theorem RoundTrip.voteEq (x0 : BitVec 3) (x1 : BitVec 3) (x2 : BitVec 4) : RoundTrip.Statement (.voteEq x0 x1 x2) := by
  intro n hw hn
  have e0 : n / 2 ^ 0 = ((((((24 * 2 ^ 1 + 0) * 2 ^ 3 + x0.toNat) * 2 ^ 3 + 0) * 2 ^ 3 + x1.toNat) * 2 ^ 2 + 0) * 2 ^ 4 + x2.toNat) * 2 ^ 10 + 2 := by
    have hn := Option.some.inj hn
    rw [Nat.pow_zero, Nat.div_one]; omega
  have e10 := div_next e0 (by decide)
  have e14 := div_next e10 x2.isLt
  have e16 := div_next e14 (by decide)
  have e19 := div_next e16 x1.isLt
  have e22 := div_next e19 (by decide)
  have e25 := div_next e22 x0.isLt
  have e26 := div_next e25 (by decide)
  have k0_10 : fld n 0 10 = 2 := fld_digit e0 (by decide)
  have k25_1 : fld n 25 1 = 0 := fld_digit e25 (by decide)
  have k19_3 : fld n 19 3 = 0 := fld_digit e19 (by decide)
  have k14_2 : fld n 14 2 = 0 := fld_digit e14 (by decide)
  have hx0 := x0.isLt
  have hx1 := x1.isLt
  have hx2 := x2.isLt
  have hn := Option.some.inj hn
  refine ⟨digits_lt e26 (by decide), decodeWord_of (shape_18 (fld_digit (p := 0) (e26.trans (by decide)) (by decide))) ?_ hw⟩
  unfold shape18
  rw [if_neg (by unfold fld; omega), if_neg (fun h => absurd (k0_10.symm.trans h.2.2.2) (by decide)), if_neg (fun h => absurd (k0_10.symm.trans h.2.2.2) (by decide))]
  rw [if_pos ⟨k25_1, k19_3, k14_2, k0_10⟩]
  rw [show bfld n 22 3 = x0 from bfld_digit e22]
  rw [show bfld n 16 3 = x1 from bfld_digit e16]
  rw [show bfld n 10 4 = x2 from bfld_digit e10]

/-- Its word and back. -/
theorem RoundTrip.voteBal (x0 : BitVec 3) (x1 : BitVec 3) (x2 : BitVec 4) : RoundTrip.Statement (.voteBal x0 x1 x2) := by
  intro n hw hn
  have e0 : n / 2 ^ 0 = ((((((24 * 2 ^ 1 + 0) * 2 ^ 3 + x0.toNat) * 2 ^ 3 + 0) * 2 ^ 3 + x1.toNat) * 2 ^ 2 + 0) * 2 ^ 4 + x2.toNat) * 2 ^ 10 + 3 := by
    have hn := Option.some.inj hn
    rw [Nat.pow_zero, Nat.div_one]; omega
  have e10 := div_next e0 (by decide)
  have e14 := div_next e10 x2.isLt
  have e16 := div_next e14 (by decide)
  have e19 := div_next e16 x1.isLt
  have e22 := div_next e19 (by decide)
  have e25 := div_next e22 x0.isLt
  have e26 := div_next e25 (by decide)
  have k0_10 : fld n 0 10 = 3 := fld_digit e0 (by decide)
  have k25_1 : fld n 25 1 = 0 := fld_digit e25 (by decide)
  have k19_3 : fld n 19 3 = 0 := fld_digit e19 (by decide)
  have k14_2 : fld n 14 2 = 0 := fld_digit e14 (by decide)
  have hx0 := x0.isLt
  have hx1 := x1.isLt
  have hx2 := x2.isLt
  have hn := Option.some.inj hn
  refine ⟨digits_lt e26 (by decide), decodeWord_of (shape_18 (fld_digit (p := 0) (e26.trans (by decide)) (by decide))) ?_ hw⟩
  unfold shape18
  rw [if_neg (by unfold fld; omega), if_neg (fun h => absurd (k0_10.symm.trans h.2.2.2) (by decide)), if_neg (fun h => absurd (k0_10.symm.trans h.2.2.2) (by decide)), if_neg (fun h => absurd (k0_10.symm.trans h.2.2.2) (by decide))]
  rw [if_pos ⟨k25_1, k19_3, k14_2, k0_10⟩]
  rw [show bfld n 22 3 = x0 from bfld_digit e22]
  rw [show bfld n 16 3 = x1 from bfld_digit e16]
  rw [show bfld n 10 4 = x2 from bfld_digit e10]

/-- Its word and back. -/
theorem RoundTrip.bcast (x0 : BitVec 3) (x1 : BitVec 6) (x2 : BitVec 6) : RoundTrip.Statement (.bcast x0 x1 x2) := by
  intro n hw hn
  have e0 : n / 2 ^ 0 = ((((24 * 2 ^ 1 + 0) * 2 ^ 3 + x0.toNat) * 2 ^ 6 + x1.toNat) * 2 ^ 6 + x2.toNat) * 2 ^ 10 + 4 := by
    have hn := Option.some.inj hn
    rw [Nat.pow_zero, Nat.div_one]; omega
  have e10 := div_next e0 (by decide)
  have e16 := div_next e10 x2.isLt
  have e22 := div_next e16 x1.isLt
  have e25 := div_next e22 x0.isLt
  have e26 := div_next e25 (by decide)
  have k0_10 : fld n 0 10 = 4 := fld_digit e0 (by decide)
  have k25_1 : fld n 25 1 = 0 := fld_digit e25 (by decide)
  have hx0 := x0.isLt
  have hx1 := x1.isLt
  have hx2 := x2.isLt
  have hn := Option.some.inj hn
  refine ⟨digits_lt e26 (by decide), decodeWord_of (shape_18 (fld_digit (p := 0) (e26.trans (by decide)) (by decide))) ?_ hw⟩
  unfold shape18
  rw [if_neg (by unfold fld; omega), if_neg (fun h => absurd (k0_10.symm.trans h.2.2.2) (by decide)), if_neg (fun h => absurd (k0_10.symm.trans h.2.2.2) (by decide)), if_neg (fun h => absurd (k0_10.symm.trans h.2.2.2) (by decide)), if_neg (fun h => absurd (k0_10.symm.trans h.2.2.2) (by decide))]
  rw [if_pos ⟨k25_1, k0_10⟩]
  rw [show bfld n 22 3 = x0 from bfld_digit e22]
  rw [show bfld n 16 6 = x1 from bfld_digit e16]
  rw [show bfld n 10 6 = x2 from bfld_digit e10]

/-- Its word and back. -/
theorem RoundTrip.rbal (x0 : BitVec 3) (x1 : BitVec 5) (x2 : BitVec 6) (x3 : BitVec 6) : RoundTrip.Statement (.rbal x0 x1 x2 x3) := by
  intro n hw hn
  have e0 : n / 2 ^ 0 = ((((((24 * 2 ^ 1 + 0) * 2 ^ 3 + x0.toNat) * 2 ^ 5 + x1.toNat) * 2 ^ 1 + 0) * 2 ^ 6 + x2.toNat) * 2 ^ 6 + x3.toNat) * 2 ^ 4 + 5 := by
    have hn := Option.some.inj hn
    rw [Nat.pow_zero, Nat.div_one]; omega
  have e4 := div_next e0 (by decide)
  have e10 := div_next e4 x3.isLt
  have e16 := div_next e10 x2.isLt
  have e17 := div_next e16 (by decide)
  have e22 := div_next e17 x1.isLt
  have e25 := div_next e22 x0.isLt
  have e26 := div_next e25 (by decide)
  have k25_1 : fld n 25 1 = 0 := fld_digit e25 (by decide)
  have k16_1 : fld n 16 1 = 0 := fld_digit e16 (by decide)
  have k0_4 : fld n 0 4 = 5 := fld_digit e0 (by decide)
  have hx0 := x0.isLt
  have hx1 := x1.isLt
  have hx2 := x2.isLt
  have hx3 := x3.isLt
  have hn := Option.some.inj hn
  refine ⟨digits_lt e26 (by decide), decodeWord_of (shape_18 (fld_digit (p := 0) (e26.trans (by decide)) (by decide))) ?_ hw⟩
  unfold shape18
  rw [if_neg (by unfold fld; omega), if_neg (by unfold fld; omega), if_neg (by unfold fld; omega), if_neg (by unfold fld; omega), if_neg (by unfold fld; omega), if_neg (by unfold fld; omega)]
  rw [if_pos ⟨k25_1, k16_1, k0_4⟩]
  rw [show bfld n 22 3 = x0 from bfld_digit e22]
  rw [show bfld n 17 5 = x1 from bfld_digit e17]
  rw [show bfld n 10 6 = x2 from bfld_digit e10]
  rw [show bfld n 4 6 = x3 from bfld_digit e4]

/-- Its word and back. -/
theorem RoundTrip.sadd (x0 : BitVec 8) (x1 : BitVec 8) (x2 : BitVec 8) : RoundTrip.Statement (.sadd x0 x1 x2) := by
  intro n hw hn
  have e0 : n / 2 ^ 0 = (((25 * 2 ^ 2 + 0) * 2 ^ 8 + x0.toNat) * 2 ^ 8 + x1.toNat) * 2 ^ 8 + x2.toNat := by
    have hn := Option.some.inj hn
    rw [Nat.pow_zero, Nat.div_one]; omega
  have e8 := div_next e0 x2.isLt
  have e16 := div_next e8 x1.isLt
  have e24 := div_next e16 x0.isLt
  have e26 := div_next e24 (by decide)
  have k24_2 : fld n 24 2 = 0 := fld_digit e24 (by decide)
  refine ⟨digits_lt e26 (by decide), decodeWord_of (shape_19 (fld_digit (p := 0) (e26.trans (by decide)) (by decide))) ?_ hw⟩
  unfold shape19
  rw [if_pos k24_2]
  rw [show bfld n 16 8 = x0 from bfld_digit e16]
  rw [show bfld n 8 8 = x1 from bfld_digit e8]
  rw [show bfld n 0 8 = x2 from bfld_digit e0]

/-- Its word and back. -/
theorem RoundTrip.ssub (x0 : BitVec 8) (x1 : BitVec 8) (x2 : BitVec 8) : RoundTrip.Statement (.ssub x0 x1 x2) := by
  intro n hw hn
  have e0 : n / 2 ^ 0 = (((25 * 2 ^ 2 + 1) * 2 ^ 8 + x0.toNat) * 2 ^ 8 + x1.toNat) * 2 ^ 8 + x2.toNat := by
    have hn := Option.some.inj hn
    rw [Nat.pow_zero, Nat.div_one]; omega
  have e8 := div_next e0 x2.isLt
  have e16 := div_next e8 x1.isLt
  have e24 := div_next e16 x0.isLt
  have e26 := div_next e24 (by decide)
  have k24_2 : fld n 24 2 = 1 := fld_digit e24 (by decide)
  refine ⟨digits_lt e26 (by decide), decodeWord_of (shape_19 (fld_digit (p := 0) (e26.trans (by decide)) (by decide))) ?_ hw⟩
  unfold shape19
  rw [if_neg (fun h => absurd (k24_2.symm.trans h) (by decide))]
  rw [if_pos k24_2]
  rw [show bfld n 16 8 = x0 from bfld_digit e16]
  rw [show bfld n 8 8 = x1 from bfld_digit e8]
  rw [show bfld n 0 8 = x2 from bfld_digit e0]

/-- Its word and back. -/
theorem RoundTrip.smul (x0 : BitVec 8) (x1 : BitVec 8) (x2 : BitVec 8) : RoundTrip.Statement (.smul x0 x1 x2) := by
  intro n hw hn
  have e0 : n / 2 ^ 0 = (((25 * 2 ^ 2 + 2) * 2 ^ 8 + x0.toNat) * 2 ^ 8 + x1.toNat) * 2 ^ 8 + x2.toNat := by
    have hn := Option.some.inj hn
    rw [Nat.pow_zero, Nat.div_one]; omega
  have e8 := div_next e0 x2.isLt
  have e16 := div_next e8 x1.isLt
  have e24 := div_next e16 x0.isLt
  have e26 := div_next e24 (by decide)
  have k24_2 : fld n 24 2 = 2 := fld_digit e24 (by decide)
  refine ⟨digits_lt e26 (by decide), decodeWord_of (shape_19 (fld_digit (p := 0) (e26.trans (by decide)) (by decide))) ?_ hw⟩
  unfold shape19
  rw [if_neg (fun h => absurd (k24_2.symm.trans h) (by decide)), if_neg (fun h => absurd (k24_2.symm.trans h) (by decide))]
  rw [if_pos k24_2]
  rw [show bfld n 16 8 = x0 from bfld_digit e16]
  rw [show bfld n 8 8 = x1 from bfld_digit e8]
  rw [show bfld n 0 8 = x2 from bfld_digit e0]

/-- Its word and back. -/
theorem RoundTrip.smulhN (x0 : BitVec 8) (x1 : BitVec 8) (x2 : BitVec 8) : RoundTrip.Statement (.smulhN x0 x1 x2) := by
  intro n hw hn
  have e0 : n / 2 ^ 0 = (((25 * 2 ^ 2 + 3) * 2 ^ 8 + x0.toNat) * 2 ^ 8 + x1.toNat) * 2 ^ 8 + x2.toNat := by
    have hn := Option.some.inj hn
    rw [Nat.pow_zero, Nat.div_one]; omega
  have e8 := div_next e0 x2.isLt
  have e16 := div_next e8 x1.isLt
  have e24 := div_next e16 x0.isLt
  have e26 := div_next e24 (by decide)
  have k24_2 : fld n 24 2 = 3 := fld_digit e24 (by decide)
  refine ⟨digits_lt e26 (by decide), decodeWord_of (shape_19 (fld_digit (p := 0) (e26.trans (by decide)) (by decide))) ?_ hw⟩
  unfold shape19
  rw [if_neg (fun h => absurd (k24_2.symm.trans h) (by decide)), if_neg (fun h => absurd (k24_2.symm.trans h) (by decide)), if_neg (fun h => absurd (k24_2.symm.trans h) (by decide))]
  rw [if_pos k24_2]
  rw [show bfld n 16 8 = x0 from bfld_digit e16]
  rw [show bfld n 8 8 = x1 from bfld_digit e8]
  rw [show bfld n 0 8 = x2 from bfld_digit e0]

/-- Its word and back. -/
theorem RoundTrip.sand (x0 : BitVec 8) (x1 : BitVec 8) (x2 : BitVec 8) : RoundTrip.Statement (.sand x0 x1 x2) := by
  intro n hw hn
  have e0 : n / 2 ^ 0 = (((26 * 2 ^ 2 + 0) * 2 ^ 8 + x0.toNat) * 2 ^ 8 + x1.toNat) * 2 ^ 8 + x2.toNat := by
    have hn := Option.some.inj hn
    rw [Nat.pow_zero, Nat.div_one]; omega
  have e8 := div_next e0 x2.isLt
  have e16 := div_next e8 x1.isLt
  have e24 := div_next e16 x0.isLt
  have e26 := div_next e24 (by decide)
  have k24_2 : fld n 24 2 = 0 := fld_digit e24 (by decide)
  refine ⟨digits_lt e26 (by decide), decodeWord_of (shape_1A (fld_digit (p := 0) (e26.trans (by decide)) (by decide))) ?_ hw⟩
  unfold shape1A
  rw [if_pos k24_2]
  rw [show bfld n 16 8 = x0 from bfld_digit e16]
  rw [show bfld n 8 8 = x1 from bfld_digit e8]
  rw [show bfld n 0 8 = x2 from bfld_digit e0]

/-- Its word and back. -/
theorem RoundTrip.sor (x0 : BitVec 8) (x1 : BitVec 8) (x2 : BitVec 8) : RoundTrip.Statement (.sor x0 x1 x2) := by
  intro n hw hn
  have e0 : n / 2 ^ 0 = (((26 * 2 ^ 2 + 1) * 2 ^ 8 + x0.toNat) * 2 ^ 8 + x1.toNat) * 2 ^ 8 + x2.toNat := by
    have hn := Option.some.inj hn
    rw [Nat.pow_zero, Nat.div_one]; omega
  have e8 := div_next e0 x2.isLt
  have e16 := div_next e8 x1.isLt
  have e24 := div_next e16 x0.isLt
  have e26 := div_next e24 (by decide)
  have k24_2 : fld n 24 2 = 1 := fld_digit e24 (by decide)
  refine ⟨digits_lt e26 (by decide), decodeWord_of (shape_1A (fld_digit (p := 0) (e26.trans (by decide)) (by decide))) ?_ hw⟩
  unfold shape1A
  rw [if_neg (fun h => absurd (k24_2.symm.trans h) (by decide))]
  rw [if_pos k24_2]
  rw [show bfld n 16 8 = x0 from bfld_digit e16]
  rw [show bfld n 8 8 = x1 from bfld_digit e8]
  rw [show bfld n 0 8 = x2 from bfld_digit e0]

/-- Its word and back. -/
theorem RoundTrip.sxor (x0 : BitVec 8) (x1 : BitVec 8) (x2 : BitVec 8) : RoundTrip.Statement (.sxor x0 x1 x2) := by
  intro n hw hn
  have e0 : n / 2 ^ 0 = (((26 * 2 ^ 2 + 2) * 2 ^ 8 + x0.toNat) * 2 ^ 8 + x1.toNat) * 2 ^ 8 + x2.toNat := by
    have hn := Option.some.inj hn
    rw [Nat.pow_zero, Nat.div_one]; omega
  have e8 := div_next e0 x2.isLt
  have e16 := div_next e8 x1.isLt
  have e24 := div_next e16 x0.isLt
  have e26 := div_next e24 (by decide)
  have k24_2 : fld n 24 2 = 2 := fld_digit e24 (by decide)
  refine ⟨digits_lt e26 (by decide), decodeWord_of (shape_1A (fld_digit (p := 0) (e26.trans (by decide)) (by decide))) ?_ hw⟩
  unfold shape1A
  rw [if_neg (fun h => absurd (k24_2.symm.trans h) (by decide)), if_neg (fun h => absurd (k24_2.symm.trans h) (by decide))]
  rw [if_pos k24_2]
  rw [show bfld n 16 8 = x0 from bfld_digit e16]
  rw [show bfld n 8 8 = x1 from bfld_digit e8]
  rw [show bfld n 0 8 = x2 from bfld_digit e0]

/-- Its word and back. -/
theorem RoundTrip.sandn (x0 : BitVec 8) (x1 : BitVec 8) (x2 : BitVec 8) : RoundTrip.Statement (.sandn x0 x1 x2) := by
  intro n hw hn
  have e0 : n / 2 ^ 0 = (((26 * 2 ^ 2 + 3) * 2 ^ 8 + x0.toNat) * 2 ^ 8 + x1.toNat) * 2 ^ 8 + x2.toNat := by
    have hn := Option.some.inj hn
    rw [Nat.pow_zero, Nat.div_one]; omega
  have e8 := div_next e0 x2.isLt
  have e16 := div_next e8 x1.isLt
  have e24 := div_next e16 x0.isLt
  have e26 := div_next e24 (by decide)
  have k24_2 : fld n 24 2 = 3 := fld_digit e24 (by decide)
  refine ⟨digits_lt e26 (by decide), decodeWord_of (shape_1A (fld_digit (p := 0) (e26.trans (by decide)) (by decide))) ?_ hw⟩
  unfold shape1A
  rw [if_neg (fun h => absurd (k24_2.symm.trans h) (by decide)), if_neg (fun h => absurd (k24_2.symm.trans h) (by decide)), if_neg (fun h => absurd (k24_2.symm.trans h) (by decide))]
  rw [if_pos k24_2]
  rw [show bfld n 16 8 = x0 from bfld_digit e16]
  rw [show bfld n 8 8 = x1 from bfld_digit e8]
  rw [show bfld n 0 8 = x2 from bfld_digit e0]

/-- Its word and back. -/
theorem RoundTrip.sshl (x0 : BitVec 8) (x1 : BitVec 8) (x2 : BitVec 8) : RoundTrip.Statement (.sshl x0 x1 x2) := by
  intro n hw hn
  have e0 : n / 2 ^ 0 = (((27 * 2 ^ 2 + 0) * 2 ^ 8 + x0.toNat) * 2 ^ 8 + x1.toNat) * 2 ^ 8 + x2.toNat := by
    have hn := Option.some.inj hn
    rw [Nat.pow_zero, Nat.div_one]; omega
  have e8 := div_next e0 x2.isLt
  have e16 := div_next e8 x1.isLt
  have e24 := div_next e16 x0.isLt
  have e26 := div_next e24 (by decide)
  have k24_2 : fld n 24 2 = 0 := fld_digit e24 (by decide)
  refine ⟨digits_lt e26 (by decide), decodeWord_of (shape_1B (fld_digit (p := 0) (e26.trans (by decide)) (by decide))) ?_ hw⟩
  unfold shape1B
  rw [if_pos k24_2]
  rw [show bfld n 16 8 = x0 from bfld_digit e16]
  rw [show bfld n 8 8 = x1 from bfld_digit e8]
  rw [show bfld n 0 8 = x2 from bfld_digit e0]

/-- Its word and back. -/
theorem RoundTrip.sshr (x0 : BitVec 8) (x1 : BitVec 8) (x2 : BitVec 8) : RoundTrip.Statement (.sshr x0 x1 x2) := by
  intro n hw hn
  have e0 : n / 2 ^ 0 = (((27 * 2 ^ 2 + 1) * 2 ^ 8 + x0.toNat) * 2 ^ 8 + x1.toNat) * 2 ^ 8 + x2.toNat := by
    have hn := Option.some.inj hn
    rw [Nat.pow_zero, Nat.div_one]; omega
  have e8 := div_next e0 x2.isLt
  have e16 := div_next e8 x1.isLt
  have e24 := div_next e16 x0.isLt
  have e26 := div_next e24 (by decide)
  have k24_2 : fld n 24 2 = 1 := fld_digit e24 (by decide)
  refine ⟨digits_lt e26 (by decide), decodeWord_of (shape_1B (fld_digit (p := 0) (e26.trans (by decide)) (by decide))) ?_ hw⟩
  unfold shape1B
  rw [if_neg (fun h => absurd (k24_2.symm.trans h) (by decide))]
  rw [if_pos k24_2]
  rw [show bfld n 16 8 = x0 from bfld_digit e16]
  rw [show bfld n 8 8 = x1 from bfld_digit e8]
  rw [show bfld n 0 8 = x2 from bfld_digit e0]

/-- Its word and back. -/
theorem RoundTrip.ssha (x0 : BitVec 8) (x1 : BitVec 8) (x2 : BitVec 8) : RoundTrip.Statement (.ssha x0 x1 x2) := by
  intro n hw hn
  have e0 : n / 2 ^ 0 = (((27 * 2 ^ 2 + 2) * 2 ^ 8 + x0.toNat) * 2 ^ 8 + x1.toNat) * 2 ^ 8 + x2.toNat := by
    have hn := Option.some.inj hn
    rw [Nat.pow_zero, Nat.div_one]; omega
  have e8 := div_next e0 x2.isLt
  have e16 := div_next e8 x1.isLt
  have e24 := div_next e16 x0.isLt
  have e26 := div_next e24 (by decide)
  have k24_2 : fld n 24 2 = 2 := fld_digit e24 (by decide)
  refine ⟨digits_lt e26 (by decide), decodeWord_of (shape_1B (fld_digit (p := 0) (e26.trans (by decide)) (by decide))) ?_ hw⟩
  unfold shape1B
  rw [if_neg (fun h => absurd (k24_2.symm.trans h) (by decide)), if_neg (fun h => absurd (k24_2.symm.trans h) (by decide))]
  rw [if_pos k24_2]
  rw [show bfld n 16 8 = x0 from bfld_digit e16]
  rw [show bfld n 8 8 = x1 from bfld_digit e8]
  rw [show bfld n 0 8 = x2 from bfld_digit e0]

/-- Its word and back. -/
theorem RoundTrip.srot (x0 : BitVec 8) (x1 : BitVec 8) (x2 : BitVec 8) : RoundTrip.Statement (.srot x0 x1 x2) := by
  intro n hw hn
  have e0 : n / 2 ^ 0 = (((27 * 2 ^ 2 + 3) * 2 ^ 8 + x0.toNat) * 2 ^ 8 + x1.toNat) * 2 ^ 8 + x2.toNat := by
    have hn := Option.some.inj hn
    rw [Nat.pow_zero, Nat.div_one]; omega
  have e8 := div_next e0 x2.isLt
  have e16 := div_next e8 x1.isLt
  have e24 := div_next e16 x0.isLt
  have e26 := div_next e24 (by decide)
  have k24_2 : fld n 24 2 = 3 := fld_digit e24 (by decide)
  refine ⟨digits_lt e26 (by decide), decodeWord_of (shape_1B (fld_digit (p := 0) (e26.trans (by decide)) (by decide))) ?_ hw⟩
  unfold shape1B
  rw [if_neg (fun h => absurd (k24_2.symm.trans h) (by decide)), if_neg (fun h => absurd (k24_2.symm.trans h) (by decide)), if_neg (fun h => absurd (k24_2.symm.trans h) (by decide))]
  rw [if_pos k24_2]
  rw [show bfld n 16 8 = x0 from bfld_digit e16]
  rw [show bfld n 8 8 = x1 from bfld_digit e8]
  rw [show bfld n 0 8 = x2 from bfld_digit e0]

/-- Its word and back. -/
theorem RoundTrip.sminS (x0 : BitVec 8) (x1 : BitVec 8) (x2 : BitVec 8) : RoundTrip.Statement (.sminS x0 x1 x2) := by
  intro n hw hn
  have e0 : n / 2 ^ 0 = (((28 * 2 ^ 2 + 0) * 2 ^ 8 + x0.toNat) * 2 ^ 8 + x1.toNat) * 2 ^ 8 + x2.toNat := by
    have hn := Option.some.inj hn
    rw [Nat.pow_zero, Nat.div_one]; omega
  have e8 := div_next e0 x2.isLt
  have e16 := div_next e8 x1.isLt
  have e24 := div_next e16 x0.isLt
  have e26 := div_next e24 (by decide)
  have k24_2 : fld n 24 2 = 0 := fld_digit e24 (by decide)
  refine ⟨digits_lt e26 (by decide), decodeWord_of (shape_1C (fld_digit (p := 0) (e26.trans (by decide)) (by decide))) ?_ hw⟩
  unfold shape1C
  rw [if_pos k24_2]
  rw [show bfld n 16 8 = x0 from bfld_digit e16]
  rw [show bfld n 8 8 = x1 from bfld_digit e8]
  rw [show bfld n 0 8 = x2 from bfld_digit e0]

/-- Its word and back. -/
theorem RoundTrip.sminN (x0 : BitVec 8) (x1 : BitVec 8) (x2 : BitVec 8) : RoundTrip.Statement (.sminN x0 x1 x2) := by
  intro n hw hn
  have e0 : n / 2 ^ 0 = (((28 * 2 ^ 2 + 1) * 2 ^ 8 + x0.toNat) * 2 ^ 8 + x1.toNat) * 2 ^ 8 + x2.toNat := by
    have hn := Option.some.inj hn
    rw [Nat.pow_zero, Nat.div_one]; omega
  have e8 := div_next e0 x2.isLt
  have e16 := div_next e8 x1.isLt
  have e24 := div_next e16 x0.isLt
  have e26 := div_next e24 (by decide)
  have k24_2 : fld n 24 2 = 1 := fld_digit e24 (by decide)
  refine ⟨digits_lt e26 (by decide), decodeWord_of (shape_1C (fld_digit (p := 0) (e26.trans (by decide)) (by decide))) ?_ hw⟩
  unfold shape1C
  rw [if_neg (fun h => absurd (k24_2.symm.trans h) (by decide))]
  rw [if_pos k24_2]
  rw [show bfld n 16 8 = x0 from bfld_digit e16]
  rw [show bfld n 8 8 = x1 from bfld_digit e8]
  rw [show bfld n 0 8 = x2 from bfld_digit e0]

/-- Its word and back. -/
theorem RoundTrip.smaxS (x0 : BitVec 8) (x1 : BitVec 8) (x2 : BitVec 8) : RoundTrip.Statement (.smaxS x0 x1 x2) := by
  intro n hw hn
  have e0 : n / 2 ^ 0 = (((28 * 2 ^ 2 + 2) * 2 ^ 8 + x0.toNat) * 2 ^ 8 + x1.toNat) * 2 ^ 8 + x2.toNat := by
    have hn := Option.some.inj hn
    rw [Nat.pow_zero, Nat.div_one]; omega
  have e8 := div_next e0 x2.isLt
  have e16 := div_next e8 x1.isLt
  have e24 := div_next e16 x0.isLt
  have e26 := div_next e24 (by decide)
  have k24_2 : fld n 24 2 = 2 := fld_digit e24 (by decide)
  refine ⟨digits_lt e26 (by decide), decodeWord_of (shape_1C (fld_digit (p := 0) (e26.trans (by decide)) (by decide))) ?_ hw⟩
  unfold shape1C
  rw [if_neg (fun h => absurd (k24_2.symm.trans h) (by decide)), if_neg (fun h => absurd (k24_2.symm.trans h) (by decide))]
  rw [if_pos k24_2]
  rw [show bfld n 16 8 = x0 from bfld_digit e16]
  rw [show bfld n 8 8 = x1 from bfld_digit e8]
  rw [show bfld n 0 8 = x2 from bfld_digit e0]

/-- Its word and back. -/
theorem RoundTrip.smaxN (x0 : BitVec 8) (x1 : BitVec 8) (x2 : BitVec 8) : RoundTrip.Statement (.smaxN x0 x1 x2) := by
  intro n hw hn
  have e0 : n / 2 ^ 0 = (((28 * 2 ^ 2 + 3) * 2 ^ 8 + x0.toNat) * 2 ^ 8 + x1.toNat) * 2 ^ 8 + x2.toNat := by
    have hn := Option.some.inj hn
    rw [Nat.pow_zero, Nat.div_one]; omega
  have e8 := div_next e0 x2.isLt
  have e16 := div_next e8 x1.isLt
  have e24 := div_next e16 x0.isLt
  have e26 := div_next e24 (by decide)
  have k24_2 : fld n 24 2 = 3 := fld_digit e24 (by decide)
  refine ⟨digits_lt e26 (by decide), decodeWord_of (shape_1C (fld_digit (p := 0) (e26.trans (by decide)) (by decide))) ?_ hw⟩
  unfold shape1C
  rw [if_neg (fun h => absurd (k24_2.symm.trans h) (by decide)), if_neg (fun h => absurd (k24_2.symm.trans h) (by decide)), if_neg (fun h => absurd (k24_2.symm.trans h) (by decide))]
  rw [if_pos k24_2]
  rw [show bfld n 16 8 = x0 from bfld_digit e16]
  rw [show bfld n 8 8 = x1 from bfld_digit e8]
  rw [show bfld n 0 8 = x2 from bfld_digit e0]

/-- Its word and back. -/
theorem RoundTrip.smov (x0 : BitVec 8) (x1 : BitVec 8) : RoundTrip.Statement (.smov x0 x1) := by
  intro n hw hn
  have e0 : n / 2 ^ 0 = (((29 * 2 ^ 2 + 2) * 2 ^ 8 + x0.toNat) * 2 ^ 8 + x1.toNat) * 2 ^ 8 + 0 := by
    have hn := Option.some.inj hn
    rw [Nat.pow_zero, Nat.div_one]; omega
  have e8 := div_next e0 (by decide)
  have e16 := div_next e8 x1.isLt
  have e24 := div_next e16 x0.isLt
  have e26 := div_next e24 (by decide)
  have k24_2 : fld n 24 2 = 2 := fld_digit e24 (by decide)
  have k0_8 : fld n 0 8 = 0 := fld_digit e0 (by decide)
  refine ⟨digits_lt e26 (by decide), decodeWord_of (shape_1D (fld_digit (p := 0) (e26.trans (by decide)) (by decide))) ?_ hw⟩
  unfold shape1D
  rw [if_pos ⟨k24_2, k0_8⟩]
  rw [show bfld n 16 8 = x0 from bfld_digit e16]
  rw [show bfld n 8 8 = x1 from bfld_digit e8]

/-- Its word and back. -/
theorem RoundTrip.sadd64 (x0 : BitVec 7) (x1 : BitVec 7) (x2 : BitVec 7) : RoundTrip.Statement (.sadd64 x0 x1 x2) := by
  intro n hw hn
  have e0 : n / 2 ^ 0 = ((((((29 * 2 ^ 2 + 0) * 2 ^ 7 + x0.toNat) * 2 ^ 1 + 0) * 2 ^ 7 + x1.toNat) * 2 ^ 1 + 0) * 2 ^ 7 + x2.toNat) * 2 ^ 1 + 0 := by
    have hn := Option.some.inj hn
    rw [Nat.pow_zero, Nat.div_one]; omega
  have e1 := div_next e0 (by decide)
  have e8 := div_next e1 x2.isLt
  have e9 := div_next e8 (by decide)
  have e16 := div_next e9 x1.isLt
  have e17 := div_next e16 (by decide)
  have e24 := div_next e17 x0.isLt
  have e26 := div_next e24 (by decide)
  have k24_2 : fld n 24 2 = 0 := fld_digit e24 (by decide)
  have k16_1 : fld n 16 1 = 0 := fld_digit e16 (by decide)
  have k8_1 : fld n 8 1 = 0 := fld_digit e8 (by decide)
  have k0_1 : fld n 0 1 = 0 := fld_digit e0 (by decide)
  refine ⟨digits_lt e26 (by decide), decodeWord_of (shape_1D (fld_digit (p := 0) (e26.trans (by decide)) (by decide))) ?_ hw⟩
  unfold shape1D
  rw [if_neg (fun h => absurd (k24_2.symm.trans h.1) (by decide))]
  rw [if_pos ⟨k24_2, k16_1, k8_1, k0_1⟩]
  rw [show bfld n 17 7 = x0 from bfld_digit e17]
  rw [show bfld n 9 7 = x1 from bfld_digit e9]
  rw [show bfld n 1 7 = x2 from bfld_digit e1]

/-- Its word and back. -/
theorem RoundTrip.ssub64 (x0 : BitVec 7) (x1 : BitVec 7) (x2 : BitVec 7) : RoundTrip.Statement (.ssub64 x0 x1 x2) := by
  intro n hw hn
  have e0 : n / 2 ^ 0 = ((((((29 * 2 ^ 2 + 1) * 2 ^ 7 + x0.toNat) * 2 ^ 1 + 0) * 2 ^ 7 + x1.toNat) * 2 ^ 1 + 0) * 2 ^ 7 + x2.toNat) * 2 ^ 1 + 0 := by
    have hn := Option.some.inj hn
    rw [Nat.pow_zero, Nat.div_one]; omega
  have e1 := div_next e0 (by decide)
  have e8 := div_next e1 x2.isLt
  have e9 := div_next e8 (by decide)
  have e16 := div_next e9 x1.isLt
  have e17 := div_next e16 (by decide)
  have e24 := div_next e17 x0.isLt
  have e26 := div_next e24 (by decide)
  have k24_2 : fld n 24 2 = 1 := fld_digit e24 (by decide)
  have k16_1 : fld n 16 1 = 0 := fld_digit e16 (by decide)
  have k8_1 : fld n 8 1 = 0 := fld_digit e8 (by decide)
  have k0_1 : fld n 0 1 = 0 := fld_digit e0 (by decide)
  refine ⟨digits_lt e26 (by decide), decodeWord_of (shape_1D (fld_digit (p := 0) (e26.trans (by decide)) (by decide))) ?_ hw⟩
  unfold shape1D
  rw [if_neg (fun h => absurd (k24_2.symm.trans h.1) (by decide)), if_neg (fun h => absurd (k24_2.symm.trans h.1) (by decide))]
  rw [if_pos ⟨k24_2, k16_1, k8_1, k0_1⟩]
  rw [show bfld n 17 7 = x0 from bfld_digit e17]
  rw [show bfld n 9 7 = x1 from bfld_digit e9]
  rw [show bfld n 1 7 = x2 from bfld_digit e1]

/-- Its word and back. -/
theorem RoundTrip.ssel (x0 : BitVec 8) (x1 : BitVec 8) (x2 : BitVec 8) : RoundTrip.Statement (.ssel x0 x1 x2) := by
  intro n hw hn
  have e0 : n / 2 ^ 0 = (((29 * 2 ^ 2 + 3) * 2 ^ 8 + x0.toNat) * 2 ^ 8 + x1.toNat) * 2 ^ 8 + x2.toNat := by
    have hn := Option.some.inj hn
    rw [Nat.pow_zero, Nat.div_one]; omega
  have e8 := div_next e0 x2.isLt
  have e16 := div_next e8 x1.isLt
  have e24 := div_next e16 x0.isLt
  have e26 := div_next e24 (by decide)
  have k24_2 : fld n 24 2 = 3 := fld_digit e24 (by decide)
  refine ⟨digits_lt e26 (by decide), decodeWord_of (shape_1D (fld_digit (p := 0) (e26.trans (by decide)) (by decide))) ?_ hw⟩
  unfold shape1D
  rw [if_neg (fun h => absurd (k24_2.symm.trans h.1) (by decide)), if_neg (fun h => absurd (k24_2.symm.trans h.1) (by decide)), if_neg (fun h => absurd (k24_2.symm.trans h.1) (by decide))]
  rw [if_pos k24_2]
  rw [show bfld n 16 8 = x0 from bfld_digit e16]
  rw [show bfld n 8 8 = x1 from bfld_digit e8]
  rw [show bfld n 0 8 = x2 from bfld_digit e0]

/-- Its word and back. -/
theorem RoundTrip.scmp (x0 : BitVec 4) (x1 : BitVec 3) (x2 : BitVec 3) (x3 : BitVec 8) (x4 : BitVec 8) : RoundTrip.Statement (.scmp x0 x1 x2 x3 x4) := by
  intro n hw hn
  have e0 : n / 2 ^ 0 = ((((30 * 2 ^ 4 + x0.toNat) * 2 ^ 3 + x1.toNat) * 2 ^ 3 + x2.toNat) * 2 ^ 8 + x3.toNat) * 2 ^ 8 + x4.toNat := by
    have hn := Option.some.inj hn
    rw [Nat.pow_zero, Nat.div_one]; omega
  have e8 := div_next e0 x4.isLt
  have e16 := div_next e8 x3.isLt
  have e19 := div_next e16 x2.isLt
  have e22 := div_next e19 x1.isLt
  have e26 := div_next e22 x0.isLt
  refine ⟨digits_lt e26 (by decide), decodeWord_of (shape_1E (fld_digit (p := 0) (e26.trans (by decide)) (by decide))) ?_ hw⟩
  unfold shape1E
  rw [show bfld n 22 4 = x0 from bfld_digit e22]
  rw [show bfld n 19 3 = x1 from bfld_digit e19]
  rw [show bfld n 16 3 = x2 from bfld_digit e16]
  rw [show bfld n 8 8 = x3 from bfld_digit e8]
  rw [show bfld n 0 8 = x4 from bfld_digit e0]

/-- Its word and back. -/
theorem RoundTrip.saddi (x0 : BitVec 8) (x1 : BitVec 8) (x2 : BitVec 10) : RoundTrip.Statement (.saddi x0 x1 x2) := by
  intro n hw hn
  have e0 : n / 2 ^ 0 = ((31 * 2 ^ 8 + x0.toNat) * 2 ^ 8 + x1.toNat) * 2 ^ 10 + x2.toNat := by
    have hn := Option.some.inj hn
    rw [Nat.pow_zero, Nat.div_one]; omega
  have e10 := div_next e0 x2.isLt
  have e18 := div_next e10 x1.isLt
  have e26 := div_next e18 x0.isLt
  refine ⟨digits_lt e26 (by decide), decodeWord_of (shape_1F (fld_digit (p := 0) (e26.trans (by decide)) (by decide))) ?_ hw⟩
  unfold shape1F
  rw [show bfld n 18 8 = x0 from bfld_digit e18]
  rw [show bfld n 10 8 = x1 from bfld_digit e10]
  rw [show bfld n 0 10 = x2 from bfld_digit e0]

/-- Its word and back. -/
theorem RoundTrip.smovi (x0 : BitVec 8) (x1 : BitVec 18) : RoundTrip.Statement (.smovi x0 x1) := by
  intro n hw hn
  have e0 : n / 2 ^ 0 = (32 * 2 ^ 8 + x0.toNat) * 2 ^ 18 + x1.toNat := by
    have hn := Option.some.inj hn
    rw [Nat.pow_zero, Nat.div_one]; omega
  have e18 := div_next e0 x1.isLt
  have e26 := div_next e18 x0.isLt
  refine ⟨digits_lt e26 (by decide), decodeWord_of (shape_20 (fld_digit (p := 0) (e26.trans (by decide)) (by decide))) ?_ hw⟩
  unfold shape20
  rw [show bfld n 18 8 = x0 from bfld_digit e18]
  rw [show bfld n 0 18 = x1 from bfld_digit e0]

/-- Its word and back. -/
theorem RoundTrip.smovh (x0 : BitVec 8) (x1 : BitVec 18) : RoundTrip.Statement (.smovh x0 x1) := by
  intro n hw hn
  have e0 : n / 2 ^ 0 = (33 * 2 ^ 8 + x0.toNat) * 2 ^ 18 + x1.toNat := by
    have hn := Option.some.inj hn
    rw [Nat.pow_zero, Nat.div_one]; omega
  have e18 := div_next e0 x1.isLt
  have e26 := div_next e18 x0.isLt
  refine ⟨digits_lt e26 (by decide), decodeWord_of (shape_21 (fld_digit (p := 0) (e26.trans (by decide)) (by decide))) ?_ hw⟩
  unfold shape21
  rw [show bfld n 18 8 = x0 from bfld_digit e18]
  rw [show bfld n 0 18 = x1 from bfld_digit e0]

/-- Its word and back. -/
theorem RoundTrip.mnot (x0 : BitVec 3) (x1 : BitVec 3) : RoundTrip.Statement (.mnot x0 x1) := by
  intro n hw hn
  have e0 : n / 2 ^ 0 = (((34 * 2 ^ 4 + 4) * 2 ^ 3 + x0.toNat) * 2 ^ 3 + x1.toNat) * 2 ^ 16 + 0 := by
    have hn := Option.some.inj hn
    rw [Nat.pow_zero, Nat.div_one]; omega
  have e16 := div_next e0 (by decide)
  have e19 := div_next e16 x1.isLt
  have e22 := div_next e19 x0.isLt
  have e26 := div_next e22 (by decide)
  have k22_4 : fld n 22 4 = 4 := fld_digit e22 (by decide)
  have k0_16 : fld n 0 16 = 0 := fld_digit e0 (by decide)
  refine ⟨digits_lt e26 (by decide), decodeWord_of (shape_22 (fld_digit (p := 0) (e26.trans (by decide)) (by decide))) ?_ hw⟩
  unfold shape22
  rw [if_pos ⟨k22_4, k0_16⟩]
  rw [show bfld n 19 3 = x0 from bfld_digit e19]
  rw [show bfld n 16 3 = x1 from bfld_digit e16]

/-- Its word and back. -/
theorem RoundTrip.qnot (x0 : BitVec 3) (x1 : BitVec 3) : RoundTrip.Statement (.qnot x0 x1) := by
  intro n hw hn
  have e0 : n / 2 ^ 0 = (((34 * 2 ^ 4 + 12) * 2 ^ 3 + x0.toNat) * 2 ^ 3 + x1.toNat) * 2 ^ 16 + 0 := by
    have hn := Option.some.inj hn
    rw [Nat.pow_zero, Nat.div_one]; omega
  have e16 := div_next e0 (by decide)
  have e19 := div_next e16 x1.isLt
  have e22 := div_next e19 x0.isLt
  have e26 := div_next e22 (by decide)
  have k22_4 : fld n 22 4 = 12 := fld_digit e22 (by decide)
  have k0_16 : fld n 0 16 = 0 := fld_digit e0 (by decide)
  refine ⟨digits_lt e26 (by decide), decodeWord_of (shape_22 (fld_digit (p := 0) (e26.trans (by decide)) (by decide))) ?_ hw⟩
  unfold shape22
  rw [if_neg (fun h => absurd (k22_4.symm.trans h.1) (by decide))]
  rw [if_pos ⟨k22_4, k0_16⟩]
  rw [show bfld n 19 3 = x0 from bfld_digit e19]
  rw [show bfld n 16 3 = x1 from bfld_digit e16]

/-- Its word and back. -/
theorem RoundTrip.mand (x0 : BitVec 3) (x1 : BitVec 3) (x2 : BitVec 3) : RoundTrip.Statement (.mand x0 x1 x2) := by
  intro n hw hn
  have e0 : n / 2 ^ 0 = ((((34 * 2 ^ 4 + 0) * 2 ^ 3 + x0.toNat) * 2 ^ 3 + x1.toNat) * 2 ^ 3 + x2.toNat) * 2 ^ 13 + 0 := by
    have hn := Option.some.inj hn
    rw [Nat.pow_zero, Nat.div_one]; omega
  have e13 := div_next e0 (by decide)
  have e16 := div_next e13 x2.isLt
  have e19 := div_next e16 x1.isLt
  have e22 := div_next e19 x0.isLt
  have e26 := div_next e22 (by decide)
  have k22_4 : fld n 22 4 = 0 := fld_digit e22 (by decide)
  have k0_13 : fld n 0 13 = 0 := fld_digit e0 (by decide)
  refine ⟨digits_lt e26 (by decide), decodeWord_of (shape_22 (fld_digit (p := 0) (e26.trans (by decide)) (by decide))) ?_ hw⟩
  unfold shape22
  rw [if_neg (fun h => absurd (k22_4.symm.trans h.1) (by decide)), if_neg (fun h => absurd (k22_4.symm.trans h.1) (by decide))]
  rw [if_pos ⟨k22_4, k0_13⟩]
  rw [show bfld n 19 3 = x0 from bfld_digit e19]
  rw [show bfld n 16 3 = x1 from bfld_digit e16]
  rw [show bfld n 13 3 = x2 from bfld_digit e13]

/-- Its word and back. -/
theorem RoundTrip.mor (x0 : BitVec 3) (x1 : BitVec 3) (x2 : BitVec 3) : RoundTrip.Statement (.mor x0 x1 x2) := by
  intro n hw hn
  have e0 : n / 2 ^ 0 = ((((34 * 2 ^ 4 + 1) * 2 ^ 3 + x0.toNat) * 2 ^ 3 + x1.toNat) * 2 ^ 3 + x2.toNat) * 2 ^ 13 + 0 := by
    have hn := Option.some.inj hn
    rw [Nat.pow_zero, Nat.div_one]; omega
  have e13 := div_next e0 (by decide)
  have e16 := div_next e13 x2.isLt
  have e19 := div_next e16 x1.isLt
  have e22 := div_next e19 x0.isLt
  have e26 := div_next e22 (by decide)
  have k22_4 : fld n 22 4 = 1 := fld_digit e22 (by decide)
  have k0_13 : fld n 0 13 = 0 := fld_digit e0 (by decide)
  refine ⟨digits_lt e26 (by decide), decodeWord_of (shape_22 (fld_digit (p := 0) (e26.trans (by decide)) (by decide))) ?_ hw⟩
  unfold shape22
  rw [if_neg (fun h => absurd (k22_4.symm.trans h.1) (by decide)), if_neg (fun h => absurd (k22_4.symm.trans h.1) (by decide)), if_neg (fun h => absurd (k22_4.symm.trans h.1) (by decide))]
  rw [if_pos ⟨k22_4, k0_13⟩]
  rw [show bfld n 19 3 = x0 from bfld_digit e19]
  rw [show bfld n 16 3 = x1 from bfld_digit e16]
  rw [show bfld n 13 3 = x2 from bfld_digit e13]

/-- Its word and back. -/
theorem RoundTrip.mxor (x0 : BitVec 3) (x1 : BitVec 3) (x2 : BitVec 3) : RoundTrip.Statement (.mxor x0 x1 x2) := by
  intro n hw hn
  have e0 : n / 2 ^ 0 = ((((34 * 2 ^ 4 + 2) * 2 ^ 3 + x0.toNat) * 2 ^ 3 + x1.toNat) * 2 ^ 3 + x2.toNat) * 2 ^ 13 + 0 := by
    have hn := Option.some.inj hn
    rw [Nat.pow_zero, Nat.div_one]; omega
  have e13 := div_next e0 (by decide)
  have e16 := div_next e13 x2.isLt
  have e19 := div_next e16 x1.isLt
  have e22 := div_next e19 x0.isLt
  have e26 := div_next e22 (by decide)
  have k22_4 : fld n 22 4 = 2 := fld_digit e22 (by decide)
  have k0_13 : fld n 0 13 = 0 := fld_digit e0 (by decide)
  refine ⟨digits_lt e26 (by decide), decodeWord_of (shape_22 (fld_digit (p := 0) (e26.trans (by decide)) (by decide))) ?_ hw⟩
  unfold shape22
  rw [if_neg (fun h => absurd (k22_4.symm.trans h.1) (by decide)), if_neg (fun h => absurd (k22_4.symm.trans h.1) (by decide)), if_neg (fun h => absurd (k22_4.symm.trans h.1) (by decide)), if_neg (fun h => absurd (k22_4.symm.trans h.1) (by decide))]
  rw [if_pos ⟨k22_4, k0_13⟩]
  rw [show bfld n 19 3 = x0 from bfld_digit e19]
  rw [show bfld n 16 3 = x1 from bfld_digit e16]
  rw [show bfld n 13 3 = x2 from bfld_digit e13]

/-- Its word and back. -/
theorem RoundTrip.mandn (x0 : BitVec 3) (x1 : BitVec 3) (x2 : BitVec 3) : RoundTrip.Statement (.mandn x0 x1 x2) := by
  intro n hw hn
  have e0 : n / 2 ^ 0 = ((((34 * 2 ^ 4 + 3) * 2 ^ 3 + x0.toNat) * 2 ^ 3 + x1.toNat) * 2 ^ 3 + x2.toNat) * 2 ^ 13 + 0 := by
    have hn := Option.some.inj hn
    rw [Nat.pow_zero, Nat.div_one]; omega
  have e13 := div_next e0 (by decide)
  have e16 := div_next e13 x2.isLt
  have e19 := div_next e16 x1.isLt
  have e22 := div_next e19 x0.isLt
  have e26 := div_next e22 (by decide)
  have k22_4 : fld n 22 4 = 3 := fld_digit e22 (by decide)
  have k0_13 : fld n 0 13 = 0 := fld_digit e0 (by decide)
  refine ⟨digits_lt e26 (by decide), decodeWord_of (shape_22 (fld_digit (p := 0) (e26.trans (by decide)) (by decide))) ?_ hw⟩
  unfold shape22
  rw [if_neg (fun h => absurd (k22_4.symm.trans h.1) (by decide)), if_neg (fun h => absurd (k22_4.symm.trans h.1) (by decide)), if_neg (fun h => absurd (k22_4.symm.trans h.1) (by decide)), if_neg (fun h => absurd (k22_4.symm.trans h.1) (by decide)), if_neg (fun h => absurd (k22_4.symm.trans h.1) (by decide))]
  rw [if_pos ⟨k22_4, k0_13⟩]
  rw [show bfld n 19 3 = x0 from bfld_digit e19]
  rw [show bfld n 16 3 = x1 from bfld_digit e16]
  rw [show bfld n 13 3 = x2 from bfld_digit e13]

/-- Its word and back. -/
theorem RoundTrip.mq (x0 : BitVec 3) (x1 : BitVec 3) (x2 : BitVec 3) : RoundTrip.Statement (.mq x0 x1 x2) := by
  intro n hw hn
  have e0 : n / 2 ^ 0 = ((((34 * 2 ^ 4 + 9) * 2 ^ 3 + x0.toNat) * 2 ^ 3 + x1.toNat) * 2 ^ 3 + x2.toNat) * 2 ^ 13 + 0 := by
    have hn := Option.some.inj hn
    rw [Nat.pow_zero, Nat.div_one]; omega
  have e13 := div_next e0 (by decide)
  have e16 := div_next e13 x2.isLt
  have e19 := div_next e16 x1.isLt
  have e22 := div_next e19 x0.isLt
  have e26 := div_next e22 (by decide)
  have k22_4 : fld n 22 4 = 9 := fld_digit e22 (by decide)
  have k0_13 : fld n 0 13 = 0 := fld_digit e0 (by decide)
  refine ⟨digits_lt e26 (by decide), decodeWord_of (shape_22 (fld_digit (p := 0) (e26.trans (by decide)) (by decide))) ?_ hw⟩
  unfold shape22
  rw [if_neg (fun h => absurd (k22_4.symm.trans h.1) (by decide)), if_neg (fun h => absurd (k22_4.symm.trans h.1) (by decide)), if_neg (fun h => absurd (k22_4.symm.trans h.1) (by decide)), if_neg (fun h => absurd (k22_4.symm.trans h.1) (by decide)), if_neg (fun h => absurd (k22_4.symm.trans h.1) (by decide)), if_neg (fun h => absurd (k22_4.symm.trans h.1) (by decide))]
  rw [if_pos ⟨k22_4, k0_13⟩]
  rw [show bfld n 19 3 = x0 from bfld_digit e19]
  rw [show bfld n 16 3 = x1 from bfld_digit e16]
  rw [show bfld n 13 3 = x2 from bfld_digit e13]

/-- Its word and back. -/
theorem RoundTrip.qand (x0 : BitVec 3) (x1 : BitVec 3) (x2 : BitVec 3) : RoundTrip.Statement (.qand x0 x1 x2) := by
  intro n hw hn
  have e0 : n / 2 ^ 0 = ((((34 * 2 ^ 4 + 10) * 2 ^ 3 + x0.toNat) * 2 ^ 3 + x1.toNat) * 2 ^ 3 + x2.toNat) * 2 ^ 13 + 0 := by
    have hn := Option.some.inj hn
    rw [Nat.pow_zero, Nat.div_one]; omega
  have e13 := div_next e0 (by decide)
  have e16 := div_next e13 x2.isLt
  have e19 := div_next e16 x1.isLt
  have e22 := div_next e19 x0.isLt
  have e26 := div_next e22 (by decide)
  have k22_4 : fld n 22 4 = 10 := fld_digit e22 (by decide)
  have k0_13 : fld n 0 13 = 0 := fld_digit e0 (by decide)
  refine ⟨digits_lt e26 (by decide), decodeWord_of (shape_22 (fld_digit (p := 0) (e26.trans (by decide)) (by decide))) ?_ hw⟩
  unfold shape22
  rw [if_neg (fun h => absurd (k22_4.symm.trans h.1) (by decide)), if_neg (fun h => absurd (k22_4.symm.trans h.1) (by decide)), if_neg (fun h => absurd (k22_4.symm.trans h.1) (by decide)), if_neg (fun h => absurd (k22_4.symm.trans h.1) (by decide)), if_neg (fun h => absurd (k22_4.symm.trans h.1) (by decide)), if_neg (fun h => absurd (k22_4.symm.trans h.1) (by decide)), if_neg (fun h => absurd (k22_4.symm.trans h.1) (by decide))]
  rw [if_pos ⟨k22_4, k0_13⟩]
  rw [show bfld n 19 3 = x0 from bfld_digit e19]
  rw [show bfld n 16 3 = x1 from bfld_digit e16]
  rw [show bfld n 13 3 = x2 from bfld_digit e13]

/-- Its word and back. -/
theorem RoundTrip.qor (x0 : BitVec 3) (x1 : BitVec 3) (x2 : BitVec 3) : RoundTrip.Statement (.qor x0 x1 x2) := by
  intro n hw hn
  have e0 : n / 2 ^ 0 = ((((34 * 2 ^ 4 + 11) * 2 ^ 3 + x0.toNat) * 2 ^ 3 + x1.toNat) * 2 ^ 3 + x2.toNat) * 2 ^ 13 + 0 := by
    have hn := Option.some.inj hn
    rw [Nat.pow_zero, Nat.div_one]; omega
  have e13 := div_next e0 (by decide)
  have e16 := div_next e13 x2.isLt
  have e19 := div_next e16 x1.isLt
  have e22 := div_next e19 x0.isLt
  have e26 := div_next e22 (by decide)
  have k22_4 : fld n 22 4 = 11 := fld_digit e22 (by decide)
  have k0_13 : fld n 0 13 = 0 := fld_digit e0 (by decide)
  refine ⟨digits_lt e26 (by decide), decodeWord_of (shape_22 (fld_digit (p := 0) (e26.trans (by decide)) (by decide))) ?_ hw⟩
  unfold shape22
  rw [if_neg (fun h => absurd (k22_4.symm.trans h.1) (by decide)), if_neg (fun h => absurd (k22_4.symm.trans h.1) (by decide)), if_neg (fun h => absurd (k22_4.symm.trans h.1) (by decide)), if_neg (fun h => absurd (k22_4.symm.trans h.1) (by decide)), if_neg (fun h => absurd (k22_4.symm.trans h.1) (by decide)), if_neg (fun h => absurd (k22_4.symm.trans h.1) (by decide)), if_neg (fun h => absurd (k22_4.symm.trans h.1) (by decide)), if_neg (fun h => absurd (k22_4.symm.trans h.1) (by decide))]
  rw [if_pos ⟨k22_4, k0_13⟩]
  rw [show bfld n 19 3 = x0 from bfld_digit e19]
  rw [show bfld n 16 3 = x1 from bfld_digit e16]
  rw [show bfld n 13 3 = x2 from bfld_digit e13]

/-- Its word and back. -/
theorem RoundTrip.mtos (x0 : BitVec 3) (x1 : BitVec 7) : RoundTrip.Statement (.mtos x0 x1) := by
  intro n hw hn
  have e0 : n / 2 ^ 0 = (((((34 * 2 ^ 4 + 7) * 2 ^ 3 + 0) * 2 ^ 3 + x0.toNat) * 2 ^ 3 + 0) * 2 ^ 7 + x1.toNat) * 2 ^ 6 + 0 := by
    have hn := Option.some.inj hn
    rw [Nat.pow_zero, Nat.div_one]; omega
  have e6 := div_next e0 (by decide)
  have e13 := div_next e6 x1.isLt
  have e16 := div_next e13 (by decide)
  have e19 := div_next e16 x0.isLt
  have e22 := div_next e19 (by decide)
  have e26 := div_next e22 (by decide)
  have k22_4 : fld n 22 4 = 7 := fld_digit e22 (by decide)
  have k19_7 : fld n 19 7 = 56 := fld_join (fld_digit e19 (by decide)) (fld_digit e22 (by decide))
  have k13_3 : fld n 13 3 = 0 := fld_digit e13 (by decide)
  have k0_6 : fld n 0 6 = 0 := fld_digit e0 (by decide)
  refine ⟨digits_lt e26 (by decide), decodeWord_of (shape_22 (fld_digit (p := 0) (e26.trans (by decide)) (by decide))) ?_ hw⟩
  unfold shape22
  rw [if_neg (fun h => absurd (k22_4.symm.trans h.1) (by decide)), if_neg (fun h => absurd (k22_4.symm.trans h.1) (by decide)), if_neg (fun h => absurd (k22_4.symm.trans h.1) (by decide)), if_neg (fun h => absurd (k22_4.symm.trans h.1) (by decide)), if_neg (fun h => absurd (k22_4.symm.trans h.1) (by decide)), if_neg (fun h => absurd (k22_4.symm.trans h.1) (by decide)), if_neg (fun h => absurd (k22_4.symm.trans h.1) (by decide)), if_neg (fun h => absurd (k22_4.symm.trans h.1) (by decide)), if_neg (fun h => absurd (k22_4.symm.trans h.1) (by decide))]
  rw [if_pos ⟨k19_7, k13_3, k0_6⟩]
  rw [show bfld n 16 3 = x0 from bfld_digit e16]
  rw [show bfld n 6 7 = x1 from bfld_digit e6]

/-- Its word and back. -/
theorem RoundTrip.stom (x0 : BitVec 3) (x1 : BitVec 7) : RoundTrip.Statement (.stom x0 x1) := by
  intro n hw hn
  have e0 : n / 2 ^ 0 = (((((34 * 2 ^ 4 + 8) * 2 ^ 3 + x0.toNat) * 2 ^ 3 + 0) * 2 ^ 3 + 0) * 2 ^ 7 + x1.toNat) * 2 ^ 6 + 0 := by
    have hn := Option.some.inj hn
    rw [Nat.pow_zero, Nat.div_one]; omega
  have e6 := div_next e0 (by decide)
  have e13 := div_next e6 x1.isLt
  have e16 := div_next e13 (by decide)
  have e19 := div_next e16 (by decide)
  have e22 := div_next e19 x0.isLt
  have e26 := div_next e22 (by decide)
  have k22_4 : fld n 22 4 = 8 := fld_digit e22 (by decide)
  have k13_6 : fld n 13 6 = 0 := fld_join (fld_digit e13 (by decide)) (fld_digit e16 (by decide))
  have k0_6 : fld n 0 6 = 0 := fld_digit e0 (by decide)
  have hx0 := x0.isLt
  have hx1 := x1.isLt
  have hn := Option.some.inj hn
  refine ⟨digits_lt e26 (by decide), decodeWord_of (shape_22 (fld_digit (p := 0) (e26.trans (by decide)) (by decide))) ?_ hw⟩
  unfold shape22
  rw [if_neg (fun h => absurd (k22_4.symm.trans h.1) (by decide)), if_neg (fun h => absurd (k22_4.symm.trans h.1) (by decide)), if_neg (fun h => absurd (k22_4.symm.trans h.1) (by decide)), if_neg (fun h => absurd (k22_4.symm.trans h.1) (by decide)), if_neg (fun h => absurd (k22_4.symm.trans h.1) (by decide)), if_neg (fun h => absurd (k22_4.symm.trans h.1) (by decide)), if_neg (fun h => absurd (k22_4.symm.trans h.1) (by decide)), if_neg (fun h => absurd (k22_4.symm.trans h.1) (by decide)), if_neg (fun h => absurd (k22_4.symm.trans h.1) (by decide)), if_neg (by unfold fld; omega)]
  rw [if_pos ⟨k22_4, k13_6, k0_6⟩]
  rw [show bfld n 19 3 = x0 from bfld_digit e19]
  rw [show bfld n 6 7 = x1 from bfld_digit e6]

/-- Its word and back. -/
theorem RoundTrip.mpopc (x0 : BitVec 3) (x1 : BitVec 8) : RoundTrip.Statement (.mpopc x0 x1) := by
  intro n hw hn
  have e0 : n / 2 ^ 0 = (((((34 * 2 ^ 4 + 5) * 2 ^ 3 + 0) * 2 ^ 3 + x0.toNat) * 2 ^ 3 + 0) * 2 ^ 8 + x1.toNat) * 2 ^ 5 + 0 := by
    have hn := Option.some.inj hn
    rw [Nat.pow_zero, Nat.div_one]; omega
  have e5 := div_next e0 (by decide)
  have e13 := div_next e5 x1.isLt
  have e16 := div_next e13 (by decide)
  have e19 := div_next e16 x0.isLt
  have e22 := div_next e19 (by decide)
  have e26 := div_next e22 (by decide)
  have k22_4 : fld n 22 4 = 5 := fld_digit e22 (by decide)
  have k19_7 : fld n 19 7 = 40 := fld_join (fld_digit e19 (by decide)) (fld_digit e22 (by decide))
  have k13_3 : fld n 13 3 = 0 := fld_digit e13 (by decide)
  have k0_5 : fld n 0 5 = 0 := fld_digit e0 (by decide)
  refine ⟨digits_lt e26 (by decide), decodeWord_of (shape_22 (fld_digit (p := 0) (e26.trans (by decide)) (by decide))) ?_ hw⟩
  unfold shape22
  rw [if_neg (fun h => absurd (k22_4.symm.trans h.1) (by decide)), if_neg (fun h => absurd (k22_4.symm.trans h.1) (by decide)), if_neg (fun h => absurd (k22_4.symm.trans h.1) (by decide)), if_neg (fun h => absurd (k22_4.symm.trans h.1) (by decide)), if_neg (fun h => absurd (k22_4.symm.trans h.1) (by decide)), if_neg (fun h => absurd (k22_4.symm.trans h.1) (by decide)), if_neg (fun h => absurd (k22_4.symm.trans h.1) (by decide)), if_neg (fun h => absurd (k22_4.symm.trans h.1) (by decide)), if_neg (fun h => absurd (k22_4.symm.trans h.1) (by decide)), if_neg (fun h => absurd (k19_7.symm.trans h.1) (by decide)), if_neg (fun h => absurd (k22_4.symm.trans h.1) (by decide))]
  rw [if_pos ⟨k19_7, k13_3, k0_5⟩]
  rw [show bfld n 16 3 = x0 from bfld_digit e16]
  rw [show bfld n 5 8 = x1 from bfld_digit e5]

/-- Its word and back. -/
theorem RoundTrip.mffs (x0 : BitVec 3) (x1 : BitVec 8) : RoundTrip.Statement (.mffs x0 x1) := by
  intro n hw hn
  have e0 : n / 2 ^ 0 = (((((34 * 2 ^ 4 + 6) * 2 ^ 3 + 0) * 2 ^ 3 + x0.toNat) * 2 ^ 3 + 0) * 2 ^ 8 + x1.toNat) * 2 ^ 5 + 0 := by
    have hn := Option.some.inj hn
    rw [Nat.pow_zero, Nat.div_one]; omega
  have e5 := div_next e0 (by decide)
  have e13 := div_next e5 x1.isLt
  have e16 := div_next e13 (by decide)
  have e19 := div_next e16 x0.isLt
  have e22 := div_next e19 (by decide)
  have e26 := div_next e22 (by decide)
  have k22_4 : fld n 22 4 = 6 := fld_digit e22 (by decide)
  have k19_7 : fld n 19 7 = 48 := fld_join (fld_digit e19 (by decide)) (fld_digit e22 (by decide))
  have k13_3 : fld n 13 3 = 0 := fld_digit e13 (by decide)
  have k0_5 : fld n 0 5 = 0 := fld_digit e0 (by decide)
  refine ⟨digits_lt e26 (by decide), decodeWord_of (shape_22 (fld_digit (p := 0) (e26.trans (by decide)) (by decide))) ?_ hw⟩
  unfold shape22
  rw [if_neg (fun h => absurd (k22_4.symm.trans h.1) (by decide)), if_neg (fun h => absurd (k22_4.symm.trans h.1) (by decide)), if_neg (fun h => absurd (k22_4.symm.trans h.1) (by decide)), if_neg (fun h => absurd (k22_4.symm.trans h.1) (by decide)), if_neg (fun h => absurd (k22_4.symm.trans h.1) (by decide)), if_neg (fun h => absurd (k22_4.symm.trans h.1) (by decide)), if_neg (fun h => absurd (k22_4.symm.trans h.1) (by decide)), if_neg (fun h => absurd (k22_4.symm.trans h.1) (by decide)), if_neg (fun h => absurd (k22_4.symm.trans h.1) (by decide)), if_neg (fun h => absurd (k19_7.symm.trans h.1) (by decide)), if_neg (fun h => absurd (k22_4.symm.trans h.1) (by decide)), if_neg (fun h => absurd (k19_7.symm.trans h.1) (by decide))]
  rw [if_pos ⟨k19_7, k13_3, k0_5⟩]
  rw [show bfld n 16 3 = x0 from bfld_digit e16]
  rw [show bfld n 5 8 = x1 from bfld_digit e5]

/-- Its word and back. -/
theorem RoundTrip.bra (x0 : BitVec 4) (x1 : BitVec 22) : RoundTrip.Statement (.bra x0 x1) := by
  intro n hw hn
  have e0 : n / 2 ^ 0 = (35 * 2 ^ 4 + x0.toNat) * 2 ^ 22 + x1.toNat := by
    have hn := Option.some.inj hn
    rw [Nat.pow_zero, Nat.div_one]; omega
  have e22 := div_next e0 x1.isLt
  have e26 := div_next e22 x0.isLt
  refine ⟨digits_lt e26 (by decide), decodeWord_of (shape_23 (fld_digit (p := 0) (e26.trans (by decide)) (by decide))) ?_ hw⟩
  unfold shape23
  rw [show bfld n 22 4 = x0 from bfld_digit e22]
  rw [show bfld n 0 22 = x1 from bfld_digit e0]

/-- Its word and back. -/
theorem RoundTrip.bru (x0 : BitVec 4) (x1 : BitVec 22) : RoundTrip.Statement (.bru x0 x1) := by
  intro n hw hn
  have e0 : n / 2 ^ 0 = (36 * 2 ^ 4 + x0.toNat) * 2 ^ 22 + x1.toNat := by
    have hn := Option.some.inj hn
    rw [Nat.pow_zero, Nat.div_one]; omega
  have e22 := div_next e0 x1.isLt
  have e26 := div_next e22 x0.isLt
  refine ⟨digits_lt e26 (by decide), decodeWord_of (shape_24 (fld_digit (p := 0) (e26.trans (by decide)) (by decide))) ?_ hw⟩
  unfold shape24
  rw [show bfld n 22 4 = x0 from bfld_digit e22]
  rw [show bfld n 0 22 = x1 from bfld_digit e0]

/-- Its word and back. -/
theorem RoundTrip.brm (x0 : BitVec 2) (x1 : BitVec 4) (x2 : BitVec 4) (x3 : BitVec 4) (x4 : BitVec 4) : RoundTrip.Statement (.brm x0 x1 x2 x3 x4) := by
  intro n hw hn
  have e0 : n / 2 ^ 0 = (((((37 * 2 ^ 2 + x0.toNat) * 2 ^ 4 + x1.toNat) * 2 ^ 4 + x2.toNat) * 2 ^ 4 + x3.toNat) * 2 ^ 4 + x4.toNat) * 2 ^ 8 + 0 := by
    have hn := Option.some.inj hn
    rw [Nat.pow_zero, Nat.div_one]; omega
  have e8 := div_next e0 (by decide)
  have e12 := div_next e8 x4.isLt
  have e16 := div_next e12 x3.isLt
  have e20 := div_next e16 x2.isLt
  have e24 := div_next e20 x1.isLt
  have e26 := div_next e24 x0.isLt
  have k0_8 : fld n 0 8 = 0 := fld_digit e0 (by decide)
  refine ⟨digits_lt e26 (by decide), decodeWord_of (shape_25 (fld_digit (p := 0) (e26.trans (by decide)) (by decide))) ?_ hw⟩
  unfold shape25
  rw [if_pos k0_8]
  rw [show bfld n 24 2 = x0 from bfld_digit e24]
  rw [show bfld n 20 4 = x1 from bfld_digit e20]
  rw [show bfld n 16 4 = x2 from bfld_digit e16]
  rw [show bfld n 12 4 = x3 from bfld_digit e12]
  rw [show bfld n 8 4 = x4 from bfld_digit e8]

/-- Its word and back. -/
theorem RoundTrip.call (x0 : BitVec 4) (x1 : BitVec 22) : RoundTrip.Statement (.call x0 x1) := by
  intro n hw hn
  have e0 : n / 2 ^ 0 = (38 * 2 ^ 4 + x0.toNat) * 2 ^ 22 + x1.toNat := by
    have hn := Option.some.inj hn
    rw [Nat.pow_zero, Nat.div_one]; omega
  have e22 := div_next e0 x1.isLt
  have e26 := div_next e22 x0.isLt
  refine ⟨digits_lt e26 (by decide), decodeWord_of (shape_26 (fld_digit (p := 0) (e26.trans (by decide)) (by decide))) ?_ hw⟩
  unfold shape26
  rw [show bfld n 22 4 = x0 from bfld_digit e22]
  rw [show bfld n 0 22 = x1 from bfld_digit e0]

/-- Its word and back. -/
theorem RoundTrip.ret (x0 : BitVec 4) : RoundTrip.Statement (.ret x0) := by
  intro n hw hn
  have e0 : n / 2 ^ 0 = (39 * 2 ^ 4 + x0.toNat) * 2 ^ 22 + 1 := by
    have hn := Option.some.inj hn
    rw [Nat.pow_zero, Nat.div_one]; omega
  have e22 := div_next e0 (by decide)
  have e26 := div_next e22 x0.isLt
  have k0_22 : fld n 0 22 = 1 := fld_digit e0 (by decide)
  refine ⟨digits_lt e26 (by decide), decodeWord_of (shape_27 (fld_digit (p := 0) (e26.trans (by decide)) (by decide))) ?_ hw⟩
  unfold shape27
  rw [if_pos k0_22]
  rw [show bfld n 22 4 = x0 from bfld_digit e22]

/-- Its word and back. -/
theorem RoundTrip.brx (x0 : BitVec 4) (x1 : BitVec 6) : RoundTrip.Statement (.brx x0 x1) := by
  intro n hw hn
  have e0 : n / 2 ^ 0 = (((39 * 2 ^ 4 + x0.toNat) * 2 ^ 6 + 0) * 2 ^ 6 + x1.toNat) * 2 ^ 10 + 0 := by
    have hn := Option.some.inj hn
    rw [Nat.pow_zero, Nat.div_one]; omega
  have e10 := div_next e0 (by decide)
  have e16 := div_next e10 x1.isLt
  have e22 := div_next e16 (by decide)
  have e26 := div_next e22 x0.isLt
  have k16_6 : fld n 16 6 = 0 := fld_digit e16 (by decide)
  have k0_10 : fld n 0 10 = 0 := fld_digit e0 (by decide)
  have hx0 := x0.isLt
  have hx1 := x1.isLt
  have hn := Option.some.inj hn
  refine ⟨digits_lt e26 (by decide), decodeWord_of (shape_27 (fld_digit (p := 0) (e26.trans (by decide)) (by decide))) ?_ hw⟩
  unfold shape27
  rw [if_neg (by unfold fld; omega)]
  rw [if_pos ⟨k16_6, k0_10⟩]
  rw [show bfld n 22 4 = x0 from bfld_digit e22]
  rw [show bfld n 10 6 = x1 from bfld_digit e10]

/-- Its word and back. -/
theorem RoundTrip.callx (x0 : BitVec 4) (x1 : BitVec 6) : RoundTrip.Statement (.callx x0 x1) := by
  intro n hw hn
  have e0 : n / 2 ^ 0 = (((39 * 2 ^ 4 + x0.toNat) * 2 ^ 6 + 0) * 2 ^ 6 + x1.toNat) * 2 ^ 10 + 2 := by
    have hn := Option.some.inj hn
    rw [Nat.pow_zero, Nat.div_one]; omega
  have e10 := div_next e0 (by decide)
  have e16 := div_next e10 x1.isLt
  have e22 := div_next e16 (by decide)
  have e26 := div_next e22 x0.isLt
  have k0_10 : fld n 0 10 = 2 := fld_digit e0 (by decide)
  have k16_6 : fld n 16 6 = 0 := fld_digit e16 (by decide)
  have hx0 := x0.isLt
  have hx1 := x1.isLt
  have hn := Option.some.inj hn
  refine ⟨digits_lt e26 (by decide), decodeWord_of (shape_27 (fld_digit (p := 0) (e26.trans (by decide)) (by decide))) ?_ hw⟩
  unfold shape27
  rw [if_neg (by unfold fld; omega), if_neg (fun h => absurd (k0_10.symm.trans h.2) (by decide))]
  rw [if_pos ⟨k16_6, k0_10⟩]
  rw [show bfld n 22 4 = x0 from bfld_digit e22]
  rw [show bfld n 10 6 = x1 from bfld_digit e10]

/-- Its word and back. -/
theorem RoundTrip.winset (x0 : BitVec 4) (x1 : BitVec 5) : RoundTrip.Statement (.winset x0 x1) := by
  intro n hw hn
  have e0 : n / 2 ^ 0 = (((40 * 2 ^ 4 + x0.toNat) * 2 ^ 2 + 0) * 2 ^ 5 + x1.toNat) * 2 ^ 15 + 0 := by
    have hn := Option.some.inj hn
    rw [Nat.pow_zero, Nat.div_one]; omega
  have e15 := div_next e0 (by decide)
  have e20 := div_next e15 x1.isLt
  have e22 := div_next e20 (by decide)
  have e26 := div_next e22 x0.isLt
  have k20_2 : fld n 20 2 = 0 := fld_digit e20 (by decide)
  have k0_15 : fld n 0 15 = 0 := fld_digit e0 (by decide)
  refine ⟨digits_lt e26 (by decide), decodeWord_of (shape_28 (fld_digit (p := 0) (e26.trans (by decide)) (by decide))) ?_ hw⟩
  unfold shape28
  rw [if_pos ⟨k20_2, k0_15⟩]
  rw [show bfld n 22 4 = x0 from bfld_digit e22]
  rw [show bfld n 15 5 = x1 from bfld_digit e15]

/-- Its word and back. -/
theorem RoundTrip.winadd (x0 : BitVec 4) (x1 : BitVec 5) : RoundTrip.Statement (.winadd x0 x1) := by
  intro n hw hn
  have e0 : n / 2 ^ 0 = (((40 * 2 ^ 4 + x0.toNat) * 2 ^ 2 + 1) * 2 ^ 5 + x1.toNat) * 2 ^ 15 + 0 := by
    have hn := Option.some.inj hn
    rw [Nat.pow_zero, Nat.div_one]; omega
  have e15 := div_next e0 (by decide)
  have e20 := div_next e15 x1.isLt
  have e22 := div_next e20 (by decide)
  have e26 := div_next e22 x0.isLt
  have k20_2 : fld n 20 2 = 1 := fld_digit e20 (by decide)
  have k0_15 : fld n 0 15 = 0 := fld_digit e0 (by decide)
  refine ⟨digits_lt e26 (by decide), decodeWord_of (shape_28 (fld_digit (p := 0) (e26.trans (by decide)) (by decide))) ?_ hw⟩
  unfold shape28
  rw [if_neg (fun h => absurd (k20_2.symm.trans h.1) (by decide))]
  rw [if_pos ⟨k20_2, k0_15⟩]
  rw [show bfld n 22 4 = x0 from bfld_digit e22]
  rw [show bfld n 15 5 = x1 from bfld_digit e15]

/-- Its word and back. -/
theorem RoundTrip.ld (x0 : BitVec 4) (x1 : BitVec 6) (x2 : BitVec 6) (x3 : BitVec 7) (x4 : BitVec 3) : RoundTrip.Statement (.ld x0 x1 x2 x3 x4) := by
  intro n hw hn
  have e0 : n / 2 ^ 0 = ((((41 * 2 ^ 4 + x0.toNat) * 2 ^ 6 + x1.toNat) * 2 ^ 6 + x2.toNat) * 2 ^ 7 + x3.toNat) * 2 ^ 3 + x4.toNat := by
    have hn := Option.some.inj hn
    rw [Nat.pow_zero, Nat.div_one]; omega
  have e3 := div_next e0 x4.isLt
  have e10 := div_next e3 x3.isLt
  have e16 := div_next e10 x2.isLt
  have e22 := div_next e16 x1.isLt
  have e26 := div_next e22 x0.isLt
  refine ⟨digits_lt e26 (by decide), decodeWord_of (shape_29 (fld_digit (p := 0) (e26.trans (by decide)) (by decide))) ?_ hw⟩
  unfold shape29
  rw [show bfld n 22 4 = x0 from bfld_digit e22]
  rw [show bfld n 16 6 = x1 from bfld_digit e16]
  rw [show bfld n 10 6 = x2 from bfld_digit e10]
  rw [show bfld n 3 7 = x3 from bfld_digit e3]
  rw [show bfld n 0 3 = x4 from bfld_digit e0]

/-- Its word and back. -/
theorem RoundTrip.ldv (x0 : BitVec 4) (x1 : BitVec 6) (x2 : BitVec 5) (x3 : BitVec 3) : RoundTrip.Statement (.ldv x0 x1 x2 x3) := by
  intro n hw hn
  have e0 : n / 2 ^ 0 = ((((42 * 2 ^ 4 + x0.toNat) * 2 ^ 6 + x1.toNat) * 2 ^ 5 + x2.toNat) * 2 ^ 8 + 0) * 2 ^ 3 + x3.toNat := by
    have hn := Option.some.inj hn
    rw [Nat.pow_zero, Nat.div_one]; omega
  have e3 := div_next e0 x3.isLt
  have e11 := div_next e3 (by decide)
  have e16 := div_next e11 x2.isLt
  have e22 := div_next e16 x1.isLt
  have e26 := div_next e22 x0.isLt
  have k3_8 : fld n 3 8 = 0 := fld_digit e3 (by decide)
  refine ⟨digits_lt e26 (by decide), decodeWord_of (shape_2A (fld_digit (p := 0) (e26.trans (by decide)) (by decide))) ?_ hw⟩
  unfold shape2A
  rw [if_pos k3_8]
  rw [show bfld n 22 4 = x0 from bfld_digit e22]
  rw [show bfld n 16 6 = x1 from bfld_digit e16]
  rw [show bfld n 11 5 = x2 from bfld_digit e11]
  rw [show bfld n 0 3 = x3 from bfld_digit e0]

/-- Its word and back. -/
theorem RoundTrip.st (x0 : BitVec 4) (x1 : BitVec 6) (x2 : BitVec 6) (x3 : BitVec 7) (x4 : BitVec 3) : RoundTrip.Statement (.st x0 x1 x2 x3 x4) := by
  intro n hw hn
  have e0 : n / 2 ^ 0 = ((((43 * 2 ^ 4 + x0.toNat) * 2 ^ 6 + x1.toNat) * 2 ^ 6 + x2.toNat) * 2 ^ 7 + x3.toNat) * 2 ^ 3 + x4.toNat := by
    have hn := Option.some.inj hn
    rw [Nat.pow_zero, Nat.div_one]; omega
  have e3 := div_next e0 x4.isLt
  have e10 := div_next e3 x3.isLt
  have e16 := div_next e10 x2.isLt
  have e22 := div_next e16 x1.isLt
  have e26 := div_next e22 x0.isLt
  refine ⟨digits_lt e26 (by decide), decodeWord_of (shape_2B (fld_digit (p := 0) (e26.trans (by decide)) (by decide))) ?_ hw⟩
  unfold shape2B
  rw [show bfld n 22 4 = x0 from bfld_digit e22]
  rw [show bfld n 16 6 = x1 from bfld_digit e16]
  rw [show bfld n 10 6 = x2 from bfld_digit e10]
  rw [show bfld n 3 7 = x3 from bfld_digit e3]
  rw [show bfld n 0 3 = x4 from bfld_digit e0]

/-- Its word and back. -/
theorem RoundTrip.stv (x0 : BitVec 4) (x1 : BitVec 6) (x2 : BitVec 5) (x3 : BitVec 3) : RoundTrip.Statement (.stv x0 x1 x2 x3) := by
  intro n hw hn
  have e0 : n / 2 ^ 0 = ((((44 * 2 ^ 4 + x0.toNat) * 2 ^ 6 + x1.toNat) * 2 ^ 5 + x2.toNat) * 2 ^ 8 + 0) * 2 ^ 3 + x3.toNat := by
    have hn := Option.some.inj hn
    rw [Nat.pow_zero, Nat.div_one]; omega
  have e3 := div_next e0 x3.isLt
  have e11 := div_next e3 (by decide)
  have e16 := div_next e11 x2.isLt
  have e22 := div_next e16 x1.isLt
  have e26 := div_next e22 x0.isLt
  have k3_8 : fld n 3 8 = 0 := fld_digit e3 (by decide)
  refine ⟨digits_lt e26 (by decide), decodeWord_of (shape_2C (fld_digit (p := 0) (e26.trans (by decide)) (by decide))) ?_ hw⟩
  unfold shape2C
  rw [if_pos k3_8]
  rw [show bfld n 22 4 = x0 from bfld_digit e22]
  rw [show bfld n 16 6 = x1 from bfld_digit e16]
  rw [show bfld n 11 5 = x2 from bfld_digit e11]
  rw [show bfld n 0 3 = x3 from bfld_digit e0]

/-- Its word and back. -/
theorem RoundTrip.lds (x0 : BitVec 8) (x1 : BitVec 7) (x2 : BitVec 3) (x3 : BitVec 8) : RoundTrip.Statement (.lds x0 x1 x2 x3) := by
  intro n hw hn
  have e0 : n / 2 ^ 0 = (((45 * 2 ^ 8 + x0.toNat) * 2 ^ 7 + x1.toNat) * 2 ^ 3 + x2.toNat) * 2 ^ 8 + x3.toNat := by
    have hn := Option.some.inj hn
    rw [Nat.pow_zero, Nat.div_one]; omega
  have e8 := div_next e0 x3.isLt
  have e11 := div_next e8 x2.isLt
  have e18 := div_next e11 x1.isLt
  have e26 := div_next e18 x0.isLt
  refine ⟨digits_lt e26 (by decide), decodeWord_of (shape_2D (fld_digit (p := 0) (e26.trans (by decide)) (by decide))) ?_ hw⟩
  unfold shape2D
  rw [show bfld n 18 8 = x0 from bfld_digit e18]
  rw [show bfld n 11 7 = x1 from bfld_digit e11]
  rw [show bfld n 8 3 = x2 from bfld_digit e8]
  rw [show bfld n 0 8 = x3 from bfld_digit e0]

/-- Its word and back. -/
theorem RoundTrip.sts (x0 : BitVec 8) (x1 : BitVec 7) (x2 : BitVec 3) (x3 : BitVec 8) : RoundTrip.Statement (.sts x0 x1 x2 x3) := by
  intro n hw hn
  have e0 : n / 2 ^ 0 = (((46 * 2 ^ 8 + x0.toNat) * 2 ^ 7 + x1.toNat) * 2 ^ 3 + x2.toNat) * 2 ^ 8 + x3.toNat := by
    have hn := Option.some.inj hn
    rw [Nat.pow_zero, Nat.div_one]; omega
  have e8 := div_next e0 x3.isLt
  have e11 := div_next e8 x2.isLt
  have e18 := div_next e11 x1.isLt
  have e26 := div_next e18 x0.isLt
  refine ⟨digits_lt e26 (by decide), decodeWord_of (shape_2E (fld_digit (p := 0) (e26.trans (by decide)) (by decide))) ?_ hw⟩
  unfold shape2E
  rw [show bfld n 18 8 = x0 from bfld_digit e18]
  rw [show bfld n 11 7 = x1 from bfld_digit e11]
  rw [show bfld n 8 3 = x2 from bfld_digit e8]
  rw [show bfld n 0 8 = x3 from bfld_digit e0]

/-- Its word and back. -/
theorem RoundTrip.atomOrd (x0 : BitVec 4) (x1 : BitVec 6) (x2 : BitVec 6) (x3 : BitVec 7) : RoundTrip.Statement (.atomOrd x0 x1 x2 x3) := by
  intro n hw hn
  have e0 : n / 2 ^ 0 = ((((47 * 2 ^ 4 + x0.toNat) * 2 ^ 6 + x1.toNat) * 2 ^ 6 + x2.toNat) * 2 ^ 7 + x3.toNat) * 2 ^ 3 + 4 := by
    have hn := Option.some.inj hn
    rw [Nat.pow_zero, Nat.div_one]; omega
  have e3 := div_next e0 (by decide)
  have e10 := div_next e3 x3.isLt
  have e16 := div_next e10 x2.isLt
  have e22 := div_next e16 x1.isLt
  have e26 := div_next e22 x0.isLt
  have k0_3 : fld n 0 3 = 4 := fld_digit e0 (by decide)
  refine ⟨digits_lt e26 (by decide), decodeWord_of (shape_2F (fld_digit (p := 0) (e26.trans (by decide)) (by decide))) ?_ hw⟩
  unfold shape2F
  rw [if_pos k0_3]
  rw [show bfld n 22 4 = x0 from bfld_digit e22]
  rw [show bfld n 16 6 = x1 from bfld_digit e16]
  rw [show bfld n 10 6 = x2 from bfld_digit e10]
  rw [show bfld n 3 7 = x3 from bfld_digit e3]

/-- Its word and back. -/
theorem RoundTrip.atomCas64 (x0 : BitVec 4) (x1 : BitVec 6) (x2 : BitVec 7) (x3 : BitVec 3) : RoundTrip.Statement (.atomCas64 x0 x1 x2 x3) := by
  intro n hw hn
  have e0 : n / 2 ^ 0 = (((((47 * 2 ^ 4 + 11) * 2 ^ 4 + x0.toNat) * 2 ^ 2 + 0) * 2 ^ 6 + x1.toNat) * 2 ^ 7 + x2.toNat) * 2 ^ 3 + x3.toNat := by
    have hn := Option.some.inj hn
    rw [Nat.pow_zero, Nat.div_one]; omega
  have e3 := div_next e0 x3.isLt
  have e10 := div_next e3 x2.isLt
  have e16 := div_next e10 x1.isLt
  have e18 := div_next e16 (by decide)
  have e22 := div_next e18 x0.isLt
  have e26 := div_next e22 (by decide)
  have k22_4 : fld n 22 4 = 11 := fld_digit e22 (by decide)
  have k16_2 : fld n 16 2 = 0 := fld_digit e16 (by decide)
  have hk : x3.toNat ≤ 3 := of_decide_eq_true (show decide (x3.toNat ≤ 3) = true from hw)
  refine ⟨digits_lt e26 (by decide), decodeWord_of (shape_2F (fld_digit (p := 0) (e26.trans (by decide)) (by decide))) ?_ hw⟩
  unfold shape2F
  rw [if_neg (fun h => absurd ((fld_digit e0 x3.isLt).symm.trans h) (by omega))]
  rw [if_pos ⟨k22_4, k16_2⟩]
  rw [show bfld n 18 4 = x0 from bfld_digit e18]
  rw [show bfld n 10 6 = x1 from bfld_digit e10]
  rw [show bfld n 3 7 = x2 from bfld_digit e3]
  rw [show bfld n 0 3 = x3 from bfld_digit e0]

/-- Its word and back. -/
theorem RoundTrip.atomCas (x0 : BitVec 5) (x1 : BitVec 6) (x2 : BitVec 7) (x3 : BitVec 3) : RoundTrip.Statement (.atomCas x0 x1 x2 x3) := by
  intro n hw hn
  have e0 : n / 2 ^ 0 = (((((47 * 2 ^ 4 + 9) * 2 ^ 5 + x0.toNat) * 2 ^ 1 + 0) * 2 ^ 6 + x1.toNat) * 2 ^ 7 + x2.toNat) * 2 ^ 3 + x3.toNat := by
    have hn := Option.some.inj hn
    rw [Nat.pow_zero, Nat.div_one]; omega
  have e3 := div_next e0 x3.isLt
  have e10 := div_next e3 x2.isLt
  have e16 := div_next e10 x1.isLt
  have e17 := div_next e16 (by decide)
  have e22 := div_next e17 x0.isLt
  have e26 := div_next e22 (by decide)
  have k22_4 : fld n 22 4 = 9 := fld_digit e22 (by decide)
  have k16_1 : fld n 16 1 = 0 := fld_digit e16 (by decide)
  have hk : x3.toNat ≤ 3 := of_decide_eq_true (show decide (x3.toNat ≤ 3) = true from hw)
  refine ⟨digits_lt e26 (by decide), decodeWord_of (shape_2F (fld_digit (p := 0) (e26.trans (by decide)) (by decide))) ?_ hw⟩
  unfold shape2F
  rw [if_neg (fun h => absurd ((fld_digit e0 x3.isLt).symm.trans h) (by omega)), if_neg (fun h => absurd (k22_4.symm.trans h.1) (by decide))]
  rw [if_pos ⟨k22_4, k16_1⟩]
  rw [show bfld n 17 5 = x0 from bfld_digit e17]
  rw [show bfld n 10 6 = x1 from bfld_digit e10]
  rw [show bfld n 3 7 = x2 from bfld_digit e3]
  rw [show bfld n 0 3 = x3 from bfld_digit e0]

/-- Its word and back. -/
theorem RoundTrip.atomIadd64 (x0 : BitVec 5) (x1 : BitVec 6) (x2 : BitVec 7) (x3 : BitVec 3) : RoundTrip.Statement (.atomIadd64 x0 x1 x2 x3) := by
  intro n hw hn
  have e0 : n / 2 ^ 0 = (((((47 * 2 ^ 4 + 10) * 2 ^ 5 + x0.toNat) * 2 ^ 1 + 0) * 2 ^ 6 + x1.toNat) * 2 ^ 7 + x2.toNat) * 2 ^ 3 + x3.toNat := by
    have hn := Option.some.inj hn
    rw [Nat.pow_zero, Nat.div_one]; omega
  have e3 := div_next e0 x3.isLt
  have e10 := div_next e3 x2.isLt
  have e16 := div_next e10 x1.isLt
  have e17 := div_next e16 (by decide)
  have e22 := div_next e17 x0.isLt
  have e26 := div_next e22 (by decide)
  have k22_4 : fld n 22 4 = 10 := fld_digit e22 (by decide)
  have k16_1 : fld n 16 1 = 0 := fld_digit e16 (by decide)
  have hk : x3.toNat ≤ 3 := of_decide_eq_true (show decide (x3.toNat ≤ 3) = true from hw)
  refine ⟨digits_lt e26 (by decide), decodeWord_of (shape_2F (fld_digit (p := 0) (e26.trans (by decide)) (by decide))) ?_ hw⟩
  unfold shape2F
  rw [if_neg (fun h => absurd ((fld_digit e0 x3.isLt).symm.trans h) (by omega)), if_neg (fun h => absurd (k22_4.symm.trans h.1) (by decide)), if_neg (fun h => absurd (k22_4.symm.trans h.1) (by decide))]
  rw [if_pos ⟨k22_4, k16_1⟩]
  rw [show bfld n 17 5 = x0 from bfld_digit e17]
  rw [show bfld n 10 6 = x1 from bfld_digit e10]
  rw [show bfld n 3 7 = x2 from bfld_digit e3]
  rw [show bfld n 0 3 = x3 from bfld_digit e0]

/-- Its word and back. -/
theorem RoundTrip.atomIadd (x0 : BitVec 6) (x1 : BitVec 6) (x2 : BitVec 7) (x3 : BitVec 3) : RoundTrip.Statement (.atomIadd x0 x1 x2 x3) := by
  intro n hw hn
  have e0 : n / 2 ^ 0 = ((((47 * 2 ^ 4 + 0) * 2 ^ 6 + x0.toNat) * 2 ^ 6 + x1.toNat) * 2 ^ 7 + x2.toNat) * 2 ^ 3 + x3.toNat := by
    have hn := Option.some.inj hn
    rw [Nat.pow_zero, Nat.div_one]; omega
  have e3 := div_next e0 x3.isLt
  have e10 := div_next e3 x2.isLt
  have e16 := div_next e10 x1.isLt
  have e22 := div_next e16 x0.isLt
  have e26 := div_next e22 (by decide)
  have k22_4 : fld n 22 4 = 0 := fld_digit e22 (by decide)
  have hk : x3.toNat ≤ 3 := of_decide_eq_true (show decide (x3.toNat ≤ 3) = true from hw)
  refine ⟨digits_lt e26 (by decide), decodeWord_of (shape_2F (fld_digit (p := 0) (e26.trans (by decide)) (by decide))) ?_ hw⟩
  unfold shape2F
  rw [if_neg (fun h => absurd ((fld_digit e0 x3.isLt).symm.trans h) (by omega)), if_neg (fun h => absurd (k22_4.symm.trans h.1) (by decide)), if_neg (fun h => absurd (k22_4.symm.trans h.1) (by decide)), if_neg (fun h => absurd (k22_4.symm.trans h.1) (by decide))]
  rw [if_pos k22_4]
  rw [show bfld n 16 6 = x0 from bfld_digit e16]
  rw [show bfld n 10 6 = x1 from bfld_digit e10]
  rw [show bfld n 3 7 = x2 from bfld_digit e3]
  rw [show bfld n 0 3 = x3 from bfld_digit e0]

/-- Its word and back. -/
theorem RoundTrip.atomIminS (x0 : BitVec 6) (x1 : BitVec 6) (x2 : BitVec 7) (x3 : BitVec 3) : RoundTrip.Statement (.atomIminS x0 x1 x2 x3) := by
  intro n hw hn
  have e0 : n / 2 ^ 0 = ((((47 * 2 ^ 4 + 1) * 2 ^ 6 + x0.toNat) * 2 ^ 6 + x1.toNat) * 2 ^ 7 + x2.toNat) * 2 ^ 3 + x3.toNat := by
    have hn := Option.some.inj hn
    rw [Nat.pow_zero, Nat.div_one]; omega
  have e3 := div_next e0 x3.isLt
  have e10 := div_next e3 x2.isLt
  have e16 := div_next e10 x1.isLt
  have e22 := div_next e16 x0.isLt
  have e26 := div_next e22 (by decide)
  have k22_4 : fld n 22 4 = 1 := fld_digit e22 (by decide)
  have hk : x3.toNat ≤ 3 := of_decide_eq_true (show decide (x3.toNat ≤ 3) = true from hw)
  refine ⟨digits_lt e26 (by decide), decodeWord_of (shape_2F (fld_digit (p := 0) (e26.trans (by decide)) (by decide))) ?_ hw⟩
  unfold shape2F
  rw [if_neg (fun h => absurd ((fld_digit e0 x3.isLt).symm.trans h) (by omega)), if_neg (fun h => absurd (k22_4.symm.trans h.1) (by decide)), if_neg (fun h => absurd (k22_4.symm.trans h.1) (by decide)), if_neg (fun h => absurd (k22_4.symm.trans h.1) (by decide)), if_neg (fun h => absurd (k22_4.symm.trans h) (by decide))]
  rw [if_pos k22_4]
  rw [show bfld n 16 6 = x0 from bfld_digit e16]
  rw [show bfld n 10 6 = x1 from bfld_digit e10]
  rw [show bfld n 3 7 = x2 from bfld_digit e3]
  rw [show bfld n 0 3 = x3 from bfld_digit e0]

/-- Its word and back. -/
theorem RoundTrip.atomIminN (x0 : BitVec 6) (x1 : BitVec 6) (x2 : BitVec 7) (x3 : BitVec 3) : RoundTrip.Statement (.atomIminN x0 x1 x2 x3) := by
  intro n hw hn
  have e0 : n / 2 ^ 0 = ((((47 * 2 ^ 4 + 2) * 2 ^ 6 + x0.toNat) * 2 ^ 6 + x1.toNat) * 2 ^ 7 + x2.toNat) * 2 ^ 3 + x3.toNat := by
    have hn := Option.some.inj hn
    rw [Nat.pow_zero, Nat.div_one]; omega
  have e3 := div_next e0 x3.isLt
  have e10 := div_next e3 x2.isLt
  have e16 := div_next e10 x1.isLt
  have e22 := div_next e16 x0.isLt
  have e26 := div_next e22 (by decide)
  have k22_4 : fld n 22 4 = 2 := fld_digit e22 (by decide)
  have hk : x3.toNat ≤ 3 := of_decide_eq_true (show decide (x3.toNat ≤ 3) = true from hw)
  refine ⟨digits_lt e26 (by decide), decodeWord_of (shape_2F (fld_digit (p := 0) (e26.trans (by decide)) (by decide))) ?_ hw⟩
  unfold shape2F
  rw [if_neg (fun h => absurd ((fld_digit e0 x3.isLt).symm.trans h) (by omega)), if_neg (fun h => absurd (k22_4.symm.trans h.1) (by decide)), if_neg (fun h => absurd (k22_4.symm.trans h.1) (by decide)), if_neg (fun h => absurd (k22_4.symm.trans h.1) (by decide)), if_neg (fun h => absurd (k22_4.symm.trans h) (by decide)), if_neg (fun h => absurd (k22_4.symm.trans h) (by decide))]
  rw [if_pos k22_4]
  rw [show bfld n 16 6 = x0 from bfld_digit e16]
  rw [show bfld n 10 6 = x1 from bfld_digit e10]
  rw [show bfld n 3 7 = x2 from bfld_digit e3]
  rw [show bfld n 0 3 = x3 from bfld_digit e0]

/-- Its word and back. -/
theorem RoundTrip.atomImaxS (x0 : BitVec 6) (x1 : BitVec 6) (x2 : BitVec 7) (x3 : BitVec 3) : RoundTrip.Statement (.atomImaxS x0 x1 x2 x3) := by
  intro n hw hn
  have e0 : n / 2 ^ 0 = ((((47 * 2 ^ 4 + 3) * 2 ^ 6 + x0.toNat) * 2 ^ 6 + x1.toNat) * 2 ^ 7 + x2.toNat) * 2 ^ 3 + x3.toNat := by
    have hn := Option.some.inj hn
    rw [Nat.pow_zero, Nat.div_one]; omega
  have e3 := div_next e0 x3.isLt
  have e10 := div_next e3 x2.isLt
  have e16 := div_next e10 x1.isLt
  have e22 := div_next e16 x0.isLt
  have e26 := div_next e22 (by decide)
  have k22_4 : fld n 22 4 = 3 := fld_digit e22 (by decide)
  have hk : x3.toNat ≤ 3 := of_decide_eq_true (show decide (x3.toNat ≤ 3) = true from hw)
  refine ⟨digits_lt e26 (by decide), decodeWord_of (shape_2F (fld_digit (p := 0) (e26.trans (by decide)) (by decide))) ?_ hw⟩
  unfold shape2F
  rw [if_neg (fun h => absurd ((fld_digit e0 x3.isLt).symm.trans h) (by omega)), if_neg (fun h => absurd (k22_4.symm.trans h.1) (by decide)), if_neg (fun h => absurd (k22_4.symm.trans h.1) (by decide)), if_neg (fun h => absurd (k22_4.symm.trans h.1) (by decide)), if_neg (fun h => absurd (k22_4.symm.trans h) (by decide)), if_neg (fun h => absurd (k22_4.symm.trans h) (by decide)), if_neg (fun h => absurd (k22_4.symm.trans h) (by decide))]
  rw [if_pos k22_4]
  rw [show bfld n 16 6 = x0 from bfld_digit e16]
  rw [show bfld n 10 6 = x1 from bfld_digit e10]
  rw [show bfld n 3 7 = x2 from bfld_digit e3]
  rw [show bfld n 0 3 = x3 from bfld_digit e0]

/-- Its word and back. -/
theorem RoundTrip.atomImaxN (x0 : BitVec 6) (x1 : BitVec 6) (x2 : BitVec 7) (x3 : BitVec 3) : RoundTrip.Statement (.atomImaxN x0 x1 x2 x3) := by
  intro n hw hn
  have e0 : n / 2 ^ 0 = ((((47 * 2 ^ 4 + 4) * 2 ^ 6 + x0.toNat) * 2 ^ 6 + x1.toNat) * 2 ^ 7 + x2.toNat) * 2 ^ 3 + x3.toNat := by
    have hn := Option.some.inj hn
    rw [Nat.pow_zero, Nat.div_one]; omega
  have e3 := div_next e0 x3.isLt
  have e10 := div_next e3 x2.isLt
  have e16 := div_next e10 x1.isLt
  have e22 := div_next e16 x0.isLt
  have e26 := div_next e22 (by decide)
  have k22_4 : fld n 22 4 = 4 := fld_digit e22 (by decide)
  have hk : x3.toNat ≤ 3 := of_decide_eq_true (show decide (x3.toNat ≤ 3) = true from hw)
  refine ⟨digits_lt e26 (by decide), decodeWord_of (shape_2F (fld_digit (p := 0) (e26.trans (by decide)) (by decide))) ?_ hw⟩
  unfold shape2F
  rw [if_neg (fun h => absurd ((fld_digit e0 x3.isLt).symm.trans h) (by omega)), if_neg (fun h => absurd (k22_4.symm.trans h.1) (by decide)), if_neg (fun h => absurd (k22_4.symm.trans h.1) (by decide)), if_neg (fun h => absurd (k22_4.symm.trans h.1) (by decide)), if_neg (fun h => absurd (k22_4.symm.trans h) (by decide)), if_neg (fun h => absurd (k22_4.symm.trans h) (by decide)), if_neg (fun h => absurd (k22_4.symm.trans h) (by decide)), if_neg (fun h => absurd (k22_4.symm.trans h) (by decide))]
  rw [if_pos k22_4]
  rw [show bfld n 16 6 = x0 from bfld_digit e16]
  rw [show bfld n 10 6 = x1 from bfld_digit e10]
  rw [show bfld n 3 7 = x2 from bfld_digit e3]
  rw [show bfld n 0 3 = x3 from bfld_digit e0]

/-- Its word and back. -/
theorem RoundTrip.atomAnd (x0 : BitVec 6) (x1 : BitVec 6) (x2 : BitVec 7) (x3 : BitVec 3) : RoundTrip.Statement (.atomAnd x0 x1 x2 x3) := by
  intro n hw hn
  have e0 : n / 2 ^ 0 = ((((47 * 2 ^ 4 + 5) * 2 ^ 6 + x0.toNat) * 2 ^ 6 + x1.toNat) * 2 ^ 7 + x2.toNat) * 2 ^ 3 + x3.toNat := by
    have hn := Option.some.inj hn
    rw [Nat.pow_zero, Nat.div_one]; omega
  have e3 := div_next e0 x3.isLt
  have e10 := div_next e3 x2.isLt
  have e16 := div_next e10 x1.isLt
  have e22 := div_next e16 x0.isLt
  have e26 := div_next e22 (by decide)
  have k22_4 : fld n 22 4 = 5 := fld_digit e22 (by decide)
  have hk : x3.toNat ≤ 3 := of_decide_eq_true (show decide (x3.toNat ≤ 3) = true from hw)
  refine ⟨digits_lt e26 (by decide), decodeWord_of (shape_2F (fld_digit (p := 0) (e26.trans (by decide)) (by decide))) ?_ hw⟩
  unfold shape2F
  rw [if_neg (fun h => absurd ((fld_digit e0 x3.isLt).symm.trans h) (by omega)), if_neg (fun h => absurd (k22_4.symm.trans h.1) (by decide)), if_neg (fun h => absurd (k22_4.symm.trans h.1) (by decide)), if_neg (fun h => absurd (k22_4.symm.trans h.1) (by decide)), if_neg (fun h => absurd (k22_4.symm.trans h) (by decide)), if_neg (fun h => absurd (k22_4.symm.trans h) (by decide)), if_neg (fun h => absurd (k22_4.symm.trans h) (by decide)), if_neg (fun h => absurd (k22_4.symm.trans h) (by decide)), if_neg (fun h => absurd (k22_4.symm.trans h) (by decide))]
  rw [if_pos k22_4]
  rw [show bfld n 16 6 = x0 from bfld_digit e16]
  rw [show bfld n 10 6 = x1 from bfld_digit e10]
  rw [show bfld n 3 7 = x2 from bfld_digit e3]
  rw [show bfld n 0 3 = x3 from bfld_digit e0]

/-- Its word and back. -/
theorem RoundTrip.atomOr (x0 : BitVec 6) (x1 : BitVec 6) (x2 : BitVec 7) (x3 : BitVec 3) : RoundTrip.Statement (.atomOr x0 x1 x2 x3) := by
  intro n hw hn
  have e0 : n / 2 ^ 0 = ((((47 * 2 ^ 4 + 6) * 2 ^ 6 + x0.toNat) * 2 ^ 6 + x1.toNat) * 2 ^ 7 + x2.toNat) * 2 ^ 3 + x3.toNat := by
    have hn := Option.some.inj hn
    rw [Nat.pow_zero, Nat.div_one]; omega
  have e3 := div_next e0 x3.isLt
  have e10 := div_next e3 x2.isLt
  have e16 := div_next e10 x1.isLt
  have e22 := div_next e16 x0.isLt
  have e26 := div_next e22 (by decide)
  have k22_4 : fld n 22 4 = 6 := fld_digit e22 (by decide)
  have hk : x3.toNat ≤ 3 := of_decide_eq_true (show decide (x3.toNat ≤ 3) = true from hw)
  refine ⟨digits_lt e26 (by decide), decodeWord_of (shape_2F (fld_digit (p := 0) (e26.trans (by decide)) (by decide))) ?_ hw⟩
  unfold shape2F
  rw [if_neg (fun h => absurd ((fld_digit e0 x3.isLt).symm.trans h) (by omega)), if_neg (fun h => absurd (k22_4.symm.trans h.1) (by decide)), if_neg (fun h => absurd (k22_4.symm.trans h.1) (by decide)), if_neg (fun h => absurd (k22_4.symm.trans h.1) (by decide)), if_neg (fun h => absurd (k22_4.symm.trans h) (by decide)), if_neg (fun h => absurd (k22_4.symm.trans h) (by decide)), if_neg (fun h => absurd (k22_4.symm.trans h) (by decide)), if_neg (fun h => absurd (k22_4.symm.trans h) (by decide)), if_neg (fun h => absurd (k22_4.symm.trans h) (by decide)), if_neg (fun h => absurd (k22_4.symm.trans h) (by decide))]
  rw [if_pos k22_4]
  rw [show bfld n 16 6 = x0 from bfld_digit e16]
  rw [show bfld n 10 6 = x1 from bfld_digit e10]
  rw [show bfld n 3 7 = x2 from bfld_digit e3]
  rw [show bfld n 0 3 = x3 from bfld_digit e0]

/-- Its word and back. -/
theorem RoundTrip.atomXor (x0 : BitVec 6) (x1 : BitVec 6) (x2 : BitVec 7) (x3 : BitVec 3) : RoundTrip.Statement (.atomXor x0 x1 x2 x3) := by
  intro n hw hn
  have e0 : n / 2 ^ 0 = ((((47 * 2 ^ 4 + 7) * 2 ^ 6 + x0.toNat) * 2 ^ 6 + x1.toNat) * 2 ^ 7 + x2.toNat) * 2 ^ 3 + x3.toNat := by
    have hn := Option.some.inj hn
    rw [Nat.pow_zero, Nat.div_one]; omega
  have e3 := div_next e0 x3.isLt
  have e10 := div_next e3 x2.isLt
  have e16 := div_next e10 x1.isLt
  have e22 := div_next e16 x0.isLt
  have e26 := div_next e22 (by decide)
  have k22_4 : fld n 22 4 = 7 := fld_digit e22 (by decide)
  have hk : x3.toNat ≤ 3 := of_decide_eq_true (show decide (x3.toNat ≤ 3) = true from hw)
  refine ⟨digits_lt e26 (by decide), decodeWord_of (shape_2F (fld_digit (p := 0) (e26.trans (by decide)) (by decide))) ?_ hw⟩
  unfold shape2F
  rw [if_neg (fun h => absurd ((fld_digit e0 x3.isLt).symm.trans h) (by omega)), if_neg (fun h => absurd (k22_4.symm.trans h.1) (by decide)), if_neg (fun h => absurd (k22_4.symm.trans h.1) (by decide)), if_neg (fun h => absurd (k22_4.symm.trans h.1) (by decide)), if_neg (fun h => absurd (k22_4.symm.trans h) (by decide)), if_neg (fun h => absurd (k22_4.symm.trans h) (by decide)), if_neg (fun h => absurd (k22_4.symm.trans h) (by decide)), if_neg (fun h => absurd (k22_4.symm.trans h) (by decide)), if_neg (fun h => absurd (k22_4.symm.trans h) (by decide)), if_neg (fun h => absurd (k22_4.symm.trans h) (by decide)), if_neg (fun h => absurd (k22_4.symm.trans h) (by decide))]
  rw [if_pos k22_4]
  rw [show bfld n 16 6 = x0 from bfld_digit e16]
  rw [show bfld n 10 6 = x1 from bfld_digit e10]
  rw [show bfld n 3 7 = x2 from bfld_digit e3]
  rw [show bfld n 0 3 = x3 from bfld_digit e0]

/-- Its word and back. -/
theorem RoundTrip.atomExch (x0 : BitVec 6) (x1 : BitVec 6) (x2 : BitVec 7) (x3 : BitVec 3) : RoundTrip.Statement (.atomExch x0 x1 x2 x3) := by
  intro n hw hn
  have e0 : n / 2 ^ 0 = ((((47 * 2 ^ 4 + 8) * 2 ^ 6 + x0.toNat) * 2 ^ 6 + x1.toNat) * 2 ^ 7 + x2.toNat) * 2 ^ 3 + x3.toNat := by
    have hn := Option.some.inj hn
    rw [Nat.pow_zero, Nat.div_one]; omega
  have e3 := div_next e0 x3.isLt
  have e10 := div_next e3 x2.isLt
  have e16 := div_next e10 x1.isLt
  have e22 := div_next e16 x0.isLt
  have e26 := div_next e22 (by decide)
  have k22_4 : fld n 22 4 = 8 := fld_digit e22 (by decide)
  have hk : x3.toNat ≤ 3 := of_decide_eq_true (show decide (x3.toNat ≤ 3) = true from hw)
  refine ⟨digits_lt e26 (by decide), decodeWord_of (shape_2F (fld_digit (p := 0) (e26.trans (by decide)) (by decide))) ?_ hw⟩
  unfold shape2F
  rw [if_neg (fun h => absurd ((fld_digit e0 x3.isLt).symm.trans h) (by omega)), if_neg (fun h => absurd (k22_4.symm.trans h.1) (by decide)), if_neg (fun h => absurd (k22_4.symm.trans h.1) (by decide)), if_neg (fun h => absurd (k22_4.symm.trans h.1) (by decide)), if_neg (fun h => absurd (k22_4.symm.trans h) (by decide)), if_neg (fun h => absurd (k22_4.symm.trans h) (by decide)), if_neg (fun h => absurd (k22_4.symm.trans h) (by decide)), if_neg (fun h => absurd (k22_4.symm.trans h) (by decide)), if_neg (fun h => absurd (k22_4.symm.trans h) (by decide)), if_neg (fun h => absurd (k22_4.symm.trans h) (by decide)), if_neg (fun h => absurd (k22_4.symm.trans h) (by decide)), if_neg (fun h => absurd (k22_4.symm.trans h) (by decide))]
  rw [if_pos k22_4]
  rw [show bfld n 16 6 = x0 from bfld_digit e16]
  rw [show bfld n 10 6 = x1 from bfld_digit e10]
  rw [show bfld n 3 7 = x2 from bfld_digit e3]
  rw [show bfld n 0 3 = x3 from bfld_digit e0]

/-- Its word and back. -/
theorem RoundTrip.atomFadd (x0 : BitVec 6) (x1 : BitVec 6) (x2 : BitVec 7) (x3 : BitVec 3) : RoundTrip.Statement (.atomFadd x0 x1 x2 x3) := by
  intro n hw hn
  have e0 : n / 2 ^ 0 = ((((47 * 2 ^ 4 + 12) * 2 ^ 6 + x0.toNat) * 2 ^ 6 + x1.toNat) * 2 ^ 7 + x2.toNat) * 2 ^ 3 + x3.toNat := by
    have hn := Option.some.inj hn
    rw [Nat.pow_zero, Nat.div_one]; omega
  have e3 := div_next e0 x3.isLt
  have e10 := div_next e3 x2.isLt
  have e16 := div_next e10 x1.isLt
  have e22 := div_next e16 x0.isLt
  have e26 := div_next e22 (by decide)
  have k22_4 : fld n 22 4 = 12 := fld_digit e22 (by decide)
  have hk : x3.toNat ≤ 3 := of_decide_eq_true (show decide (x3.toNat ≤ 3) = true from hw)
  refine ⟨digits_lt e26 (by decide), decodeWord_of (shape_2F (fld_digit (p := 0) (e26.trans (by decide)) (by decide))) ?_ hw⟩
  unfold shape2F
  rw [if_neg (fun h => absurd ((fld_digit e0 x3.isLt).symm.trans h) (by omega)), if_neg (fun h => absurd (k22_4.symm.trans h.1) (by decide)), if_neg (fun h => absurd (k22_4.symm.trans h.1) (by decide)), if_neg (fun h => absurd (k22_4.symm.trans h.1) (by decide)), if_neg (fun h => absurd (k22_4.symm.trans h) (by decide)), if_neg (fun h => absurd (k22_4.symm.trans h) (by decide)), if_neg (fun h => absurd (k22_4.symm.trans h) (by decide)), if_neg (fun h => absurd (k22_4.symm.trans h) (by decide)), if_neg (fun h => absurd (k22_4.symm.trans h) (by decide)), if_neg (fun h => absurd (k22_4.symm.trans h) (by decide)), if_neg (fun h => absurd (k22_4.symm.trans h) (by decide)), if_neg (fun h => absurd (k22_4.symm.trans h) (by decide)), if_neg (fun h => absurd (k22_4.symm.trans h) (by decide))]
  rw [if_pos k22_4]
  rw [show bfld n 16 6 = x0 from bfld_digit e16]
  rw [show bfld n 10 6 = x1 from bfld_digit e10]
  rw [show bfld n 3 7 = x2 from bfld_digit e3]
  rw [show bfld n 0 3 = x3 from bfld_digit e0]

/-- Its word and back. -/
theorem RoundTrip.atomFmin (x0 : BitVec 6) (x1 : BitVec 6) (x2 : BitVec 7) (x3 : BitVec 3) : RoundTrip.Statement (.atomFmin x0 x1 x2 x3) := by
  intro n hw hn
  have e0 : n / 2 ^ 0 = ((((47 * 2 ^ 4 + 13) * 2 ^ 6 + x0.toNat) * 2 ^ 6 + x1.toNat) * 2 ^ 7 + x2.toNat) * 2 ^ 3 + x3.toNat := by
    have hn := Option.some.inj hn
    rw [Nat.pow_zero, Nat.div_one]; omega
  have e3 := div_next e0 x3.isLt
  have e10 := div_next e3 x2.isLt
  have e16 := div_next e10 x1.isLt
  have e22 := div_next e16 x0.isLt
  have e26 := div_next e22 (by decide)
  have k22_4 : fld n 22 4 = 13 := fld_digit e22 (by decide)
  have hk : x3.toNat ≤ 3 := of_decide_eq_true (show decide (x3.toNat ≤ 3) = true from hw)
  refine ⟨digits_lt e26 (by decide), decodeWord_of (shape_2F (fld_digit (p := 0) (e26.trans (by decide)) (by decide))) ?_ hw⟩
  unfold shape2F
  rw [if_neg (fun h => absurd ((fld_digit e0 x3.isLt).symm.trans h) (by omega)), if_neg (fun h => absurd (k22_4.symm.trans h.1) (by decide)), if_neg (fun h => absurd (k22_4.symm.trans h.1) (by decide)), if_neg (fun h => absurd (k22_4.symm.trans h.1) (by decide)), if_neg (fun h => absurd (k22_4.symm.trans h) (by decide)), if_neg (fun h => absurd (k22_4.symm.trans h) (by decide)), if_neg (fun h => absurd (k22_4.symm.trans h) (by decide)), if_neg (fun h => absurd (k22_4.symm.trans h) (by decide)), if_neg (fun h => absurd (k22_4.symm.trans h) (by decide)), if_neg (fun h => absurd (k22_4.symm.trans h) (by decide)), if_neg (fun h => absurd (k22_4.symm.trans h) (by decide)), if_neg (fun h => absurd (k22_4.symm.trans h) (by decide)), if_neg (fun h => absurd (k22_4.symm.trans h) (by decide)), if_neg (fun h => absurd (k22_4.symm.trans h) (by decide))]
  rw [if_pos k22_4]
  rw [show bfld n 16 6 = x0 from bfld_digit e16]
  rw [show bfld n 10 6 = x1 from bfld_digit e10]
  rw [show bfld n 3 7 = x2 from bfld_digit e3]
  rw [show bfld n 0 3 = x3 from bfld_digit e0]

/-- Its word and back. -/
theorem RoundTrip.atomFmax (x0 : BitVec 6) (x1 : BitVec 6) (x2 : BitVec 7) (x3 : BitVec 3) : RoundTrip.Statement (.atomFmax x0 x1 x2 x3) := by
  intro n hw hn
  have e0 : n / 2 ^ 0 = ((((47 * 2 ^ 4 + 14) * 2 ^ 6 + x0.toNat) * 2 ^ 6 + x1.toNat) * 2 ^ 7 + x2.toNat) * 2 ^ 3 + x3.toNat := by
    have hn := Option.some.inj hn
    rw [Nat.pow_zero, Nat.div_one]; omega
  have e3 := div_next e0 x3.isLt
  have e10 := div_next e3 x2.isLt
  have e16 := div_next e10 x1.isLt
  have e22 := div_next e16 x0.isLt
  have e26 := div_next e22 (by decide)
  have k22_4 : fld n 22 4 = 14 := fld_digit e22 (by decide)
  have hk : x3.toNat ≤ 3 := of_decide_eq_true (show decide (x3.toNat ≤ 3) = true from hw)
  refine ⟨digits_lt e26 (by decide), decodeWord_of (shape_2F (fld_digit (p := 0) (e26.trans (by decide)) (by decide))) ?_ hw⟩
  unfold shape2F
  rw [if_neg (fun h => absurd ((fld_digit e0 x3.isLt).symm.trans h) (by omega)), if_neg (fun h => absurd (k22_4.symm.trans h.1) (by decide)), if_neg (fun h => absurd (k22_4.symm.trans h.1) (by decide)), if_neg (fun h => absurd (k22_4.symm.trans h.1) (by decide)), if_neg (fun h => absurd (k22_4.symm.trans h) (by decide)), if_neg (fun h => absurd (k22_4.symm.trans h) (by decide)), if_neg (fun h => absurd (k22_4.symm.trans h) (by decide)), if_neg (fun h => absurd (k22_4.symm.trans h) (by decide)), if_neg (fun h => absurd (k22_4.symm.trans h) (by decide)), if_neg (fun h => absurd (k22_4.symm.trans h) (by decide)), if_neg (fun h => absurd (k22_4.symm.trans h) (by decide)), if_neg (fun h => absurd (k22_4.symm.trans h) (by decide)), if_neg (fun h => absurd (k22_4.symm.trans h) (by decide)), if_neg (fun h => absurd (k22_4.symm.trans h) (by decide)), if_neg (fun h => absurd (k22_4.symm.trans h) (by decide))]
  rw [if_pos k22_4]
  rw [show bfld n 16 6 = x0 from bfld_digit e16]
  rw [show bfld n 10 6 = x1 from bfld_digit e10]
  rw [show bfld n 3 7 = x2 from bfld_digit e3]
  rw [show bfld n 0 3 = x3 from bfld_digit e0]

/-- Its word and back. -/
theorem RoundTrip.redOrd (x0 : BitVec 4) (x1 : BitVec 6) (x2 : BitVec 6) (x3 : BitVec 7) : RoundTrip.Statement (.redOrd x0 x1 x2 x3) := by
  intro n hw hn
  have e0 : n / 2 ^ 0 = ((((48 * 2 ^ 4 + x0.toNat) * 2 ^ 6 + x1.toNat) * 2 ^ 6 + x2.toNat) * 2 ^ 7 + x3.toNat) * 2 ^ 3 + 4 := by
    have hn := Option.some.inj hn
    rw [Nat.pow_zero, Nat.div_one]; omega
  have e3 := div_next e0 (by decide)
  have e10 := div_next e3 x3.isLt
  have e16 := div_next e10 x2.isLt
  have e22 := div_next e16 x1.isLt
  have e26 := div_next e22 x0.isLt
  have k0_3 : fld n 0 3 = 4 := fld_digit e0 (by decide)
  refine ⟨digits_lt e26 (by decide), decodeWord_of (shape_30 (fld_digit (p := 0) (e26.trans (by decide)) (by decide))) ?_ hw⟩
  unfold shape30
  rw [if_pos k0_3]
  rw [show bfld n 22 4 = x0 from bfld_digit e22]
  rw [show bfld n 16 6 = x1 from bfld_digit e16]
  rw [show bfld n 10 6 = x2 from bfld_digit e10]
  rw [show bfld n 3 7 = x3 from bfld_digit e3]

/-- Its word and back. -/
theorem RoundTrip.redCas64 (x0 : BitVec 4) (x1 : BitVec 6) (x2 : BitVec 7) (x3 : BitVec 3) : RoundTrip.Statement (.redCas64 x0 x1 x2 x3) := by
  intro n hw hn
  have e0 : n / 2 ^ 0 = (((((48 * 2 ^ 4 + 11) * 2 ^ 4 + x0.toNat) * 2 ^ 2 + 0) * 2 ^ 6 + x1.toNat) * 2 ^ 7 + x2.toNat) * 2 ^ 3 + x3.toNat := by
    have hn := Option.some.inj hn
    rw [Nat.pow_zero, Nat.div_one]; omega
  have e3 := div_next e0 x3.isLt
  have e10 := div_next e3 x2.isLt
  have e16 := div_next e10 x1.isLt
  have e18 := div_next e16 (by decide)
  have e22 := div_next e18 x0.isLt
  have e26 := div_next e22 (by decide)
  have k22_4 : fld n 22 4 = 11 := fld_digit e22 (by decide)
  have k16_2 : fld n 16 2 = 0 := fld_digit e16 (by decide)
  have hk : x3.toNat ≤ 3 := of_decide_eq_true (show decide (x3.toNat ≤ 3) = true from hw)
  refine ⟨digits_lt e26 (by decide), decodeWord_of (shape_30 (fld_digit (p := 0) (e26.trans (by decide)) (by decide))) ?_ hw⟩
  unfold shape30
  rw [if_neg (fun h => absurd ((fld_digit e0 x3.isLt).symm.trans h) (by omega))]
  rw [if_pos ⟨k22_4, k16_2⟩]
  rw [show bfld n 18 4 = x0 from bfld_digit e18]
  rw [show bfld n 10 6 = x1 from bfld_digit e10]
  rw [show bfld n 3 7 = x2 from bfld_digit e3]
  rw [show bfld n 0 3 = x3 from bfld_digit e0]

/-- Its word and back. -/
theorem RoundTrip.redCas (x0 : BitVec 5) (x1 : BitVec 6) (x2 : BitVec 7) (x3 : BitVec 3) : RoundTrip.Statement (.redCas x0 x1 x2 x3) := by
  intro n hw hn
  have e0 : n / 2 ^ 0 = (((((48 * 2 ^ 4 + 9) * 2 ^ 5 + x0.toNat) * 2 ^ 1 + 0) * 2 ^ 6 + x1.toNat) * 2 ^ 7 + x2.toNat) * 2 ^ 3 + x3.toNat := by
    have hn := Option.some.inj hn
    rw [Nat.pow_zero, Nat.div_one]; omega
  have e3 := div_next e0 x3.isLt
  have e10 := div_next e3 x2.isLt
  have e16 := div_next e10 x1.isLt
  have e17 := div_next e16 (by decide)
  have e22 := div_next e17 x0.isLt
  have e26 := div_next e22 (by decide)
  have k22_4 : fld n 22 4 = 9 := fld_digit e22 (by decide)
  have k16_1 : fld n 16 1 = 0 := fld_digit e16 (by decide)
  have hk : x3.toNat ≤ 3 := of_decide_eq_true (show decide (x3.toNat ≤ 3) = true from hw)
  refine ⟨digits_lt e26 (by decide), decodeWord_of (shape_30 (fld_digit (p := 0) (e26.trans (by decide)) (by decide))) ?_ hw⟩
  unfold shape30
  rw [if_neg (fun h => absurd ((fld_digit e0 x3.isLt).symm.trans h) (by omega)), if_neg (fun h => absurd (k22_4.symm.trans h.1) (by decide))]
  rw [if_pos ⟨k22_4, k16_1⟩]
  rw [show bfld n 17 5 = x0 from bfld_digit e17]
  rw [show bfld n 10 6 = x1 from bfld_digit e10]
  rw [show bfld n 3 7 = x2 from bfld_digit e3]
  rw [show bfld n 0 3 = x3 from bfld_digit e0]

/-- Its word and back. -/
theorem RoundTrip.redIadd64 (x0 : BitVec 5) (x1 : BitVec 6) (x2 : BitVec 7) (x3 : BitVec 3) : RoundTrip.Statement (.redIadd64 x0 x1 x2 x3) := by
  intro n hw hn
  have e0 : n / 2 ^ 0 = (((((48 * 2 ^ 4 + 10) * 2 ^ 5 + x0.toNat) * 2 ^ 1 + 0) * 2 ^ 6 + x1.toNat) * 2 ^ 7 + x2.toNat) * 2 ^ 3 + x3.toNat := by
    have hn := Option.some.inj hn
    rw [Nat.pow_zero, Nat.div_one]; omega
  have e3 := div_next e0 x3.isLt
  have e10 := div_next e3 x2.isLt
  have e16 := div_next e10 x1.isLt
  have e17 := div_next e16 (by decide)
  have e22 := div_next e17 x0.isLt
  have e26 := div_next e22 (by decide)
  have k22_4 : fld n 22 4 = 10 := fld_digit e22 (by decide)
  have k16_1 : fld n 16 1 = 0 := fld_digit e16 (by decide)
  have hk : x3.toNat ≤ 3 := of_decide_eq_true (show decide (x3.toNat ≤ 3) = true from hw)
  refine ⟨digits_lt e26 (by decide), decodeWord_of (shape_30 (fld_digit (p := 0) (e26.trans (by decide)) (by decide))) ?_ hw⟩
  unfold shape30
  rw [if_neg (fun h => absurd ((fld_digit e0 x3.isLt).symm.trans h) (by omega)), if_neg (fun h => absurd (k22_4.symm.trans h.1) (by decide)), if_neg (fun h => absurd (k22_4.symm.trans h.1) (by decide))]
  rw [if_pos ⟨k22_4, k16_1⟩]
  rw [show bfld n 17 5 = x0 from bfld_digit e17]
  rw [show bfld n 10 6 = x1 from bfld_digit e10]
  rw [show bfld n 3 7 = x2 from bfld_digit e3]
  rw [show bfld n 0 3 = x3 from bfld_digit e0]

/-- Its word and back. -/
theorem RoundTrip.redIadd (x0 : BitVec 6) (x1 : BitVec 6) (x2 : BitVec 7) (x3 : BitVec 3) : RoundTrip.Statement (.redIadd x0 x1 x2 x3) := by
  intro n hw hn
  have e0 : n / 2 ^ 0 = ((((48 * 2 ^ 4 + 0) * 2 ^ 6 + x0.toNat) * 2 ^ 6 + x1.toNat) * 2 ^ 7 + x2.toNat) * 2 ^ 3 + x3.toNat := by
    have hn := Option.some.inj hn
    rw [Nat.pow_zero, Nat.div_one]; omega
  have e3 := div_next e0 x3.isLt
  have e10 := div_next e3 x2.isLt
  have e16 := div_next e10 x1.isLt
  have e22 := div_next e16 x0.isLt
  have e26 := div_next e22 (by decide)
  have k22_4 : fld n 22 4 = 0 := fld_digit e22 (by decide)
  have hk : x3.toNat ≤ 3 := of_decide_eq_true (show decide (x3.toNat ≤ 3) = true from hw)
  refine ⟨digits_lt e26 (by decide), decodeWord_of (shape_30 (fld_digit (p := 0) (e26.trans (by decide)) (by decide))) ?_ hw⟩
  unfold shape30
  rw [if_neg (fun h => absurd ((fld_digit e0 x3.isLt).symm.trans h) (by omega)), if_neg (fun h => absurd (k22_4.symm.trans h.1) (by decide)), if_neg (fun h => absurd (k22_4.symm.trans h.1) (by decide)), if_neg (fun h => absurd (k22_4.symm.trans h.1) (by decide))]
  rw [if_pos k22_4]
  rw [show bfld n 16 6 = x0 from bfld_digit e16]
  rw [show bfld n 10 6 = x1 from bfld_digit e10]
  rw [show bfld n 3 7 = x2 from bfld_digit e3]
  rw [show bfld n 0 3 = x3 from bfld_digit e0]

/-- Its word and back. -/
theorem RoundTrip.redIminS (x0 : BitVec 6) (x1 : BitVec 6) (x2 : BitVec 7) (x3 : BitVec 3) : RoundTrip.Statement (.redIminS x0 x1 x2 x3) := by
  intro n hw hn
  have e0 : n / 2 ^ 0 = ((((48 * 2 ^ 4 + 1) * 2 ^ 6 + x0.toNat) * 2 ^ 6 + x1.toNat) * 2 ^ 7 + x2.toNat) * 2 ^ 3 + x3.toNat := by
    have hn := Option.some.inj hn
    rw [Nat.pow_zero, Nat.div_one]; omega
  have e3 := div_next e0 x3.isLt
  have e10 := div_next e3 x2.isLt
  have e16 := div_next e10 x1.isLt
  have e22 := div_next e16 x0.isLt
  have e26 := div_next e22 (by decide)
  have k22_4 : fld n 22 4 = 1 := fld_digit e22 (by decide)
  have hk : x3.toNat ≤ 3 := of_decide_eq_true (show decide (x3.toNat ≤ 3) = true from hw)
  refine ⟨digits_lt e26 (by decide), decodeWord_of (shape_30 (fld_digit (p := 0) (e26.trans (by decide)) (by decide))) ?_ hw⟩
  unfold shape30
  rw [if_neg (fun h => absurd ((fld_digit e0 x3.isLt).symm.trans h) (by omega)), if_neg (fun h => absurd (k22_4.symm.trans h.1) (by decide)), if_neg (fun h => absurd (k22_4.symm.trans h.1) (by decide)), if_neg (fun h => absurd (k22_4.symm.trans h.1) (by decide)), if_neg (fun h => absurd (k22_4.symm.trans h) (by decide))]
  rw [if_pos k22_4]
  rw [show bfld n 16 6 = x0 from bfld_digit e16]
  rw [show bfld n 10 6 = x1 from bfld_digit e10]
  rw [show bfld n 3 7 = x2 from bfld_digit e3]
  rw [show bfld n 0 3 = x3 from bfld_digit e0]

/-- Its word and back. -/
theorem RoundTrip.redIminN (x0 : BitVec 6) (x1 : BitVec 6) (x2 : BitVec 7) (x3 : BitVec 3) : RoundTrip.Statement (.redIminN x0 x1 x2 x3) := by
  intro n hw hn
  have e0 : n / 2 ^ 0 = ((((48 * 2 ^ 4 + 2) * 2 ^ 6 + x0.toNat) * 2 ^ 6 + x1.toNat) * 2 ^ 7 + x2.toNat) * 2 ^ 3 + x3.toNat := by
    have hn := Option.some.inj hn
    rw [Nat.pow_zero, Nat.div_one]; omega
  have e3 := div_next e0 x3.isLt
  have e10 := div_next e3 x2.isLt
  have e16 := div_next e10 x1.isLt
  have e22 := div_next e16 x0.isLt
  have e26 := div_next e22 (by decide)
  have k22_4 : fld n 22 4 = 2 := fld_digit e22 (by decide)
  have hk : x3.toNat ≤ 3 := of_decide_eq_true (show decide (x3.toNat ≤ 3) = true from hw)
  refine ⟨digits_lt e26 (by decide), decodeWord_of (shape_30 (fld_digit (p := 0) (e26.trans (by decide)) (by decide))) ?_ hw⟩
  unfold shape30
  rw [if_neg (fun h => absurd ((fld_digit e0 x3.isLt).symm.trans h) (by omega)), if_neg (fun h => absurd (k22_4.symm.trans h.1) (by decide)), if_neg (fun h => absurd (k22_4.symm.trans h.1) (by decide)), if_neg (fun h => absurd (k22_4.symm.trans h.1) (by decide)), if_neg (fun h => absurd (k22_4.symm.trans h) (by decide)), if_neg (fun h => absurd (k22_4.symm.trans h) (by decide))]
  rw [if_pos k22_4]
  rw [show bfld n 16 6 = x0 from bfld_digit e16]
  rw [show bfld n 10 6 = x1 from bfld_digit e10]
  rw [show bfld n 3 7 = x2 from bfld_digit e3]
  rw [show bfld n 0 3 = x3 from bfld_digit e0]

/-- Its word and back. -/
theorem RoundTrip.redImaxS (x0 : BitVec 6) (x1 : BitVec 6) (x2 : BitVec 7) (x3 : BitVec 3) : RoundTrip.Statement (.redImaxS x0 x1 x2 x3) := by
  intro n hw hn
  have e0 : n / 2 ^ 0 = ((((48 * 2 ^ 4 + 3) * 2 ^ 6 + x0.toNat) * 2 ^ 6 + x1.toNat) * 2 ^ 7 + x2.toNat) * 2 ^ 3 + x3.toNat := by
    have hn := Option.some.inj hn
    rw [Nat.pow_zero, Nat.div_one]; omega
  have e3 := div_next e0 x3.isLt
  have e10 := div_next e3 x2.isLt
  have e16 := div_next e10 x1.isLt
  have e22 := div_next e16 x0.isLt
  have e26 := div_next e22 (by decide)
  have k22_4 : fld n 22 4 = 3 := fld_digit e22 (by decide)
  have hk : x3.toNat ≤ 3 := of_decide_eq_true (show decide (x3.toNat ≤ 3) = true from hw)
  refine ⟨digits_lt e26 (by decide), decodeWord_of (shape_30 (fld_digit (p := 0) (e26.trans (by decide)) (by decide))) ?_ hw⟩
  unfold shape30
  rw [if_neg (fun h => absurd ((fld_digit e0 x3.isLt).symm.trans h) (by omega)), if_neg (fun h => absurd (k22_4.symm.trans h.1) (by decide)), if_neg (fun h => absurd (k22_4.symm.trans h.1) (by decide)), if_neg (fun h => absurd (k22_4.symm.trans h.1) (by decide)), if_neg (fun h => absurd (k22_4.symm.trans h) (by decide)), if_neg (fun h => absurd (k22_4.symm.trans h) (by decide)), if_neg (fun h => absurd (k22_4.symm.trans h) (by decide))]
  rw [if_pos k22_4]
  rw [show bfld n 16 6 = x0 from bfld_digit e16]
  rw [show bfld n 10 6 = x1 from bfld_digit e10]
  rw [show bfld n 3 7 = x2 from bfld_digit e3]
  rw [show bfld n 0 3 = x3 from bfld_digit e0]

/-- Its word and back. -/
theorem RoundTrip.redImaxN (x0 : BitVec 6) (x1 : BitVec 6) (x2 : BitVec 7) (x3 : BitVec 3) : RoundTrip.Statement (.redImaxN x0 x1 x2 x3) := by
  intro n hw hn
  have e0 : n / 2 ^ 0 = ((((48 * 2 ^ 4 + 4) * 2 ^ 6 + x0.toNat) * 2 ^ 6 + x1.toNat) * 2 ^ 7 + x2.toNat) * 2 ^ 3 + x3.toNat := by
    have hn := Option.some.inj hn
    rw [Nat.pow_zero, Nat.div_one]; omega
  have e3 := div_next e0 x3.isLt
  have e10 := div_next e3 x2.isLt
  have e16 := div_next e10 x1.isLt
  have e22 := div_next e16 x0.isLt
  have e26 := div_next e22 (by decide)
  have k22_4 : fld n 22 4 = 4 := fld_digit e22 (by decide)
  have hk : x3.toNat ≤ 3 := of_decide_eq_true (show decide (x3.toNat ≤ 3) = true from hw)
  refine ⟨digits_lt e26 (by decide), decodeWord_of (shape_30 (fld_digit (p := 0) (e26.trans (by decide)) (by decide))) ?_ hw⟩
  unfold shape30
  rw [if_neg (fun h => absurd ((fld_digit e0 x3.isLt).symm.trans h) (by omega)), if_neg (fun h => absurd (k22_4.symm.trans h.1) (by decide)), if_neg (fun h => absurd (k22_4.symm.trans h.1) (by decide)), if_neg (fun h => absurd (k22_4.symm.trans h.1) (by decide)), if_neg (fun h => absurd (k22_4.symm.trans h) (by decide)), if_neg (fun h => absurd (k22_4.symm.trans h) (by decide)), if_neg (fun h => absurd (k22_4.symm.trans h) (by decide)), if_neg (fun h => absurd (k22_4.symm.trans h) (by decide))]
  rw [if_pos k22_4]
  rw [show bfld n 16 6 = x0 from bfld_digit e16]
  rw [show bfld n 10 6 = x1 from bfld_digit e10]
  rw [show bfld n 3 7 = x2 from bfld_digit e3]
  rw [show bfld n 0 3 = x3 from bfld_digit e0]

/-- Its word and back. -/
theorem RoundTrip.redAnd (x0 : BitVec 6) (x1 : BitVec 6) (x2 : BitVec 7) (x3 : BitVec 3) : RoundTrip.Statement (.redAnd x0 x1 x2 x3) := by
  intro n hw hn
  have e0 : n / 2 ^ 0 = ((((48 * 2 ^ 4 + 5) * 2 ^ 6 + x0.toNat) * 2 ^ 6 + x1.toNat) * 2 ^ 7 + x2.toNat) * 2 ^ 3 + x3.toNat := by
    have hn := Option.some.inj hn
    rw [Nat.pow_zero, Nat.div_one]; omega
  have e3 := div_next e0 x3.isLt
  have e10 := div_next e3 x2.isLt
  have e16 := div_next e10 x1.isLt
  have e22 := div_next e16 x0.isLt
  have e26 := div_next e22 (by decide)
  have k22_4 : fld n 22 4 = 5 := fld_digit e22 (by decide)
  have hk : x3.toNat ≤ 3 := of_decide_eq_true (show decide (x3.toNat ≤ 3) = true from hw)
  refine ⟨digits_lt e26 (by decide), decodeWord_of (shape_30 (fld_digit (p := 0) (e26.trans (by decide)) (by decide))) ?_ hw⟩
  unfold shape30
  rw [if_neg (fun h => absurd ((fld_digit e0 x3.isLt).symm.trans h) (by omega)), if_neg (fun h => absurd (k22_4.symm.trans h.1) (by decide)), if_neg (fun h => absurd (k22_4.symm.trans h.1) (by decide)), if_neg (fun h => absurd (k22_4.symm.trans h.1) (by decide)), if_neg (fun h => absurd (k22_4.symm.trans h) (by decide)), if_neg (fun h => absurd (k22_4.symm.trans h) (by decide)), if_neg (fun h => absurd (k22_4.symm.trans h) (by decide)), if_neg (fun h => absurd (k22_4.symm.trans h) (by decide)), if_neg (fun h => absurd (k22_4.symm.trans h) (by decide))]
  rw [if_pos k22_4]
  rw [show bfld n 16 6 = x0 from bfld_digit e16]
  rw [show bfld n 10 6 = x1 from bfld_digit e10]
  rw [show bfld n 3 7 = x2 from bfld_digit e3]
  rw [show bfld n 0 3 = x3 from bfld_digit e0]

/-- Its word and back. -/
theorem RoundTrip.redOr (x0 : BitVec 6) (x1 : BitVec 6) (x2 : BitVec 7) (x3 : BitVec 3) : RoundTrip.Statement (.redOr x0 x1 x2 x3) := by
  intro n hw hn
  have e0 : n / 2 ^ 0 = ((((48 * 2 ^ 4 + 6) * 2 ^ 6 + x0.toNat) * 2 ^ 6 + x1.toNat) * 2 ^ 7 + x2.toNat) * 2 ^ 3 + x3.toNat := by
    have hn := Option.some.inj hn
    rw [Nat.pow_zero, Nat.div_one]; omega
  have e3 := div_next e0 x3.isLt
  have e10 := div_next e3 x2.isLt
  have e16 := div_next e10 x1.isLt
  have e22 := div_next e16 x0.isLt
  have e26 := div_next e22 (by decide)
  have k22_4 : fld n 22 4 = 6 := fld_digit e22 (by decide)
  have hk : x3.toNat ≤ 3 := of_decide_eq_true (show decide (x3.toNat ≤ 3) = true from hw)
  refine ⟨digits_lt e26 (by decide), decodeWord_of (shape_30 (fld_digit (p := 0) (e26.trans (by decide)) (by decide))) ?_ hw⟩
  unfold shape30
  rw [if_neg (fun h => absurd ((fld_digit e0 x3.isLt).symm.trans h) (by omega)), if_neg (fun h => absurd (k22_4.symm.trans h.1) (by decide)), if_neg (fun h => absurd (k22_4.symm.trans h.1) (by decide)), if_neg (fun h => absurd (k22_4.symm.trans h.1) (by decide)), if_neg (fun h => absurd (k22_4.symm.trans h) (by decide)), if_neg (fun h => absurd (k22_4.symm.trans h) (by decide)), if_neg (fun h => absurd (k22_4.symm.trans h) (by decide)), if_neg (fun h => absurd (k22_4.symm.trans h) (by decide)), if_neg (fun h => absurd (k22_4.symm.trans h) (by decide)), if_neg (fun h => absurd (k22_4.symm.trans h) (by decide))]
  rw [if_pos k22_4]
  rw [show bfld n 16 6 = x0 from bfld_digit e16]
  rw [show bfld n 10 6 = x1 from bfld_digit e10]
  rw [show bfld n 3 7 = x2 from bfld_digit e3]
  rw [show bfld n 0 3 = x3 from bfld_digit e0]

/-- Its word and back. -/
theorem RoundTrip.redXor (x0 : BitVec 6) (x1 : BitVec 6) (x2 : BitVec 7) (x3 : BitVec 3) : RoundTrip.Statement (.redXor x0 x1 x2 x3) := by
  intro n hw hn
  have e0 : n / 2 ^ 0 = ((((48 * 2 ^ 4 + 7) * 2 ^ 6 + x0.toNat) * 2 ^ 6 + x1.toNat) * 2 ^ 7 + x2.toNat) * 2 ^ 3 + x3.toNat := by
    have hn := Option.some.inj hn
    rw [Nat.pow_zero, Nat.div_one]; omega
  have e3 := div_next e0 x3.isLt
  have e10 := div_next e3 x2.isLt
  have e16 := div_next e10 x1.isLt
  have e22 := div_next e16 x0.isLt
  have e26 := div_next e22 (by decide)
  have k22_4 : fld n 22 4 = 7 := fld_digit e22 (by decide)
  have hk : x3.toNat ≤ 3 := of_decide_eq_true (show decide (x3.toNat ≤ 3) = true from hw)
  refine ⟨digits_lt e26 (by decide), decodeWord_of (shape_30 (fld_digit (p := 0) (e26.trans (by decide)) (by decide))) ?_ hw⟩
  unfold shape30
  rw [if_neg (fun h => absurd ((fld_digit e0 x3.isLt).symm.trans h) (by omega)), if_neg (fun h => absurd (k22_4.symm.trans h.1) (by decide)), if_neg (fun h => absurd (k22_4.symm.trans h.1) (by decide)), if_neg (fun h => absurd (k22_4.symm.trans h.1) (by decide)), if_neg (fun h => absurd (k22_4.symm.trans h) (by decide)), if_neg (fun h => absurd (k22_4.symm.trans h) (by decide)), if_neg (fun h => absurd (k22_4.symm.trans h) (by decide)), if_neg (fun h => absurd (k22_4.symm.trans h) (by decide)), if_neg (fun h => absurd (k22_4.symm.trans h) (by decide)), if_neg (fun h => absurd (k22_4.symm.trans h) (by decide)), if_neg (fun h => absurd (k22_4.symm.trans h) (by decide))]
  rw [if_pos k22_4]
  rw [show bfld n 16 6 = x0 from bfld_digit e16]
  rw [show bfld n 10 6 = x1 from bfld_digit e10]
  rw [show bfld n 3 7 = x2 from bfld_digit e3]
  rw [show bfld n 0 3 = x3 from bfld_digit e0]

/-- Its word and back. -/
theorem RoundTrip.redExch (x0 : BitVec 6) (x1 : BitVec 6) (x2 : BitVec 7) (x3 : BitVec 3) : RoundTrip.Statement (.redExch x0 x1 x2 x3) := by
  intro n hw hn
  have e0 : n / 2 ^ 0 = ((((48 * 2 ^ 4 + 8) * 2 ^ 6 + x0.toNat) * 2 ^ 6 + x1.toNat) * 2 ^ 7 + x2.toNat) * 2 ^ 3 + x3.toNat := by
    have hn := Option.some.inj hn
    rw [Nat.pow_zero, Nat.div_one]; omega
  have e3 := div_next e0 x3.isLt
  have e10 := div_next e3 x2.isLt
  have e16 := div_next e10 x1.isLt
  have e22 := div_next e16 x0.isLt
  have e26 := div_next e22 (by decide)
  have k22_4 : fld n 22 4 = 8 := fld_digit e22 (by decide)
  have hk : x3.toNat ≤ 3 := of_decide_eq_true (show decide (x3.toNat ≤ 3) = true from hw)
  refine ⟨digits_lt e26 (by decide), decodeWord_of (shape_30 (fld_digit (p := 0) (e26.trans (by decide)) (by decide))) ?_ hw⟩
  unfold shape30
  rw [if_neg (fun h => absurd ((fld_digit e0 x3.isLt).symm.trans h) (by omega)), if_neg (fun h => absurd (k22_4.symm.trans h.1) (by decide)), if_neg (fun h => absurd (k22_4.symm.trans h.1) (by decide)), if_neg (fun h => absurd (k22_4.symm.trans h.1) (by decide)), if_neg (fun h => absurd (k22_4.symm.trans h) (by decide)), if_neg (fun h => absurd (k22_4.symm.trans h) (by decide)), if_neg (fun h => absurd (k22_4.symm.trans h) (by decide)), if_neg (fun h => absurd (k22_4.symm.trans h) (by decide)), if_neg (fun h => absurd (k22_4.symm.trans h) (by decide)), if_neg (fun h => absurd (k22_4.symm.trans h) (by decide)), if_neg (fun h => absurd (k22_4.symm.trans h) (by decide)), if_neg (fun h => absurd (k22_4.symm.trans h) (by decide))]
  rw [if_pos k22_4]
  rw [show bfld n 16 6 = x0 from bfld_digit e16]
  rw [show bfld n 10 6 = x1 from bfld_digit e10]
  rw [show bfld n 3 7 = x2 from bfld_digit e3]
  rw [show bfld n 0 3 = x3 from bfld_digit e0]

/-- Its word and back. -/
theorem RoundTrip.redFadd (x0 : BitVec 6) (x1 : BitVec 6) (x2 : BitVec 7) (x3 : BitVec 3) : RoundTrip.Statement (.redFadd x0 x1 x2 x3) := by
  intro n hw hn
  have e0 : n / 2 ^ 0 = ((((48 * 2 ^ 4 + 12) * 2 ^ 6 + x0.toNat) * 2 ^ 6 + x1.toNat) * 2 ^ 7 + x2.toNat) * 2 ^ 3 + x3.toNat := by
    have hn := Option.some.inj hn
    rw [Nat.pow_zero, Nat.div_one]; omega
  have e3 := div_next e0 x3.isLt
  have e10 := div_next e3 x2.isLt
  have e16 := div_next e10 x1.isLt
  have e22 := div_next e16 x0.isLt
  have e26 := div_next e22 (by decide)
  have k22_4 : fld n 22 4 = 12 := fld_digit e22 (by decide)
  have hk : x3.toNat ≤ 3 := of_decide_eq_true (show decide (x3.toNat ≤ 3) = true from hw)
  refine ⟨digits_lt e26 (by decide), decodeWord_of (shape_30 (fld_digit (p := 0) (e26.trans (by decide)) (by decide))) ?_ hw⟩
  unfold shape30
  rw [if_neg (fun h => absurd ((fld_digit e0 x3.isLt).symm.trans h) (by omega)), if_neg (fun h => absurd (k22_4.symm.trans h.1) (by decide)), if_neg (fun h => absurd (k22_4.symm.trans h.1) (by decide)), if_neg (fun h => absurd (k22_4.symm.trans h.1) (by decide)), if_neg (fun h => absurd (k22_4.symm.trans h) (by decide)), if_neg (fun h => absurd (k22_4.symm.trans h) (by decide)), if_neg (fun h => absurd (k22_4.symm.trans h) (by decide)), if_neg (fun h => absurd (k22_4.symm.trans h) (by decide)), if_neg (fun h => absurd (k22_4.symm.trans h) (by decide)), if_neg (fun h => absurd (k22_4.symm.trans h) (by decide)), if_neg (fun h => absurd (k22_4.symm.trans h) (by decide)), if_neg (fun h => absurd (k22_4.symm.trans h) (by decide)), if_neg (fun h => absurd (k22_4.symm.trans h) (by decide))]
  rw [if_pos k22_4]
  rw [show bfld n 16 6 = x0 from bfld_digit e16]
  rw [show bfld n 10 6 = x1 from bfld_digit e10]
  rw [show bfld n 3 7 = x2 from bfld_digit e3]
  rw [show bfld n 0 3 = x3 from bfld_digit e0]

/-- Its word and back. -/
theorem RoundTrip.redFmin (x0 : BitVec 6) (x1 : BitVec 6) (x2 : BitVec 7) (x3 : BitVec 3) : RoundTrip.Statement (.redFmin x0 x1 x2 x3) := by
  intro n hw hn
  have e0 : n / 2 ^ 0 = ((((48 * 2 ^ 4 + 13) * 2 ^ 6 + x0.toNat) * 2 ^ 6 + x1.toNat) * 2 ^ 7 + x2.toNat) * 2 ^ 3 + x3.toNat := by
    have hn := Option.some.inj hn
    rw [Nat.pow_zero, Nat.div_one]; omega
  have e3 := div_next e0 x3.isLt
  have e10 := div_next e3 x2.isLt
  have e16 := div_next e10 x1.isLt
  have e22 := div_next e16 x0.isLt
  have e26 := div_next e22 (by decide)
  have k22_4 : fld n 22 4 = 13 := fld_digit e22 (by decide)
  have hk : x3.toNat ≤ 3 := of_decide_eq_true (show decide (x3.toNat ≤ 3) = true from hw)
  refine ⟨digits_lt e26 (by decide), decodeWord_of (shape_30 (fld_digit (p := 0) (e26.trans (by decide)) (by decide))) ?_ hw⟩
  unfold shape30
  rw [if_neg (fun h => absurd ((fld_digit e0 x3.isLt).symm.trans h) (by omega)), if_neg (fun h => absurd (k22_4.symm.trans h.1) (by decide)), if_neg (fun h => absurd (k22_4.symm.trans h.1) (by decide)), if_neg (fun h => absurd (k22_4.symm.trans h.1) (by decide)), if_neg (fun h => absurd (k22_4.symm.trans h) (by decide)), if_neg (fun h => absurd (k22_4.symm.trans h) (by decide)), if_neg (fun h => absurd (k22_4.symm.trans h) (by decide)), if_neg (fun h => absurd (k22_4.symm.trans h) (by decide)), if_neg (fun h => absurd (k22_4.symm.trans h) (by decide)), if_neg (fun h => absurd (k22_4.symm.trans h) (by decide)), if_neg (fun h => absurd (k22_4.symm.trans h) (by decide)), if_neg (fun h => absurd (k22_4.symm.trans h) (by decide)), if_neg (fun h => absurd (k22_4.symm.trans h) (by decide)), if_neg (fun h => absurd (k22_4.symm.trans h) (by decide))]
  rw [if_pos k22_4]
  rw [show bfld n 16 6 = x0 from bfld_digit e16]
  rw [show bfld n 10 6 = x1 from bfld_digit e10]
  rw [show bfld n 3 7 = x2 from bfld_digit e3]
  rw [show bfld n 0 3 = x3 from bfld_digit e0]

/-- Its word and back. -/
theorem RoundTrip.redFmax (x0 : BitVec 6) (x1 : BitVec 6) (x2 : BitVec 7) (x3 : BitVec 3) : RoundTrip.Statement (.redFmax x0 x1 x2 x3) := by
  intro n hw hn
  have e0 : n / 2 ^ 0 = ((((48 * 2 ^ 4 + 14) * 2 ^ 6 + x0.toNat) * 2 ^ 6 + x1.toNat) * 2 ^ 7 + x2.toNat) * 2 ^ 3 + x3.toNat := by
    have hn := Option.some.inj hn
    rw [Nat.pow_zero, Nat.div_one]; omega
  have e3 := div_next e0 x3.isLt
  have e10 := div_next e3 x2.isLt
  have e16 := div_next e10 x1.isLt
  have e22 := div_next e16 x0.isLt
  have e26 := div_next e22 (by decide)
  have k22_4 : fld n 22 4 = 14 := fld_digit e22 (by decide)
  have hk : x3.toNat ≤ 3 := of_decide_eq_true (show decide (x3.toNat ≤ 3) = true from hw)
  refine ⟨digits_lt e26 (by decide), decodeWord_of (shape_30 (fld_digit (p := 0) (e26.trans (by decide)) (by decide))) ?_ hw⟩
  unfold shape30
  rw [if_neg (fun h => absurd ((fld_digit e0 x3.isLt).symm.trans h) (by omega)), if_neg (fun h => absurd (k22_4.symm.trans h.1) (by decide)), if_neg (fun h => absurd (k22_4.symm.trans h.1) (by decide)), if_neg (fun h => absurd (k22_4.symm.trans h.1) (by decide)), if_neg (fun h => absurd (k22_4.symm.trans h) (by decide)), if_neg (fun h => absurd (k22_4.symm.trans h) (by decide)), if_neg (fun h => absurd (k22_4.symm.trans h) (by decide)), if_neg (fun h => absurd (k22_4.symm.trans h) (by decide)), if_neg (fun h => absurd (k22_4.symm.trans h) (by decide)), if_neg (fun h => absurd (k22_4.symm.trans h) (by decide)), if_neg (fun h => absurd (k22_4.symm.trans h) (by decide)), if_neg (fun h => absurd (k22_4.symm.trans h) (by decide)), if_neg (fun h => absurd (k22_4.symm.trans h) (by decide)), if_neg (fun h => absurd (k22_4.symm.trans h) (by decide)), if_neg (fun h => absurd (k22_4.symm.trans h) (by decide))]
  rw [if_pos k22_4]
  rw [show bfld n 16 6 = x0 from bfld_digit e16]
  rw [show bfld n 10 6 = x1 from bfld_digit e10]
  rw [show bfld n 3 7 = x2 from bfld_digit e3]
  rw [show bfld n 0 3 = x3 from bfld_digit e0]

/-- Its word and back. -/
theorem RoundTrip.fencePkg : RoundTrip.Statement .fencePkg := by
  intro n hw hn
  have e0 : n / 2 ^ 0 = 49 * 2 ^ 26 + 16777216 := by
    have hn := Option.some.inj hn
    rw [Nat.pow_zero, Nat.div_one]; omega
  have e26 := div_next e0 (by decide)
  have k0_26 : fld n 0 26 = 16777216 := fld_digit e0 (by decide)
  refine ⟨digits_lt e26 (by decide), decodeWord_of (shape_31 (fld_digit (p := 0) (e26.trans (by decide)) (by decide))) ?_ hw⟩
  unfold shape31
  rw [if_pos k0_26]

/-- Its word and back. -/
theorem RoundTrip.fenceRel (x0 : BitVec 3) : RoundTrip.Statement (.fenceRel x0) := by
  intro n hw hn
  have e0 : n / 2 ^ 0 = ((49 * 2 ^ 4 + 0) * 2 ^ 3 + x0.toNat) * 2 ^ 19 + 0 := by
    have hn := Option.some.inj hn
    rw [Nat.pow_zero, Nat.div_one]; omega
  have e19 := div_next e0 (by decide)
  have e22 := div_next e19 x0.isLt
  have e26 := div_next e22 (by decide)
  have k22_4 : fld n 22 4 = 0 := fld_digit e22 (by decide)
  have k0_19 : fld n 0 19 = 0 := fld_digit e0 (by decide)
  have hx0 := x0.isLt
  have hn := Option.some.inj hn
  refine ⟨digits_lt e26 (by decide), decodeWord_of (shape_31 (fld_digit (p := 0) (e26.trans (by decide)) (by decide))) ?_ hw⟩
  unfold shape31
  rw [if_neg (by unfold fld; omega)]
  rw [if_pos ⟨k22_4, k0_19⟩]
  rw [show bfld n 19 3 = x0 from bfld_digit e19]

/-- Its word and back. -/
theorem RoundTrip.fenceAcq (x0 : BitVec 3) : RoundTrip.Statement (.fenceAcq x0) := by
  intro n hw hn
  have e0 : n / 2 ^ 0 = ((49 * 2 ^ 4 + 1) * 2 ^ 3 + x0.toNat) * 2 ^ 19 + 0 := by
    have hn := Option.some.inj hn
    rw [Nat.pow_zero, Nat.div_one]; omega
  have e19 := div_next e0 (by decide)
  have e22 := div_next e19 x0.isLt
  have e26 := div_next e22 (by decide)
  have k22_4 : fld n 22 4 = 1 := fld_digit e22 (by decide)
  have k0_19 : fld n 0 19 = 0 := fld_digit e0 (by decide)
  have hx0 := x0.isLt
  have hn := Option.some.inj hn
  refine ⟨digits_lt e26 (by decide), decodeWord_of (shape_31 (fld_digit (p := 0) (e26.trans (by decide)) (by decide))) ?_ hw⟩
  unfold shape31
  rw [if_neg (by unfold fld; omega), if_neg (fun h => absurd (k22_4.symm.trans h.1) (by decide))]
  rw [if_pos ⟨k22_4, k0_19⟩]
  rw [show bfld n 19 3 = x0 from bfld_digit e19]

/-- Its word and back. -/
theorem RoundTrip.fenceAr (x0 : BitVec 3) : RoundTrip.Statement (.fenceAr x0) := by
  intro n hw hn
  have e0 : n / 2 ^ 0 = ((49 * 2 ^ 4 + 2) * 2 ^ 3 + x0.toNat) * 2 ^ 19 + 0 := by
    have hn := Option.some.inj hn
    rw [Nat.pow_zero, Nat.div_one]; omega
  have e19 := div_next e0 (by decide)
  have e22 := div_next e19 x0.isLt
  have e26 := div_next e22 (by decide)
  have k22_4 : fld n 22 4 = 2 := fld_digit e22 (by decide)
  have k0_19 : fld n 0 19 = 0 := fld_digit e0 (by decide)
  have hx0 := x0.isLt
  have hn := Option.some.inj hn
  refine ⟨digits_lt e26 (by decide), decodeWord_of (shape_31 (fld_digit (p := 0) (e26.trans (by decide)) (by decide))) ?_ hw⟩
  unfold shape31
  rw [if_neg (by unfold fld; omega), if_neg (fun h => absurd (k22_4.symm.trans h.1) (by decide)), if_neg (fun h => absurd (k22_4.symm.trans h.1) (by decide))]
  rw [if_pos ⟨k22_4, k0_19⟩]
  rw [show bfld n 19 3 = x0 from bfld_digit e19]

/-- Its word and back. -/
theorem RoundTrip.fenceSc (x0 : BitVec 3) : RoundTrip.Statement (.fenceSc x0) := by
  intro n hw hn
  have e0 : n / 2 ^ 0 = ((49 * 2 ^ 4 + 3) * 2 ^ 3 + x0.toNat) * 2 ^ 19 + 0 := by
    have hn := Option.some.inj hn
    rw [Nat.pow_zero, Nat.div_one]; omega
  have e19 := div_next e0 (by decide)
  have e22 := div_next e19 x0.isLt
  have e26 := div_next e22 (by decide)
  have k22_4 : fld n 22 4 = 3 := fld_digit e22 (by decide)
  have k0_19 : fld n 0 19 = 0 := fld_digit e0 (by decide)
  have hx0 := x0.isLt
  have hn := Option.some.inj hn
  refine ⟨digits_lt e26 (by decide), decodeWord_of (shape_31 (fld_digit (p := 0) (e26.trans (by decide)) (by decide))) ?_ hw⟩
  unfold shape31
  rw [if_neg (by unfold fld; omega), if_neg (fun h => absurd (k22_4.symm.trans h.1) (by decide)), if_neg (fun h => absurd (k22_4.symm.trans h.1) (by decide)), if_neg (fun h => absurd (k22_4.symm.trans h.1) (by decide))]
  rw [if_pos ⟨k22_4, k0_19⟩]
  rw [show bfld n 19 3 = x0 from bfld_digit e19]

/-- Its word and back. -/
theorem RoundTrip.waita (x0 : BitVec 4) (x1 : BitVec 7) (x2 : BitVec 8) (x3 : BitVec 3) (x4 : BitVec 3) : RoundTrip.Statement (.waita x0 x1 x2 x3 x4) := by
  intro n hw hn
  have e0 : n / 2 ^ 0 = (((((50 * 2 ^ 4 + x0.toNat) * 2 ^ 7 + x1.toNat) * 2 ^ 1 + 0) * 2 ^ 8 + x2.toNat) * 2 ^ 3 + x3.toNat) * 2 ^ 3 + x4.toNat := by
    have hn := Option.some.inj hn
    rw [Nat.pow_zero, Nat.div_one]; omega
  have e3 := div_next e0 x4.isLt
  have e6 := div_next e3 x3.isLt
  have e14 := div_next e6 x2.isLt
  have e15 := div_next e14 (by decide)
  have e22 := div_next e15 x1.isLt
  have e26 := div_next e22 x0.isLt
  have k14_1 : fld n 14 1 = 0 := fld_digit e14 (by decide)
  refine ⟨digits_lt e26 (by decide), decodeWord_of (shape_32 (fld_digit (p := 0) (e26.trans (by decide)) (by decide))) ?_ hw⟩
  unfold shape32
  rw [if_pos k14_1]
  rw [show bfld n 22 4 = x0 from bfld_digit e22]
  rw [show bfld n 15 7 = x1 from bfld_digit e15]
  rw [show bfld n 6 8 = x2 from bfld_digit e6]
  rw [show bfld n 3 3 = x3 from bfld_digit e3]
  rw [show bfld n 0 3 = x4 from bfld_digit e0]

/-- Its word and back. -/
theorem RoundTrip.lsync : RoundTrip.Statement .lsync := by
  intro n hw hn
  have e0 : n / 2 ^ 0 = 51 * 2 ^ 26 + 16777216 := by
    have hn := Option.some.inj hn
    rw [Nat.pow_zero, Nat.div_one]; omega
  have e26 := div_next e0 (by decide)
  have k0_26 : fld n 0 26 = 16777216 := fld_digit e0 (by decide)
  refine ⟨digits_lt e26 (by decide), decodeWord_of (shape_33 (fld_digit (p := 0) (e26.trans (by decide)) (by decide))) ?_ hw⟩
  unfold shape33
  rw [if_pos k0_26]

/-- Its word and back. -/
theorem RoundTrip.lld (x0 : BitVec 6) (x1 : BitVec 6) (x2 : BitVec 7) : RoundTrip.Statement (.lld x0 x1 x2) := by
  intro n hw hn
  have e0 : n / 2 ^ 0 = ((((51 * 2 ^ 4 + 2) * 2 ^ 6 + x0.toNat) * 2 ^ 6 + x1.toNat) * 2 ^ 7 + x2.toNat) * 2 ^ 3 + 0 := by
    have hn := Option.some.inj hn
    rw [Nat.pow_zero, Nat.div_one]; omega
  have e3 := div_next e0 (by decide)
  have e10 := div_next e3 x2.isLt
  have e16 := div_next e10 x1.isLt
  have e22 := div_next e16 x0.isLt
  have e26 := div_next e22 (by decide)
  have k22_4 : fld n 22 4 = 2 := fld_digit e22 (by decide)
  have k0_3 : fld n 0 3 = 0 := fld_digit e0 (by decide)
  have hx0 := x0.isLt
  have hx1 := x1.isLt
  have hx2 := x2.isLt
  have hn := Option.some.inj hn
  refine ⟨digits_lt e26 (by decide), decodeWord_of (shape_33 (fld_digit (p := 0) (e26.trans (by decide)) (by decide))) ?_ hw⟩
  unfold shape33
  rw [if_neg (by unfold fld; omega)]
  rw [if_pos ⟨k22_4, k0_3⟩]
  rw [show bfld n 16 6 = x0 from bfld_digit e16]
  rw [show bfld n 10 6 = x1 from bfld_digit e10]
  rw [show bfld n 3 7 = x2 from bfld_digit e3]

/-- Its word and back. -/
theorem RoundTrip.ljoin (x0 : BitVec 6) (x1 : BitVec 6) (x2 : BitVec 7) (x3 : BitVec 1) : RoundTrip.Statement (.ljoin x0 x1 x2 x3) := by
  intro n hw hn
  have e0 : n / 2 ^ 0 = (((((51 * 2 ^ 4 + 0) * 2 ^ 6 + x0.toNat) * 2 ^ 6 + x1.toNat) * 2 ^ 7 + x2.toNat) * 2 ^ 2 + 0) * 2 ^ 1 + x3.toNat := by
    have hn := Option.some.inj hn
    rw [Nat.pow_zero, Nat.div_one]; omega
  have e1 := div_next e0 x3.isLt
  have e3 := div_next e1 (by decide)
  have e10 := div_next e3 x2.isLt
  have e16 := div_next e10 x1.isLt
  have e22 := div_next e16 x0.isLt
  have e26 := div_next e22 (by decide)
  have k22_4 : fld n 22 4 = 0 := fld_digit e22 (by decide)
  have k1_2 : fld n 1 2 = 0 := fld_digit e1 (by decide)
  have hx0 := x0.isLt
  have hx1 := x1.isLt
  have hx2 := x2.isLt
  have hx3 := x3.isLt
  have hn := Option.some.inj hn
  refine ⟨digits_lt e26 (by decide), decodeWord_of (shape_33 (fld_digit (p := 0) (e26.trans (by decide)) (by decide))) ?_ hw⟩
  unfold shape33
  rw [if_neg (by unfold fld; omega), if_neg (fun h => absurd (k22_4.symm.trans h.1) (by decide))]
  rw [if_pos ⟨k22_4, k1_2⟩]
  rw [show bfld n 16 6 = x0 from bfld_digit e16]
  rw [show bfld n 10 6 = x1 from bfld_digit e10]
  rw [show bfld n 3 7 = x2 from bfld_digit e3]
  rw [show bfld n 0 1 = x3 from bfld_digit e0]

/-- Its word and back. -/
theorem RoundTrip.lstc (x0 : BitVec 6) (x1 : BitVec 6) (x2 : BitVec 7) (x3 : BitVec 1) : RoundTrip.Statement (.lstc x0 x1 x2 x3) := by
  intro n hw hn
  have e0 : n / 2 ^ 0 = (((((51 * 2 ^ 4 + 1) * 2 ^ 6 + x0.toNat) * 2 ^ 6 + x1.toNat) * 2 ^ 7 + x2.toNat) * 2 ^ 2 + 0) * 2 ^ 1 + x3.toNat := by
    have hn := Option.some.inj hn
    rw [Nat.pow_zero, Nat.div_one]; omega
  have e1 := div_next e0 x3.isLt
  have e3 := div_next e1 (by decide)
  have e10 := div_next e3 x2.isLt
  have e16 := div_next e10 x1.isLt
  have e22 := div_next e16 x0.isLt
  have e26 := div_next e22 (by decide)
  have k22_4 : fld n 22 4 = 1 := fld_digit e22 (by decide)
  have k1_2 : fld n 1 2 = 0 := fld_digit e1 (by decide)
  have hx0 := x0.isLt
  have hx1 := x1.isLt
  have hx2 := x2.isLt
  have hx3 := x3.isLt
  have hn := Option.some.inj hn
  refine ⟨digits_lt e26 (by decide), decodeWord_of (shape_33 (fld_digit (p := 0) (e26.trans (by decide)) (by decide))) ?_ hw⟩
  unfold shape33
  rw [if_neg (by unfold fld; omega), if_neg (fun h => absurd (k22_4.symm.trans h.1) (by decide)), if_neg (fun h => absurd (k22_4.symm.trans h.1) (by decide))]
  rw [if_pos ⟨k22_4, k1_2⟩]
  rw [show bfld n 16 6 = x0 from bfld_digit e16]
  rw [show bfld n 10 6 = x1 from bfld_digit e10]
  rw [show bfld n 3 7 = x2 from bfld_digit e3]
  rw [show bfld n 0 1 = x3 from bfld_digit e0]

/-- Its word and back. -/
theorem RoundTrip.lwait (x0 : BitVec 6) (x1 : BitVec 6) (x2 : BitVec 7) (x3 : BitVec 1) : RoundTrip.Statement (.lwait x0 x1 x2 x3) := by
  intro n hw hn
  have e0 : n / 2 ^ 0 = (((((51 * 2 ^ 4 + 3) * 2 ^ 6 + x0.toNat) * 2 ^ 6 + x1.toNat) * 2 ^ 7 + x2.toNat) * 2 ^ 2 + 0) * 2 ^ 1 + x3.toNat := by
    have hn := Option.some.inj hn
    rw [Nat.pow_zero, Nat.div_one]; omega
  have e1 := div_next e0 x3.isLt
  have e3 := div_next e1 (by decide)
  have e10 := div_next e3 x2.isLt
  have e16 := div_next e10 x1.isLt
  have e22 := div_next e16 x0.isLt
  have e26 := div_next e22 (by decide)
  have k22_4 : fld n 22 4 = 3 := fld_digit e22 (by decide)
  have k1_2 : fld n 1 2 = 0 := fld_digit e1 (by decide)
  have hx0 := x0.isLt
  have hx1 := x1.isLt
  have hx2 := x2.isLt
  have hx3 := x3.isLt
  have hn := Option.some.inj hn
  refine ⟨digits_lt e26 (by decide), decodeWord_of (shape_33 (fld_digit (p := 0) (e26.trans (by decide)) (by decide))) ?_ hw⟩
  unfold shape33
  rw [if_neg (by unfold fld; omega), if_neg (fun h => absurd (k22_4.symm.trans h.1) (by decide)), if_neg (fun h => absurd (k22_4.symm.trans h.1) (by decide)), if_neg (fun h => absurd (k22_4.symm.trans h.1) (by decide))]
  rw [if_pos ⟨k22_4, k1_2⟩]
  rw [show bfld n 16 6 = x0 from bfld_digit e16]
  rw [show bfld n 10 6 = x1 from bfld_digit e10]
  rw [show bfld n 3 7 = x2 from bfld_digit e3]
  rw [show bfld n 0 1 = x3 from bfld_digit e0]

/-- Its word and back. -/
theorem RoundTrip.talloc (x0 : BitVec 8) : RoundTrip.Statement (.talloc x0) := by
  intro n hw hn
  have e0 : n / 2 ^ 0 = ((52 * 2 ^ 4 + 0) * 2 ^ 8 + x0.toNat) * 2 ^ 14 + 0 := by
    have hn := Option.some.inj hn
    rw [Nat.pow_zero, Nat.div_one]; omega
  have e14 := div_next e0 (by decide)
  have e22 := div_next e14 x0.isLt
  have e26 := div_next e22 (by decide)
  have k22_4 : fld n 22 4 = 0 := fld_digit e22 (by decide)
  have k0_14 : fld n 0 14 = 0 := fld_digit e0 (by decide)
  refine ⟨digits_lt e26 (by decide), decodeWord_of (shape_34 (fld_digit (p := 0) (e26.trans (by decide)) (by decide))) ?_ hw⟩
  unfold shape34
  rw [if_pos ⟨k22_4, k0_14⟩]
  rw [show bfld n 14 8 = x0 from bfld_digit e14]

/-- Its word and back. -/
theorem RoundTrip.tfree (x0 : BitVec 8) : RoundTrip.Statement (.tfree x0) := by
  intro n hw hn
  have e0 : n / 2 ^ 0 = ((52 * 2 ^ 4 + 1) * 2 ^ 8 + x0.toNat) * 2 ^ 14 + 0 := by
    have hn := Option.some.inj hn
    rw [Nat.pow_zero, Nat.div_one]; omega
  have e14 := div_next e0 (by decide)
  have e22 := div_next e14 x0.isLt
  have e26 := div_next e22 (by decide)
  have k22_4 : fld n 22 4 = 1 := fld_digit e22 (by decide)
  have k0_14 : fld n 0 14 = 0 := fld_digit e0 (by decide)
  refine ⟨digits_lt e26 (by decide), decodeWord_of (shape_34 (fld_digit (p := 0) (e26.trans (by decide)) (by decide))) ?_ hw⟩
  unfold shape34
  rw [if_neg (fun h => absurd (k22_4.symm.trans h.1) (by decide))]
  rw [if_pos ⟨k22_4, k0_14⟩]
  rw [show bfld n 14 8 = x0 from bfld_digit e14]

/-- Its word and back. -/
theorem RoundTrip.ttag (x0 : BitVec 8) : RoundTrip.Statement (.ttag x0) := by
  intro n hw hn
  have e0 : n / 2 ^ 0 = ((52 * 2 ^ 4 + 2) * 2 ^ 8 + x0.toNat) * 2 ^ 14 + 0 := by
    have hn := Option.some.inj hn
    rw [Nat.pow_zero, Nat.div_one]; omega
  have e14 := div_next e0 (by decide)
  have e22 := div_next e14 x0.isLt
  have e26 := div_next e22 (by decide)
  have k22_4 : fld n 22 4 = 2 := fld_digit e22 (by decide)
  have k0_14 : fld n 0 14 = 0 := fld_digit e0 (by decide)
  refine ⟨digits_lt e26 (by decide), decodeWord_of (shape_34 (fld_digit (p := 0) (e26.trans (by decide)) (by decide))) ?_ hw⟩
  unfold shape34
  rw [if_neg (fun h => absurd (k22_4.symm.trans h.1) (by decide)), if_neg (fun h => absurd (k22_4.symm.trans h.1) (by decide))]
  rw [if_pos ⟨k22_4, k0_14⟩]
  rw [show bfld n 14 8 = x0 from bfld_digit e14]

/-- Its word and back. -/
theorem RoundTrip.twait (x0 : BitVec 8) : RoundTrip.Statement (.twait x0) := by
  intro n hw hn
  have e0 : n / 2 ^ 0 = ((52 * 2 ^ 4 + 3) * 2 ^ 8 + x0.toNat) * 2 ^ 14 + 0 := by
    have hn := Option.some.inj hn
    rw [Nat.pow_zero, Nat.div_one]; omega
  have e14 := div_next e0 (by decide)
  have e22 := div_next e14 x0.isLt
  have e26 := div_next e22 (by decide)
  have k22_4 : fld n 22 4 = 3 := fld_digit e22 (by decide)
  have k0_14 : fld n 0 14 = 0 := fld_digit e0 (by decide)
  refine ⟨digits_lt e26 (by decide), decodeWord_of (shape_34 (fld_digit (p := 0) (e26.trans (by decide)) (by decide))) ?_ hw⟩
  unfold shape34
  rw [if_neg (fun h => absurd (k22_4.symm.trans h.1) (by decide)), if_neg (fun h => absurd (k22_4.symm.trans h.1) (by decide)), if_neg (fun h => absurd (k22_4.symm.trans h.1) (by decide))]
  rw [if_pos ⟨k22_4, k0_14⟩]
  rw [show bfld n 14 8 = x0 from bfld_digit e14]

/-- Its word and back. -/
theorem RoundTrip.tld (x0 : BitVec 8) (x1 : BitVec 7) (x2 : BitVec 1) : RoundTrip.Statement (.tld x0 x1 x2) := by
  intro n hw hn
  have e0 : n / 2 ^ 0 = (((((52 * 2 ^ 4 + 4) * 2 ^ 8 + x0.toNat) * 2 ^ 7 + x1.toNat) * 2 ^ 1 + 0) * 2 ^ 1 + x2.toNat) * 2 ^ 5 + 0 := by
    have hn := Option.some.inj hn
    rw [Nat.pow_zero, Nat.div_one]; omega
  have e5 := div_next e0 (by decide)
  have e6 := div_next e5 x2.isLt
  have e7 := div_next e6 (by decide)
  have e14 := div_next e7 x1.isLt
  have e22 := div_next e14 x0.isLt
  have e26 := div_next e22 (by decide)
  have k22_4 : fld n 22 4 = 4 := fld_digit e22 (by decide)
  have k6_1 : fld n 6 1 = 0 := fld_digit e6 (by decide)
  have k0_5 : fld n 0 5 = 0 := fld_digit e0 (by decide)
  refine ⟨digits_lt e26 (by decide), decodeWord_of (shape_34 (fld_digit (p := 0) (e26.trans (by decide)) (by decide))) ?_ hw⟩
  unfold shape34
  rw [if_neg (fun h => absurd (k22_4.symm.trans h.1) (by decide)), if_neg (fun h => absurd (k22_4.symm.trans h.1) (by decide)), if_neg (fun h => absurd (k22_4.symm.trans h.1) (by decide)), if_neg (fun h => absurd (k22_4.symm.trans h.1) (by decide))]
  rw [if_pos ⟨k22_4, k6_1, k0_5⟩]
  rw [show bfld n 14 8 = x0 from bfld_digit e14]
  rw [show bfld n 7 7 = x1 from bfld_digit e7]
  rw [show bfld n 5 1 = x2 from bfld_digit e5]

/-- Its word and back. -/
theorem RoundTrip.tst (x0 : BitVec 8) (x1 : BitVec 7) (x2 : BitVec 1) : RoundTrip.Statement (.tst x0 x1 x2) := by
  intro n hw hn
  have e0 : n / 2 ^ 0 = (((((52 * 2 ^ 4 + 5) * 2 ^ 8 + x0.toNat) * 2 ^ 7 + x1.toNat) * 2 ^ 1 + 0) * 2 ^ 1 + x2.toNat) * 2 ^ 5 + 0 := by
    have hn := Option.some.inj hn
    rw [Nat.pow_zero, Nat.div_one]; omega
  have e5 := div_next e0 (by decide)
  have e6 := div_next e5 x2.isLt
  have e7 := div_next e6 (by decide)
  have e14 := div_next e7 x1.isLt
  have e22 := div_next e14 x0.isLt
  have e26 := div_next e22 (by decide)
  have k22_4 : fld n 22 4 = 5 := fld_digit e22 (by decide)
  have k6_1 : fld n 6 1 = 0 := fld_digit e6 (by decide)
  have k0_5 : fld n 0 5 = 0 := fld_digit e0 (by decide)
  refine ⟨digits_lt e26 (by decide), decodeWord_of (shape_34 (fld_digit (p := 0) (e26.trans (by decide)) (by decide))) ?_ hw⟩
  unfold shape34
  rw [if_neg (fun h => absurd (k22_4.symm.trans h.1) (by decide)), if_neg (fun h => absurd (k22_4.symm.trans h.1) (by decide)), if_neg (fun h => absurd (k22_4.symm.trans h.1) (by decide)), if_neg (fun h => absurd (k22_4.symm.trans h.1) (by decide)), if_neg (fun h => absurd (k22_4.symm.trans h.1) (by decide))]
  rw [if_pos ⟨k22_4, k6_1, k0_5⟩]
  rw [show bfld n 14 8 = x0 from bfld_digit e14]
  rw [show bfld n 7 7 = x1 from bfld_digit e7]
  rw [show bfld n 5 1 = x2 from bfld_digit e5]

/-- Its word and back. -/
theorem RoundTrip.tldt (x0 : BitVec 8) (x1 : BitVec 7) (x2 : BitVec 1) : RoundTrip.Statement (.tldt x0 x1 x2) := by
  intro n hw hn
  have e0 : n / 2 ^ 0 = (((((52 * 2 ^ 4 + 6) * 2 ^ 8 + x0.toNat) * 2 ^ 7 + x1.toNat) * 2 ^ 1 + 0) * 2 ^ 1 + x2.toNat) * 2 ^ 5 + 0 := by
    have hn := Option.some.inj hn
    rw [Nat.pow_zero, Nat.div_one]; omega
  have e5 := div_next e0 (by decide)
  have e6 := div_next e5 x2.isLt
  have e7 := div_next e6 (by decide)
  have e14 := div_next e7 x1.isLt
  have e22 := div_next e14 x0.isLt
  have e26 := div_next e22 (by decide)
  have k22_4 : fld n 22 4 = 6 := fld_digit e22 (by decide)
  have k6_1 : fld n 6 1 = 0 := fld_digit e6 (by decide)
  have k0_5 : fld n 0 5 = 0 := fld_digit e0 (by decide)
  refine ⟨digits_lt e26 (by decide), decodeWord_of (shape_34 (fld_digit (p := 0) (e26.trans (by decide)) (by decide))) ?_ hw⟩
  unfold shape34
  rw [if_neg (fun h => absurd (k22_4.symm.trans h.1) (by decide)), if_neg (fun h => absurd (k22_4.symm.trans h.1) (by decide)), if_neg (fun h => absurd (k22_4.symm.trans h.1) (by decide)), if_neg (fun h => absurd (k22_4.symm.trans h.1) (by decide)), if_neg (fun h => absurd (k22_4.symm.trans h.1) (by decide)), if_neg (fun h => absurd (k22_4.symm.trans h.1) (by decide))]
  rw [if_pos ⟨k22_4, k6_1, k0_5⟩]
  rw [show bfld n 14 8 = x0 from bfld_digit e14]
  rw [show bfld n 7 7 = x1 from bfld_digit e7]
  rw [show bfld n 5 1 = x2 from bfld_digit e5]

/-- Its word and back. -/
theorem RoundTrip.tfill (x0 : BitVec 8) (x1 : BitVec 7) (x2 : BitVec 1) : RoundTrip.Statement (.tfill x0 x1 x2) := by
  intro n hw hn
  have e0 : n / 2 ^ 0 = (((((52 * 2 ^ 4 + 8) * 2 ^ 8 + x0.toNat) * 2 ^ 7 + x1.toNat) * 2 ^ 1 + 0) * 2 ^ 1 + x2.toNat) * 2 ^ 5 + 0 := by
    have hn := Option.some.inj hn
    rw [Nat.pow_zero, Nat.div_one]; omega
  have e5 := div_next e0 (by decide)
  have e6 := div_next e5 x2.isLt
  have e7 := div_next e6 (by decide)
  have e14 := div_next e7 x1.isLt
  have e22 := div_next e14 x0.isLt
  have e26 := div_next e22 (by decide)
  have k22_4 : fld n 22 4 = 8 := fld_digit e22 (by decide)
  have k6_1 : fld n 6 1 = 0 := fld_digit e6 (by decide)
  have k0_5 : fld n 0 5 = 0 := fld_digit e0 (by decide)
  refine ⟨digits_lt e26 (by decide), decodeWord_of (shape_34 (fld_digit (p := 0) (e26.trans (by decide)) (by decide))) ?_ hw⟩
  unfold shape34
  rw [if_neg (fun h => absurd (k22_4.symm.trans h.1) (by decide)), if_neg (fun h => absurd (k22_4.symm.trans h.1) (by decide)), if_neg (fun h => absurd (k22_4.symm.trans h.1) (by decide)), if_neg (fun h => absurd (k22_4.symm.trans h.1) (by decide)), if_neg (fun h => absurd (k22_4.symm.trans h.1) (by decide)), if_neg (fun h => absurd (k22_4.symm.trans h.1) (by decide)), if_neg (fun h => absurd (k22_4.symm.trans h.1) (by decide))]
  rw [if_pos ⟨k22_4, k6_1, k0_5⟩]
  rw [show bfld n 14 8 = x0 from bfld_digit e14]
  rw [show bfld n 7 7 = x1 from bfld_digit e7]
  rw [show bfld n 5 1 = x2 from bfld_digit e5]

/-- Its word and back. -/
theorem RoundTrip.tstc (x0 : BitVec 8) (x1 : BitVec 7) (x2 : BitVec 1) : RoundTrip.Statement (.tstc x0 x1 x2) := by
  intro n hw hn
  have e0 : n / 2 ^ 0 = (((((52 * 2 ^ 4 + 9) * 2 ^ 8 + x0.toNat) * 2 ^ 7 + x1.toNat) * 2 ^ 1 + 0) * 2 ^ 1 + x2.toNat) * 2 ^ 5 + 0 := by
    have hn := Option.some.inj hn
    rw [Nat.pow_zero, Nat.div_one]; omega
  have e5 := div_next e0 (by decide)
  have e6 := div_next e5 x2.isLt
  have e7 := div_next e6 (by decide)
  have e14 := div_next e7 x1.isLt
  have e22 := div_next e14 x0.isLt
  have e26 := div_next e22 (by decide)
  have k22_4 : fld n 22 4 = 9 := fld_digit e22 (by decide)
  have k6_1 : fld n 6 1 = 0 := fld_digit e6 (by decide)
  have k0_5 : fld n 0 5 = 0 := fld_digit e0 (by decide)
  refine ⟨digits_lt e26 (by decide), decodeWord_of (shape_34 (fld_digit (p := 0) (e26.trans (by decide)) (by decide))) ?_ hw⟩
  unfold shape34
  rw [if_neg (fun h => absurd (k22_4.symm.trans h.1) (by decide)), if_neg (fun h => absurd (k22_4.symm.trans h.1) (by decide)), if_neg (fun h => absurd (k22_4.symm.trans h.1) (by decide)), if_neg (fun h => absurd (k22_4.symm.trans h.1) (by decide)), if_neg (fun h => absurd (k22_4.symm.trans h.1) (by decide)), if_neg (fun h => absurd (k22_4.symm.trans h.1) (by decide)), if_neg (fun h => absurd (k22_4.symm.trans h.1) (by decide)), if_neg (fun h => absurd (k22_4.symm.trans h.1) (by decide))]
  rw [if_pos ⟨k22_4, k6_1, k0_5⟩]
  rw [show bfld n 14 8 = x0 from bfld_digit e14]
  rw [show bfld n 7 7 = x1 from bfld_digit e7]
  rw [show bfld n 5 1 = x2 from bfld_digit e5]

/-- Its word and back. -/
theorem RoundTrip.tldc (x0 : BitVec 8) (x1 : BitVec 7) (x2 : BitVec 1) : RoundTrip.Statement (.tldc x0 x1 x2) := by
  intro n hw hn
  have e0 : n / 2 ^ 0 = (((((52 * 2 ^ 4 + 10) * 2 ^ 8 + x0.toNat) * 2 ^ 7 + x1.toNat) * 2 ^ 1 + 0) * 2 ^ 1 + x2.toNat) * 2 ^ 5 + 0 := by
    have hn := Option.some.inj hn
    rw [Nat.pow_zero, Nat.div_one]; omega
  have e5 := div_next e0 (by decide)
  have e6 := div_next e5 x2.isLt
  have e7 := div_next e6 (by decide)
  have e14 := div_next e7 x1.isLt
  have e22 := div_next e14 x0.isLt
  have e26 := div_next e22 (by decide)
  have k22_4 : fld n 22 4 = 10 := fld_digit e22 (by decide)
  have k6_1 : fld n 6 1 = 0 := fld_digit e6 (by decide)
  have k0_5 : fld n 0 5 = 0 := fld_digit e0 (by decide)
  refine ⟨digits_lt e26 (by decide), decodeWord_of (shape_34 (fld_digit (p := 0) (e26.trans (by decide)) (by decide))) ?_ hw⟩
  unfold shape34
  rw [if_neg (fun h => absurd (k22_4.symm.trans h.1) (by decide)), if_neg (fun h => absurd (k22_4.symm.trans h.1) (by decide)), if_neg (fun h => absurd (k22_4.symm.trans h.1) (by decide)), if_neg (fun h => absurd (k22_4.symm.trans h.1) (by decide)), if_neg (fun h => absurd (k22_4.symm.trans h.1) (by decide)), if_neg (fun h => absurd (k22_4.symm.trans h.1) (by decide)), if_neg (fun h => absurd (k22_4.symm.trans h.1) (by decide)), if_neg (fun h => absurd (k22_4.symm.trans h.1) (by decide)), if_neg (fun h => absurd (k22_4.symm.trans h.1) (by decide))]
  rw [if_pos ⟨k22_4, k6_1, k0_5⟩]
  rw [show bfld n 14 8 = x0 from bfld_digit e14]
  rw [show bfld n 7 7 = x1 from bfld_digit e7]
  rw [show bfld n 5 1 = x2 from bfld_digit e5]

/-- Its word and back. -/
theorem RoundTrip.tcvt (x0 : BitVec 8) (x1 : BitVec 7) (x2 : BitVec 1) : RoundTrip.Statement (.tcvt x0 x1 x2) := by
  intro n hw hn
  have e0 : n / 2 ^ 0 = (((((52 * 2 ^ 4 + 11) * 2 ^ 8 + x0.toNat) * 2 ^ 7 + x1.toNat) * 2 ^ 1 + 0) * 2 ^ 1 + x2.toNat) * 2 ^ 5 + 0 := by
    have hn := Option.some.inj hn
    rw [Nat.pow_zero, Nat.div_one]; omega
  have e5 := div_next e0 (by decide)
  have e6 := div_next e5 x2.isLt
  have e7 := div_next e6 (by decide)
  have e14 := div_next e7 x1.isLt
  have e22 := div_next e14 x0.isLt
  have e26 := div_next e22 (by decide)
  have k22_4 : fld n 22 4 = 11 := fld_digit e22 (by decide)
  have k6_1 : fld n 6 1 = 0 := fld_digit e6 (by decide)
  have k0_5 : fld n 0 5 = 0 := fld_digit e0 (by decide)
  refine ⟨digits_lt e26 (by decide), decodeWord_of (shape_34 (fld_digit (p := 0) (e26.trans (by decide)) (by decide))) ?_ hw⟩
  unfold shape34
  rw [if_neg (fun h => absurd (k22_4.symm.trans h.1) (by decide)), if_neg (fun h => absurd (k22_4.symm.trans h.1) (by decide)), if_neg (fun h => absurd (k22_4.symm.trans h.1) (by decide)), if_neg (fun h => absurd (k22_4.symm.trans h.1) (by decide)), if_neg (fun h => absurd (k22_4.symm.trans h.1) (by decide)), if_neg (fun h => absurd (k22_4.symm.trans h.1) (by decide)), if_neg (fun h => absurd (k22_4.symm.trans h.1) (by decide)), if_neg (fun h => absurd (k22_4.symm.trans h.1) (by decide)), if_neg (fun h => absurd (k22_4.symm.trans h.1) (by decide)), if_neg (fun h => absurd (k22_4.symm.trans h.1) (by decide))]
  rw [if_pos ⟨k22_4, k6_1, k0_5⟩]
  rw [show bfld n 14 8 = x0 from bfld_digit e14]
  rw [show bfld n 7 7 = x1 from bfld_digit e7]
  rw [show bfld n 5 1 = x2 from bfld_digit e5]

/-- Its word and back. -/
theorem RoundTrip.tcopy (x0 : BitVec 8) (x1 : BitVec 7) (x2 : BitVec 1) (x3 : BitVec 1) : RoundTrip.Statement (.tcopy x0 x1 x2 x3) := by
  intro n hw hn
  have e0 : n / 2 ^ 0 = ((((((52 * 2 ^ 4 + 7) * 2 ^ 8 + x0.toNat) * 2 ^ 7 + x1.toNat) * 2 ^ 1 + 0) * 2 ^ 1 + x2.toNat) * 2 ^ 4 + 0) * 2 ^ 1 + x3.toNat := by
    have hn := Option.some.inj hn
    rw [Nat.pow_zero, Nat.div_one]; omega
  have e1 := div_next e0 x3.isLt
  have e5 := div_next e1 (by decide)
  have e6 := div_next e5 x2.isLt
  have e7 := div_next e6 (by decide)
  have e14 := div_next e7 x1.isLt
  have e22 := div_next e14 x0.isLt
  have e26 := div_next e22 (by decide)
  have k22_4 : fld n 22 4 = 7 := fld_digit e22 (by decide)
  have k6_1 : fld n 6 1 = 0 := fld_digit e6 (by decide)
  have k1_4 : fld n 1 4 = 0 := fld_digit e1 (by decide)
  refine ⟨digits_lt e26 (by decide), decodeWord_of (shape_34 (fld_digit (p := 0) (e26.trans (by decide)) (by decide))) ?_ hw⟩
  unfold shape34
  rw [if_neg (fun h => absurd (k22_4.symm.trans h.1) (by decide)), if_neg (fun h => absurd (k22_4.symm.trans h.1) (by decide)), if_neg (fun h => absurd (k22_4.symm.trans h.1) (by decide)), if_neg (fun h => absurd (k22_4.symm.trans h.1) (by decide)), if_neg (fun h => absurd (k22_4.symm.trans h.1) (by decide)), if_neg (fun h => absurd (k22_4.symm.trans h.1) (by decide)), if_neg (fun h => absurd (k22_4.symm.trans h.1) (by decide)), if_neg (fun h => absurd (k22_4.symm.trans h.1) (by decide)), if_neg (fun h => absurd (k22_4.symm.trans h.1) (by decide)), if_neg (fun h => absurd (k22_4.symm.trans h.1) (by decide)), if_neg (fun h => absurd (k22_4.symm.trans h.1) (by decide))]
  rw [if_pos ⟨k22_4, k6_1, k1_4⟩]
  rw [show bfld n 14 8 = x0 from bfld_digit e14]
  rw [show bfld n 7 7 = x1 from bfld_digit e7]
  rw [show bfld n 5 1 = x2 from bfld_digit e5]
  rw [show bfld n 0 1 = x3 from bfld_digit e0]

/-- Its word and back. -/
theorem RoundTrip.trd (x0 : BitVec 6) (x1 : BitVec 6) (x2 : BitVec 8) (x3 : BitVec 1) : RoundTrip.Statement (.trd x0 x1 x2 x3) := by
  intro n hw hn
  have e0 : n / 2 ^ 0 = (((((53 * 2 ^ 2 + 0) * 2 ^ 6 + x0.toNat) * 2 ^ 6 + x1.toNat) * 2 ^ 8 + x2.toNat) * 2 ^ 3 + 0) * 2 ^ 1 + x3.toNat := by
    have hn := Option.some.inj hn
    rw [Nat.pow_zero, Nat.div_one]; omega
  have e1 := div_next e0 x3.isLt
  have e4 := div_next e1 (by decide)
  have e12 := div_next e4 x2.isLt
  have e18 := div_next e12 x1.isLt
  have e24 := div_next e18 x0.isLt
  have e26 := div_next e24 (by decide)
  have k24_2 : fld n 24 2 = 0 := fld_digit e24 (by decide)
  have k1_3 : fld n 1 3 = 0 := fld_digit e1 (by decide)
  refine ⟨digits_lt e26 (by decide), decodeWord_of (shape_35 (fld_digit (p := 0) (e26.trans (by decide)) (by decide))) ?_ hw⟩
  unfold shape35
  rw [if_pos ⟨k24_2, k1_3⟩]
  rw [show bfld n 18 6 = x0 from bfld_digit e18]
  rw [show bfld n 12 6 = x1 from bfld_digit e12]
  rw [show bfld n 4 8 = x2 from bfld_digit e4]
  rw [show bfld n 0 1 = x3 from bfld_digit e0]

/-- Its word and back. -/
theorem RoundTrip.twr (x0 : BitVec 6) (x1 : BitVec 6) (x2 : BitVec 8) (x3 : BitVec 1) : RoundTrip.Statement (.twr x0 x1 x2 x3) := by
  intro n hw hn
  have e0 : n / 2 ^ 0 = (((((53 * 2 ^ 2 + 1) * 2 ^ 6 + x0.toNat) * 2 ^ 6 + x1.toNat) * 2 ^ 8 + x2.toNat) * 2 ^ 3 + 0) * 2 ^ 1 + x3.toNat := by
    have hn := Option.some.inj hn
    rw [Nat.pow_zero, Nat.div_one]; omega
  have e1 := div_next e0 x3.isLt
  have e4 := div_next e1 (by decide)
  have e12 := div_next e4 x2.isLt
  have e18 := div_next e12 x1.isLt
  have e24 := div_next e18 x0.isLt
  have e26 := div_next e24 (by decide)
  have k24_2 : fld n 24 2 = 1 := fld_digit e24 (by decide)
  have k1_3 : fld n 1 3 = 0 := fld_digit e1 (by decide)
  refine ⟨digits_lt e26 (by decide), decodeWord_of (shape_35 (fld_digit (p := 0) (e26.trans (by decide)) (by decide))) ?_ hw⟩
  unfold shape35
  rw [if_neg (fun h => absurd (k24_2.symm.trans h.1) (by decide))]
  rw [if_pos ⟨k24_2, k1_3⟩]
  rw [show bfld n 18 6 = x0 from bfld_digit e18]
  rw [show bfld n 12 6 = x1 from bfld_digit e12]
  rw [show bfld n 4 8 = x2 from bfld_digit e4]
  rw [show bfld n 0 1 = x3 from bfld_digit e0]

/-- Its word and back. -/
theorem RoundTrip.trdt (x0 : BitVec 6) (x1 : BitVec 6) (x2 : BitVec 8) (x3 : BitVec 1) : RoundTrip.Statement (.trdt x0 x1 x2 x3) := by
  intro n hw hn
  have e0 : n / 2 ^ 0 = (((((53 * 2 ^ 2 + 2) * 2 ^ 6 + x0.toNat) * 2 ^ 6 + x1.toNat) * 2 ^ 8 + x2.toNat) * 2 ^ 3 + 0) * 2 ^ 1 + x3.toNat := by
    have hn := Option.some.inj hn
    rw [Nat.pow_zero, Nat.div_one]; omega
  have e1 := div_next e0 x3.isLt
  have e4 := div_next e1 (by decide)
  have e12 := div_next e4 x2.isLt
  have e18 := div_next e12 x1.isLt
  have e24 := div_next e18 x0.isLt
  have e26 := div_next e24 (by decide)
  have k24_2 : fld n 24 2 = 2 := fld_digit e24 (by decide)
  have k1_3 : fld n 1 3 = 0 := fld_digit e1 (by decide)
  refine ⟨digits_lt e26 (by decide), decodeWord_of (shape_35 (fld_digit (p := 0) (e26.trans (by decide)) (by decide))) ?_ hw⟩
  unfold shape35
  rw [if_neg (fun h => absurd (k24_2.symm.trans h.1) (by decide)), if_neg (fun h => absurd (k24_2.symm.trans h.1) (by decide))]
  rw [if_pos ⟨k24_2, k1_3⟩]
  rw [show bfld n 18 6 = x0 from bfld_digit e18]
  rw [show bfld n 12 6 = x1 from bfld_digit e12]
  rw [show bfld n 4 8 = x2 from bfld_digit e4]
  rw [show bfld n 0 1 = x3 from bfld_digit e0]

/-- Its word and back. -/
theorem RoundTrip.tatom (x0 : BitVec 6) (x1 : BitVec 6) (x2 : BitVec 8) (x3 : BitVec 4) : RoundTrip.Statement (.tatom x0 x1 x2 x3) := by
  intro n hw hn
  have e0 : n / 2 ^ 0 = ((((53 * 2 ^ 2 + 3) * 2 ^ 6 + x0.toNat) * 2 ^ 6 + x1.toNat) * 2 ^ 8 + x2.toNat) * 2 ^ 4 + x3.toNat := by
    have hn := Option.some.inj hn
    rw [Nat.pow_zero, Nat.div_one]; omega
  have e4 := div_next e0 x3.isLt
  have e12 := div_next e4 x2.isLt
  have e18 := div_next e12 x1.isLt
  have e24 := div_next e18 x0.isLt
  have e26 := div_next e24 (by decide)
  have k24_2 : fld n 24 2 = 3 := fld_digit e24 (by decide)
  refine ⟨digits_lt e26 (by decide), decodeWord_of (shape_35 (fld_digit (p := 0) (e26.trans (by decide)) (by decide))) ?_ hw⟩
  unfold shape35
  rw [if_neg (fun h => absurd (k24_2.symm.trans h.1) (by decide)), if_neg (fun h => absurd (k24_2.symm.trans h.1) (by decide)), if_neg (fun h => absurd (k24_2.symm.trans h.1) (by decide))]
  rw [if_pos k24_2]
  rw [show bfld n 18 6 = x0 from bfld_digit e18]
  rw [show bfld n 12 6 = x1 from bfld_digit e12]
  rw [show bfld n 4 8 = x2 from bfld_digit e4]
  rw [show bfld n 0 4 = x3 from bfld_digit e0]

/-- Its word and back. -/
theorem RoundTrip.oclaim (x0 : BitVec 8) : RoundTrip.Statement (.oclaim x0) := by
  intro n hw hn
  have e0 : n / 2 ^ 0 = ((54 * 2 ^ 4 + 0) * 2 ^ 8 + x0.toNat) * 2 ^ 14 + 0 := by
    have hn := Option.some.inj hn
    rw [Nat.pow_zero, Nat.div_one]; omega
  have e14 := div_next e0 (by decide)
  have e22 := div_next e14 x0.isLt
  have e26 := div_next e22 (by decide)
  have k22_4 : fld n 22 4 = 0 := fld_digit e22 (by decide)
  have k0_14 : fld n 0 14 = 0 := fld_digit e0 (by decide)
  refine ⟨digits_lt e26 (by decide), decodeWord_of (shape_36 (fld_digit (p := 0) (e26.trans (by decide)) (by decide))) ?_ hw⟩
  unfold shape36
  rw [if_pos ⟨k22_4, k0_14⟩]
  rw [show bfld n 14 8 = x0 from bfld_digit e14]

/-- Its word and back. -/
theorem RoundTrip.orel (x0 : BitVec 8) : RoundTrip.Statement (.orel x0) := by
  intro n hw hn
  have e0 : n / 2 ^ 0 = ((54 * 2 ^ 4 + 1) * 2 ^ 8 + x0.toNat) * 2 ^ 14 + 0 := by
    have hn := Option.some.inj hn
    rw [Nat.pow_zero, Nat.div_one]; omega
  have e14 := div_next e0 (by decide)
  have e22 := div_next e14 x0.isLt
  have e26 := div_next e22 (by decide)
  have k22_4 : fld n 22 4 = 1 := fld_digit e22 (by decide)
  have k0_14 : fld n 0 14 = 0 := fld_digit e0 (by decide)
  refine ⟨digits_lt e26 (by decide), decodeWord_of (shape_36 (fld_digit (p := 0) (e26.trans (by decide)) (by decide))) ?_ hw⟩
  unfold shape36
  rw [if_neg (fun h => absurd (k22_4.symm.trans h.1) (by decide))]
  rw [if_pos ⟨k22_4, k0_14⟩]
  rw [show bfld n 14 8 = x0 from bfld_digit e14]

/-- Its word and back. -/
theorem RoundTrip.owait (x0 : BitVec 8) : RoundTrip.Statement (.owait x0) := by
  intro n hw hn
  have e0 : n / 2 ^ 0 = ((54 * 2 ^ 4 + 5) * 2 ^ 8 + x0.toNat) * 2 ^ 14 + 0 := by
    have hn := Option.some.inj hn
    rw [Nat.pow_zero, Nat.div_one]; omega
  have e14 := div_next e0 (by decide)
  have e22 := div_next e14 x0.isLt
  have e26 := div_next e22 (by decide)
  have k22_4 : fld n 22 4 = 5 := fld_digit e22 (by decide)
  have k0_14 : fld n 0 14 = 0 := fld_digit e0 (by decide)
  refine ⟨digits_lt e26 (by decide), decodeWord_of (shape_36 (fld_digit (p := 0) (e26.trans (by decide)) (by decide))) ?_ hw⟩
  unfold shape36
  rw [if_neg (fun h => absurd (k22_4.symm.trans h.1) (by decide)), if_neg (fun h => absurd (k22_4.symm.trans h.1) (by decide))]
  rw [if_pos ⟨k22_4, k0_14⟩]
  rw [show bfld n 14 8 = x0 from bfld_digit e14]

/-- Its word and back. -/
theorem RoundTrip.ofill (x0 : BitVec 8) (x1 : BitVec 7) (x2 : BitVec 1) : RoundTrip.Statement (.ofill x0 x1 x2) := by
  intro n hw hn
  have e0 : n / 2 ^ 0 = (((((54 * 2 ^ 4 + 2) * 2 ^ 8 + x0.toNat) * 2 ^ 7 + x1.toNat) * 2 ^ 1 + 0) * 2 ^ 1 + x2.toNat) * 2 ^ 5 + 0 := by
    have hn := Option.some.inj hn
    rw [Nat.pow_zero, Nat.div_one]; omega
  have e5 := div_next e0 (by decide)
  have e6 := div_next e5 x2.isLt
  have e7 := div_next e6 (by decide)
  have e14 := div_next e7 x1.isLt
  have e22 := div_next e14 x0.isLt
  have e26 := div_next e22 (by decide)
  have k22_4 : fld n 22 4 = 2 := fld_digit e22 (by decide)
  have k6_1 : fld n 6 1 = 0 := fld_digit e6 (by decide)
  have k0_5 : fld n 0 5 = 0 := fld_digit e0 (by decide)
  refine ⟨digits_lt e26 (by decide), decodeWord_of (shape_36 (fld_digit (p := 0) (e26.trans (by decide)) (by decide))) ?_ hw⟩
  unfold shape36
  rw [if_neg (fun h => absurd (k22_4.symm.trans h.1) (by decide)), if_neg (fun h => absurd (k22_4.symm.trans h.1) (by decide)), if_neg (fun h => absurd (k22_4.symm.trans h.1) (by decide))]
  rw [if_pos ⟨k22_4, k6_1, k0_5⟩]
  rw [show bfld n 14 8 = x0 from bfld_digit e14]
  rw [show bfld n 7 7 = x1 from bfld_digit e7]
  rw [show bfld n 5 1 = x2 from bfld_digit e5]

/-- Its word and back. -/
theorem RoundTrip.ofillS24 (x0 : BitVec 8) (x1 : BitVec 7) (x2 : BitVec 1) : RoundTrip.Statement (.ofillS24 x0 x1 x2) := by
  intro n hw hn
  have e0 : n / 2 ^ 0 = (((((54 * 2 ^ 4 + 3) * 2 ^ 8 + x0.toNat) * 2 ^ 7 + x1.toNat) * 2 ^ 1 + 0) * 2 ^ 1 + x2.toNat) * 2 ^ 5 + 0 := by
    have hn := Option.some.inj hn
    rw [Nat.pow_zero, Nat.div_one]; omega
  have e5 := div_next e0 (by decide)
  have e6 := div_next e5 x2.isLt
  have e7 := div_next e6 (by decide)
  have e14 := div_next e7 x1.isLt
  have e22 := div_next e14 x0.isLt
  have e26 := div_next e22 (by decide)
  have k22_4 : fld n 22 4 = 3 := fld_digit e22 (by decide)
  have k6_1 : fld n 6 1 = 0 := fld_digit e6 (by decide)
  have k0_5 : fld n 0 5 = 0 := fld_digit e0 (by decide)
  refine ⟨digits_lt e26 (by decide), decodeWord_of (shape_36 (fld_digit (p := 0) (e26.trans (by decide)) (by decide))) ?_ hw⟩
  unfold shape36
  rw [if_neg (fun h => absurd (k22_4.symm.trans h.1) (by decide)), if_neg (fun h => absurd (k22_4.symm.trans h.1) (by decide)), if_neg (fun h => absurd (k22_4.symm.trans h.1) (by decide)), if_neg (fun h => absurd (k22_4.symm.trans h.1) (by decide))]
  rw [if_pos ⟨k22_4, k6_1, k0_5⟩]
  rw [show bfld n 14 8 = x0 from bfld_digit e14]
  rw [show bfld n 7 7 = x1 from bfld_digit e7]
  rw [show bfld n 5 1 = x2 from bfld_digit e5]

/-- Its word and back. -/
theorem RoundTrip.ofillG (x0 : BitVec 8) (x1 : BitVec 7) (x2 : BitVec 1) : RoundTrip.Statement (.ofillG x0 x1 x2) := by
  intro n hw hn
  have e0 : n / 2 ^ 0 = (((((54 * 2 ^ 4 + 4) * 2 ^ 8 + x0.toNat) * 2 ^ 7 + x1.toNat) * 2 ^ 1 + 0) * 2 ^ 1 + x2.toNat) * 2 ^ 5 + 0 := by
    have hn := Option.some.inj hn
    rw [Nat.pow_zero, Nat.div_one]; omega
  have e5 := div_next e0 (by decide)
  have e6 := div_next e5 x2.isLt
  have e7 := div_next e6 (by decide)
  have e14 := div_next e7 x1.isLt
  have e22 := div_next e14 x0.isLt
  have e26 := div_next e22 (by decide)
  have k22_4 : fld n 22 4 = 4 := fld_digit e22 (by decide)
  have k6_1 : fld n 6 1 = 0 := fld_digit e6 (by decide)
  have k0_5 : fld n 0 5 = 0 := fld_digit e0 (by decide)
  refine ⟨digits_lt e26 (by decide), decodeWord_of (shape_36 (fld_digit (p := 0) (e26.trans (by decide)) (by decide))) ?_ hw⟩
  unfold shape36
  rw [if_neg (fun h => absurd (k22_4.symm.trans h.1) (by decide)), if_neg (fun h => absurd (k22_4.symm.trans h.1) (by decide)), if_neg (fun h => absurd (k22_4.symm.trans h.1) (by decide)), if_neg (fun h => absurd (k22_4.symm.trans h.1) (by decide)), if_neg (fun h => absurd (k22_4.symm.trans h.1) (by decide))]
  rw [if_pos ⟨k22_4, k6_1, k0_5⟩]
  rw [show bfld n 14 8 = x0 from bfld_digit e14]
  rw [show bfld n 7 7 = x1 from bfld_digit e7]
  rw [show bfld n 5 1 = x2 from bfld_digit e5]

/-- Its word and back. -/
theorem RoundTrip.mma (x0 : BitVec 8) (x1 : BitVec 7) (x2 : BitVec 1) : RoundTrip.Statement (.mma x0 x1 x2) := by
  intro n hw hn
  have e0 : n / 2 ^ 0 = (((((55 * 2 ^ 4 + 0) * 2 ^ 8 + x0.toNat) * 2 ^ 7 + x1.toNat) * 2 ^ 1 + 0) * 2 ^ 1 + x2.toNat) * 2 ^ 5 + 0 := by
    have hn := Option.some.inj hn
    rw [Nat.pow_zero, Nat.div_one]; omega
  have e5 := div_next e0 (by decide)
  have e6 := div_next e5 x2.isLt
  have e7 := div_next e6 (by decide)
  have e14 := div_next e7 x1.isLt
  have e22 := div_next e14 x0.isLt
  have e26 := div_next e22 (by decide)
  have k22_4 : fld n 22 4 = 0 := fld_digit e22 (by decide)
  have k6_1 : fld n 6 1 = 0 := fld_digit e6 (by decide)
  have k0_5 : fld n 0 5 = 0 := fld_digit e0 (by decide)
  refine ⟨digits_lt e26 (by decide), decodeWord_of (shape_37 (fld_digit (p := 0) (e26.trans (by decide)) (by decide))) ?_ hw⟩
  unfold shape37
  rw [if_pos ⟨k22_4, k6_1, k0_5⟩]
  rw [show bfld n 14 8 = x0 from bfld_digit e14]
  rw [show bfld n 7 7 = x1 from bfld_digit e7]
  rw [show bfld n 5 1 = x2 from bfld_digit e5]

/-- Its word and back. -/
theorem RoundTrip.mmas (x0 : BitVec 8) (x1 : BitVec 7) (x2 : BitVec 1) : RoundTrip.Statement (.mmas x0 x1 x2) := by
  intro n hw hn
  have e0 : n / 2 ^ 0 = (((((55 * 2 ^ 4 + 1) * 2 ^ 8 + x0.toNat) * 2 ^ 7 + x1.toNat) * 2 ^ 1 + 0) * 2 ^ 1 + x2.toNat) * 2 ^ 5 + 0 := by
    have hn := Option.some.inj hn
    rw [Nat.pow_zero, Nat.div_one]; omega
  have e5 := div_next e0 (by decide)
  have e6 := div_next e5 x2.isLt
  have e7 := div_next e6 (by decide)
  have e14 := div_next e7 x1.isLt
  have e22 := div_next e14 x0.isLt
  have e26 := div_next e22 (by decide)
  have k22_4 : fld n 22 4 = 1 := fld_digit e22 (by decide)
  have k6_1 : fld n 6 1 = 0 := fld_digit e6 (by decide)
  have k0_5 : fld n 0 5 = 0 := fld_digit e0 (by decide)
  refine ⟨digits_lt e26 (by decide), decodeWord_of (shape_37 (fld_digit (p := 0) (e26.trans (by decide)) (by decide))) ?_ hw⟩
  unfold shape37
  rw [if_neg (fun h => absurd (k22_4.symm.trans h.1) (by decide))]
  rw [if_pos ⟨k22_4, k6_1, k0_5⟩]
  rw [show bfld n 14 8 = x0 from bfld_digit e14]
  rw [show bfld n 7 7 = x1 from bfld_digit e7]
  rw [show bfld n 5 1 = x2 from bfld_digit e5]

/-- Its word and back. -/
theorem RoundTrip.mmat (x0 : BitVec 8) (x1 : BitVec 7) (x2 : BitVec 1) : RoundTrip.Statement (.mmat x0 x1 x2) := by
  intro n hw hn
  have e0 : n / 2 ^ 0 = (((((55 * 2 ^ 4 + 2) * 2 ^ 8 + x0.toNat) * 2 ^ 7 + x1.toNat) * 2 ^ 1 + 0) * 2 ^ 1 + x2.toNat) * 2 ^ 5 + 0 := by
    have hn := Option.some.inj hn
    rw [Nat.pow_zero, Nat.div_one]; omega
  have e5 := div_next e0 (by decide)
  have e6 := div_next e5 x2.isLt
  have e7 := div_next e6 (by decide)
  have e14 := div_next e7 x1.isLt
  have e22 := div_next e14 x0.isLt
  have e26 := div_next e22 (by decide)
  have k22_4 : fld n 22 4 = 2 := fld_digit e22 (by decide)
  have k6_1 : fld n 6 1 = 0 := fld_digit e6 (by decide)
  have k0_5 : fld n 0 5 = 0 := fld_digit e0 (by decide)
  refine ⟨digits_lt e26 (by decide), decodeWord_of (shape_37 (fld_digit (p := 0) (e26.trans (by decide)) (by decide))) ?_ hw⟩
  unfold shape37
  rw [if_neg (fun h => absurd (k22_4.symm.trans h.1) (by decide)), if_neg (fun h => absurd (k22_4.symm.trans h.1) (by decide))]
  rw [if_pos ⟨k22_4, k6_1, k0_5⟩]
  rw [show bfld n 14 8 = x0 from bfld_digit e14]
  rw [show bfld n 7 7 = x1 from bfld_digit e7]
  rw [show bfld n 5 1 = x2 from bfld_digit e5]

/-- Its word and back. -/
theorem RoundTrip.spmm (x0 : BitVec 8) (x1 : BitVec 7) (x2 : BitVec 1) : RoundTrip.Statement (.spmm x0 x1 x2) := by
  intro n hw hn
  have e0 : n / 2 ^ 0 = (((((55 * 2 ^ 4 + 3) * 2 ^ 8 + x0.toNat) * 2 ^ 7 + x1.toNat) * 2 ^ 1 + 0) * 2 ^ 1 + x2.toNat) * 2 ^ 5 + 0 := by
    have hn := Option.some.inj hn
    rw [Nat.pow_zero, Nat.div_one]; omega
  have e5 := div_next e0 (by decide)
  have e6 := div_next e5 x2.isLt
  have e7 := div_next e6 (by decide)
  have e14 := div_next e7 x1.isLt
  have e22 := div_next e14 x0.isLt
  have e26 := div_next e22 (by decide)
  have k22_4 : fld n 22 4 = 3 := fld_digit e22 (by decide)
  have k6_1 : fld n 6 1 = 0 := fld_digit e6 (by decide)
  have k0_5 : fld n 0 5 = 0 := fld_digit e0 (by decide)
  refine ⟨digits_lt e26 (by decide), decodeWord_of (shape_37 (fld_digit (p := 0) (e26.trans (by decide)) (by decide))) ?_ hw⟩
  unfold shape37
  rw [if_neg (fun h => absurd (k22_4.symm.trans h.1) (by decide)), if_neg (fun h => absurd (k22_4.symm.trans h.1) (by decide)), if_neg (fun h => absurd (k22_4.symm.trans h.1) (by decide))]
  rw [if_pos ⟨k22_4, k6_1, k0_5⟩]
  rw [show bfld n 14 8 = x0 from bfld_digit e14]
  rw [show bfld n 7 7 = x1 from bfld_digit e7]
  rw [show bfld n 5 1 = x2 from bfld_digit e5]

/-- Its word and back. -/
theorem RoundTrip.pload (x0 : BitVec 8) : RoundTrip.Statement (.pload x0) := by
  intro n hw hn
  have e0 : n / 2 ^ 0 = ((56 * 2 ^ 4 + 2) * 2 ^ 8 + x0.toNat) * 2 ^ 14 + 0 := by
    have hn := Option.some.inj hn
    rw [Nat.pow_zero, Nat.div_one]; omega
  have e14 := div_next e0 (by decide)
  have e22 := div_next e14 x0.isLt
  have e26 := div_next e22 (by decide)
  have k22_4 : fld n 22 4 = 2 := fld_digit e22 (by decide)
  have k0_14 : fld n 0 14 = 0 := fld_digit e0 (by decide)
  refine ⟨digits_lt e26 (by decide), decodeWord_of (shape_38 (fld_digit (p := 0) (e26.trans (by decide)) (by decide))) ?_ hw⟩
  unfold shape38
  rw [if_pos ⟨k22_4, k0_14⟩]
  rw [show bfld n 14 8 = x0 from bfld_digit e14]

/-- Its word and back. -/
theorem RoundTrip.pfree (x0 : BitVec 8) : RoundTrip.Statement (.pfree x0) := by
  intro n hw hn
  have e0 : n / 2 ^ 0 = ((56 * 2 ^ 4 + 3) * 2 ^ 8 + x0.toNat) * 2 ^ 14 + 0 := by
    have hn := Option.some.inj hn
    rw [Nat.pow_zero, Nat.div_one]; omega
  have e14 := div_next e0 (by decide)
  have e22 := div_next e14 x0.isLt
  have e26 := div_next e22 (by decide)
  have k22_4 : fld n 22 4 = 3 := fld_digit e22 (by decide)
  have k0_14 : fld n 0 14 = 0 := fld_digit e0 (by decide)
  refine ⟨digits_lt e26 (by decide), decodeWord_of (shape_38 (fld_digit (p := 0) (e26.trans (by decide)) (by decide))) ?_ hw⟩
  unfold shape38
  rw [if_neg (fun h => absurd (k22_4.symm.trans h.1) (by decide))]
  rw [if_pos ⟨k22_4, k0_14⟩]
  rw [show bfld n 14 8 = x0 from bfld_digit e14]

/-- Its word and back. -/
theorem RoundTrip.pgenMat (x0 : BitVec 8) (x1 : BitVec 7) (x2 : BitVec 1) : RoundTrip.Statement (.pgenMat x0 x1 x2) := by
  intro n hw hn
  have e0 : n / 2 ^ 0 = (((((56 * 2 ^ 4 + 0) * 2 ^ 8 + x0.toNat) * 2 ^ 7 + x1.toNat) * 2 ^ 1 + 0) * 2 ^ 1 + x2.toNat) * 2 ^ 5 + 1 := by
    have hn := Option.some.inj hn
    rw [Nat.pow_zero, Nat.div_one]; omega
  have e5 := div_next e0 (by decide)
  have e6 := div_next e5 x2.isLt
  have e7 := div_next e6 (by decide)
  have e14 := div_next e7 x1.isLt
  have e22 := div_next e14 x0.isLt
  have e26 := div_next e22 (by decide)
  have k22_4 : fld n 22 4 = 0 := fld_digit e22 (by decide)
  have k6_1 : fld n 6 1 = 0 := fld_digit e6 (by decide)
  have k0_5 : fld n 0 5 = 1 := fld_digit e0 (by decide)
  refine ⟨digits_lt e26 (by decide), decodeWord_of (shape_38 (fld_digit (p := 0) (e26.trans (by decide)) (by decide))) ?_ hw⟩
  unfold shape38
  rw [if_neg (fun h => absurd (k22_4.symm.trans h.1) (by decide)), if_neg (fun h => absurd (k22_4.symm.trans h.1) (by decide))]
  rw [if_pos ⟨k22_4, k6_1, k0_5⟩]
  rw [show bfld n 14 8 = x0 from bfld_digit e14]
  rw [show bfld n 7 7 = x1 from bfld_digit e7]
  rw [show bfld n 5 1 = x2 from bfld_digit e5]

/-- Its word and back. -/
theorem RoundTrip.pgen (x0 : BitVec 8) (x1 : BitVec 7) (x2 : BitVec 1) (x3 : BitVec 1) : RoundTrip.Statement (.pgen x0 x1 x2 x3) := by
  intro n hw hn
  have e0 : n / 2 ^ 0 = (((((((56 * 2 ^ 4 + 0) * 2 ^ 8 + x0.toNat) * 2 ^ 7 + x1.toNat) * 2 ^ 1 + 0) * 2 ^ 1 + x2.toNat) * 2 ^ 3 + 0) * 2 ^ 1 + x3.toNat) * 2 ^ 1 + 0 := by
    have hn := Option.some.inj hn
    rw [Nat.pow_zero, Nat.div_one]; omega
  have e1 := div_next e0 (by decide)
  have e2 := div_next e1 x3.isLt
  have e5 := div_next e2 (by decide)
  have e6 := div_next e5 x2.isLt
  have e7 := div_next e6 (by decide)
  have e14 := div_next e7 x1.isLt
  have e22 := div_next e14 x0.isLt
  have e26 := div_next e22 (by decide)
  have k22_4 : fld n 22 4 = 0 := fld_digit e22 (by decide)
  have k6_1 : fld n 6 1 = 0 := fld_digit e6 (by decide)
  have k2_3 : fld n 2 3 = 0 := fld_digit e2 (by decide)
  have k0_1 : fld n 0 1 = 0 := fld_digit e0 (by decide)
  have hx0 := x0.isLt
  have hx1 := x1.isLt
  have hx2 := x2.isLt
  have hx3 := x3.isLt
  have hn := Option.some.inj hn
  refine ⟨digits_lt e26 (by decide), decodeWord_of (shape_38 (fld_digit (p := 0) (e26.trans (by decide)) (by decide))) ?_ hw⟩
  unfold shape38
  rw [if_neg (fun h => absurd (k22_4.symm.trans h.1) (by decide)), if_neg (fun h => absurd (k22_4.symm.trans h.1) (by decide)), if_neg (by unfold fld; omega)]
  rw [if_pos ⟨k22_4, k6_1, k2_3, k0_1⟩]
  rw [show bfld n 14 8 = x0 from bfld_digit e14]
  rw [show bfld n 7 7 = x1 from bfld_digit e7]
  rw [show bfld n 5 1 = x2 from bfld_digit e5]
  rw [show bfld n 1 1 = x3 from bfld_digit e1]

/-- Its word and back. -/
theorem RoundTrip.pmerge (x0 : BitVec 8) (x1 : BitVec 7) (x2 : BitVec 1) (x3 : BitVec 1) (x4 : BitVec 1) : RoundTrip.Statement (.pmerge x0 x1 x2 x3 x4) := by
  intro n hw hn
  have e0 : n / 2 ^ 0 = (((((((56 * 2 ^ 4 + 1) * 2 ^ 8 + x0.toNat) * 2 ^ 7 + x1.toNat) * 2 ^ 1 + 0) * 2 ^ 1 + x2.toNat) * 2 ^ 3 + 0) * 2 ^ 1 + x3.toNat) * 2 ^ 1 + x4.toNat := by
    have hn := Option.some.inj hn
    rw [Nat.pow_zero, Nat.div_one]; omega
  have e1 := div_next e0 x4.isLt
  have e2 := div_next e1 x3.isLt
  have e5 := div_next e2 (by decide)
  have e6 := div_next e5 x2.isLt
  have e7 := div_next e6 (by decide)
  have e14 := div_next e7 x1.isLt
  have e22 := div_next e14 x0.isLt
  have e26 := div_next e22 (by decide)
  have k22_4 : fld n 22 4 = 1 := fld_digit e22 (by decide)
  have k6_1 : fld n 6 1 = 0 := fld_digit e6 (by decide)
  have k2_3 : fld n 2 3 = 0 := fld_digit e2 (by decide)
  refine ⟨digits_lt e26 (by decide), decodeWord_of (shape_38 (fld_digit (p := 0) (e26.trans (by decide)) (by decide))) ?_ hw⟩
  unfold shape38
  rw [if_neg (fun h => absurd (k22_4.symm.trans h.1) (by decide)), if_neg (fun h => absurd (k22_4.symm.trans h.1) (by decide)), if_neg (fun h => absurd (k22_4.symm.trans h.1) (by decide)), if_neg (fun h => absurd (k22_4.symm.trans h.1) (by decide))]
  rw [if_pos ⟨k22_4, k6_1, k2_3⟩]
  rw [show bfld n 14 8 = x0 from bfld_digit e14]
  rw [show bfld n 7 7 = x1 from bfld_digit e7]
  rw [show bfld n 5 1 = x2 from bfld_digit e5]
  rw [show bfld n 1 1 = x3 from bfld_digit e1]
  rw [show bfld n 0 1 = x4 from bfld_digit e0]

/-- Its word and back. -/
theorem RoundTrip.evpop (x0 : BitVec 6) (x1 : BitVec 1) : RoundTrip.Statement (.evpop x0 x1) := by
  intro n hw hn
  have e0 : n / 2 ^ 0 = (((57 * 2 ^ 4 + 4) * 2 ^ 6 + x0.toNat) * 2 ^ 15 + 0) * 2 ^ 1 + x1.toNat := by
    have hn := Option.some.inj hn
    rw [Nat.pow_zero, Nat.div_one]; omega
  have e1 := div_next e0 x1.isLt
  have e16 := div_next e1 (by decide)
  have e22 := div_next e16 x0.isLt
  have e26 := div_next e22 (by decide)
  have k22_4 : fld n 22 4 = 4 := fld_digit e22 (by decide)
  have k1_15 : fld n 1 15 = 0 := fld_digit e1 (by decide)
  refine ⟨digits_lt e26 (by decide), decodeWord_of (shape_39 (fld_digit (p := 0) (e26.trans (by decide)) (by decide))) ?_ hw⟩
  unfold shape39
  rw [if_pos ⟨k22_4, k1_15⟩]
  rw [show bfld n 16 6 = x0 from bfld_digit e16]
  rw [show bfld n 0 1 = x1 from bfld_digit e0]

/-- Its word and back. -/
theorem RoundTrip.cwait (x0 : BitVec 8) : RoundTrip.Statement (.cwait x0) := by
  intro n hw hn
  have e0 : n / 2 ^ 0 = (((57 * 2 ^ 4 + 3) * 2 ^ 8 + x0.toNat) * 2 ^ 13 + 0) * 2 ^ 1 + 0 := by
    have hn := Option.some.inj hn
    rw [Nat.pow_zero, Nat.div_one]; omega
  have e1 := div_next e0 (by decide)
  have e14 := div_next e1 (by decide)
  have e22 := div_next e14 x0.isLt
  have e26 := div_next e22 (by decide)
  have k22_4 : fld n 22 4 = 3 := fld_digit e22 (by decide)
  have k0_14 : fld n 0 14 = 0 := fld_join (fld_digit e0 (by decide)) (fld_digit e1 (by decide))
  refine ⟨digits_lt e26 (by decide), decodeWord_of (shape_39 (fld_digit (p := 0) (e26.trans (by decide)) (by decide))) ?_ hw⟩
  unfold shape39
  rw [if_neg (fun h => absurd (k22_4.symm.trans h.1) (by decide))]
  rw [if_pos ⟨k22_4, k0_14⟩]
  rw [show bfld n 14 8 = x0 from bfld_digit e14]

/-- Its word and back. -/
theorem RoundTrip.shdef (x0 : BitVec 8) : RoundTrip.Statement (.shdef x0) := by
  intro n hw hn
  have e0 : n / 2 ^ 0 = (((57 * 2 ^ 4 + 5) * 2 ^ 8 + x0.toNat) * 2 ^ 13 + 0) * 2 ^ 1 + 0 := by
    have hn := Option.some.inj hn
    rw [Nat.pow_zero, Nat.div_one]; omega
  have e1 := div_next e0 (by decide)
  have e14 := div_next e1 (by decide)
  have e22 := div_next e14 x0.isLt
  have e26 := div_next e22 (by decide)
  have k22_4 : fld n 22 4 = 5 := fld_digit e22 (by decide)
  have k0_14 : fld n 0 14 = 0 := fld_join (fld_digit e0 (by decide)) (fld_digit e1 (by decide))
  refine ⟨digits_lt e26 (by decide), decodeWord_of (shape_39 (fld_digit (p := 0) (e26.trans (by decide)) (by decide))) ?_ hw⟩
  unfold shape39
  rw [if_neg (fun h => absurd (k22_4.symm.trans h.1) (by decide)), if_neg (fun h => absurd (k22_4.symm.trans h.1) (by decide))]
  rw [if_pos ⟨k22_4, k0_14⟩]
  rw [show bfld n 14 8 = x0 from bfld_digit e14]

/-- Its word and back. -/
theorem RoundTrip.shfree (x0 : BitVec 8) : RoundTrip.Statement (.shfree x0) := by
  intro n hw hn
  have e0 : n / 2 ^ 0 = (((57 * 2 ^ 4 + 6) * 2 ^ 8 + x0.toNat) * 2 ^ 13 + 0) * 2 ^ 1 + 0 := by
    have hn := Option.some.inj hn
    rw [Nat.pow_zero, Nat.div_one]; omega
  have e1 := div_next e0 (by decide)
  have e14 := div_next e1 (by decide)
  have e22 := div_next e14 x0.isLt
  have e26 := div_next e22 (by decide)
  have k22_4 : fld n 22 4 = 6 := fld_digit e22 (by decide)
  have k0_14 : fld n 0 14 = 0 := fld_join (fld_digit e0 (by decide)) (fld_digit e1 (by decide))
  refine ⟨digits_lt e26 (by decide), decodeWord_of (shape_39 (fld_digit (p := 0) (e26.trans (by decide)) (by decide))) ?_ hw⟩
  unfold shape39
  rw [if_neg (fun h => absurd (k22_4.symm.trans h.1) (by decide)), if_neg (fun h => absurd (k22_4.symm.trans h.1) (by decide)), if_neg (fun h => absurd (k22_4.symm.trans h.1) (by decide))]
  rw [if_pos ⟨k22_4, k0_14⟩]
  rw [show bfld n 14 8 = x0 from bfld_digit e14]

/-- Its word and back. -/
theorem RoundTrip.snap (x0 : BitVec 7) (x1 : BitVec 7) (x2 : BitVec 1) : RoundTrip.Statement (.snap x0 x1 x2) := by
  intro n hw hn
  have e0 : n / 2 ^ 0 = (((((((57 * 2 ^ 4 + 2) * 2 ^ 7 + x0.toNat) * 2 ^ 1 + 0) * 2 ^ 7 + x1.toNat) * 2 ^ 1 + 0) * 2 ^ 1 + x2.toNat) * 2 ^ 4 + 0) * 2 ^ 1 + 0 := by
    have hn := Option.some.inj hn
    rw [Nat.pow_zero, Nat.div_one]; omega
  have e1 := div_next e0 (by decide)
  have e5 := div_next e1 (by decide)
  have e6 := div_next e5 x2.isLt
  have e7 := div_next e6 (by decide)
  have e14 := div_next e7 x1.isLt
  have e15 := div_next e14 (by decide)
  have e22 := div_next e15 x0.isLt
  have e26 := div_next e22 (by decide)
  have k22_4 : fld n 22 4 = 2 := fld_digit e22 (by decide)
  have k14_1 : fld n 14 1 = 0 := fld_digit e14 (by decide)
  have k6_1 : fld n 6 1 = 0 := fld_digit e6 (by decide)
  have k0_5 : fld n 0 5 = 0 := fld_join (fld_digit e0 (by decide)) (fld_digit e1 (by decide))
  refine ⟨digits_lt e26 (by decide), decodeWord_of (shape_39 (fld_digit (p := 0) (e26.trans (by decide)) (by decide))) ?_ hw⟩
  unfold shape39
  rw [if_neg (fun h => absurd (k22_4.symm.trans h.1) (by decide)), if_neg (fun h => absurd (k22_4.symm.trans h.1) (by decide)), if_neg (fun h => absurd (k22_4.symm.trans h.1) (by decide)), if_neg (fun h => absurd (k22_4.symm.trans h.1) (by decide))]
  rw [if_pos ⟨k22_4, k14_1, k6_1, k0_5⟩]
  rw [show bfld n 15 7 = x0 from bfld_digit e15]
  rw [show bfld n 7 7 = x1 from bfld_digit e7]
  rw [show bfld n 5 1 = x2 from bfld_digit e5]

/-- Its word and back. -/
theorem RoundTrip.hcopy (x0 : BitVec 7) (x1 : BitVec 7) (x2 : BitVec 1) (x3 : BitVec 1) : RoundTrip.Statement (.hcopy x0 x1 x2 x3) := by
  intro n hw hn
  have e0 : n / 2 ^ 0 = (((((((57 * 2 ^ 4 + 1) * 2 ^ 7 + x0.toNat) * 2 ^ 1 + 0) * 2 ^ 7 + x1.toNat) * 2 ^ 1 + 0) * 2 ^ 1 + x2.toNat) * 2 ^ 4 + 0) * 2 ^ 1 + x3.toNat := by
    have hn := Option.some.inj hn
    rw [Nat.pow_zero, Nat.div_one]; omega
  have e1 := div_next e0 x3.isLt
  have e5 := div_next e1 (by decide)
  have e6 := div_next e5 x2.isLt
  have e7 := div_next e6 (by decide)
  have e14 := div_next e7 x1.isLt
  have e15 := div_next e14 (by decide)
  have e22 := div_next e15 x0.isLt
  have e26 := div_next e22 (by decide)
  have k22_4 : fld n 22 4 = 1 := fld_digit e22 (by decide)
  have k14_1 : fld n 14 1 = 0 := fld_digit e14 (by decide)
  have k6_1 : fld n 6 1 = 0 := fld_digit e6 (by decide)
  have k1_4 : fld n 1 4 = 0 := fld_digit e1 (by decide)
  refine ⟨digits_lt e26 (by decide), decodeWord_of (shape_39 (fld_digit (p := 0) (e26.trans (by decide)) (by decide))) ?_ hw⟩
  unfold shape39
  rw [if_neg (fun h => absurd (k22_4.symm.trans h.1) (by decide)), if_neg (fun h => absurd (k22_4.symm.trans h.1) (by decide)), if_neg (fun h => absurd (k22_4.symm.trans h.1) (by decide)), if_neg (fun h => absurd (k22_4.symm.trans h.1) (by decide)), if_neg (fun h => absurd (k22_4.symm.trans h.1) (by decide))]
  rw [if_pos ⟨k22_4, k14_1, k6_1, k1_4⟩]
  rw [show bfld n 15 7 = x0 from bfld_digit e15]
  rw [show bfld n 7 7 = x1 from bfld_digit e7]
  rw [show bfld n 5 1 = x2 from bfld_digit e5]
  rw [show bfld n 0 1 = x3 from bfld_digit e0]

/-- Its word and back. -/
theorem RoundTrip.stream (x0 : BitVec 8) (x1 : BitVec 7) (x2 : BitVec 1) (x3 : BitVec 1) : RoundTrip.Statement (.stream x0 x1 x2 x3) := by
  intro n hw hn
  have e0 : n / 2 ^ 0 = ((((((57 * 2 ^ 4 + 0) * 2 ^ 8 + x0.toNat) * 2 ^ 7 + x1.toNat) * 2 ^ 1 + 0) * 2 ^ 1 + x2.toNat) * 2 ^ 4 + 0) * 2 ^ 1 + x3.toNat := by
    have hn := Option.some.inj hn
    rw [Nat.pow_zero, Nat.div_one]; omega
  have e1 := div_next e0 x3.isLt
  have e5 := div_next e1 (by decide)
  have e6 := div_next e5 x2.isLt
  have e7 := div_next e6 (by decide)
  have e14 := div_next e7 x1.isLt
  have e22 := div_next e14 x0.isLt
  have e26 := div_next e22 (by decide)
  have k22_4 : fld n 22 4 = 0 := fld_digit e22 (by decide)
  have k6_1 : fld n 6 1 = 0 := fld_digit e6 (by decide)
  have k1_4 : fld n 1 4 = 0 := fld_digit e1 (by decide)
  refine ⟨digits_lt e26 (by decide), decodeWord_of (shape_39 (fld_digit (p := 0) (e26.trans (by decide)) (by decide))) ?_ hw⟩
  unfold shape39
  rw [if_neg (fun h => absurd (k22_4.symm.trans h.1) (by decide)), if_neg (fun h => absurd (k22_4.symm.trans h.1) (by decide)), if_neg (fun h => absurd (k22_4.symm.trans h.1) (by decide)), if_neg (fun h => absurd (k22_4.symm.trans h.1) (by decide)), if_neg (fun h => absurd (k22_4.symm.trans h.1) (by decide)), if_neg (fun h => absurd (k22_4.symm.trans h.1) (by decide))]
  rw [if_pos ⟨k22_4, k6_1, k1_4⟩]
  rw [show bfld n 14 8 = x0 from bfld_digit e14]
  rw [show bfld n 7 7 = x1 from bfld_digit e7]
  rw [show bfld n 5 1 = x2 from bfld_digit e5]
  rw [show bfld n 0 1 = x3 from bfld_digit e0]

/-- Its word and back. -/
theorem RoundTrip.sync : RoundTrip.Statement .sync := by
  intro n hw hn
  have e0 : n / 2 ^ 0 = 58 * 2 ^ 26 + 12582912 := by
    have hn := Option.some.inj hn
    rw [Nat.pow_zero, Nat.div_one]; omega
  have e26 := div_next e0 (by decide)
  have k0_26 : fld n 0 26 = 12582912 := fld_digit e0 (by decide)
  refine ⟨digits_lt e26 (by decide), decodeWord_of (shape_3A (fld_digit (p := 0) (e26.trans (by decide)) (by decide))) ?_ hw⟩
  unfold shape3A
  rw [if_pos k0_26]

/-- Its word and back. -/
theorem RoundTrip.barf (x0 : BitVec 3) : RoundTrip.Statement (.barf x0) := by
  intro n hw hn
  have e0 : n / 2 ^ 0 = (58 * 2 ^ 23 + 2621440) * 2 ^ 3 + x0.toNat := by
    have hn := Option.some.inj hn
    rw [Nat.pow_zero, Nat.div_one]; omega
  have e3 := div_next e0 x0.isLt
  have e26 := div_next e3 (by decide)
  have k3_23 : fld n 3 23 = 2621440 := fld_digit e3 (by decide)
  have hx0 := x0.isLt
  have hn := Option.some.inj hn
  refine ⟨digits_lt e26 (by decide), decodeWord_of (shape_3A (fld_digit (p := 0) (e26.trans (by decide)) (by decide))) ?_ hw⟩
  unfold shape3A
  rw [if_neg (by unfold fld; omega)]
  rw [if_pos k3_23]
  rw [show bfld n 0 3 = x0 from bfld_digit e0]

/-- Its word and back. -/
theorem RoundTrip.spawn (x0 : BitVec 7) : RoundTrip.Statement (.spawn x0) := by
  intro n hw hn
  have e0 : n / 2 ^ 0 = (((58 * 2 ^ 4 + 0) * 2 ^ 7 + x0.toNat) * 2 ^ 12 + 0) * 2 ^ 3 + 0 := by
    have hn := Option.some.inj hn
    rw [Nat.pow_zero, Nat.div_one]; omega
  have e3 := div_next e0 (by decide)
  have e15 := div_next e3 (by decide)
  have e22 := div_next e15 x0.isLt
  have e26 := div_next e22 (by decide)
  have k22_4 : fld n 22 4 = 0 := fld_digit e22 (by decide)
  have k0_15 : fld n 0 15 = 0 := fld_join (fld_digit e0 (by decide)) (fld_digit e3 (by decide))
  have hx0 := x0.isLt
  have hn := Option.some.inj hn
  refine ⟨digits_lt e26 (by decide), decodeWord_of (shape_3A (fld_digit (p := 0) (e26.trans (by decide)) (by decide))) ?_ hw⟩
  unfold shape3A
  rw [if_neg (by unfold fld; omega), if_neg (by unfold fld; omega)]
  rw [if_pos ⟨k22_4, k0_15⟩]
  rw [show bfld n 15 7 = x0 from bfld_digit e15]

/-- Its word and back. -/
theorem RoundTrip.spawnn (x0 : BitVec 7) : RoundTrip.Statement (.spawnn x0) := by
  intro n hw hn
  have e0 : n / 2 ^ 0 = (((58 * 2 ^ 4 + 1) * 2 ^ 7 + x0.toNat) * 2 ^ 12 + 0) * 2 ^ 3 + 0 := by
    have hn := Option.some.inj hn
    rw [Nat.pow_zero, Nat.div_one]; omega
  have e3 := div_next e0 (by decide)
  have e15 := div_next e3 (by decide)
  have e22 := div_next e15 x0.isLt
  have e26 := div_next e22 (by decide)
  have k22_4 : fld n 22 4 = 1 := fld_digit e22 (by decide)
  have k0_15 : fld n 0 15 = 0 := fld_join (fld_digit e0 (by decide)) (fld_digit e3 (by decide))
  have hx0 := x0.isLt
  have hn := Option.some.inj hn
  refine ⟨digits_lt e26 (by decide), decodeWord_of (shape_3A (fld_digit (p := 0) (e26.trans (by decide)) (by decide))) ?_ hw⟩
  unfold shape3A
  rw [if_neg (by unfold fld; omega), if_neg (by unfold fld; omega), if_neg (fun h => absurd (k22_4.symm.trans h.1) (by decide))]
  rw [if_pos ⟨k22_4, k0_15⟩]
  rw [show bfld n 15 7 = x0 from bfld_digit e15]

/-- Its word and back. -/
theorem RoundTrip.launch (x0 : BitVec 7) : RoundTrip.Statement (.launch x0) := by
  intro n hw hn
  have e0 : n / 2 ^ 0 = (((58 * 2 ^ 4 + 4) * 2 ^ 7 + x0.toNat) * 2 ^ 12 + 0) * 2 ^ 3 + 0 := by
    have hn := Option.some.inj hn
    rw [Nat.pow_zero, Nat.div_one]; omega
  have e3 := div_next e0 (by decide)
  have e15 := div_next e3 (by decide)
  have e22 := div_next e15 x0.isLt
  have e26 := div_next e22 (by decide)
  have k22_4 : fld n 22 4 = 4 := fld_digit e22 (by decide)
  have k0_15 : fld n 0 15 = 0 := fld_join (fld_digit e0 (by decide)) (fld_digit e3 (by decide))
  have hx0 := x0.isLt
  have hn := Option.some.inj hn
  refine ⟨digits_lt e26 (by decide), decodeWord_of (shape_3A (fld_digit (p := 0) (e26.trans (by decide)) (by decide))) ?_ hw⟩
  unfold shape3A
  rw [if_neg (by unfold fld; omega), if_neg (by unfold fld; omega), if_neg (fun h => absurd (k22_4.symm.trans h.1) (by decide)), if_neg (fun h => absurd (k22_4.symm.trans h.1) (by decide))]
  rw [if_pos ⟨k22_4, k0_15⟩]
  rw [show bfld n 15 7 = x0 from bfld_digit e15]

/-- Its word and back. -/
theorem RoundTrip.pedcmp (x0 : BitVec 7) : RoundTrip.Statement (.pedcmp x0) := by
  intro n hw hn
  have e0 : n / 2 ^ 0 = (((58 * 2 ^ 4 + 7) * 2 ^ 7 + x0.toNat) * 2 ^ 12 + 0) * 2 ^ 3 + 0 := by
    have hn := Option.some.inj hn
    rw [Nat.pow_zero, Nat.div_one]; omega
  have e3 := div_next e0 (by decide)
  have e15 := div_next e3 (by decide)
  have e22 := div_next e15 x0.isLt
  have e26 := div_next e22 (by decide)
  have k22_4 : fld n 22 4 = 7 := fld_digit e22 (by decide)
  have k0_15 : fld n 0 15 = 0 := fld_join (fld_digit e0 (by decide)) (fld_digit e3 (by decide))
  have hx0 := x0.isLt
  have hn := Option.some.inj hn
  refine ⟨digits_lt e26 (by decide), decodeWord_of (shape_3A (fld_digit (p := 0) (e26.trans (by decide)) (by decide))) ?_ hw⟩
  unfold shape3A
  rw [if_neg (by unfold fld; omega), if_neg (by unfold fld; omega), if_neg (fun h => absurd (k22_4.symm.trans h.1) (by decide)), if_neg (fun h => absurd (k22_4.symm.trans h.1) (by decide)), if_neg (fun h => absurd (k22_4.symm.trans h.1) (by decide))]
  rw [if_pos ⟨k22_4, k0_15⟩]
  rw [show bfld n 15 7 = x0 from bfld_digit e15]

/-- Its word and back. -/
theorem RoundTrip.palloc (x0 : BitVec 7) : RoundTrip.Statement (.palloc x0) := by
  intro n hw hn
  have e0 : n / 2 ^ 0 = (((58 * 2 ^ 4 + 8) * 2 ^ 7 + x0.toNat) * 2 ^ 12 + 0) * 2 ^ 3 + 0 := by
    have hn := Option.some.inj hn
    rw [Nat.pow_zero, Nat.div_one]; omega
  have e3 := div_next e0 (by decide)
  have e15 := div_next e3 (by decide)
  have e22 := div_next e15 x0.isLt
  have e26 := div_next e22 (by decide)
  have k22_4 : fld n 22 4 = 8 := fld_digit e22 (by decide)
  have k0_15 : fld n 0 15 = 0 := fld_join (fld_digit e0 (by decide)) (fld_digit e3 (by decide))
  have hx0 := x0.isLt
  have hn := Option.some.inj hn
  refine ⟨digits_lt e26 (by decide), decodeWord_of (shape_3A (fld_digit (p := 0) (e26.trans (by decide)) (by decide))) ?_ hw⟩
  unfold shape3A
  rw [if_neg (by unfold fld; omega), if_neg (by unfold fld; omega), if_neg (fun h => absurd (k22_4.symm.trans h.1) (by decide)), if_neg (fun h => absurd (k22_4.symm.trans h.1) (by decide)), if_neg (fun h => absurd (k22_4.symm.trans h.1) (by decide)), if_neg (fun h => absurd (k22_4.symm.trans h.1) (by decide))]
  rw [if_pos ⟨k22_4, k0_15⟩]
  rw [show bfld n 15 7 = x0 from bfld_digit e15]

/-- Its word and back. -/
theorem RoundTrip.pedrd (x0 : BitVec 8) : RoundTrip.Statement (.pedrd x0) := by
  intro n hw hn
  have e0 : n / 2 ^ 0 = (((58 * 2 ^ 4 + 6) * 2 ^ 8 + x0.toNat) * 2 ^ 11 + 0) * 2 ^ 3 + 0 := by
    have hn := Option.some.inj hn
    rw [Nat.pow_zero, Nat.div_one]; omega
  have e3 := div_next e0 (by decide)
  have e14 := div_next e3 (by decide)
  have e22 := div_next e14 x0.isLt
  have e26 := div_next e22 (by decide)
  have k22_4 : fld n 22 4 = 6 := fld_digit e22 (by decide)
  have k0_14 : fld n 0 14 = 0 := fld_join (fld_digit e0 (by decide)) (fld_digit e3 (by decide))
  have hx0 := x0.isLt
  have hn := Option.some.inj hn
  refine ⟨digits_lt e26 (by decide), decodeWord_of (shape_3A (fld_digit (p := 0) (e26.trans (by decide)) (by decide))) ?_ hw⟩
  unfold shape3A
  rw [if_neg (by unfold fld; omega), if_neg (by unfold fld; omega), if_neg (fun h => absurd (k22_4.symm.trans h.1) (by decide)), if_neg (fun h => absurd (k22_4.symm.trans h.1) (by decide)), if_neg (fun h => absurd (k22_4.symm.trans h.1) (by decide)), if_neg (fun h => absurd (k22_4.symm.trans h.1) (by decide)), if_neg (fun h => absurd (k22_4.symm.trans h.1) (by decide))]
  rw [if_pos ⟨k22_4, k0_14⟩]
  rw [show bfld n 14 8 = x0 from bfld_digit e14]

/-- Its word and back. -/
theorem RoundTrip.oskip (x0 : BitVec 8) : RoundTrip.Statement (.oskip x0) := by
  intro n hw hn
  have e0 : n / 2 ^ 0 = (((58 * 2 ^ 4 + 10) * 2 ^ 8 + x0.toNat) * 2 ^ 11 + 0) * 2 ^ 3 + 0 := by
    have hn := Option.some.inj hn
    rw [Nat.pow_zero, Nat.div_one]; omega
  have e3 := div_next e0 (by decide)
  have e14 := div_next e3 (by decide)
  have e22 := div_next e14 x0.isLt
  have e26 := div_next e22 (by decide)
  have k22_4 : fld n 22 4 = 10 := fld_digit e22 (by decide)
  have k0_14 : fld n 0 14 = 0 := fld_join (fld_digit e0 (by decide)) (fld_digit e3 (by decide))
  have hx0 := x0.isLt
  have hn := Option.some.inj hn
  refine ⟨digits_lt e26 (by decide), decodeWord_of (shape_3A (fld_digit (p := 0) (e26.trans (by decide)) (by decide))) ?_ hw⟩
  unfold shape3A
  rw [if_neg (by unfold fld; omega), if_neg (by unfold fld; omega), if_neg (fun h => absurd (k22_4.symm.trans h.1) (by decide)), if_neg (fun h => absurd (k22_4.symm.trans h.1) (by decide)), if_neg (fun h => absurd (k22_4.symm.trans h.1) (by decide)), if_neg (fun h => absurd (k22_4.symm.trans h.1) (by decide)), if_neg (fun h => absurd (k22_4.symm.trans h.1) (by decide)), if_neg (fun h => absurd (k22_4.symm.trans h.1) (by decide))]
  rw [if_pos ⟨k22_4, k0_14⟩]
  rw [show bfld n 14 8 = x0 from bfld_digit e14]

/-- Its word and back. -/
theorem RoundTrip.prio (x0 : BitVec 8) : RoundTrip.Statement (.prio x0) := by
  intro n hw hn
  have e0 : n / 2 ^ 0 = (((58 * 2 ^ 4 + 11) * 2 ^ 8 + x0.toNat) * 2 ^ 11 + 0) * 2 ^ 3 + 0 := by
    have hn := Option.some.inj hn
    rw [Nat.pow_zero, Nat.div_one]; omega
  have e3 := div_next e0 (by decide)
  have e14 := div_next e3 (by decide)
  have e22 := div_next e14 x0.isLt
  have e26 := div_next e22 (by decide)
  have k22_4 : fld n 22 4 = 11 := fld_digit e22 (by decide)
  have k0_14 : fld n 0 14 = 0 := fld_join (fld_digit e0 (by decide)) (fld_digit e3 (by decide))
  have hx0 := x0.isLt
  have hn := Option.some.inj hn
  refine ⟨digits_lt e26 (by decide), decodeWord_of (shape_3A (fld_digit (p := 0) (e26.trans (by decide)) (by decide))) ?_ hw⟩
  unfold shape3A
  rw [if_neg (by unfold fld; omega), if_neg (by unfold fld; omega), if_neg (fun h => absurd (k22_4.symm.trans h.1) (by decide)), if_neg (fun h => absurd (k22_4.symm.trans h.1) (by decide)), if_neg (fun h => absurd (k22_4.symm.trans h.1) (by decide)), if_neg (fun h => absurd (k22_4.symm.trans h.1) (by decide)), if_neg (fun h => absurd (k22_4.symm.trans h.1) (by decide)), if_neg (fun h => absurd (k22_4.symm.trans h.1) (by decide)), if_neg (fun h => absurd (k22_4.symm.trans h.1) (by decide))]
  rw [if_pos ⟨k22_4, k0_14⟩]
  rw [show bfld n 14 8 = x0 from bfld_digit e14]

/-- Its word and back. -/
theorem RoundTrip.rview (x0 : BitVec 8) (x1 : BitVec 1) : RoundTrip.Statement (.rview x0 x1) := by
  intro n hw hn
  have e0 : n / 2 ^ 0 = ((((58 * 2 ^ 4 + 9) * 2 ^ 8 + x0.toNat) * 2 ^ 11 + 0) * 2 ^ 2 + 0) * 2 ^ 1 + x1.toNat := by
    have hn := Option.some.inj hn
    rw [Nat.pow_zero, Nat.div_one]; omega
  have e1 := div_next e0 x1.isLt
  have e3 := div_next e1 (by decide)
  have e14 := div_next e3 (by decide)
  have e22 := div_next e14 x0.isLt
  have e26 := div_next e22 (by decide)
  have k22_4 : fld n 22 4 = 9 := fld_digit e22 (by decide)
  have k1_13 : fld n 1 13 = 0 := fld_join (fld_digit e1 (by decide)) (fld_digit e3 (by decide))
  have hx0 := x0.isLt
  have hx1 := x1.isLt
  have hn := Option.some.inj hn
  refine ⟨digits_lt e26 (by decide), decodeWord_of (shape_3A (fld_digit (p := 0) (e26.trans (by decide)) (by decide))) ?_ hw⟩
  unfold shape3A
  rw [if_neg (by unfold fld; omega), if_neg (by unfold fld; omega), if_neg (fun h => absurd (k22_4.symm.trans h.1) (by decide)), if_neg (fun h => absurd (k22_4.symm.trans h.1) (by decide)), if_neg (fun h => absurd (k22_4.symm.trans h.1) (by decide)), if_neg (fun h => absurd (k22_4.symm.trans h.1) (by decide)), if_neg (fun h => absurd (k22_4.symm.trans h.1) (by decide)), if_neg (fun h => absurd (k22_4.symm.trans h.1) (by decide)), if_neg (fun h => absurd (k22_4.symm.trans h.1) (by decide)), if_neg (fun h => absurd (k22_4.symm.trans h.1) (by decide))]
  rw [if_pos ⟨k22_4, k1_13⟩]
  rw [show bfld n 14 8 = x0 from bfld_digit e14]
  rw [show bfld n 0 1 = x1 from bfld_digit e0]

/-- Its word and back. -/
theorem RoundTrip.spawna (x0 : BitVec 7) (x1 : BitVec 7) : RoundTrip.Statement (.spawna x0 x1) := by
  intro n hw hn
  have e0 : n / 2 ^ 0 = ((((((58 * 2 ^ 4 + 2) * 2 ^ 7 + x0.toNat) * 2 ^ 1 + 0) * 2 ^ 7 + x1.toNat) * 2 ^ 4 + 0) * 2 ^ 2 + 0) * 2 ^ 1 + 0 := by
    have hn := Option.some.inj hn
    rw [Nat.pow_zero, Nat.div_one]; omega
  have e1 := div_next e0 (by decide)
  have e3 := div_next e1 (by decide)
  have e7 := div_next e3 (by decide)
  have e14 := div_next e7 x1.isLt
  have e15 := div_next e14 (by decide)
  have e22 := div_next e15 x0.isLt
  have e26 := div_next e22 (by decide)
  have k22_4 : fld n 22 4 = 2 := fld_digit e22 (by decide)
  have k14_1 : fld n 14 1 = 0 := fld_digit e14 (by decide)
  have k0_7 : fld n 0 7 = 0 := fld_join (fld_digit e0 (by decide)) (fld_join (fld_digit e1 (by decide)) (fld_digit e3 (by decide)))
  have hx0 := x0.isLt
  have hx1 := x1.isLt
  have hn := Option.some.inj hn
  refine ⟨digits_lt e26 (by decide), decodeWord_of (shape_3A (fld_digit (p := 0) (e26.trans (by decide)) (by decide))) ?_ hw⟩
  unfold shape3A
  rw [if_neg (by unfold fld; omega), if_neg (by unfold fld; omega), if_neg (fun h => absurd (k22_4.symm.trans h.1) (by decide)), if_neg (fun h => absurd (k22_4.symm.trans h.1) (by decide)), if_neg (fun h => absurd (k22_4.symm.trans h.1) (by decide)), if_neg (fun h => absurd (k22_4.symm.trans h.1) (by decide)), if_neg (fun h => absurd (k22_4.symm.trans h.1) (by decide)), if_neg (fun h => absurd (k22_4.symm.trans h.1) (by decide)), if_neg (fun h => absurd (k22_4.symm.trans h.1) (by decide)), if_neg (fun h => absurd (k22_4.symm.trans h.1) (by decide)), if_neg (fun h => absurd (k22_4.symm.trans h.1) (by decide))]
  rw [if_pos ⟨k22_4, k14_1, k0_7⟩]
  rw [show bfld n 15 7 = x0 from bfld_digit e15]
  rw [show bfld n 7 7 = x1 from bfld_digit e7]

/-- Its word and back. -/
theorem RoundTrip.prand (x0 : BitVec 4) (x1 : BitVec 6) : RoundTrip.Statement (.prand x0 x1) := by
  intro n hw hn
  have e0 : n / 2 ^ 0 = ((59 * 2 ^ 4 + x0.toNat) * 2 ^ 6 + x1.toNat) * 2 ^ 16 + 0 := by
    have hn := Option.some.inj hn
    rw [Nat.pow_zero, Nat.div_one]; omega
  have e16 := div_next e0 (by decide)
  have e22 := div_next e16 x1.isLt
  have e26 := div_next e22 x0.isLt
  have k0_16 : fld n 0 16 = 0 := fld_digit e0 (by decide)
  refine ⟨digits_lt e26 (by decide), decodeWord_of (shape_3B (fld_digit (p := 0) (e26.trans (by decide)) (by decide))) ?_ hw⟩
  unfold shape3B
  rw [if_pos k0_16]
  rw [show bfld n 22 4 = x0 from bfld_digit e22]
  rw [show bfld n 16 6 = x1 from bfld_digit e16]

/-- Its word and back. -/
theorem RoundTrip.prandf (x0 : BitVec 4) (x1 : BitVec 6) : RoundTrip.Statement (.prandf x0 x1) := by
  intro n hw hn
  have e0 : n / 2 ^ 0 = ((59 * 2 ^ 4 + x0.toNat) * 2 ^ 6 + x1.toNat) * 2 ^ 16 + 1 := by
    have hn := Option.some.inj hn
    rw [Nat.pow_zero, Nat.div_one]; omega
  have e16 := div_next e0 (by decide)
  have e22 := div_next e16 x1.isLt
  have e26 := div_next e22 x0.isLt
  have k0_16 : fld n 0 16 = 1 := fld_digit e0 (by decide)
  refine ⟨digits_lt e26 (by decide), decodeWord_of (shape_3B (fld_digit (p := 0) (e26.trans (by decide)) (by decide))) ?_ hw⟩
  unfold shape3B
  rw [if_neg (fun h => absurd (k0_16.symm.trans h) (by decide))]
  rw [if_pos k0_16]
  rw [show bfld n 22 4 = x0 from bfld_digit e22]
  rw [show bfld n 16 6 = x1 from bfld_digit e16]

/-- Its word and back. -/
theorem RoundTrip.rupd (x0 : BitVec 4) (x1 : BitVec 6) (x2 : BitVec 6) (x3 : BitVec 6) : RoundTrip.Statement (.rupd x0 x1 x2 x3) := by
  intro n hw hn
  have e0 : n / 2 ^ 0 = ((((59 * 2 ^ 4 + x0.toNat) * 2 ^ 6 + x1.toNat) * 2 ^ 6 + x2.toNat) * 2 ^ 6 + x3.toNat) * 2 ^ 4 + 2 := by
    have hn := Option.some.inj hn
    rw [Nat.pow_zero, Nat.div_one]; omega
  have e4 := div_next e0 (by decide)
  have e10 := div_next e4 x3.isLt
  have e16 := div_next e10 x2.isLt
  have e22 := div_next e16 x1.isLt
  have e26 := div_next e22 x0.isLt
  have k0_4 : fld n 0 4 = 2 := fld_digit e0 (by decide)
  have hx0 := x0.isLt
  have hx1 := x1.isLt
  have hx2 := x2.isLt
  have hx3 := x3.isLt
  have hn := Option.some.inj hn
  refine ⟨digits_lt e26 (by decide), decodeWord_of (shape_3B (fld_digit (p := 0) (e26.trans (by decide)) (by decide))) ?_ hw⟩
  unfold shape3B
  rw [if_neg (by unfold fld; omega), if_neg (by unfold fld; omega)]
  rw [if_pos k0_4]
  rw [show bfld n 22 4 = x0 from bfld_digit e22]
  rw [show bfld n 16 6 = x1 from bfld_digit e16]
  rw [show bfld n 10 6 = x2 from bfld_digit e10]
  rw [show bfld n 4 6 = x3 from bfld_digit e4]

/-- Its word and back. -/
theorem RoundTrip.csrwSeed (x0 : BitVec 7) : RoundTrip.Statement (.csrwSeed x0) := by
  intro n hw hn
  have e0 : n / 2 ^ 0 = ((60 * 2 ^ 4 + 1) * 2 ^ 7 + x0.toNat) * 2 ^ 15 + 2 := by
    have hn := Option.some.inj hn
    rw [Nat.pow_zero, Nat.div_one]; omega
  have e15 := div_next e0 (by decide)
  have e22 := div_next e15 x0.isLt
  have e26 := div_next e22 (by decide)
  have k22_4 : fld n 22 4 = 1 := fld_digit e22 (by decide)
  have k0_15 : fld n 0 15 = 2 := fld_digit e0 (by decide)
  refine ⟨digits_lt e26 (by decide), decodeWord_of (shape_3C (fld_digit (p := 0) (e26.trans (by decide)) (by decide))) ?_ hw⟩
  unfold shape3C
  rw [if_pos ⟨k22_4, k0_15⟩]
  rw [show bfld n 15 7 = x0 from bfld_digit e15]

/-- Its word and back. -/
theorem RoundTrip.clock (x0 : BitVec 7) : RoundTrip.Statement (.clock x0) := by
  intro n hw hn
  have e0 : n / 2 ^ 0 = ((60 * 2 ^ 4 + 2) * 2 ^ 7 + x0.toNat) * 2 ^ 15 + 0 := by
    have hn := Option.some.inj hn
    rw [Nat.pow_zero, Nat.div_one]; omega
  have e15 := div_next e0 (by decide)
  have e22 := div_next e15 x0.isLt
  have e26 := div_next e22 (by decide)
  have k22_4 : fld n 22 4 = 2 := fld_digit e22 (by decide)
  have k0_15 : fld n 0 15 = 0 := fld_digit e0 (by decide)
  refine ⟨digits_lt e26 (by decide), decodeWord_of (shape_3C (fld_digit (p := 0) (e26.trans (by decide)) (by decide))) ?_ hw⟩
  unfold shape3C
  rw [if_neg (fun h => absurd (k22_4.symm.trans h.1) (by decide))]
  rw [if_pos ⟨k22_4, k0_15⟩]
  rw [show bfld n 15 7 = x0 from bfld_digit e15]

/-- Its word and back. -/
theorem RoundTrip.tlbinv (x0 : BitVec 7) : RoundTrip.Statement (.tlbinv x0) := by
  intro n hw hn
  have e0 : n / 2 ^ 0 = ((60 * 2 ^ 4 + 5) * 2 ^ 7 + x0.toNat) * 2 ^ 15 + 0 := by
    have hn := Option.some.inj hn
    rw [Nat.pow_zero, Nat.div_one]; omega
  have e15 := div_next e0 (by decide)
  have e22 := div_next e15 x0.isLt
  have e26 := div_next e22 (by decide)
  have k22_4 : fld n 22 4 = 5 := fld_digit e22 (by decide)
  have k0_15 : fld n 0 15 = 0 := fld_digit e0 (by decide)
  refine ⟨digits_lt e26 (by decide), decodeWord_of (shape_3C (fld_digit (p := 0) (e26.trans (by decide)) (by decide))) ?_ hw⟩
  unfold shape3C
  rw [if_neg (fun h => absurd (k22_4.symm.trans h.1) (by decide)), if_neg (fun h => absurd (k22_4.symm.trans h.1) (by decide))]
  rw [if_pos ⟨k22_4, k0_15⟩]
  rw [show bfld n 15 7 = x0 from bfld_digit e15]

/-- Its word and back. -/
theorem RoundTrip.ctxsv (x0 : BitVec 7) : RoundTrip.Statement (.ctxsv x0) := by
  intro n hw hn
  have e0 : n / 2 ^ 0 = ((60 * 2 ^ 4 + 6) * 2 ^ 7 + x0.toNat) * 2 ^ 15 + 0 := by
    have hn := Option.some.inj hn
    rw [Nat.pow_zero, Nat.div_one]; omega
  have e15 := div_next e0 (by decide)
  have e22 := div_next e15 x0.isLt
  have e26 := div_next e22 (by decide)
  have k22_4 : fld n 22 4 = 6 := fld_digit e22 (by decide)
  have k0_15 : fld n 0 15 = 0 := fld_digit e0 (by decide)
  refine ⟨digits_lt e26 (by decide), decodeWord_of (shape_3C (fld_digit (p := 0) (e26.trans (by decide)) (by decide))) ?_ hw⟩
  unfold shape3C
  rw [if_neg (fun h => absurd (k22_4.symm.trans h.1) (by decide)), if_neg (fun h => absurd (k22_4.symm.trans h.1) (by decide)), if_neg (fun h => absurd (k22_4.symm.trans h.1) (by decide))]
  rw [if_pos ⟨k22_4, k0_15⟩]
  rw [show bfld n 15 7 = x0 from bfld_digit e15]

/-- Its word and back. -/
theorem RoundTrip.ctxld (x0 : BitVec 7) : RoundTrip.Statement (.ctxld x0) := by
  intro n hw hn
  have e0 : n / 2 ^ 0 = ((60 * 2 ^ 4 + 7) * 2 ^ 7 + x0.toNat) * 2 ^ 15 + 0 := by
    have hn := Option.some.inj hn
    rw [Nat.pow_zero, Nat.div_one]; omega
  have e15 := div_next e0 (by decide)
  have e22 := div_next e15 x0.isLt
  have e26 := div_next e22 (by decide)
  have k22_4 : fld n 22 4 = 7 := fld_digit e22 (by decide)
  have k0_15 : fld n 0 15 = 0 := fld_digit e0 (by decide)
  refine ⟨digits_lt e26 (by decide), decodeWord_of (shape_3C (fld_digit (p := 0) (e26.trans (by decide)) (by decide))) ?_ hw⟩
  unfold shape3C
  rw [if_neg (fun h => absurd (k22_4.symm.trans h.1) (by decide)), if_neg (fun h => absurd (k22_4.symm.trans h.1) (by decide)), if_neg (fun h => absurd (k22_4.symm.trans h.1) (by decide)), if_neg (fun h => absurd (k22_4.symm.trans h.1) (by decide))]
  rw [if_pos ⟨k22_4, k0_15⟩]
  rw [show bfld n 15 7 = x0 from bfld_digit e15]

/-- Its word and back. -/
theorem RoundTrip.csrwStat (x0 : BitVec 8) : RoundTrip.Statement (.csrwStat x0) := by
  intro n hw hn
  have e0 : n / 2 ^ 0 = ((60 * 2 ^ 4 + 1) * 2 ^ 8 + x0.toNat) * 2 ^ 14 + 0 := by
    have hn := Option.some.inj hn
    rw [Nat.pow_zero, Nat.div_one]; omega
  have e14 := div_next e0 (by decide)
  have e22 := div_next e14 x0.isLt
  have e26 := div_next e22 (by decide)
  have k22_4 : fld n 22 4 = 1 := fld_digit e22 (by decide)
  have k0_14 : fld n 0 14 = 0 := fld_digit e0 (by decide)
  have hx0 := x0.isLt
  have hn := Option.some.inj hn
  refine ⟨digits_lt e26 (by decide), decodeWord_of (shape_3C (fld_digit (p := 0) (e26.trans (by decide)) (by decide))) ?_ hw⟩
  unfold shape3C
  rw [if_neg (by unfold fld; omega), if_neg (fun h => absurd (k22_4.symm.trans h.1) (by decide)), if_neg (fun h => absurd (k22_4.symm.trans h.1) (by decide)), if_neg (fun h => absurd (k22_4.symm.trans h.1) (by decide)), if_neg (fun h => absurd (k22_4.symm.trans h.1) (by decide))]
  rw [if_pos ⟨k22_4, k0_14⟩]
  rw [show bfld n 14 8 = x0 from bfld_digit e14]

/-- Its word and back. -/
theorem RoundTrip.csrwLxs (x0 : BitVec 8) : RoundTrip.Statement (.csrwLxs x0) := by
  intro n hw hn
  have e0 : n / 2 ^ 0 = ((60 * 2 ^ 4 + 1) * 2 ^ 8 + x0.toNat) * 2 ^ 14 + 16 := by
    have hn := Option.some.inj hn
    rw [Nat.pow_zero, Nat.div_one]; omega
  have e14 := div_next e0 (by decide)
  have e22 := div_next e14 x0.isLt
  have e26 := div_next e22 (by decide)
  have k22_4 : fld n 22 4 = 1 := fld_digit e22 (by decide)
  have k0_14 : fld n 0 14 = 16 := fld_digit e0 (by decide)
  have hx0 := x0.isLt
  have hn := Option.some.inj hn
  refine ⟨digits_lt e26 (by decide), decodeWord_of (shape_3C (fld_digit (p := 0) (e26.trans (by decide)) (by decide))) ?_ hw⟩
  unfold shape3C
  rw [if_neg (by unfold fld; omega), if_neg (fun h => absurd (k22_4.symm.trans h.1) (by decide)), if_neg (fun h => absurd (k22_4.symm.trans h.1) (by decide)), if_neg (fun h => absurd (k22_4.symm.trans h.1) (by decide)), if_neg (fun h => absurd (k22_4.symm.trans h.1) (by decide)), if_neg (fun h => absurd (k0_14.symm.trans h.2) (by decide))]
  rw [if_pos ⟨k22_4, k0_14⟩]
  rw [show bfld n 14 8 = x0 from bfld_digit e14]

/-- Its word and back. -/
theorem RoundTrip.csrwLxp (x0 : BitVec 8) : RoundTrip.Statement (.csrwLxp x0) := by
  intro n hw hn
  have e0 : n / 2 ^ 0 = ((60 * 2 ^ 4 + 1) * 2 ^ 8 + x0.toNat) * 2 ^ 14 + 17 := by
    have hn := Option.some.inj hn
    rw [Nat.pow_zero, Nat.div_one]; omega
  have e14 := div_next e0 (by decide)
  have e22 := div_next e14 x0.isLt
  have e26 := div_next e22 (by decide)
  have k22_4 : fld n 22 4 = 1 := fld_digit e22 (by decide)
  have k0_14 : fld n 0 14 = 17 := fld_digit e0 (by decide)
  have hx0 := x0.isLt
  have hn := Option.some.inj hn
  refine ⟨digits_lt e26 (by decide), decodeWord_of (shape_3C (fld_digit (p := 0) (e26.trans (by decide)) (by decide))) ?_ hw⟩
  unfold shape3C
  rw [if_neg (by unfold fld; omega), if_neg (fun h => absurd (k22_4.symm.trans h.1) (by decide)), if_neg (fun h => absurd (k22_4.symm.trans h.1) (by decide)), if_neg (fun h => absurd (k22_4.symm.trans h.1) (by decide)), if_neg (fun h => absurd (k22_4.symm.trans h.1) (by decide)), if_neg (fun h => absurd (k0_14.symm.trans h.2) (by decide)), if_neg (fun h => absurd (k0_14.symm.trans h.2) (by decide))]
  rw [if_pos ⟨k22_4, k0_14⟩]
  rw [show bfld n 14 8 = x0 from bfld_digit e14]

/-- Its word and back. -/
theorem RoundTrip.csrwCpyshare (x0 : BitVec 8) : RoundTrip.Statement (.csrwCpyshare x0) := by
  intro n hw hn
  have e0 : n / 2 ^ 0 = ((60 * 2 ^ 4 + 1) * 2 ^ 8 + x0.toNat) * 2 ^ 14 + 18 := by
    have hn := Option.some.inj hn
    rw [Nat.pow_zero, Nat.div_one]; omega
  have e14 := div_next e0 (by decide)
  have e22 := div_next e14 x0.isLt
  have e26 := div_next e22 (by decide)
  have k22_4 : fld n 22 4 = 1 := fld_digit e22 (by decide)
  have k0_14 : fld n 0 14 = 18 := fld_digit e0 (by decide)
  have hx0 := x0.isLt
  have hn := Option.some.inj hn
  refine ⟨digits_lt e26 (by decide), decodeWord_of (shape_3C (fld_digit (p := 0) (e26.trans (by decide)) (by decide))) ?_ hw⟩
  unfold shape3C
  rw [if_neg (by unfold fld; omega), if_neg (fun h => absurd (k22_4.symm.trans h.1) (by decide)), if_neg (fun h => absurd (k22_4.symm.trans h.1) (by decide)), if_neg (fun h => absurd (k22_4.symm.trans h.1) (by decide)), if_neg (fun h => absurd (k22_4.symm.trans h.1) (by decide)), if_neg (fun h => absurd (k0_14.symm.trans h.2) (by decide)), if_neg (fun h => absurd (k0_14.symm.trans h.2) (by decide)), if_neg (fun h => absurd (k0_14.symm.trans h.2) (by decide))]
  rw [if_pos ⟨k22_4, k0_14⟩]
  rw [show bfld n 14 8 = x0 from bfld_digit e14]

/-- Its word and back. -/
theorem RoundTrip.locq (x0 : BitVec 8) : RoundTrip.Statement (.locq x0) := by
  intro n hw hn
  have e0 : n / 2 ^ 0 = ((60 * 2 ^ 4 + 3) * 2 ^ 8 + x0.toNat) * 2 ^ 14 + 0 := by
    have hn := Option.some.inj hn
    rw [Nat.pow_zero, Nat.div_one]; omega
  have e14 := div_next e0 (by decide)
  have e22 := div_next e14 x0.isLt
  have e26 := div_next e22 (by decide)
  have k22_4 : fld n 22 4 = 3 := fld_digit e22 (by decide)
  have k0_14 : fld n 0 14 = 0 := fld_digit e0 (by decide)
  refine ⟨digits_lt e26 (by decide), decodeWord_of (shape_3C (fld_digit (p := 0) (e26.trans (by decide)) (by decide))) ?_ hw⟩
  unfold shape3C
  rw [if_neg (fun h => absurd (k22_4.symm.trans h.1) (by decide)), if_neg (fun h => absurd (k22_4.symm.trans h.1) (by decide)), if_neg (fun h => absurd (k22_4.symm.trans h.1) (by decide)), if_neg (fun h => absurd (k22_4.symm.trans h.1) (by decide)), if_neg (fun h => absurd (k22_4.symm.trans h.1) (by decide)), if_neg (fun h => absurd (k22_4.symm.trans h.1) (by decide)), if_neg (fun h => absurd (k22_4.symm.trans h.1) (by decide)), if_neg (fun h => absurd (k22_4.symm.trans h.1) (by decide)), if_neg (fun h => absurd (k22_4.symm.trans h.1) (by decide))]
  rw [if_pos ⟨k22_4, k0_14⟩]
  rw [show bfld n 14 8 = x0 from bfld_digit e14]

/-- Its word and back. -/
theorem RoundTrip.csrwLxt (x0 : BitVec 8) (x1 : BitVec 3) : RoundTrip.Statement (.csrwLxt x0 x1) := by
  intro n hw hn
  have e0 : n / 2 ^ 0 = (((60 * 2 ^ 4 + 1) * 2 ^ 8 + x0.toNat) * 2 ^ 11 + 258) * 2 ^ 3 + x1.toNat := by
    have hn := Option.some.inj hn
    rw [Nat.pow_zero, Nat.div_one]; omega
  have e3 := div_next e0 x1.isLt
  have e14 := div_next e3 (by decide)
  have e22 := div_next e14 x0.isLt
  have e26 := div_next e22 (by decide)
  have k22_4 : fld n 22 4 = 1 := fld_digit e22 (by decide)
  have k3_11 : fld n 3 11 = 258 := fld_digit e3 (by decide)
  have hx0 := x0.isLt
  have hx1 := x1.isLt
  have hn := Option.some.inj hn
  refine ⟨digits_lt e26 (by decide), decodeWord_of (shape_3C (fld_digit (p := 0) (e26.trans (by decide)) (by decide))) ?_ hw⟩
  unfold shape3C
  rw [if_neg (by unfold fld; omega), if_neg (fun h => absurd (k22_4.symm.trans h.1) (by decide)), if_neg (fun h => absurd (k22_4.symm.trans h.1) (by decide)), if_neg (fun h => absurd (k22_4.symm.trans h.1) (by decide)), if_neg (fun h => absurd (k22_4.symm.trans h.1) (by decide)), if_neg (by unfold fld; omega), if_neg (by unfold fld; omega), if_neg (by unfold fld; omega), if_neg (by unfold fld; omega), if_neg (fun h => absurd (k22_4.symm.trans h.1) (by decide))]
  rw [if_pos ⟨k22_4, k3_11⟩]
  rw [show bfld n 14 8 = x0 from bfld_digit e14]
  rw [show bfld n 0 3 = x1 from bfld_digit e0]

/-- Its word and back. -/
theorem RoundTrip.csrwPerfsel (x0 : BitVec 8) (x1 : BitVec 4) : RoundTrip.Statement (.csrwPerfsel x0 x1) := by
  intro n hw hn
  have e0 : n / 2 ^ 0 = (((60 * 2 ^ 4 + 1) * 2 ^ 8 + x0.toNat) * 2 ^ 10 + 3) * 2 ^ 4 + x1.toNat := by
    have hn := Option.some.inj hn
    rw [Nat.pow_zero, Nat.div_one]; omega
  have e4 := div_next e0 x1.isLt
  have e14 := div_next e4 (by decide)
  have e22 := div_next e14 x0.isLt
  have e26 := div_next e22 (by decide)
  have k22_4 : fld n 22 4 = 1 := fld_digit e22 (by decide)
  have k4_10 : fld n 4 10 = 3 := fld_digit e4 (by decide)
  have hx0 := x0.isLt
  have hx1 := x1.isLt
  have hn := Option.some.inj hn
  refine ⟨digits_lt e26 (by decide), decodeWord_of (shape_3C (fld_digit (p := 0) (e26.trans (by decide)) (by decide))) ?_ hw⟩
  unfold shape3C
  rw [if_neg (by unfold fld; omega), if_neg (fun h => absurd (k22_4.symm.trans h.1) (by decide)), if_neg (fun h => absurd (k22_4.symm.trans h.1) (by decide)), if_neg (fun h => absurd (k22_4.symm.trans h.1) (by decide)), if_neg (fun h => absurd (k22_4.symm.trans h.1) (by decide)), if_neg (by unfold fld; omega), if_neg (by unfold fld; omega), if_neg (by unfold fld; omega), if_neg (by unfold fld; omega), if_neg (fun h => absurd (k22_4.symm.trans h.1) (by decide)), if_neg (by unfold fld; omega)]
  rw [if_pos ⟨k22_4, k4_10⟩]
  rw [show bfld n 14 8 = x0 from bfld_digit e14]
  rw [show bfld n 0 4 = x1 from bfld_digit e0]

/-- Its word and back. -/
theorem RoundTrip.perfrd (x0 : BitVec 8) (x1 : BitVec 4) : RoundTrip.Statement (.perfrd x0 x1) := by
  intro n hw hn
  have e0 : n / 2 ^ 0 = (((60 * 2 ^ 4 + 4) * 2 ^ 8 + x0.toNat) * 2 ^ 10 + 0) * 2 ^ 4 + x1.toNat := by
    have hn := Option.some.inj hn
    rw [Nat.pow_zero, Nat.div_one]; omega
  have e4 := div_next e0 x1.isLt
  have e14 := div_next e4 (by decide)
  have e22 := div_next e14 x0.isLt
  have e26 := div_next e22 (by decide)
  have k22_4 : fld n 22 4 = 4 := fld_digit e22 (by decide)
  have k4_10 : fld n 4 10 = 0 := fld_digit e4 (by decide)
  refine ⟨digits_lt e26 (by decide), decodeWord_of (shape_3C (fld_digit (p := 0) (e26.trans (by decide)) (by decide))) ?_ hw⟩
  unfold shape3C
  rw [if_neg (fun h => absurd (k22_4.symm.trans h.1) (by decide)), if_neg (fun h => absurd (k22_4.symm.trans h.1) (by decide)), if_neg (fun h => absurd (k22_4.symm.trans h.1) (by decide)), if_neg (fun h => absurd (k22_4.symm.trans h.1) (by decide)), if_neg (fun h => absurd (k22_4.symm.trans h.1) (by decide)), if_neg (fun h => absurd (k22_4.symm.trans h.1) (by decide)), if_neg (fun h => absurd (k22_4.symm.trans h.1) (by decide)), if_neg (fun h => absurd (k22_4.symm.trans h.1) (by decide)), if_neg (fun h => absurd (k22_4.symm.trans h.1) (by decide)), if_neg (fun h => absurd (k22_4.symm.trans h.1) (by decide)), if_neg (fun h => absurd (k22_4.symm.trans h.1) (by decide)), if_neg (fun h => absurd (k22_4.symm.trans h.1) (by decide))]
  rw [if_pos ⟨k22_4, k4_10⟩]
  rw [show bfld n 14 8 = x0 from bfld_digit e14]
  rw [show bfld n 0 4 = x1 from bfld_digit e0]

/-- Its word and back. -/
theorem RoundTrip.csrr (x0 : BitVec 8) (x1 : BitVec 12) : RoundTrip.Statement (.csrr x0 x1) := by
  intro n hw hn
  have e0 : n / 2 ^ 0 = (((60 * 2 ^ 4 + 0) * 2 ^ 8 + x0.toNat) * 2 ^ 2 + 0) * 2 ^ 12 + x1.toNat := by
    have hn := Option.some.inj hn
    rw [Nat.pow_zero, Nat.div_one]; omega
  have e12 := div_next e0 x1.isLt
  have e14 := div_next e12 (by decide)
  have e22 := div_next e14 x0.isLt
  have e26 := div_next e22 (by decide)
  have k22_4 : fld n 22 4 = 0 := fld_digit e22 (by decide)
  have k12_2 : fld n 12 2 = 0 := fld_digit e12 (by decide)
  refine ⟨digits_lt e26 (by decide), decodeWord_of (shape_3C (fld_digit (p := 0) (e26.trans (by decide)) (by decide))) ?_ hw⟩
  unfold shape3C
  rw [if_neg (fun h => absurd (k22_4.symm.trans h.1) (by decide)), if_neg (fun h => absurd (k22_4.symm.trans h.1) (by decide)), if_neg (fun h => absurd (k22_4.symm.trans h.1) (by decide)), if_neg (fun h => absurd (k22_4.symm.trans h.1) (by decide)), if_neg (fun h => absurd (k22_4.symm.trans h.1) (by decide)), if_neg (fun h => absurd (k22_4.symm.trans h.1) (by decide)), if_neg (fun h => absurd (k22_4.symm.trans h.1) (by decide)), if_neg (fun h => absurd (k22_4.symm.trans h.1) (by decide)), if_neg (fun h => absurd (k22_4.symm.trans h.1) (by decide)), if_neg (fun h => absurd (k22_4.symm.trans h.1) (by decide)), if_neg (fun h => absurd (k22_4.symm.trans h.1) (by decide)), if_neg (fun h => absurd (k22_4.symm.trans h.1) (by decide)), if_neg (fun h => absurd (k22_4.symm.trans h.1) (by decide))]
  rw [if_pos ⟨k22_4, k12_2⟩]
  rw [show bfld n 14 8 = x0 from bfld_digit e14]
  rw [show bfld n 0 12 = x1 from bfld_digit e0]

/-- Its word and back. -/
theorem RoundTrip.csrw (x0 : BitVec 8) (x1 : BitVec 12) : RoundTrip.Statement (.csrw x0 x1) := by
  intro n hw hn
  have e0 : n / 2 ^ 0 = (((60 * 2 ^ 4 + 1) * 2 ^ 8 + x0.toNat) * 2 ^ 2 + 0) * 2 ^ 12 + x1.toNat := by
    have hn := Option.some.inj hn
    rw [Nat.pow_zero, Nat.div_one]; omega
  have e12 := div_next e0 x1.isLt
  have e14 := div_next e12 (by decide)
  have e22 := div_next e14 x0.isLt
  have e26 := div_next e22 (by decide)
  have k22_4 : fld n 22 4 = 1 := fld_digit e22 (by decide)
  have k12_2 : fld n 12 2 = 0 := fld_digit e12 (by decide)
  have hc : csrRdOk x0 x1 = true ∧ csrwOwnRow x0 x1.toNat = false := by
    have h : csrWrOk x0 x1 = true := hw
    unfold csrWrOk at h
    simpa using h
  have hr := hc.2
  unfold csrwOwnRow even at hr
  simp only [Bool.or_eq_false_iff, beq_eq_false_iff_ne, Bool.and_eq_false_iff, decide_eq_false_iff_not, ne_eq] at hr
  have h1 := x1.isLt
  have h0 := x0.isLt
  have hn := Option.some.inj hn
  refine ⟨digits_lt e26 (by decide), decodeWord_of (shape_3C (fld_digit (p := 0) (e26.trans (by decide)) (by decide))) ?_ hw⟩
  unfold shape3C
  rw [if_neg (by unfold fld; omega), if_neg (fun h => absurd (k22_4.symm.trans h.1) (by decide)), if_neg (fun h => absurd (k22_4.symm.trans h.1) (by decide)), if_neg (fun h => absurd (k22_4.symm.trans h.1) (by decide)), if_neg (fun h => absurd (k22_4.symm.trans h.1) (by decide)), if_neg (by unfold fld; omega), if_neg (by unfold fld; omega), if_neg (by unfold fld; omega), if_neg (by unfold fld; omega), if_neg (fun h => absurd (k22_4.symm.trans h.1) (by decide)), if_neg (by unfold fld; omega), if_neg (by unfold fld; omega), if_neg (fun h => absurd (k22_4.symm.trans h.1) (by decide)), if_neg (fun h => absurd (k22_4.symm.trans h.1) (by decide))]
  rw [if_pos ⟨k22_4, k12_2⟩]
  rw [show bfld n 14 8 = x0 from bfld_digit e14]
  rw [show bfld n 0 12 = x1 from bfld_digit e0]

/-- Its word and back. -/
theorem RoundTrip.hgrd (x0 : BitVec 4) : RoundTrip.Statement (.hgrd x0) := by
  intro n hw hn
  have e0 : n / 2 ^ 0 = (63 * 2 ^ 22 + 524288) * 2 ^ 4 + x0.toNat := by
    have hn := Option.some.inj hn
    rw [Nat.pow_zero, Nat.div_one]; omega
  have e4 := div_next e0 x0.isLt
  have e26 := div_next e4 (by decide)
  have k4_22 : fld n 4 22 = 524288 := fld_digit e4 (by decide)
  refine ⟨digits_lt e26 (by decide), decodeWord_of (shape_3F (fld_digit (p := 0) (e26.trans (by decide)) (by decide))) ?_ hw⟩
  unfold shape3F
  rw [if_pos k4_22]
  rw [show bfld n 0 4 = x0 from bfld_digit e0]

/-- Its word and back. -/
theorem RoundTrip.hseq (x0 : BitVec 6) : RoundTrip.Statement (.hseq x0) := by
  intro n hw hn
  have e0 : n / 2 ^ 0 = (63 * 2 ^ 20 + 262144) * 2 ^ 6 + x0.toNat := by
    have hn := Option.some.inj hn
    rw [Nat.pow_zero, Nat.div_one]; omega
  have e6 := div_next e0 x0.isLt
  have e26 := div_next e6 (by decide)
  have k6_20 : fld n 6 20 = 262144 := fld_digit e6 (by decide)
  have hx0 := x0.isLt
  have hn := Option.some.inj hn
  refine ⟨digits_lt e26 (by decide), decodeWord_of (shape_3F (fld_digit (p := 0) (e26.trans (by decide)) (by decide))) ?_ hw⟩
  unfold shape3F
  rw [if_neg (by unfold fld; omega)]
  rw [if_pos k6_20]
  rw [show bfld n 0 6 = x0 from bfld_digit e0]

/-- Its word and back. -/
theorem RoundTrip.hmod (x0 : BitVec 1) (x1 : BitVec 1) (x2 : BitVec 1) (x3 : BitVec 3) (x4 : BitVec 2) (x5 : BitVec 2) (x6 : BitVec 1) (x7 : BitVec 3) : RoundTrip.Statement (.hmod x0 x1 x2 x3 x4 x5 x6 x7) := by
  intro n hw hn
  have e0 : n / 2 ^ 0 = ((((((((63 * 2 ^ 12 + 256) * 2 ^ 1 + x0.toNat) * 2 ^ 1 + x1.toNat) * 2 ^ 1 + x2.toNat) * 2 ^ 3 + x3.toNat) * 2 ^ 2 + x4.toNat) * 2 ^ 2 + x5.toNat) * 2 ^ 1 + x6.toNat) * 2 ^ 3 + x7.toNat := by
    have hn := Option.some.inj hn
    rw [Nat.pow_zero, Nat.div_one]; omega
  have e3 := div_next e0 x7.isLt
  have e4 := div_next e3 x6.isLt
  have e6 := div_next e4 x5.isLt
  have e8 := div_next e6 x4.isLt
  have e11 := div_next e8 x3.isLt
  have e12 := div_next e11 x2.isLt
  have e13 := div_next e12 x1.isLt
  have e14 := div_next e13 x0.isLt
  have e26 := div_next e14 (by decide)
  have k14_12 : fld n 14 12 = 256 := fld_digit e14 (by decide)
  have hx0 := x0.isLt
  have hx1 := x1.isLt
  have hx2 := x2.isLt
  have hx3 := x3.isLt
  have hx4 := x4.isLt
  have hx5 := x5.isLt
  have hx6 := x6.isLt
  have hx7 := x7.isLt
  have hn := Option.some.inj hn
  refine ⟨digits_lt e26 (by decide), decodeWord_of (shape_3F (fld_digit (p := 0) (e26.trans (by decide)) (by decide))) ?_ hw⟩
  unfold shape3F
  rw [if_neg (by unfold fld; omega), if_neg (by unfold fld; omega)]
  rw [if_pos k14_12]
  rw [show bfld n 13 1 = x0 from bfld_digit e13]
  rw [show bfld n 12 1 = x1 from bfld_digit e12]
  rw [show bfld n 11 1 = x2 from bfld_digit e11]
  rw [show bfld n 8 3 = x3 from bfld_digit e8]
  rw [show bfld n 6 2 = x4 from bfld_digit e6]
  rw [show bfld n 4 2 = x5 from bfld_digit e4]
  rw [show bfld n 3 1 = x6 from bfld_digit e3]
  rw [show bfld n 0 3 = x7 from bfld_digit e0]

/-- Its word and back. -/
theorem RoundTrip.himm (x0 : BitVec 22) : RoundTrip.Statement (.himm x0) := by
  intro n hw hn
  have e0 : n / 2 ^ 0 = (63 * 2 ^ 4 + 0) * 2 ^ 22 + x0.toNat := by
    have hn := Option.some.inj hn
    rw [Nat.pow_zero, Nat.div_one]; omega
  have e22 := div_next e0 x0.isLt
  have e26 := div_next e22 (by decide)
  have k22_4 : fld n 22 4 = 0 := fld_digit e22 (by decide)
  have hx0 := x0.isLt
  have hn := Option.some.inj hn
  refine ⟨digits_lt e26 (by decide), decodeWord_of (shape_3F (fld_digit (p := 0) (e26.trans (by decide)) (by decide))) ?_ hw⟩
  unfold shape3F
  rw [if_neg (by unfold fld; omega), if_neg (by unfold fld; omega), if_neg (by unfold fld; omega)]
  rw [if_pos k22_4]
  rw [show bfld n 0 22 = x0 from bfld_digit e0]

/-- Its word and back. -/
theorem RoundTrip.htgt (x0 : BitVec 22) : RoundTrip.Statement (.htgt x0) := by
  intro n hw hn
  have e0 : n / 2 ^ 0 = (63 * 2 ^ 4 + 3) * 2 ^ 22 + x0.toNat := by
    have hn := Option.some.inj hn
    rw [Nat.pow_zero, Nat.div_one]; omega
  have e22 := div_next e0 x0.isLt
  have e26 := div_next e22 (by decide)
  have k22_4 : fld n 22 4 = 3 := fld_digit e22 (by decide)
  have hx0 := x0.isLt
  have hn := Option.some.inj hn
  refine ⟨digits_lt e26 (by decide), decodeWord_of (shape_3F (fld_digit (p := 0) (e26.trans (by decide)) (by decide))) ?_ hw⟩
  unfold shape3F
  rw [if_neg (by unfold fld; omega), if_neg (by unfold fld; omega), if_neg (by unfold fld; omega), if_neg (fun h => absurd (k22_4.symm.trans h) (by decide))]
  rw [if_pos k22_4]
  rw [show bfld n 0 22 = x0 from bfld_digit e0]

/-- An event has no word. -/
theorem RoundTrip.powerOnBoot (strap0 strap1 : Bool) : RoundTrip.Statement (.powerOnBoot strap0 strap1) := fun _ _ h => nomatch h

/-- An event has no word. -/
theorem RoundTrip.contextCreate (num : Nat) (sup : Bool) (ptroot seed : DWord) (ringPA : Nat) (latOff : Nat) : RoundTrip.Statement (.contextCreate num sup ptroot seed ringPA latOff) := fun _ _ h => nomatch h

/-- An event has no word. -/
theorem RoundTrip.mgmtSetPowerCap (watts : Nat) : RoundTrip.Statement (.mgmtSetPowerCap watts) := fun _ _ h => nomatch h

/-- An event has no word. -/
theorem RoundTrip.mgmtReportStatus : RoundTrip.Statement (.mgmtReportStatus) := fun _ _ h => nomatch h

/-- An event has no word. -/
theorem RoundTrip.mgmtReplaceFrontProgram (num : Nat) (text : DWord) (textsz entry : Word) (args : DWord) : RoundTrip.Statement (.mgmtReplaceFrontProgram num text textsz entry args) := fun _ _ h => nomatch h

/-- An event has no word. -/
theorem RoundTrip.mgmtTrainPort (iod port : Nat) (ok : Bool) : RoundTrip.Statement (.mgmtTrainPort iod port ok) := fun _ _ h => nomatch h

/-- An event has no word. -/
theorem RoundTrip.mgmtFirmwareUpdate (sigOk : Bool) : RoundTrip.Statement (.mgmtFirmwareUpdate sigOk) := fun _ _ h => nomatch h

/-- An event has no word. -/
theorem RoundTrip.thermalThrottle (die celsius : Nat) : RoundTrip.Statement (.thermalThrottle die celsius) := fun _ _ h => nomatch h

/-- An event has no word. -/
theorem RoundTrip.thermalShutdown (die celsius : Nat) : RoundTrip.Statement (.thermalShutdown die celsius) := fun _ _ h => nomatch h

/-- An event has no word. -/
theorem RoundTrip.hostWrite (port : Nat) (pa : Nat) (bytes : List Byte) (rid : Half) : RoundTrip.Statement (.hostWrite port pa bytes rid) := fun _ _ h => nomatch h

/-- An event has no word. -/
theorem RoundTrip.hostRead (port : Nat) (pa n : Nat) : RoundTrip.Statement (.hostRead port pa n) := fun _ _ h => nomatch h

/-- An event has no word. -/
theorem RoundTrip.errclr (iod : Nat) (val : DWord) : RoundTrip.Statement (.errclr iod val) := fun _ _ h => nomatch h

/-- An event has no word. -/
theorem RoundTrip.winEntryWrite (iod w : Nat) (hi : Bool) (val : DWord) : RoundTrip.Statement (.winEntryWrite iod w hi val) := fun _ _ h => nomatch h

/-- An event has no word. -/
theorem RoundTrip.latticeBroadcastWrite (port iod : Nat) (off : Nat) (bytes : List Byte) (rid : Half) : RoundTrip.Statement (.latticeBroadcastWrite port iod off bytes rid) := fun _ _ h => nomatch h

/-- An event has no word. -/
theorem RoundTrip.mmioRegisterWrite (port iod : Nat) (off : Nat) (bytes : List Byte) (rid : Half) : RoundTrip.Statement (.mmioRegisterWrite port iod off bytes rid) := fun _ _ h => nomatch h

/-- An event has no word. -/
theorem RoundTrip.clolyFlitReceive (iod port : Nat) (crcOk : Bool) (payload : List Byte) : RoundTrip.Statement (.clolyFlitReceive iod port crcOk payload) := fun _ _ h => nomatch h

/-- An event has no word. -/
theorem RoundTrip.clolyLinkDown (iod port : Nat) : RoundTrip.Statement (.clolyLinkDown iod port) := fun _ _ h => nomatch h

/-- An event has no word. -/
theorem RoundTrip.remoteWindowAccess (pa : Nat) (wr : Option (List Byte)) (n : Nat) : RoundTrip.Statement (.remoteWindowAccess pa wr n) := fun _ _ h => nomatch h

/-- An event has no word. -/
theorem RoundTrip.latticeExchangeRound : RoundTrip.Statement (.latticeExchangeRound) := fun _ _ h => nomatch h

/-- An event has no word. -/
theorem RoundTrip.feldsparJoinArrival : RoundTrip.Statement (.feldsparJoinArrival) := fun _ _ h => nomatch h

/-- An event has no word. -/
theorem RoundTrip.lsyncComplete (gid : Nat) : RoundTrip.Statement (.lsyncComplete gid) := fun _ _ h => nomatch h

/-- An event has no word. -/
theorem RoundTrip.monitorReread (gid : Nat) (pc : DWord) : RoundTrip.Statement (.monitorReread gid pc) := fun _ _ h => nomatch h

/-- An event has no word. -/
theorem RoundTrip.waitPoll (gid : Nat) (pc : DWord) : RoundTrip.Statement (.waitPoll gid pc) := fun _ _ h => nomatch h

/-- An event has no word. -/
theorem RoundTrip.waitForWalk : RoundTrip.Statement (.waitForWalk) := fun _ _ h => nomatch h

/-- An event has no word. -/
theorem RoundTrip.agingPromotion (gid : Nat) : RoundTrip.Statement (.agingPromotion gid) := fun _ _ h => nomatch h

/-- An event has no word. -/
theorem RoundTrip.taskStart (core part : Nat) : RoundTrip.Statement (.taskStart core part) := fun _ _ h => nomatch h

/-- An event has no word. -/
theorem RoundTrip.gangDrain (gid : Nat) : RoundTrip.Statement (.gangDrain gid) := fun _ _ h => nomatch h

/-- An event has no word. -/
theorem RoundTrip.syncComplete (gid : Nat) : RoundTrip.Statement (.syncComplete gid) := fun _ _ h => nomatch h

/-- An event has no word. -/
theorem RoundTrip.barfPhaseComplete (tkey : Nat) : RoundTrip.Statement (.barfPhaseComplete tkey) := fun _ _ h => nomatch h

/-- An event has no word. -/
theorem RoundTrip.launchStart (lkey : Nat) : RoundTrip.Statement (.launchStart lkey) := fun _ _ h => nomatch h

/-- An event has no word. -/
theorem RoundTrip.teamPlacement (lkey : Nat) : RoundTrip.Statement (.teamPlacement lkey) := fun _ _ h => nomatch h

/-- An event has no word. -/
theorem RoundTrip.launchComplete (lkey : Nat) : RoundTrip.Statement (.launchComplete lkey) := fun _ _ h => nomatch h

/-- An event has no word. -/
theorem RoundTrip.engineCommandStart (cid : Nat) : RoundTrip.Statement (.engineCommandStart cid) := fun _ _ h => nomatch h

/-- An event has no word. -/
theorem RoundTrip.engineCommandCompletion (cid : Nat) : RoundTrip.Statement (.engineCommandCompletion cid) := fun _ _ h => nomatch h

/-- An event has no word. -/
theorem RoundTrip.snapCut : RoundTrip.Statement (.snapCut) := fun _ _ h => nomatch h

/-- An event has no word. -/
theorem RoundTrip.snapBlockCopy : RoundTrip.Statement (.snapBlockCopy) := fun _ _ h => nomatch h

/-- An event has no word. -/
theorem RoundTrip.raceCheck (gid : Nat) (pa : Nat) (mask : Half) (rd : Bool) : RoundTrip.Statement (.raceCheck gid pa mask rd) := fun _ _ h => nomatch h

/-- An event has no word. -/
theorem RoundTrip.filterSpill (sect : Nat) : RoundTrip.Statement (.filterSpill sect) := fun _ _ h => nomatch h

/-- An event has no word. -/
theorem RoundTrip.migrateService (num : Nat) (va : DWord) : RoundTrip.Statement (.migrateService num va) := fun _ _ h => nomatch h

/-- An event has no word. -/
theorem RoundTrip.arenaZeroFill (num : Nat) (va : DWord) : RoundTrip.Statement (.arenaZeroFill num va) := fun _ _ h => nomatch h

/-- An event has no word. -/
theorem RoundTrip.pageWalk (num core : Nat) (va : DWord) : RoundTrip.Statement (.pageWalk num core va) := fun _ _ h => nomatch h

/-- An event has no word. -/
theorem RoundTrip.viewSpill (gid red : Nat) (out : Bool) : RoundTrip.Statement (.viewSpill gid red out) := fun _ _ h => nomatch h

/-- An event has no word. -/
theorem RoundTrip.contextRestorePlacement (num : Nat) : RoundTrip.Statement (.contextRestorePlacement num) := fun _ _ h => nomatch h

/-- An event has no word. -/
theorem RoundTrip.illegalWord (w : Word) : RoundTrip.Statement (.illegalWord w) := fun _ _ h => nomatch h

/-- An event has no word. -/
theorem RoundTrip.powerCapClockStep (down : Bool) : RoundTrip.Statement (.powerCapClockStep down) := fun _ _ h => nomatch h

/-- An event has no word. -/
theorem RoundTrip.hostConfigurationRequest (port : Nat) : RoundTrip.Statement (.hostConfigurationRequest port) := fun _ _ h => nomatch h

end Sys2Proof.Laws
end

