-- ==== Sys2Proof/Laws/Tile.lean ====
section
/-! SUPPORT. Teams, tiles, operand slots and commands found again after a change, and what an engine's work does to them. -/
namespace Sys2Proof.Machine

theorem find_map_key {α : Type} (l : List α) (f : α → α) (p : α → Bool) (h : ∀ x, p (f x) = p x) : (l.map f).find? p = (l.find? p).map f := by
  induction l with
  | nil => rfl
  | cons a l ih => simp only [List.map_cons, List.find?_cons, h]; split <;> simp_all

theorem team_mod (s : State) (k j : Nat) (f : Team → Team) (hf : ∀ t, (f t).tkey = t.tkey) :
    (s.modTeam k f).team? j = (s.team? j).map fun t => if t.tkey == k then f t else t := by
  unfold State.modTeam State.team?
  apply find_map_key
  intro t; split <;> simp [hf]

theorem team_key {s : State} {j : Nat} {t : Team} (h : s.team? j = some t) : t.tkey = j := by
  have := List.find?_some h; simpa using this

theorem tile_mod (s : State) (k : Option Nat) (h j : Nat) (f : Tile → Tile) (hf : ∀ t, (f t).hnd = t.hnd) :
    (s.modTile k h f).tile? k j = (s.tile? k j).map fun t => if t.hnd == h then f t else t := by
  cases k with
  | none => rfl
  | some k =>
    unfold State.modTile State.tile?
    simp only [team_mod s k k (fun t => { t with tiles := t.tiles.map fun x => if x.hnd == h then f x else x }) (fun _ => rfl)]
    cases ht : s.team? k with
    | none => rfl
    | some t =>
      simp only [Option.map_some]
      rw [if_pos (by simpa using team_key ht)]
      simp only
      apply find_map_key
      intro x; split <;> simp [hf]

theorem tile_hnd {s : State} {k : Option Nat} {h : Nat} {t : Tile} (e : s.tile? k h = some t) : t.hnd = h := by
  unfold State.tile? at e
  split at e
  · cases e
  · split at e
    · cases e
    · have := List.find?_some e; simpa using this

theorem tile_mod_same (s : State) (k : Option Nat) (h : Nat) (f : Tile → Tile) (hf : ∀ t, (f t).hnd = t.hnd) :
    (s.modTile k h f).tile? k h = (s.tile? k h).map f := by
  rw [tile_mod s k h h f hf]
  cases e : s.tile? k h with
  | none => rfl
  | some t => simp [tile_hnd e]

theorem slot_mod (s : State) (c : Nat) (k : Option Nat) (h j : Nat) (f : Slot → Slot) (hf : ∀ t, (f t).core = t.core ∧ (f t).tkey = t.tkey ∧ (f t).hnd = t.hnd) :
    (s.modSlot c k h f).slot? c k j = (s.slot? c k j).map fun t => if t.hnd == h then f t else t := by
  unfold State.modSlot State.slot?
  simp only
  rw [find_map_key]
  · cases e : s.slots.find? (fun x => x.core == c && some x.tkey == k && x.hnd == j) with
    | none => rfl
    | some t =>
      have := List.find?_some e
      simp only [Bool.and_eq_true, beq_iff_eq] at this
      simp [this.1.1, this.1.2]
  · intro x
    split
    · simp [(hf x).1, (hf x).2.1, (hf x).2.2]
    · rfl

theorem cmd_mod (s : State) (n : Nat) (f : Command → Command) (hf : ∀ c, (f c).cid = c.cid) :
    (s.modCmd n f).cmd? n = (s.cmd? n).map f := by
  unfold State.modCmd State.cmd?
  rw [find_map_key]
  · cases e : s.cmds.find? (fun x => x.cid == n) with
    | none => rfl
    | some c => have := List.find?_some e; simp only [Option.map_some, this, if_true]
  · intro x; split <;> simp [hf]

theorem fold_tile {f : Tile → Tile} (hf : ∀ t, (f t).hnd = t.hnd) {I J : Tile → Prop} (h1 : ∀ x, I x → J (f x)) (h2 : ∀ x, J x → I x)
    (k : Option Nat) (j : Nat) (l : List Nat) : ∀ (s : State) (t : Tile), s.tile? k j = some t → I t →
    ∃ x, (l.foldl (fun s h => s.modTile k h f) s).tile? k j = some x ∧ I x ∧ ((j ∈ l ∨ J t) → J x) := by
  induction l with
  | nil => intro s t ht hi; exact ⟨t, ht, hi, by simp⟩
  | cons a l ih =>
    intro s t ht hi
    have e := tile_mod s k a j f hf
    rw [ht] at e
    simp only [Option.map_some] at e
    have hj := tile_hnd ht
    by_cases ha : j = a
    · have : (t.hnd == a) = true := by simp [hj, ha]
      rw [this] at e
      obtain ⟨x, hx, hi', hJ⟩ := ih _ _ e (h2 _ (h1 _ hi))
      exact ⟨x, hx, hi', fun _ => hJ (.inr (h1 _ hi))⟩
    · have : (t.hnd == a) = false := by simp [hj, ha]
      rw [this] at e
      obtain ⟨x, hx, hi', hJ⟩ := ih _ _ e hi
      refine ⟨x, hx, hi', fun h => hJ ?_⟩
      rcases h with h | h
      · rcases List.mem_cons.1 h with h | h
        · exact absurd h ha
        · exact .inl h
      · exact .inr h

/-! ## Running a command's work -/

def runE {α : Type} (f : EM α) (e : Eng) : Except EFault α × Eng := f.run.run e

theorem runE_bind {α β : Type} (x : EM α) (f : α → EM β) (e : Eng) :
    runE (x >>= f) e = match runE x e with | (.ok a, e') => runE (f a) e' | (.error r, e') => (.error r, e') := by
  unfold runE
  simp only [ExceptT.run_bind, StateT.run_bind]
  show (match x.run.run e with | (r, e') => _) = _
  rcases x.run.run e with ⟨_ | _, e'⟩ <;> rfl

theorem runE_pure {α : Type} (a : α) (e : Eng) : runE (pure a) e = (.ok a, e) := rfl

theorem runE_each {f : Nat → EM Unit} (step : Nat → Eng → Eng) (P : Eng → Prop) (es : List Nat)
    (h : ∀ e ∈ es, ∀ x, P x → runE (f e) x = (.ok (), step e x) ∧ P (step e x)) :
    ∀ x, P x → runE (eEach es f) x = (.ok (), es.foldl (fun x e => step e x) x) ∧ P (es.foldl (fun x e => step e x) x) := by
  induction es with
  | nil => intro x hx; exact ⟨rfl, hx⟩
  | cons e es ih =>
    intro x hx
    have h1 := h e (by simp) x hx
    have h2 := ih (fun e he => h e (by simp [he])) (step e x) h1.2
    refine ⟨?_, h2.2⟩
    unfold eEach at h2 ⊢
    show runE (f e >>= fun _ => es.forM f) x = _
    rw [runE_bind, h1.1]
    exact h2.1

theorem get_put (t : Tile) (e x j : Nat) : (t.put e x).get j = if j = e then x % 2 ^ t.w else t.get j := by
  have hw : t.w ≤ 32 := by
    unfold Tile.w elemBits
    split <;> decide
  unfold Tile.put Tile.get
  simp only [List.find?_cons]
  by_cases h : j = e
  · subst h
    simp only [beq_self_eq_true, if_true, BitVec.toNat_ofNat]
    apply Nat.mod_eq_of_lt
    exact Nat.lt_of_lt_of_le (Nat.mod_lt _ (Nat.two_pow_pos _)) (Nat.pow_le_pow_right (by omega) hw)
  · have h' : (e == j) = false := by simpa using fun x => h x.symm
    simp only [h', h, if_false]
    have : (t.data.filter (·.1 != e)).find? (·.1 == j) = t.data.find? (·.1 == j) := by
      induction t.data with
      | nil => rfl
      | cons a l ih =>
        simp only [List.filter_cons, List.find?_cons]
        by_cases ha : a.1 = j
        · have : (a.1 != e) = true := by simp [ha, h]
          simp [ha, h]
        · have ha' : (a.1 == j) = false := by simpa using ha
          simp only [ha']
          split
          · simp only [List.find?_cons, ha']; exact ih
          · exact ih
    rw [this]; rfl

def putAll (val : Nat → Nat) (es : List Nat) (t : Tile) : Tile := es.foldl (fun t e => t.put e (val e)) t

theorem putAll_keeps (val : Nat → Nat) (es : List Nat) : ∀ t, (putAll val es t).fmt = t.fmt ∧ (putAll val es t).v = t.v ∧ (putAll val es t).c = t.c ∧
    (putAll val es t).fresh = t.fresh ∧ (putAll val es t).hnd = t.hnd := by
  induction es with
  | nil => intro t; exact ⟨rfl, rfl, rfl, rfl, rfl⟩
  | cons e es ih => intro t; exact ih (t.put e (val e))

theorem putAll_get (val : Nat → Nat) (es : List Nat) : ∀ t j, (putAll val es t).get j = if j ∈ es then val j % 2 ^ t.w else t.get j := by
  induction es with
  | nil => intro t j; simp [putAll]
  | cons e es ih =>
    intro t j
    show (putAll val es (t.put e (val e))).get j = _
    rw [ih]
    have : (t.put e (val e)).w = t.w := rfl
    rw [this, get_put]
    by_cases h1 : j ∈ es
    · simp [h1]
    · by_cases h2 : j = e
      · subst h2; simp [h1]
      · simp [h1, h2]

/-- One element of a command's loop. -/
def stp (m : Command) (h : Nat) (val : Nat → Nat) (fl : Nat → Flags) (cnt : Nat) (e : Nat) (x : Eng) : Eng :=
  { x with s := x.s.modTile m.tkey h (·.put e (val e)), count := x.count + cnt, flags := x.flags ||| fl e }

theorem modTile_teams (s : State) (k : Option Nat) (h : Nat) (f : Tile → Tile) : ∃ tm, s.modTile k h f = { s with teams := tm } := by
  cases k with
  | none => exact ⟨s.teams, rfl⟩
  | some k => exact ⟨_, rfl⟩

theorem stp_fold (m : Command) (h : Nat) (val : Nat → Nat) (fl : Nat → Flags) (cnt : Nat) (es : List Nat) : ∀ x : Eng,
    let y := es.foldl (fun x e => stp m h val fl cnt e x) x
    (∃ tm, y.s = { x.s with teams := tm }) ∧ y.s.tile? m.tkey h = (x.s.tile? m.tkey h).map (putAll val es) ∧
    y.count = x.count + cnt * es.length ∧ y.aux = x.aux ∧ y.status = x.status ∧ y.flags = es.foldl (fun f e => f ||| fl e) x.flags := by
  induction es with
  | nil => intro x; refine ⟨⟨x.s.teams, rfl⟩, ?_, rfl, rfl, rfl, rfl⟩; show x.s.tile? m.tkey h = _; cases x.s.tile? m.tkey h <;> rfl
  | cons e es ih =>
    intro x
    obtain ⟨⟨tm, h1⟩, h2, h3, h4, h5, h6⟩ := ih (stp m h val fl cnt e x)
    obtain ⟨tm', h0⟩ := modTile_teams x.s m.tkey h (·.put e (val e))
    refine ⟨⟨tm, ?_⟩, ?_, ?_, h4, h5, h6⟩
    · rw [List.foldl_cons, h1]; show { x.s.modTile m.tkey h _ with teams := tm } = _; rw [h0]
    · rw [List.foldl_cons, h2]
      show ((x.s.modTile m.tkey h (·.put e (val e))).tile? m.tkey h).map _ = _
      rw [tile_mod_same _ _ _ (fun t => t.put e (val e)) (fun _ => rfl), Option.map_map]; rfl
    · rw [List.foldl_cons, h3]; show x.count + cnt + cnt * es.length = _
      rw [List.length_cons, Nat.mul_succ]; omega

theorem runE_get (e : Eng) : runE (get : EM Eng) e = (.ok e, e) := rfl

theorem runE_eGet (e : Eng) : runE eGet e = (.ok e.s, e) := rfl

theorem runE_eTile {m : Command} {h : Nat} {e : Eng} {t : Tile} (ht : e.s.tile? m.tkey h = some t) : runE (eTile m h) e = (.ok t, e) := by
  unfold eTile; rw [runE_bind, runE_eGet]; simp only [ht]; rfl

theorem runE_eSound {t : Tile} {p : Nat → Bool} (e : Eng) (hp : t.poison.any p = false) : runE (eSound t p) e = (.ok (), e) := by
  unfold eSound; rw [hp]; rfl

theorem runE_eElem {t : Tile} {k : Nat} (e : Eng) (hp : k ∉ t.poison) : runE (eElem t k) e = (.ok (t.get k), e) := by
  have h : t.poison.any (· == k) = false := by
    rw [List.any_eq_false]; intro x hx; simpa using fun h : x = k => hp (h ▸ hx)
  unfold eElem; rw [runE_bind, runE_eSound e h]; rfl

theorem runE_ePut (m : Command) (h e x : Nat) (y : Eng) : runE (ePut m h e x) y = (.ok (), { y with s := y.s.modTile m.tkey h fun t => t.put e x }) := rfl

theorem runE_eCount (n : Nat) (y : Eng) : runE (eCount n) y = (.ok (), { y with count := y.count + n }) := rfl

theorem runE_eFlags (f : Flags) (y : Eng) : runE (eFlags f) y = (.ok (), { y with flags := y.flags ||| f }) := rfl

def eng0 (s : State) : Eng := { s := s, count := 0, aux := 0, status := 0, flags := 0 }

theorem runE_eSlot {m : Command} {p : Nat → Bool} {h : Nat} {e : Eng} {x : Slot} (hx : e.s.slot? m.core m.tkey h = some x)
    (hb : x.bad.any p = false) : runE (eSlot m p h) e = (.ok x, e) := by
  unfold eSlot; rw [runE_bind, runE_eGet]; simp only [hx, hb]; rfl

theorem runE_slots {m : Command} {p : Nat → Bool} {e : Eng} : ∀ (hs : List Nat) (bs : List Slot),
    hs.map (e.s.slot? m.core m.tkey) = bs.map some →
    (∀ b ∈ bs, b.bad.any p = false) → runE (hs.mapM (eSlot m p)) e = (.ok bs, e) := by
  intro hs
  induction hs with
  | nil => intro bs h _; cases bs with
    | nil => rfl
    | cons b bs => cases h
  | cons a hs ih =>
    intro bs h hb
    cases bs with
    | nil => cases h
    | cons b bs =>
      simp only [List.map_cons, List.cons.injEq] at h
      rw [List.mapM_cons, runE_bind, runE_eSlot h.1 (hb b (by simp))]
      simp only
      rw [runE_bind, ih bs h.2 (fun b hb' => hb b (by simp [hb']))]
      rfl

theorem takeSlot_teams (s : State) (m : Command) : (s.takeSlot m).2.teams = s.teams ∧ (s.takeSlot m).2.cmds = s.cmds := by
  unfold State.takeSlot
  split
  · exact ⟨rfl, rfl⟩
  · split
    · exact ⟨rfl, rfl⟩
    · split
      · exact ⟨rfl, rfl⟩
      · split
        · exact ⟨rfl, rfl⟩
        · exact ⟨rfl, rfl⟩

end Sys2Proof.Machine
end

