-- ==== Sys2Proof/Laws/Vector.lean ====
section
/-! SUPPORT. The operand tests and the drivers of vector and scalar instructions, in the words of the statements. -/
namespace Sys2Proof.Claims
open Sys2Proof.Machine

theorem chk_readable {f : Fibre} {n cnt : Nat} (h : readable f n cnt = true) : f.chk n cnt = .ok () := by
  simp only [readable, Bool.and_eq_true, decide_eq_true_eq, List.all_eq_true] at h
  unfold Fibre.chk
  rw [if_neg (by omega), List.find?_eq_none.2 fun r hr => by have := h.2 r hr; simp; omega]

theorem chkD_writable {f : Fibre} {n cnt : Nat} (h : writable f n cnt = true) : f.chkD n cnt = .ok () := by
  simp only [writable, decide_eq_true_eq] at h
  unfold Fibre.chkD
  rw [if_neg (by omega)]

theorem bChk_bReadable {c : Cur} {f : Fibre} {n cnt : Nat} (h : bReadable c f n cnt = true) : bChk c f n cnt = .ok () := by
  unfold bReadable at h
  unfold bChk
  split
  · rfl
  · rename_i e; rw [e] at h; exact chk_readable (by simpa using h)

theorem or_zero_foldl (l : List Nat) (x : Flags) : l.foldl (fun a _ => a ||| 0) x = x := by
  induction l generalizing x with
  | nil => rfl
  | cons _ l ih => simpa using ih x

/-- A vector instruction of fibres that all complete, with flags. -/
theorem vecOver_eachF {s : State} {c : Cur} {g : Gang} {act : List Nat} {body : Body} (upd : Nat → Fibre → Fibre × Flags)
    (hn : act.Nodup) (h : ∀ i ∈ act, body g i (g.fibre i) = .ok (upd i (g.fibre i))) :
    vecOver s c g act body = .next (completes s c (eachF g act upd)) :=
  vecOver_ok s c g act body (fun i f => (upd i f).1) (fun i f => (upd i f).2) hn h

/-- A vector instruction of fibres that all complete, without flags. -/
theorem vecOver_eachV {s : State} {c : Cur} {g : Gang} {act : List Nat} {body : Body} (upd : Nat → Fibre → Fibre)
    (hn : act.Nodup) (h : ∀ i ∈ act, body g i (g.fibre i) = .ok (upd i (g.fibre i), 0)) :
    vecOver s c g act body = .next (completes s c (eachV g act upd)) := by
  rw [vecOver_ok s c g act body upd (fun _ _ => 0) hn h, or_zero_foldl]
  rfl

theorem actGd_nodup (c : Cur) (g : Gang) (gd : BitVec 4) : (actGd c g gd).Nodup := (fibresOf_nodup _ _).filter _
theorem actHg_nodup (c : Cur) (g : Gang) : (actHg c g).Nodup := (fibresOf_nodup _ _).filter _

/-- A poisoned register that sClean excludes is not found. -/
theorem sClean_none {g : Gang} {srcs : List (Nat × Nat)} (h : sClean g srcs = true) :
    g.poisonS.find? (fun r => srcs.any fun e => decide (e.1 ≤ r ∧ r < e.1 + e.2)) = none := by
  rw [List.find?_eq_none]
  intro r hr
  simp only [sClean, List.all_eq_true, Bool.not_eq_true', Bool.and_eq_false_iff, decide_eq_false_iff_not] at h
  simp only [List.any_eq_true, decide_eq_true_eq, not_exists, not_and]
  intro e he h1 h2
  rcases h r hr e he with h3 | h3 <;> omega

theorem sClean_contains {g : Gang} {n : Nat} (h : sClean g [(n, 1)] = true) : g.poisonS.contains n = false := by
  simp only [sClean, List.all_eq_true, List.all_cons, List.all_nil, Bool.and_true, Bool.not_eq_true',
    Bool.and_eq_false_iff, decide_eq_false_iff_not] at h
  simp only [List.contains_eq_mem, decide_eq_false_iff_not]
  intro hn; have := h n hn; omega

/-- A guard over scalar sources none of which holds poison. -/
theorem sGuard_ok {c : Cur} {g : Gang} {s : State} {srcs : List (Nat × Nat)} {k : Out} (h : sClean g srcs = true) :
    sGuard c g s srcs k = k := by
  unfold sGuard; rw [sClean_none h]

/-- Sources are clean together exactly when each is. -/
theorem sClean_cons {g : Gang} {e : Nat × Nat} {l : List (Nat × Nat)} : sClean g (e :: l) = (sClean g [e] && sClean g l) := by
  unfold sClean
  induction g.poisonS with
  | nil => rfl
  | cons r rs ih =>
    simp only [List.all_cons, List.all_nil, Bool.and_true] at ih ⊢
    rw [ih]; cases !(decide (e.1 ≤ r) && decide (r < e.1 + e.2)) <;> simp [Bool.and_assoc, Bool.and_comm]

/-- A trap over the whole batch, in the words of the statements. -/
theorem trapBatch_eq (c : Cur) (g : Gang) (cause : Cause) (addr : DWord) (info : Nat) (s : State) :
    trapBatch c g cause addr info s = .next (traps s c g cause.code addr info) := rfl

/-- With no held fault, a delivery point goes on. -/
theorem deliver_ok {c : Cur} {g : Gang} {s : State} {p : Command → Bool} {k : Out} (h : noHeld s g) :
    deliver c g s p k = k := by
  have fold : ∀ (l : List Command) (r : Option Command), l ≠ [] ∨ r ≠ none →
      l.foldl (fun r c => match r with | none => some c | some a => if c.seq < a.seq then some c else some a) r ≠ none := by
    intro l
    induction l with
    | nil => intro r h; simpa using h
    | cons a l ih =>
      intro r _
      rw [List.foldl_cons]
      apply ih
      right
      split
      · simp
      · split <;> simp
  have none_of : ∀ q : Command → Bool, s.heldOf g q = none →
      s.cmds.filter (fun c => c.gid == g.gid && c.isHeld && !g.carries c.cid && q c) = [] := by
    intro q hq
    unfold State.heldOf at hq
    exact Classical.byContradiction fun hn => fold _ none (.inl hn) hq
  have e : s.heldOf g p = none := by
    have := none_of _ h
    unfold State.heldOf
    have e2 : s.cmds.filter (fun c => c.gid == g.gid && c.isHeld && !g.carries c.cid && p c) = [] := by
      rw [List.filter_eq_nil_iff] at this ⊢
      intro a ha h2
      have h1 := this a ha
      simp only [Bool.and_eq_true] at h2
      simp only [Bool.and_eq_true, Bool.and_true] at h1
      exact h1 h2.1
    rw [e2]; rfl
  unfold deliver
  rw [e]

/-! ## Accesses of several fibres -/

theorem eccLast_ok {α : Type} {run : Fibre → Except FFault α × State} {f : Fibre} {x : α} {s : State}
    (h : run f = (.ok x, s)) : eccLast run f = (.ok x, s) := by
  unfold eccLast; rw [h]

/-- Fibres whose parts all complete act as the statement's list of them does. -/
theorem runMem_eachMem {c : Cur} {g : Gang} (hg : g.gid = c.gid) {body : MBody} {one : State → Nat → Option (Fibre × Flags) × State}
    {l : List Nat} (h : ∀ s i, i ∈ l → ∀ r s', one s i = (some r, s') → body s g i (g.fibre i) = (.ok r, s')) :
    ∀ {s t : State}, eachMem c g one l s = some t → runMem body g l s = ([], t) := by
  induction l with
  | nil => intro s t ht; cases ht; rfl
  | cons i l ih =>
    intro s t ht
    unfold eachMem at ht
    split at ht
    · rename_i r s' e
      unfold runMem
      rw [eccLast_ok (h s i (by simp) r s' e)]
      simp only
      rw [hg]
      exact ih (fun s j hj => h s j (by simp [hj])) ht
    · cases ht

/-- A vector access all of whose fibres complete. -/
theorem memOver_eachMem {s : State} {c : Cur} {g : Gang} (hg : g.gid = c.gid) {body : MBody}
    {one : State → Nat → Option (Fibre × Flags) × State} {l : List Nat} {kind rel acq : Nat} {t : State}
    (ht : eachMem c g one l ((if kind = 0 then s else s.payOwed g.gid).releaseLv g.core rel) = some t)
    (h : ∀ s i, i ∈ l → ∀ r s', one s i = (some r, s') → body s g i (g.fibre i) = (.ok r, s')) :
    memOver s c g l kind rel acq body = .next (advance c (t.acquireLv g.core acq)) := by
  have e2 : runReplay body g 65 l ((if kind = 0 then s else s.payOwed g.gid).releaseLv g.core rel) = ([], t) := by
    unfold runReplay; rw [runMem_eachMem hg h ht]; simp
  unfold memOver
  simp only [e2]; rfl

/-- Performing an owed release changes no team, so a gang's team is spread as before. -/
theorem payOwed_spread (s : State) (g : Gang) (k : Nat) : (s.payOwed k).spread g = s.spread g := by
  have h : (s.payOwed k).teams = s.teams := by
    unfold State.payOwed
    split
    · rfl
    · split
      · rfl
      · have e := releaseLv_only s ‹Gang›.core ‹Gang›.owed
        unfold MemOnly at e
        show (s.releaseLv _ _).teams = _
        rw [e]
  unfold State.spread State.team?
  rw [h]

theorem stBefore_eq (s : State) (c : Cur) (g : Gang) (h : g.gid = c.gid) (k : Nat) :
    stBefore s c g k = (s.payOwed g.gid).releaseLv g.core (relLevel s c g k) := by
  unfold stBefore relBefore relLevel
  rw [payOwed_spread, h]

end Sys2Proof.Claims
end

