-- ==== Sys2Proof/Tests/Slice0.lean ====
section
/-! SUPPORT. Small tests: words written out in spec/ decode, ill-formed terms are refused, values that spec/ works out
come out, and for each statement with hypotheses a state that meets them. -/
namespace Sys2Proof.Tests
open Sys2Proof Sys2Proof.Machine Sys2Proof.Claims

set_option Elab.async false

/-! ## The states of the tests -/

/-- The unit of the placed word, at 0x10000, with all eight fibres. -/
def cu : Cur :=
  { gid := 1, base := 0x10000, word := 0x10000, next := 0x10004, main := 0, memb := 0xFF, himm := none, hmod := none,
    hgrd := none, hseq := none, tgts := [], reads := [], raced := false }

/-- The placed gang: width 8, 64 registers in a fibre. -/
def gg : Gang := placeGang 0

/-- A page-table entry for the 64 KiB page k of the test context. -/
def pte (k v : Nat) (m : List Host.Cell) : List Host.Cell := Memory.writes m (0x5000 + 8 * k) (bytesOf 8 v)

/-- The machine with the placed word and data pages: 2 of F32, 3 of MAXN64 cells, 4 of GCNT cells, 5 the host's, 6
read-only, 8 plain; 7 is not mapped. -/
def base : State :=
  let s := State.reset.placeWord 0
  { s with
    mem := pte 8 0x40000F (pte 6 0x31000B (pte 5 0x30001F (pte 4 0x170001060F (pte 3 0x170000044F (pte 2 0x20004F s.mem)))))
    cur := some cu }

/-- That machine with its gang changed. -/
def with_ (f : Gang → Gang) : State := { base with gangs := [f gg] }

/-- A register file of 256 words from its first ones. -/
def sregs (ws : List Word) : List Word := ws ++ List.replicate (256 - ws.length) 0

/-- The gang with S registers from S0. -/
def gS (ws : List Word) (g : Gang) : Gang := { g with sregs := sregs ws }

/-- The gang with a register set in every fibre. -/
def gV (n : Nat) (w : Word) (g : Gang) : Gang := { g with fibres := g.fibres.map fun f => f.setV n w }

/-- A result is ok and meets p. -/
def okThen {ε α : Type} (r : Except ε α × State) (p : α → State → Bool) : Bool :=
  match r with
  | (.ok x, t) => p x t
  | (.error _, _) => false

/-- A result is an error and meets p. -/
def errThen {ε α : Type} (r : Except ε α × State) (p : ε → Bool) : Bool :=
  match r with
  | (.ok _, _) => false
  | (.error e, _) => p e

/-- An outcome is a next state that meets p. -/
def next (r : Out) (p : State → Bool) : Bool := match r with | .next t => p t | _ => false

/-- The gang of the tests in a state. -/
def g1 (s : State) : Gang := (s.gang? 1).getD gg

/-! ## Witnesses: integer, scalar and floating-point words -/

theorem witness_IntegerBinary : Issuing base cu gg ∧ okDAB cu gg (actGd cu gg 7) 63 63 63 1 = true ∧
    okDAB cu gg (actGd cu gg 7) 62 62 62 2 = true ∧
    ((actGd cu gg 7).all fun i => writable (gg.fibre i) 62 2 && readable (gg.fibre i) 62 2 && bReadable cu (gg.fibre i) 63 1) = true :=
  ⟨⟨rfl, rfl⟩, by decide, by decide, by decide⟩

theorem witness_IntegerUnaryAndTernary : Issuing base cu gg ∧ okDA gg (actGd cu gg 7) 63 63 1 = true ∧
    (∀ k ∈ actGd cu gg 7, writable (gg.fibre k) 63 1 = true) ∧ okDABC cu gg (actHg cu gg) 63 63 63 63 = true ∧
    ((actHg cu gg).all fun i => writable (gg.fibre i) 62 2 && readable (gg.fibre i) 63 1 && bReadable cu (gg.fibre i) 63 1 &&
      readable (gg.fibre i) 62 2) = true :=
  ⟨⟨rfl, rfl⟩, by decide, by decide, by decide, by decide⟩

theorem witness_PermuteAndSelect : Issuing base cu gg ∧
    (okDAB cu gg (actGd cu gg 7) 63 63 63 1 && (actGd cu gg 7).all fun i => readable (gg.fibre i) 63 1) = true ∧
    okDAB cu gg (fibresOf gg.width cu.memb) 63 63 63 1 = true :=
  ⟨⟨rfl, rfl⟩, by decide, by decide⟩

theorem witness_VectorScalar : Issuing base cu gg ∧ sClean gg [(255, 1)] = true ∧ okDA gg (actGd cu gg 7) 63 63 1 = true ∧
    ((actGd cu gg 7).all fun i => writable (gg.fibre i) 63 1) = true :=
  ⟨⟨rfl, rfl⟩, by decide, by decide, by decide⟩

theorem witness_ComparesAndPredicates : Issuing base cu gg ∧
    ((actHg cu gg).all fun i => readable (gg.fibre i) 62 2 && bReadable cu (gg.fibre i) 62 2) = true ∧
    ((actHg cu gg).all fun i => readable (gg.fibre i) 63 1 && bReadable cu (gg.fibre i) 63 1) = true :=
  ⟨⟨rfl, rfl⟩, by decide, by decide⟩

theorem witness_ScalarWords : Issuing base cu gg ∧ sClean gg [(255, 1)] = true ∧ sbClean cu gg 255 1 = true ∧
    sClean gg [(254, 2)] = true ∧ sbClean cu gg 254 2 = true :=
  ⟨⟨rfl, rfl⟩, by decide, by decide, by decide, by decide⟩

theorem witness_ScalarComparesAndMasks : Issuing base cu gg ∧ (12 : BitVec 4).toNat ≤ 12 ∧ sClean gg [(254, 2)] = true ∧
    sbClean cu gg 254 2 = true ∧ sClean gg [(255, 1)] = true :=
  ⟨⟨rfl, rfl⟩, by decide, by decide, by decide, by decide⟩

theorem witness_HardWiredRegisters : 6 < 7 ∧ 0 ≠ 6 ∧ gg.m.length = 7 ∧ gg.width ≤ 64 := by decide

theorem witness_FloatBinary : Issuing base cu gg ∧ okDAB cu gg (actGd cu gg 7) 63 63 63 1 = true := ⟨⟨rfl, rfl⟩, by decide⟩

theorem witness_FloatFusedAndUnary : Issuing base cu gg ∧ okDABC cu gg (actHg cu gg) 63 63 63 63 = true ∧
    okDA gg (actGd cu gg 7) 63 63 1 = true := ⟨⟨rfl, rfl⟩, by decide, by decide⟩

theorem witness_Convert : Issuing base cu gg ∧ ∀ b : BitVec 6, ((actGd cu gg 7).all fun i =>
    writable (gg.fibre i) 60 (cvtSpec b.toNat).nd && readable (gg.fibre i) 60 (cvtSpec b.toNat).ns) = true :=
  ⟨⟨rfl, rfl⟩, by decide +kernel⟩

theorem witness_RandomNumbers : Issuing base cu gg ∧ ((actGd cu gg 7).all fun i => writable (gg.fibre i) 63 1) = true :=
  ⟨⟨rfl, rfl⟩, by decide⟩

/-! ## Witnesses: cross-fibre words, control flow, traps and CSRs -/

/-- The gang with M0 naming its two lowest fibres. -/
def gM : Gang := { gg with m := [3, 0, 0, 0, 0, 0, 0] }

/-- R176: FIDX encodes member field 7 with A and B zero; another member field, and B = 1, are no instruction. -/
theorem test_fidx_words : decodeWord 0x61C50006 = some (.fidx 5) ∧ decodeWord 0x61850006 = none ∧
    decodeWord 0x61C50016 = none := ⟨by decide +kernel, by decide +kernel, by decide +kernel⟩

theorem witness_Shuffles : Issuing (with_ fun _ => gM) cu gM ∧ kHere cu gM 0 = true ∧ kHere cu gM 7 = true ∧
    ((kFibres cu gM 0).all fun i => writable (gM.fibre i) 63 1 && readable (gM.fibre i) 63 1) = true ∧
    (∀ i ∈ kFibres cu gM 0, 63 + ((gM.fibre i).v 63).toNat / 256 % 64 ≤ 63 ∧ (((gM.fibre i).v 63).toNat % 64 ∈ kFibres cu gM 0 →
      readable (gM.fibre (((gM.fibre i).v 63).toNat % 64)) (63 + ((gM.fibre i).v 63).toNat / 256 % 64) 1 = true)) ∧
    ((kFibres cu gM 0).all fun i => writable (gM.fibre i) 62 2 && readable (gM.fibre i) 63 1) = true ∧
    ((fibresOf gM.width cu.memb).all fun i => writable (gM.fibre i) 63 1) = true :=
  ⟨⟨rfl, rfl⟩, by decide, by decide, by decide, by decide, by decide, by decide⟩

theorem witness_CrossFibreResults : Issuing (with_ fun _ => gM) cu gM ∧ kHere cu gM 0 = true ∧ gM.width ≤ 64 ∧
    ((kFibres cu gM 0).all fun i => writable (gM.fibre i) 63 1 && readable (gM.fibre i) 63 1) = true ∧
    ((kFibres cu gM 0).all fun i => writable (gM.fibre i) 62 2 && readable (gM.fibre i) 63 1) = true :=
  ⟨⟨rfl, rfl⟩, by decide, by decide, by decide, by decide⟩

/-- The unit of fibre 0 alone. -/
def cu0 : Cur := { cu with memb := 1 }

theorem witness_CrossFibreWaits : Issuing { with_ (fun _ => gM) with cur := some cu0 } cu0 gM ∧ kHere cu0 gM 0 = false :=
  ⟨⟨rfl, rfl⟩, by decide⟩

/-- The unit of a BRM with one target one word on. -/
def cuT : Cur := { cu with tgts := [1] }

theorem witness_BranchWords : Issuing base cu gg ∧
    (∀ i ∈ fibresOf gg.width cu.memb, guardOf 7 (gg.fibre i) = true → inText base gg (cu.word + (1 : BitVec 22).signExtend 64 <<< 2) = true) ∧
    (∀ i ∈ fibresOf gg.width cu.memb, guardOf 7 (gg.fibre i) = true → writable (gg.fibre i) 63 1 = true) ∧
    (gg.qget ((7 : BitVec 4).toNat % 8) != bit (7 : BitVec 4) 3) = true ∧ (gg.qget ((0 : BitVec 4).toNat % 8) != bit (0 : BitVec 4) 3) = false ∧
    (∀ i ∈ fibresOf gg.width cu.memb, guardOf 7 (gg.fibre i) = true → readable (gg.fibre i) 63 1 = true ∧
      inText base gg (base.textOf gg + ((gg.fibre i).v 63).setWidth 64) = true) ∧
    Issuing { base with cur := some cuT } cuT gg ∧ guardOf 7 (gg.fibre 0) = true ∧
    inText base gg (cuT.word + (1 : BitVec 22).signExtend 64 <<< 2) = true :=
  ⟨⟨rfl, rfl⟩, by decide +kernel, by decide, by decide, by decide, by decide +kernel, ⟨rfl, rfl⟩, by decide, by decide +kernel⟩

/-- An active trap of fibre 0 of a batch of fibres 0 and 1, whose other fibre had completed the unit. -/
def tr0 : Trap :=
  { cause := 2, tepc := 0, tmask := 1, taddr := 0, tinfo := 0, bmask := 3, good := [(0x10004, 2)], skip := 0x10004, held := none }

/-- The gang in its handler, with that trap. -/
def gT : Gang :=
  { gg with tvec := 0x10100, trap := some tr0,
            batches := [{ memb := 3, pc := 0x10100, st := .trapped, passed := 0, cap := [], next := 0, polled := false },
                        { memb := 0xFC, pc := 0x10000, st := .ready, passed := 0, cap := [], next := 0, polled := false }] }

/-- The unit of the trap batch. -/
def cuH : Cur := { cu with memb := 3, base := 0x10100, word := 0x10100, next := 0x10104 }

theorem witness_WindowsAndControl : Issuing base cu gg ∧
    ((actGd cu gg 7).filter fun i => !decide (0 ≤ ((8 * (7 : BitVec 5).toNat : Nat) : Int) ∧
      ((8 * (7 : BitVec 5).toNat : Nat) : Int) + 8 ≤ (gg.fibre i).regs.length)) = [] ∧
    ((actGd cu gg 7).filter fun i => !decide (0 ≤ ((gg.fibre i).wb : Int) + 8 * (31 : BitVec 5).toInt ∧
      ((gg.fibre i).wb : Int) + 8 * (31 : BitVec 5).toInt + 8 ≤ (gg.fibre i).regs.length)) ≠ [] ∧
    (Issuing { with_ (fun _ => gT) with cur := some cuH } cuH gT ∧ gT.inTrap cuH.memb = true) ∧
    gg.inTrap cu.memb = false ∧ gg.live &&& ~~~cu.memb = 0 ∧ gg.outstanding = 0 ∧ gg.finals = [] ∧ noHeld base gg ∧
    (Issuing (with_ fun g => { g with outstanding := 1 }) cu { gg with outstanding := 1 } ∧ ({ gg with outstanding := 1 } : Gang).outstanding ≠ 0) :=
  ⟨⟨rfl, rfl⟩, by decide, by decide, ⟨⟨rfl, rfl⟩, by decide⟩, by decide, by decide, rfl, rfl, rfl, ⟨rfl, rfl⟩, by decide⟩

theorem witness_FibresEnd : base.gang? 1 = some gg ∧ gg.exited = false ∧ gg.live &&& ~~~(1 : Mask) ≠ 0 ∧ gg.live &&& ~~~(0xFF : Mask) = 0 :=
  ⟨rfl, rfl, by decide, by decide⟩

theorem witness_TakingATrap : base.gang? 1 = some gg ∧ gg.exited = false ∧ tr0.bmask ≠ 0 ∧ gg.inTrap tr0.bmask = false ∧ gg.tvec = 0 ∧
    (let g : Gang := { gg with tvec := 0x10100 }
     (with_ fun _ => g).gang? 1 = some g ∧ g.inTrap tr0.bmask = false ∧ g.tvec ≠ 0 ∧ g.trap = none) ∧
    ((with_ fun _ => gT).gang? 1 = some gT ∧ gT.inTrap 0xFC = false ∧ gT.tvec ≠ 0 ∧ gT.trap ≠ none ∧ gT.inTrap 3 = true) :=
  ⟨rfl, rfl, by decide, by decide, rfl, ⟨rfl, by decide, by decide, rfl⟩, rfl, by decide, by decide, by decide, by decide⟩

/-- The unit of fibre 0 of the trap batch, while fibre 1 stands elsewhere in the handler. -/
def cuH0 : Cur := { cuH with memb := 1 }
/-- The gang with its trap batch divided. -/
def gT2 : Gang :=
  { gT with batches := [{ memb := 1, pc := 0x10100, st := .trapped, passed := 0, cap := [], next := 0, polled := false },
                        { memb := 2, pc := 0x10104, st := .trapped, passed := 0, cap := [], next := 0, polled := false }] }

theorem witness_TrapReturn : (Issuing base cu gg ∧ gg.inTrap cu.memb = false) ∧
    (Issuing { with_ (fun _ => gT) with cur := some cuH } cuH gT ∧ gT.inTrap cuH.memb = true ∧ gT.trap = some tr0 ∧ tr0.held = none ∧
      gT.openTurn = none ∧ ∀ a : BitVec 2, tr0.bmask &&& gT.live &&& ~~~(gT.tretGroup cuH a.toNat).2 = 0) ∧
    (Issuing { with_ (fun _ => gT2) with cur := some cuH0 } cuH0 gT2 ∧ gT2.inTrap cuH0.memb = true ∧ gT2.trap = some tr0 ∧
      ∀ a : BitVec 2, tr0.bmask &&& gT2.live &&& ~~~(gT2.tretGroup cuH0 a.toNat).2 ≠ 0) :=
  ⟨⟨⟨rfl, rfl⟩, by decide⟩, ⟨⟨rfl, rfl⟩, by decide, rfl, rfl, rfl, by decide⟩, ⟨rfl, rfl⟩, by decide, rfl, by decide⟩

/-- The test context outside supervisor state. -/
def user : State := { base with contexts := base.contexts.map fun x => { x with supervisor := false } }

theorem witness_CsrReads : Issuing base cu gg ∧ base.sup gg = true ∧ (254 : BitVec 8).toNat % 2 = 0 ∧
    Issuing user cu gg ∧ user.sup gg = false ∧ (0x800 : BitVec 12).toNat ≥ 0x800 ∧
    userCsr (0x7FF : BitVec 12).toNat = false ∧ supCsr (0x7FF : BitVec 12).toNat = false ∧ userCsr (0x821 : BitVec 12).toNat = false ∧
    supCsr (0x821 : BitVec 12).toNat = false ∧ (255 : BitVec 8).toNat % 2 = 1 :=
  ⟨⟨rfl, rfl⟩, by decide, by decide, ⟨rfl, rfl⟩, by decide, by decide, by decide, by decide, by decide, by decide, by decide⟩

theorem witness_CsrWrite : Issuing base cu gg ∧ sClean gg [(254, 1)] = true ∧ sClean gg [(254, 2)] = true ∧
    (254 : BitVec 8).toNat % 2 = 0 ∧ base.sup gg = true ∧ Issuing user cu gg ∧ user.sup gg = false ∧ lxtOk 0x67452301 = true ∧ lxtOk 1 = false :=
  ⟨⟨rfl, rfl⟩, by decide, by decide, by decide, by decide, ⟨rfl, rfl⟩, by decide, by decide, by decide⟩

theorem witness_ClockPlaceAndTlb : Issuing base cu gg ∧ gg.core < 160 ∧ base.sup gg = true ∧ sClean gg [(254, 2)] = true ∧
    (gg.s2 254).toNat % 65536 = 0 ∧ Issuing user cu gg ∧ user.sup gg = false ∧
    (Issuing (with_ (gS [1])) cu (gS [1] gg) ∧ ((gS [1] gg).s2 0).toNat % 65536 = 1) ∧
    (Issuing (with_ (gS [2])) cu (gS [2] gg) ∧ ((gS [2] gg).s2 0).toNat % 65536 > 1) :=
  ⟨⟨rfl, rfl⟩, by decide, by decide, by decide, by decide, ⟨rfl, rfl⟩, by decide, ⟨⟨rfl, rfl⟩, by decide⟩, ⟨rfl, rfl⟩, by decide⟩

/-! ## Witnesses: memory, atomics, waits and the lattice -/

/-- The placed gang with S0:S1 a data page, S2 to S5 words. -/
def gA (va : Word) : Gang := gS [va, 0, 8, 0] gg
/-- The machine with it. -/
def memS (va : Word) : State := with_ fun _ => gA va

/-- An eachMem that comes through. -/
def comes (r : Option State) : Bool := r.isSome

theorem witness_LoadsAndStores : Issuing (memS 0x80000) cu (gA 0x80000) ∧ sClean (gA 0x80000) [(0, 2)] = true ∧
    sClean (gA 0x80000) [(0, 2), (252, codeRegs 6)] = true ∧
    (∀ i ∈ actGd cu gg 7, writable ((gA 0x80000).fibre i) 60 (codeRegs 6) = true ∧ readable ((gA 0x80000).fibre i) 60 (codeRegs 6) = true ∧
      readable ((gA 0x80000).fibre i) 62 2 = true) ∧
    (∀ z ∈ [0, 6], let s := memS 0x80000
      let g := gA 0x80000
      let ld := fun (s : State) (i : Nat) => loaded (s.loadVa (agentOf s cu g) (g.s2 0 + ((g.fibre i).v 63).setWidth 64 + disp cu)
        (codeBytes z) (bypassL1 cu) fun _ => true) fun r => ((g.fibre i).setVs 60 (loadVals z r.1), 0)
      let st := fun (s : State) (i : Nat) => loaded (s.storeVa (agentOf s cu g) (g.s2 0 + ((g.fibre i).v 63).setWidth 64 + disp cu)
        (storeVals z ((List.range (codeRegs z)).map fun k => (g.fibre i).v (60 + k))) (bypassL1 cu)) fun _ => (g.fibre i, 0)
      comes (eachMem cu g ld (actGd cu g 7) (relBefore s cu g 2)) = true ∧
      comes (eachMem cu g st (actGd cu g 7) (stBefore s cu g 2)) = true) ∧
    okThen ((relBefore (memS 0x80000) cu (gA 0x80000) 2).loadVa (agentOf (memS 0x80000) cu (gA 0x80000)) 0x8FFF0 16 (bypassL1 cu) fun _ => true)
      (fun _ _ => true) = true ∧
    okThen ((stBefore (memS 0x80000) cu (gA 0x80000) 2).storeVa (agentOf (memS 0x80000) cu (gA 0x80000)) 0x8FFF0
      (storeVals 6 ((List.range 4).map fun k => (gA 0x80000).s (252 + k))) (bypassL1 cu)) (fun _ _ => true) = true :=
  ⟨⟨rfl, rfl⟩, by decide, by decide, by decide, by decide +kernel, by decide +kernel, by decide +kernel⟩

theorem witness_TypedAccess : Issuing (memS 0x20000) cu (gA 0x20000) ∧ sClean (gA 0x20000) [(0, 2)] = true ∧
    (∀ i ∈ actGd cu gg 7, readable ((gA 0x20000).fibre i) 63 1 = true ∧ writable ((gA 0x20000).fibre i) 63 1 = true) ∧
    (let s := relBefore (memS 0x20000) cu (gA 0x20000) 2
     let g := gA 0x20000
     okThen (s.checkPage (agentOf s cu g) 0x20000 true (fun t => decide (1 ≤ t.pfmt ∧ t.pfmt ≤ 13))) (fun t u =>
       t.pfmt == 1 && okThen (u.loadVa (agentOf u cu g) 0x20000 4 (bypassL1 cu) fun t => t.pfmt == 1) (fun _ _ => true) &&
         okThen (u.storeCheck (agentOf u cu g) 0x20000 4 fun t => t.pfmt == 1) (fun _ _ => true)) = true) :=
  ⟨⟨rfl, rfl⟩, by decide, by decide, by decide +kernel⟩

/-- What the walk gives for an address of the test context. -/
def leafAt (va : Nat) (p : Leaf → Bool) : Bool := match (base.xlate 0 0 va).1 with | some l => p l | none => false

theorem witness_AccessChecks : (0x80001 : DWord).toNat % 2 ≠ 0 ∧ (BitVec.ofNat 64 (2 ^ 57)).toNat % 4 = 0 ∧ (BitVec.ofNat 64 (2 ^ 57)).toNat ≥ 2 ^ 57 ∧
    (0x70000 : DWord).toNat % 4 = 0 ∧ (base.xlate 0 0 0x70000).1.isNone = true ∧
    leafAt 0x60000 (fun l => !bit l.pte 2 && bit l.pte 1) = true ∧
    leafAt 0x50000 (fun l => bit l.pte 1 && bit l.pte 2 && base.windowOk (l.paOf 0 0x50000) && bit l.pte 4) = true ∧
    leafAt 0x30000 (fun l => bit l.pte 2 && base.windowOk (l.paOf 0 0x30000) && !bit l.pte 4 && l.lattice) = true ∧
    (∀ va ∈ [0x30000, 0x50000, 0x60000, 0x70000], base.xlateBad 0 0 va = false) ∧
    ({ base with poison := [(0x500, 0)] } : State).xlateBad 0 0 0x10000 = true := by
  decide +kernel

theorem witness_StoreFrame : Safety.MemOk base ∧ CachesOk base ∧ Roomy base ∧ 0x40000F % 16 + ([7] : List Byte).length ≤ 16 ∧ ([7] : List Byte) ≠ [] ∧
    base.snap = none ∧ findSector base.l1 0 (0x40000F / 16) = none ∧ findSector base.quads (quadOf 0) (0x40000F / 16) = none ∧ findSector base.l2 (dieOf 0) (0x40000F / 16) = none ∧
    (0x40000F + 1) / 16 ≠ 0x40000F / 16 :=
  ⟨⟨by decide +kernel, by decide +kernel⟩, ⟨by decide, by decide⟩, ⟨by decide, by decide⟩, by decide, by decide, rfl, by decide, by decide, by decide, by decide⟩

/-- The gang in a deterministic launch. -/
def det (g : Gang) : Gang := { g with ped := { g.ped with mode := 0 } }

theorem witness_Atomics : Issuing (memS 0x80000) cu (gA 0x80000) ∧ sClean (gA 0x80000) [(0, 2)] = true ∧
    (∀ i ∈ actHg cu gg, readable ((gA 0x80000).fibre i) 63 1 = true ∧ readable ((gA 0x80000).fibre i) 62 2 = true ∧
      readable ((gA 0x80000).fibre i) 60 4 = true) ∧ (gA 0x80000).det = false ∧
    (∀ k ∈ [0, 3], ∀ n ∈ [4, 8], ∀ red, comes (eachMem cu (gA 0x80000)
      (atomOne cu (gA 0x80000) red k (atomPlace (memS 0x80000) (gA 0x80000) red k) n (eaOf (gA 0x80000) 63 0 (disp cu)) (fun _ m => (m + 1, 0)) fun f _ => f)
      (actHg cu (gA 0x80000)) (((memS 0x80000).payOwed 1).releaseLv 0 (atomLv (hasRel cu) (memS 0x80000) cu (gA 0x80000) k))) = true) ∧
    Issuing (with_ fun _ => det (gA 0x80000)) cu (det (gA 0x80000)) ∧ (det (gA 0x80000)).det = true :=
  ⟨⟨rfl, rfl⟩, by decide, by decide, by decide, by decide +kernel, ⟨rfl, rfl⟩, by decide⟩

/-- The unit with a sequence hint. -/
def cuQ (q : BitVec 6) : Cur := { cu with hseq := some q }
/-- The machine while it is being executed. -/
def seqS (q : BitVec 6) (f : Gang → Gang) : State := { with_ f with cur := some (cuQ q) }

theorem witness_OrderedSequences :
    (Issuing (seqS 63 fun _ => gA 0x80000) (cuQ 63) (gA 0x80000) ∧ (cuQ 63).hseq = some 63 ∧ (gA 0x80000).openTurn = none ∧
      (seqS 63 fun _ => gA 0x80000).launch? 1 = some placeLaunch ∧ (gA 0x80000).live &&& (cuQ 63).memb = (gA 0x80000).live ∧
      (gA 0x80000).ped.root = true ∧ bit (gA 0x80000).turns 63 = false ∧
      placeLaunch.cursors.getD 63 0 = (gA 0x80000).teamId.toNat * placeLaunch.r.gangs + (gA 0x80000).gangId.toNat ∧
      sClean (gA 0x80000) [(0, 2)] = true ∧
      (ordTurn (cuQ 63) true 0 63 63 0 65 (actHg (cuQ 63) (gA 0x80000)) (stBefore (seqS 63 fun _ => gA 0x80000) (cuQ 63) (gA 0x80000) 2)).1 = []) ∧
    (gA 0x80000).live &&& (1 : Mask) ≠ (gA 0x80000).live ∧
    (let g := { gg with ped := { gg.ped with root := false } }
     Issuing (seqS 0 fun _ => g) (cuQ 0) g ∧ g.ped.root = false) ∧
    (let g := { gg with turns := 1 }
     Issuing (seqS 0 fun _ => g) (cuQ 0) g ∧ bit g.turns 0 = true) ∧
    (let g := { gg with gangId := 1 }
     Issuing (seqS 0 fun _ => g) (cuQ 0) g ∧ placeLaunch.cursors.getD 0 0 ≠ g.teamId.toNat * placeLaunch.r.gangs + g.gangId.toNat) :=
  ⟨⟨⟨rfl, rfl⟩, rfl, rfl, rfl, by decide, by decide, by decide, by decide, by decide, by decide +kernel⟩, by decide,
   ⟨⟨rfl, rfl⟩, by decide⟩, ⟨⟨rfl, rfl⟩, by decide⟩, ⟨rfl, rfl⟩, by decide⟩

theorem witness_FencesAndWaits : Issuing (memS 0x80000) cu (gA 0x80000) ∧ sClean (gA 0x80000) [(0, 2), (2, 2)] = true ∧
    ((gA 0x80000).s2 0).toNat % 8 = 0 ∧
    (∀ k ∈ [0, 3], okThen ((memS 0x80000).checkVa (agentOf (memS 0x80000) cu (gA 0x80000)) 0x80000 false (fun t => isHbm t.pa || k == 3))
      (fun x t => !x.lattice && (t.locRd 0 (match k with | 0 => if t.spread (gA 0x80000) then 1 else 0 | 1 => 2 | _ => 3) x 8).1 == (0, none)) = true) ∧
    condHolds 0 true 0 0 = true ∧ condHolds 0 true 0 ((gA 0x80000).s2 2) = false ∧ (memS 0x80000).monitors = [] ∧ ({ gg with owed := 2 } : Gang).owed ≠ 0 :=
  ⟨⟨rfl, rfl⟩, by decide, by decide, by decide +kernel, by decide, by decide, rfl, by decide⟩

/-- An eachLat that comes through on a page. -/
def latComes (va : Word) (d : Nat) (act : State → Nat → LatRef → Option State) : Bool :=
  (eachLat cu (gA va) d 63 0 act (fibresOf 8 cu.memb) ((memS va).releaseLv 0 2)).isSome
/-- Cells that a lattice read word finds on a page. -/
def latFinds (va : Word) (d : Nat) (dst : Bool) (p : List (Nat × LatRef) → State → Bool) : Bool :=
  match latRefs cu d 63 ((gA va).s2 0) dst (gA va) (fibresOf 8 cu.memb) (memS va) with
  | ((xs, []), t) => p xs t
  | _ => false
/-- Whether all thresholds of an LWAIT are met. -/
def metAll (va : Word) (d : Nat) : Bool :=
  latFinds va d false fun xs t => xs.all fun e => cellGe e.2.tr.pfmt (t.cellRead e.2) (latOp ((gA va).fibre e.1) d e.2.tr.pfmt)
/-- The gang whose fibres hold 5 in V62. -/
def gL : Gang := gV 62 5 (gA 0x30000)

theorem witness_LatticeJoins : Issuing (memS 0x30000) cu (gA 0x30000) ∧ sClean (gA 0x30000) [(0, 2)] = true ∧
    (∀ i ∈ fibresOf 8 cu.memb, readable ((gA 0x30000).fibre i) 63 1 = true) ∧
    latComes 0x30000 62 (fun s i r =>
      if r.tr.pfmt ≠ 24 ∧ cellGe r.tr.pfmt (latOp ((gA 0x30000).fibre i) 62 r.tr.pfmt) (s.homeNum r.tr.pa (cellBytes r.tr.pfmt)) = true then
        some (s.latJoin 0 r.off r.tr.pfmt (latOp ((gA 0x30000).fibre i) 62 r.tr.pfmt)) else none) = true ∧
    latComes 0x40000 62 (fun s _ r => if r.tr.pfmt = 24 then some (s.latWrite 0 r.off 24 0 1) else none) = true ∧
    latFinds 0x30000 62 true (fun xs _ => xs.length == 8) = true ∧ metAll 0x30000 62 = true ∧
    (Issuing (with_ fun _ => gL) cu gL ∧ (match latRefs cu 62 63 (gL.s2 0) false gL (fibresOf 8 cu.memb) (with_ fun _ => gL) with
      | ((xs, []), t) => (xs.all fun e => cellGe e.2.tr.pfmt (t.cellRead e.2) (latOp (gL.fibre e.1) 62 e.2.tr.pfmt)) == false
      | _ => false) = true) ∧
    (gA 0x30000).joined = [] ∧ base.latSends = [] ∧
    (let g := { gg with joined := [(0, 0, 17)] }
     Issuing (with_ fun _ => g) cu g ∧ g.joined ≠ []) ∧
    (∀ pf, 16 ≤ pf → pf ≤ 26 → (0 : DWord).toNat < 2 ^ 32) :=
  ⟨⟨rfl, rfl⟩, by decide, by decide, by decide +kernel, by decide +kernel, by decide +kernel, by decide +kernel,
   ⟨⟨rfl, rfl⟩, by decide +kernel⟩, rfl, rfl, ⟨⟨rfl, rfl⟩, by decide⟩, fun _ _ _ => by decide⟩

/-! ## Witnesses: tiles, slots, commands, records and queues -/

/-- A tile of the test team. -/
def tile (hnd lvl fmt rows cols : Nat) (v c fresh : Bool) : Tile :=
  { hnd := hnd, lvl := lvl, core := 0, fmt := fmt, rows := rows, cols := cols, v := v, c := c, fresh := fresh, serial := 1, data := [], poison := [], scope := 0 }

/-- A slot of the test team. -/
def slot (hnd st kind fmt : Nat) : Slot :=
  { core := 0, tkey := 1, tslot := 0, hnd := hnd, st := st, kind := kind, fmt := fmt, bmp := 0, data := [], bad := [], scope := 0 }

/-- A shape record: a tensor of 16 rows of 16 F32 at 0x80000, with a box of 16 by 16 (R261). -/
def shapeRec : List Byte := bytesOf 64 (0x80000 + 16 * 2 ^ 64 + 16 * 2 ^ 96 + 2 ^ 128 + 2 ^ 160 + 64 * 2 ^ 192 + 2 ^ 384 + 2 ^ 388 + 15 * 2 ^ 392 + 15 * 2 ^ 400)

/-- A pattern record of 8 rows and columns, whose one word is EMIT G0 (R333, R337). -/
def patRec : List Byte := bytesOf 64 (8 + 8 * 2 ^ 32 + 2 ^ 96 + 32 * 2 ^ 128 + 2 ^ 152 + 2 ^ 164) ++ bytesOf 192 0x7000

/-- The team of the tests: 64 granules; tile 0 valid, 1 fresh, 2 neither, 3 an accumulator, 4 named by a command. -/
def team1 : Team :=
  { tkey := 1, lkey := 1, teamId := 0, cores := [0], tslots := [0], granules := 64, phase := 0, broken := false,
    tiles := [tile 0 1 1 16 16 true false false, tile 1 1 1 16 16 false false true, tile 2 1 1 16 16 false false false,
              tile 3 2 1 128 128 true false false, tile 4 1 6 16 16 true false false],
    evq := [] }

/-- A command of the test gang. -/
def cmd (cid opc fn x : Nat) (params : List Word) (st : CmdSt) : Command :=
  { cid := cid, gid := 1, core := 0, tkey := some 1, lkey := 1, opc := opc, fn := fn, x := x, params := params, hmod := 0,
    hasCnt := false, cnt := 0, owns := false, after := false, unitOff := 0, seq := 0, ped := gg.ped, shape := [], pattern := [], st := st,
    gen := none, status := 0, count := 0, aux := 0, cval := 0, flags := 0, note := false, fcause := 0, faddr := 0, finfo := 0 }

/-- The machine with that team, its slots, shape 5 and pattern 6 of the context, and a TFILL of tile 4 in flight; the
gang's S registers are given. -/
def tS (ws : List Word) : State :=
  { base with
    teams := [team1], gangs := [gS ws gg], slots := [slot 0 3 0 4, slot 1 2 2 4, slot 2 1 0 0, slot 4 3 2 4]
    contexts := base.contexts.map fun x => { x with shapes := [(5, 0, true, shapeRec)], patterns := [(6, 0, true, patRec)] }
    cmds := [cmd 90 0x34 8 0 [4, 0] .started] }

/-- A state with other tiles of the test team in it. -/
def accs (s : State) : State :=
  { s with teams := s.teams.map fun t => { t with tiles := (List.range 4).map fun k => tile (10 + k) 2 1 128 128 true false false } }

theorem witness_TileWords :
    (∀ ws ∈ ([[0x00F0F105], [0x00F0FF05], [0x0FFFF105], [0x07F7F185], [0x04], [0x44], [0x00], [0x40], [0x80], [0x02], [0x42]] : List (List Word)),
      Issuing (tS ws) cu (gS ws gg) ∧ sClean (gS ws gg) [(0, 1)] = true) ∧
    (gS [0] gg).team.bind (tS []).team? = some team1 ∧
    (let w := 0x00F0F105
     w < 2 ^ 28 ∧ w / 64 % 4 ≠ 3 ∧ w / 256 % 16 ≤ 13 ∧ (∀ x ∈ team1.tiles, x.hnd ≠ w % 64) ∧
       granulesSum team1.tiles + granulesFor (w / 4096 % 256 + 1) (w / 2 ^ 20 % 256 + 1) (w / 256 % 16) ≤ 1 * 64) ∧
    0x00F0FF05 / 256 % 16 > 13 ∧
    granulesSum team1.tiles + granulesFor (0x0FFFF105 / 4096 % 256 + 1) (0x0FFFF105 / 2 ^ 20 % 256 + 1) 1 > 1 * 64 ∧
    (0x07F7F185 / 64 % 4 = 2 ∧ 0x07F7F185 / 4096 % 256 + 1 = 128 ∧ (tS []).accsUsed 0 < 4 ∧ (accs (tS [])).accsUsed 0 ≥ 4) ∧
    ((tileFor (tS []) gg 4).map (·.hnd) = some 4 ∧ (tS []).tileBusy gg.team 4 = true ∧ (tS []).tileBusy gg.team 0 = false ∧ noHeld (tS []) gg) ∧
    (((tileFor (tS []) gg (0x80 &&& 63)).map fun t => (t.v, t.hnd)) = some (true, 0) ∧
      ((tileFor (tS []) gg (0x02 &&& 63)).map fun t => (t.v, t.c, t.fresh)) = some (false, false, false)) :=
  ⟨by intro ws h; exact ⟨⟨rfl, rfl⟩, by revert ws; decide +kernel⟩, rfl, by decide +kernel, by decide +kernel, by decide +kernel, by decide +kernel,
   ⟨by decide +kernel, by decide +kernel, by decide +kernel, rfl⟩, by decide +kernel⟩

theorem witness_TileAccess :
    (∀ ws ∈ ([[0], [1], [2], [4]] : List (List Word)), Issuing (tS ws) cu (gS ws gg) ∧ sClean (gS ws gg) [(0, 1)] = true ∧
      ((tileFor (tS ws) (gS ws gg) ((gS ws gg).s 0)).map fun t => (t.poison, t.v, t.fresh)) =
        some ([], ws == [0] || ws == [4], ws == [1])) ∧
    (∀ i ∈ actHg cu gg, readable (gg.fibre i) 63 1 = true ∧ writable (gg.fibre i) 63 1 = true ∧
      elemIn (tile 0 1 1 16 16 true false false) true ((gg.fibre i).v 63) = true ∧
      elemIn (tile 0 1 1 16 16 true false false) false 0x000F000F = true) ∧ actHg cu gg ≠ [] ∧
    (tile 0 1 1 16 16 true false false).fmt = 1 ∧ (tile 4 1 6 16 16 true false false).fmt = 6 ∧ gg.det = false ∧ (det gg).det = true :=
  ⟨by intro ws k; exact ⟨⟨rfl, rfl⟩, by revert ws; decide +kernel⟩, by decide +kernel, by decide +kernel, rfl, rfl, by decide +kernel, by decide +kernel⟩

/-- The machine when the team holds all sixteen handles. -/
def tFull : State := { tS [] with slots := (List.range 16).map fun k => slot k 3 0 4 }

theorem witness_SlotWords :
    (∀ ws ∈ ([[0], [1], [2], [3]] : List (List Word)), Issuing (tS ws) cu (gS ws gg) ∧ (gS ws gg).team = some 1 ∧ sClean (gS ws gg) [(0, 1)] = true) ∧
    ((∀ h < 16, ∃ x ∈ tFull.slots, x.tkey = 1 ∧ x.hnd = h) ∧ (tFull.slots.filter (·.core == 0)).length ≥ 16) ∧
    (¬(∃ x ∈ (tS []).slots, x.tkey = 1 ∧ x.hnd = 3) ∧ (∀ j < 3, ∃ x ∈ (tS []).slots, x.tkey = 1 ∧ x.hnd = j) ∧
      ¬((tS []).slots.filter (·.core == 0)).length ≥ 16) ∧
    slotNamed (tS []) gg 3 = none ∧ (slotNamed (tS []) gg 0).map (·.st) = some 3 ∧ (slotNamed (tS []) gg 1).map (·.st) = some 2 ∧
    (slotNamed (tS []) gg 2).map (·.st) = some 1 ∧ (tS []).heldOf gg (fun _ => true) = none ∧
    ((tS []).cmds.any fun m => m.inFlight && m.tkey == gg.team && m.core == 0 && m.reads.contains 0) = false :=
  ⟨by intro ws k; exact ⟨⟨rfl, rfl⟩, rfl, by revert ws; decide +kernel⟩, by decide +kernel, by decide +kernel, by decide +kernel, by decide +kernel,
   by decide +kernel, by decide +kernel, by decide +kernel, by decide +kernel⟩

/-- The row of TFILL whose block starts at S0. -/
noncomputable def fillRow (s : State) (g : Gang) (sb : BitVec 7) : AsyncRow := (tileCommands s g 0 sb 0 0).getD 4 ⟨.nop, 0, 0, 0, 0, 0, 0, fun _ _ => True⟩

/-- The machine when the queue of TXU commands is full. -/
def tBusy : State := { tS [0, 7] with cmds := (List.range 64).map fun k => cmd (100 + k) 0x34 8 0 [0, 7] .queued }

theorem noTile : ¬∃ d, tileFor (tS [63]) (gS [63] gg) ((gS [63] gg).s 0) = some d := by
  have h : (tileFor (tS [63]) (gS [63] gg) ((gS [63] gg).s 0)).isSome = false := by decide +kernel
  intro ⟨d, hd⟩
  rw [hd] at h
  cases h

theorem witness_AsynchronousCommands :
    Issuing (tS [0, 7, 9, 0]) cu (gS [0, 7, 9, 0] gg) ∧ sClean (gS [0, 7, 9, 0] gg) [(0, 2), (2, 2)] = true ∧
    (fillRow (tS [0, 7]) (gS [0, 7] gg) 0).legal (fun k => (gS [0, 7] gg).s k) noCapture ∧
    (¬∃ d, tileFor (tS [63]) (gS [63] gg) ((gS [63] gg).s 0) = some d) ∧
    (tS [0, 7]).hasRoom 0 0x34 8 = true ∧ (Issuing tBusy cu (gS [0, 7] gg) ∧ tBusy.hasRoom 0 0x34 8 = false) ∧
    ((gS [0, 7, 9, 0] gg).s2 2).toNat % 8 ≠ 0 ∧
    (∃ bs, shapeFor (tS []) gg 5 = some bs ∧ (shapeOf bs).comp = false ∧ (shapeOf bs).box0 = 16 ∧ (shapeOf bs).fmt = 1) ∧
    (∃ bs, patternFor (tS []) gg 6 = some bs ∧ (patOf bs).n = 8) ∧
    (slotHolds (slotNamed (tS []) gg 0) 0 4 ∧ slotHolds (slotNamed (tS []) gg 4) 2 4 ∧ isAcc (tS []) gg 3 ∧ stepFormats 0 4 4) :=
  ⟨⟨rfl, rfl⟩, by decide +kernel, ⟨⟨tile 0 1 1 16 16 true false false, by decide +kernel⟩, rfl⟩, noTile, by decide +kernel, ⟨⟨rfl, rfl⟩, by decide +kernel⟩, by decide +kernel, ⟨shapeRec, by decide +kernel⟩, ⟨patRec, by decide +kernel⟩,
   ⟨slot 0 3 0 4, by decide +kernel⟩, ⟨slot 4 3 2 4, by decide +kernel⟩, ⟨tile 3 2 1 128 128 true false false, by decide +kernel⟩, .inl ⟨.inl rfl, .inl rfl⟩⟩

/-- The machine with one command of the gang. -/
def cS (m : Command) : State := { tS [] with cmds := [m] }

/-- The same, with a full event queue. -/
def evFull (m : Command) : State := { cS m with teams := [{ team1 with evq := List.replicate 64 (0, 0) }] }

theorem witness_EngineCommands :
    (let m := cmd 90 0x34 8 0 [1, 7] .queued
     (cS m).cmd? 90 = some m ∧ ((cS m).mayStart m && (cS m).copyTurn m) = true ∧ (((cS m).begin m).cmd? 90).isSome = true ∧
       (cS m).tile? m.tkey (m.p 0).toNat = some (tile 1 1 1 16 16 false false true)) ∧
    (let m := cmd 90 0x34 8 0 [0, 7] .queued
     (cS m).cmd? 90 = some m ∧ ((cS m).mayStart m && (cS m).copyTurn m) = false) ∧
    (let m := cmd 90 0x34 11 0 [1, 0, 0x3F800000, 0, 0] .started
     (cS m).cmd? 90 = some m ∧ (cS m).inQueue m = true ∧ (cS m).snap = none ∧ (cS m).tile? m.tkey 0 = some (tile 0 1 1 16 16 true false false) ∧
       (cS m).launch? m.lkey = some placeLaunch) ∧
    (let m := cmd 90 0x37 0 0 [0, 4, 3, 0x044] .started
     m.fn ≤ 2 ∧ (cS m).slot? m.core m.tkey 0 = some (slot 0 3 0 4) ∧ ([4].map ((cS m).slot? m.core m.tkey)) = [slot 4 3 2 4].map some ∧
       ((cS m).tile? m.tkey (m.p 2).toNat).map (·.poison) = some []) ∧
    (let m := cmd 90 0x34 8 32 [0, 7] .performed
     (evFull m).cmd? 90 = some m ∧ m.ev = true ∧ (evFull m).teamLive 1 = true ∧ (evFull m).queueFull 1 = true ∧ (cS m).queueFull 1 = false ∧
       m.hasCnt = false ∧ bit gg.statarm 4 = false) ∧
    (let m : Command := { cmd 90 0x34 9 0 [0, 7] .performed with status := 1 }
     let s := { cS m with gangs := [{ gg with statarm := 16 }] }
     s.cmd? 90 = some m ∧ m.status = 1 ∧ s.gang? 1 = some { gg with statarm := 16 } ∧ bit (16 : BitVec 5) 4 = true) ∧
    (let m : Command := { cmd 90 0x34 8 0 [0, 7] .performed with hasCnt := true, cnt := 0x80000 }
     okThen ((cS m).bumpCounter { (cS m).cmdAgent m with core := 0 } m.cnt m.scope ((cS m).cmdSpread m)) (fun _ _ => true) = true) ∧
    (let m : Command := { cmd 90 0x34 8 0 [0, 7] .performed with hasCnt := true, cnt := 0x70000 }
     errThen ((cS m).bumpCounter { (cS m).cmdAgent m with core := 0 } m.cnt m.scope ((cS m).cmdSpread m)) (fun _ => true) = true) ∧
    (let n : Snap := { cid := 90, cut := true, blocks := [{ src := 0, dst := 0x400000, copied := false }] }
     n.blocks.find? (fun b => !b.copied) = some { src := 0, dst := 0x400000, copied := false } ∧ Memory.wf base.mem = true) :=
  ⟨by decide +kernel, by decide +kernel, ⟨rfl, by decide +kernel, rfl, by decide +kernel, rfl⟩,
   by refine ⟨by decide +kernel, ?_, ?_, ?_⟩ <;> decide +kernel, by refine ⟨rfl, ?_, ?_, ?_, ?_, rfl, by decide +kernel⟩ <;> decide +kernel,
   ⟨rfl, rfl, rfl, by decide +kernel⟩, by decide +kernel, by decide +kernel, rfl, by decide +kernel⟩

/-- The machine with a record at 0x80000. -/
def recS (ws : List Word) (bs : List Byte) : State := { tS ws with mem := Memory.writes base.mem 0x400000 bs }

theorem witness_RecordTables :
    (∀ ws ∈ ([[0x80000, 0, 7], [0x80000, 0, 5], [0x80000, 0, 4096], [0x80001, 0, 7], [5], [6], [7]] : List (List Word)),
      Issuing (tS ws) cu (gS ws gg) ∧ sClean (gS ws gg) [(0, 3)] = true) ∧
    (pair 0x80001 0).toNat % 64 ≠ 0 ∧ (pair 0x80000 0).toNat % 64 = 0 ∧
    okThen ((recS [0x80000, 0, 7] shapeRec).loadBlock (agentOf (recS [] shapeRec) cu (gS [0x80000, 0, 7] gg)) 0x80000 4)
      (fun bs _ => (shapeBad bs).isNone) = true ∧
    okThen ((recS [0x80000, 0, 7] []).loadBlock (agentOf (recS [] []) cu (gS [0x80000, 0, 7] gg)) 0x80000 4)
      (fun bs _ => (shapeBad bs).isSome) = true ∧
    okThen ((recS [0x80000, 0, 7] patRec).loadBlock (agentOf (recS [] patRec) cu (gS [0x80000, 0, 7] gg)) 0x80000 16)
      (fun bs _ => (patBad bs).isNone) = true ∧
    okThen ((recS [0x80000, 0, 7] []).loadBlock (agentOf (recS [] []) cu (gS [0x80000, 0, 7] gg)) 0x80000 16)
      (fun bs _ => (patBad bs).isSome) = true ∧
    (let x := (tS []).contexts.headD ⟨0, true, 0, true, 0, 0, 0, [], [], ⟨0, 0, none⟩⟩
     (tS []).ctx? gg.ctx = some x ∧ (entryOf x.shapes 5).2 = true ∧ (entryOf x.shapes 7).2 = false ∧ (entryOf x.patterns 6).2 = true) ∧
    ((shapeFor (tS []) gg 5).isSome ∧ shapeFor (tS []) gg 7 = none ∧ (patternFor (tS []) gg 6).isSome ∧ patternFor (tS []) gg 7 = none) :=
  ⟨by intro ws h; exact ⟨⟨rfl, rfl⟩, by revert ws; decide +kernel⟩, by decide +kernel, by decide +kernel, by decide +kernel, by decide +kernel, by decide +kernel,
   by decide +kernel, by decide +kernel, by decide +kernel⟩

theorem witness_CounterAndQueueWaits :
    (∀ ws ∈ ([[0x80000, 0, 0, 0], [0x80000, 0, 1, 0], [0x80004, 0, 0, 0], [0x30000, 0, 0, 0]] : List (List Word)),
      Issuing (tS ws) cu (gS ws gg) ∧ noHeld (tS ws) (gS ws gg) ∧ sClean (gS ws gg) [(0, 4)] = true) ∧
    okThen ((tS [0x80000]).checkVa (agentOf (tS []) cu gg) 0x80000 false (fun t => isHbm t.pa || 0 == 3)) (fun x t =>
      !x.lattice && (t.locRd 0 (if t.spread gg then 1 else 0) x 8).1 == (0, none)) = true ∧
    okThen ((tS [0x30000]).checkVa (agentOf (tS []) cu gg) 0x30000 false (fun t => isHbm t.pa || 0 == 3)) (fun x _ => x.lattice) = true ∧
    (pair 0 0).toNat ≤ (0 : DWord).toNat ∧ (0 : DWord).toNat < (pair 1 0).toNat ∧
    ((tS []).teamOf gg = some team1 ∧ team1.evq = []) ∧
    (let t := { team1 with evq := [(5, 2)] }
     ({ tS [] with teams := [t] } : State).teamOf gg = some t ∧ t.evq = (5, 2) :: []) :=
  ⟨by intro ws h; exact ⟨⟨rfl, rfl⟩, rfl, by revert ws; decide +kernel⟩, by decide +kernel, by decide +kernel, by decide +kernel, by decide +kernel, ⟨rfl, rfl⟩, rfl, rfl⟩

/-! ## Witnesses: units, tasks, joins and launches -/

/-- ATOM.IADD.ORD with HGRD and HSEQ before it: three words that form a unit (R64, R67). -/
def unitQ : UnitWords :=
  { hints := [0xFC800001, 0xFD000003], main := BitVec.ofNat 32 ((encode (.atomOrd 0 5 6 7)).getD 0), tgts := [], at_ := 8, next := 12 }

theorem witness_HintsAndIllegalWords : Issuing base cu gg ∧ unitBad unitQ = none := ⟨⟨rfl, rfl⟩, by decide +kernel⟩

/-- The placed machine before a step, with its act taken off the agenda. -/
def placed (w : Nat) : State := { State.reset.placeWord w with agenda := [] }

/-- The batch of the placed gang. -/
def b0 : Batch := { memb := 0xFF, pc := 0x10000, st := .ready, passed := 0, cap := [], next := 0, polled := false }

/-- The gang with a child's results, its batch in a wait. -/
def gJ (wk : Nat) (cap : List DWord) : Gang :=
  { gg with finals := [{ rank := 0, views := [], stat := 1 }],
            batches := [{ memb := 0xFF, pc := 0x10000, st := .waiting wk, passed := 0, cap := cap, next := 0x10004, polled := false }] }

/-- The machine with that gang waiting where a word is placed, whose act issues it. -/
def waitS (w : Nat) (g : Gang) : State := { placed w with gangs := [g] }

/-- The unit that a placed word gives. -/
def fetched (w : Nat) (p : UnitWords → State → Bool) : Bool :=
  match (placed w).fetchUnit (Cur.start 1 b0) gg [] 0x10000 ((placed w).hintLimit gg) with
  | (.ok u, t) => p u t
  | _ => false

theorem witness_StepRunsDecoded : (State.reset.placeWord 0x04000000).clock < (State.reset.placeWord 0x04000000).boundary ∧
    (State.reset.placeWord 0x04000000).agenda = [.unit 1 0x10000 []] ∧ (placed 0x04000000).up = true ∧ (placed 0x04000000).gang? 1 = some gg ∧
    (placed 0x04000000).running gg.ctx = true ∧ gg.behind = [] ∧ gg.exited = false ∧ gg.inlined = none ∧
    (let here := gg.batches.filter fun b => b.pc == 0x10000 && gg.canIssue b
     ((here.find? fun b => b.st == .trapped).orElse fun _ => here.find? fun b => !b.waits) = some b0) ∧
    (placed 0x04000000).yields gg b0 = false ∧
    fetched 0x04000000 (fun u t => (unitBad u).isNone && u.hints.isEmpty && u.main == 0x04000000 &&
      next (runWords [u.main] { t.onIssue (Cur.start 1 b0) gg b0.pc u.main with cur := some (Cur.start 1 b0) }) fun _ => true) = true ∧
    fetched 0xFFFFFFFF (fun u _ => unitBad u == some 0xFFFFFFFF) = true ∧ decodeWord 0x04000000 = some .nop ∧
    isHint 0x04000000 = false ∧ major 0x04000000 ≠ 0x25 := by
  refine ⟨by decide, rfl, by decide, rfl, by decide, rfl, rfl, rfl, by decide +kernel, by decide, ?_⟩
  decide +kernel

theorem witness_StepRunsDecoded_rouses : (waitS 0x04000000 (gJ 4 [])).gang? 1 = some (gJ 4 []) ∧ (gJ 4 []).exited = false ∧ (gJ 4 []).inlined = none ∧
    (gJ 4 []).behind = [] ∧ (let here := (gJ 4 []).batches.filter fun b => b.pc == 0x10000 && (gJ 4 []).canIssue b
     (∀ x ∈ here, x.waits = true) ∧ (here.find? ((waitS 0x04000000 (gJ 4 [])).satisfied (gJ 4 []) [])).isSome = true) := by
  refine ⟨rfl, rfl, rfl, rfl, ?_⟩
  decide +kernel

theorem witness_EncodeDecode : (Instr.iadd 7 3 4 5).wf = true ∧ encode (.iadd 7 3 4 5) = some 0x09C31050 ∧ 0x09C31050 < 2 ^ 32 ∧
    decodeWord 0x09C31050 = some (.iadd 7 3 4 5) := by decide +kernel

/-- The words of a spawn's block: entry, descriptor, arguments, count, stride, and a counter pair. -/
def spawnBlk (entry desc many : Word) (ctr : Word) : List Word := [entry, desc, 0, 0, many, 8, ctr, 0]

/-- The gang with levels in its pedigree. -/
def lev (ls : List (Word × Word)) (g : Gang) : Gang := { g with ped := { g.ped with levels := ls } }

/-- A task entry of the test launch. -/
def entry (key : Nat) (pend : Bool) : TaskEntry :=
  { spawnTask base gg 0 0 0 1 0 false with key := key, pend := pend }

theorem witness_Spawning :
    (∀ ws ∈ [spawnBlk 0xFFFC 127 1 0x80000, spawnBlk 0 0 65536 0x80000, spawnBlk 0 0 0 0x80000, spawnBlk 0 0 1 0x80004, spawnBlk 2 0 1 0x80000,
        spawnBlk 0x10000 0 1 0x80000, spawnBlk 0 128 1 0x80000], Issuing (with_ (gS ws)) cu (gS ws gg) ∧
        (gS ws gg).live &&& cu.memb = (gS ws gg).live ∧ sClean (gS ws gg) [(0, 4)] = true ∧ sClean (gS ws gg) [(0, 6), (6, 2)] = true) ∧
    base.textSz gg = 0x10000 ∧ gg.ped.last.1.toNat + 65536 ≤ 0xFFFFFFFF ∧ gg.ped.levels.length < 16 ∧
    (base.deques.filter fun x => x.core == gg.core && x.part == gg.part).length < 64 ∧
    (let s := { base with deques := List.replicate 64 { core := 0, part := 0, task := entry 7 false } }
     ¬(s.deques.filter fun x => x.core == gg.core && x.part == gg.part).length < 64 ∧ s.launch? gg.lkey = some placeLaunch ∧
       placeLaunch.r.bscap ≤ placeLaunch.backing.length ∧ gg.width < 8 * 2 ^ (1 % 4) ∧ gg.vregs < 8 * (127 / 4 % 32 + 1)) ∧
    okThen (base.checkVa (base.ownAgent 1 0) 0x80000 false (fun t => isHbm t.pa || 0 == 3)) (fun _ u => u.monitors.isEmpty) = true ∧
    base.monitors = [] ∧ (lev (List.replicate 16 (0, 0)) gg).ped.levels.length ≥ 16 ∧ (lev [(0xFFFFFFFF, 0)] gg).ped.last.1.toNat + 1 > 0xFFFFFFFF :=
  ⟨by intro ws h; exact ⟨⟨rfl, rfl⟩, by revert ws; decide +kernel⟩, by decide, by decide, by decide, by decide, by decide +kernel,
   by decide +kernel, rfl, by decide, by decide⟩

/-- A state of a gang alone, with the team of the tests. -/
def aS (g : Gang) : State := { base with gangs := [g], teams := [team1] }
/-- Whether the frame of the gang merges. -/
def merges (s : State) : Bool := match s.mergeFrame 1 with | .ok _ => true | _ => false

theorem witness_Joining :
    ((aS (gJ 3 [0])).gang? 1 = some (gJ 3 [0]) ∧ (∀ vs ∈ (gJ 3 [0]).views :: (gJ 3 [0]).finals.map (·.views), vs = []) ∧ merges (aS (gJ 3 [0])) = true) ∧
    (Issuing (aS gg) cu gg ∧ gg.live &&& cu.memb = gg.live ∧ gg.outstanding = 0 ∧ gg.ped.last.1 ≠ 0xFFFFFFFF ∧ merges (aS gg) = true ∧
      gg.ped.root = true ∧ ((gg.team.bind (aS gg).team?).map (·.phase)).getD 0 = 0 ∧ (0 + 2) * (aS gg).ngangs gg - 1 ≤ 0xFFFFFFFF) ∧
    (let g := { gg with outstanding := 1 }
     Issuing (aS g) cu g ∧ g.outstanding ≠ 0) ∧
    (Issuing (aS (lev [(0xFFFFFFFF, 0)] gg)) cu (lev [(0xFFFFFFFF, 0)] gg) ∧ (lev [(0xFFFFFFFF, 0)] gg).ped.last.1 = 0xFFFFFFFF) ∧
    (let g := { gg with ped := { gg.ped with root := false } }
     Issuing (aS g) cu g ∧ g.ped.root = false) ∧
    (let s := { aS gg with teams := [{ team1 with phase := 0xFFFFFFFF }] }
     Issuing s cu gg ∧ (((gg.team.bind s.team?).map (·.phase)).getD 0 + 2) * s.ngangs gg - 1 > 0xFFFFFFFF) ∧
    (∀ cap ∈ ([[0], [1], [2 + 256 * 7]] : List (List DWord)), (aS (gJ 3 cap)).gang? 1 = some (gJ 3 cap) ∧ (gJ 3 cap).inlined = none ∧
      ((gJ 3 cap).batches.find? (fun b => b.st == .waiting 3 && b.cap.headD 3 != 3)).isSome ∧ merges (aS (gJ 3 cap)) = true) ∧
    (let g := { gJ 2 [7] with arrived := true }
     (aS g).team? 1 = some team1 ∧ g.arrived = true ∧ g.team = some 1 ∧ g.ped.root = true) ∧
    (gg.arrived = false ∧ gg.exited = false) :=
  ⟨⟨rfl, by decide, by decide +kernel⟩, ⟨⟨rfl, rfl⟩, by decide, rfl, by decide, by decide +kernel, rfl, by decide, by decide⟩,
   ⟨⟨rfl, rfl⟩, by decide⟩, ⟨⟨rfl, rfl⟩, by decide⟩, ⟨⟨rfl, rfl⟩, by decide⟩, ⟨⟨rfl, rfl⟩, by decide +kernel⟩,
   by intro cap h; exact ⟨rfl, rfl, by revert cap; decide +kernel⟩, ⟨rfl, rfl, rfl, rfl⟩, rfl, rfl⟩

/-- The machine with deque entries. -/
def dS (ds : List DequeEnt) : State := { base with deques := ds }
/-- An entry on core 0. -/
def ent (part key : Nat) (pend : Bool) : DequeEnt := { core := 0, part := part, task := entry key pend }

theorem witness_TaskEvents :
    8 ≤ (ent 0 7 false).task.vregs ∧ canStart (dS [ent 0 7 false]) 0 0 (ent 0 7 false) ∧
    (¬canStart (dS [ent 0 7 true]) 0 0 (ent 0 7 true)) ∧
    ((dS [ent 0 6 false, ent 0 7 false, ent 0 8 true]).deques.filter fun x => x.core == 0 && x.part == 0) =
      [ent 0 6 false] ++ ent 0 7 false :: [ent 0 8 true] ∧
    ((dS [ent 0 8 true, ent 1 7 false]).deques.filter fun x => x.core == 0 && x.part == 0) = [ent 0 8 true] ∧
    (thiefOrder (dS [ent 0 8 true, ent 1 7 false]) 0 0).head? = some (0, 1) ∧ (∀ l ∈ base.launches, l.backing = []) ∧
    (base.gang? 1 = some gg ∧ gg.exited = false) ∧
    (let g : Gang := { gg with exited := true, batches := [], live := 0 }
     let s := { aS g with cmds := [] }
     s.gang? 1 = some g ∧ g.exited = true ∧ g.inlined = none ∧ g.outstanding = 0 ∧ g.finals = [] ∧ s.cmds = [] ∧
       (∀ l ∈ s.launches, l.issuer ≠ some 1) ∧ s.latSends = [] ∧ g.gid < s.fresh ∧ g.parent = none ∧ s.launch? 1 = some placeLaunch ∧
       s.team? 1 = some team1) ∧
    (let g : Gang := { gg with gid := 2, parent := some 1, exited := true, live := 0, batches := [] }
     let s := { base with gangs := [{ gg with outstanding := 1 }, g] }
     s.gang? 2 = some g ∧ s.gang? 1 = some { gg with outstanding := 1 } ∧ (1 : Nat) ≠ 2) :=
  ⟨by decide +kernel, ⟨rfl, by unfold roomFor; decide +kernel⟩, fun h => (by cases h.1), by decide +kernel, by decide +kernel, by decide +kernel, by decide +kernel,
   ⟨rfl, rfl⟩, ⟨rfl, rfl, rfl, rfl, rfl, rfl, by decide, rfl, by decide, rfl, rfl, rfl⟩, rfl, rfl, by decide⟩

/-- A launch record that is accepted: text of 256 bytes at 0x10000, one team of one gang of eight fibres, mode inherit. -/
def lrec : List Byte := bytesOf 256 (0x10000 + 0x100 * 2 ^ 64 + 2 ^ 192 + 3 * 2 ^ 237)
/-- The machine with that record at 0x80000. -/
def lS (f : Gang → Gang) (bs : List Byte) : State :=
  { base with gangs := [f (gS [0x80000] gg)], mem := Memory.writes base.mem 0x400000 bs }
/-- What LAUNCH reads there, and the status that it comes to. -/
def reads (s : State) (p : Nat → State → Bool) : Bool :=
  let g := g1 s
  let ag := { agentOf s cu g with ped := { g.ped with mode := 2 } }
  okThen (s.loadBlock ag 0x80000 16) fun bs t => okThen (t.readTables ag (lrecOf bs)) fun r u => p (launchStatus bs r.1 r.2 (u.sup g) false) u

theorem witness_Launching :
    (Issuing (lS id lrec) cu (gS [0x80000] gg) ∧ (gS [0x80000] gg).live &&& cu.memb = (gS [0x80000] gg).live ∧ sClean (gS [0x80000] gg) [(0, 2)] = true) ∧
    (0x80000 : DWord).toNat % 256 = 0 ∧ (Issuing (with_ (gS [0x80001])) cu (gS [0x80001] gg) ∧ (pair 0x80001 0).toNat % 256 ≠ 0) ∧
    reads (lS id lrec) (fun st u => st == 0 && u.sup gg && !(u.isFront gg) && decide (gg.ped.levels.length + 3 ≤ 16)) = true ∧
    reads (lS id []) (fun st _ => st != 0) = true ∧
    reads (lS (lev (List.replicate 14 (0, 0))) lrec) (fun st _ => st == 0) = true ∧ (List.replicate 14 ((0 : Word), (0 : Word))).length + 3 > 16 ∧
    reads (lS (lev [(0xFFFFFFFF, 0)]) lrec) (fun st _ => st == 0) = true ∧
    queueRoom (lS id lrec) 0 false 0 ∧ queueRoom (lS id lrec) 0 true 0 ∧
    ¬queueRoom { base with launches := List.replicate 256 { placeLaunch with host := false, nextTeam := 0 } } 0 false 0 ∧
    launchStatus lrec [] [] true false = 0 :=
  ⟨⟨⟨rfl, rfl⟩, by decide +kernel⟩, by decide, ⟨⟨rfl, rfl⟩, by decide⟩, by decide +kernel, by decide +kernel, by decide +kernel, by decide,
   by decide +kernel, by unfold queueRoom; decide +kernel, by unfold queueRoom; decide +kernel, by unfold queueRoom; decide +kernel, by decide +kernel⟩

/-- A queued host launch of the test context on core 0 alone. -/
def lq (dep : DWord) : Launch :=
  { placeLaunch with lkey := 2, lid := 2, st := .queued, nextTeam := 0, r := { placeRec with cmask := 1, depaddr := dep } }
/-- A done launch, which another gang issued, with EV. -/
def ld (ev : Bool) : Launch :=
  { placeLaunch with lkey := 2, lid := 2, host := false, issuer := some 1, issuerTeam := some 1, r := { placeRec with ev := ev } }
/-- The machine with one more launch. -/
def withL (l : Launch) : State := { tS [] with launches := [placeLaunch, l], cmds := [] }

theorem witness_LaunchEvents :
    (∀ dep ∈ ([0, 0x80000, 0x70000] : List DWord), (withL (lq dep)).launch? 2 = some (lq dep) ∧ (lq dep).st = .queued ∧
      (withL (lq dep)).running 0 = true ∧ (lq dep).host = true) ∧
    (∀ k ∈ (withL (lq 0)).launches.tail, k.host = true → k.ctx = 0 → k.r.queue = 0 → (lq 0).lkey ≤ k.lkey) ∧
    (¬∀ k ∈ (withL (lq 0)).launches, k.host = true → k.ctx = 0 → k.r.queue = 0 → (lq 0).lkey ≤ k.lkey) ∧
    okThen ((withL (lq 0x80000)).checkVa ((withL (lq 0)).ownAgent 2 0) 0x80000 false (fun t => isHbm t.pa && !t.lattice))
      (fun x t => (t.locRd 0 3 x 8).1 == (0, none)) = true ∧
    errThen ((withL (lq 0x70000)).checkVa ((withL (lq 0)).ownAgent 2 0) 0x70000 false (fun t => isHbm t.pa && !t.lattice)) (fun e => e == .page) = true ∧
    (let l := { lq 0 with st := .started }
     (withL l).launch? 2 = some l ∧ l.st = .started ∧ l.nextTeam < l.r.nteams.toNat ∧ (withL l).restoring 0 = false ∧ l.r.spread = some 1 ∧
       l.tries 1 = [0] ∧ usable (withL l) l 1 0) ∧
    (let l := { lq 0 with st := .started }
     let s := { withL l with gangs := List.replicate 64 gg }
     ¬usable s l 1 0) ∧
    (pickPart 8 64 [(16, 0), (0, 65536)] = none ∧ pickPart 8 64 [(16, 0), (15, 65024)] = some 1) ∧
    (let s := withL (ld true)
     s.launch? 2 = some (ld true) ∧ (ld true).st = .started ∧ (ld true).nextTeam ≥ (ld true).r.nteams.toNat ∧ s.restoring 0 = false ∧
       (∀ g ∈ s.gangs, g.lkey ≠ 2) ∧ s.deques = [] ∧ (ld true).backing = [] ∧ (∀ k ∈ s.launches, k.up ≠ some 2) ∧ s.cmds = [] ∧
       (ld true).r.cpladdr = 0 ∧ (ld true).r.crecaddr = 0 ∧ (s.team? 1).map (·.evq.length) = some 0 ∧ s.teamLive 1 = true) ∧
    (({ team1 with evq := List.replicate 64 (0, 0) } : Team).evq.length ≥ 64) :=
  ⟨by intro dep h; exact ⟨rfl, rfl, rfl, rfl⟩, by decide +kernel, by decide +kernel, by decide +kernel, by decide +kernel,
   ⟨rfl, rfl, by decide, by decide +kernel, by decide +kernel, by decide +kernel, by unfold usable; decide +kernel⟩,
   by unfold usable; decide +kernel, by decide +kernel, by decide +kernel, by decide⟩

/-! ## Witnesses: pedigrees, reducers, contexts, the host and the device -/

/-- An arena of 16-byte slots at 0x100000 with one term, level 1 in 4 bits, and 2 counter bits. -/
def arena1 : Arena := { base := 0x100000, slog2 := 4, cbits := 2, terms := [(1, 4)] }
/-- A launch with that arena and reducers: 0 ISUM32 of 4 elements, 1 ISUM64, 2 FSUM32. -/
def launchR : Launch :=
  { placeLaunch with arenas := [arena1], reds := [{ type := 0, count := 3, result := 0 }, { type := 1, count := 0, result := 0 }, { type := 2, count := 0, result := 0 }] }
/-- The machine with that launch and a changed gang. -/
def rS (g : Gang) : State := { base with launches := [launchR], gangs := [g] }
/-- A gang of that launch with S registers. -/
def gR (ws : List Word) : Gang := { gS ws gg with views := [none, none, none] }

theorem witness_PedigreesAndArenas :
    (∀ ws ∈ ([[0x80000, 0], [0x80004, 0], [0], [15], [16], [63], [64]] : List (List Word)), Issuing (rS (gR ws)) cu (gR ws) ∧
      (gR ws).ped.levels.length ≤ 16 ∧ sClean (gR ws) [(0, 2)] = true ∧ (rS (gR ws)).launch? (gR ws).lkey = some launchR ∧
      (gR ws).live &&& cu.memb = (gR ws).live) ∧
    (pair 0x80004 0).toNat % 8 ≠ 0 ∧ okThen ((rS (gR [])).loadPieces (agentOf (rS (gR [])) cu (gR [])) 0x80000 17) (fun bs _ => bs.length == 136) = true ∧
    launchR.arenas[0]? = some arena1 ∧ launchR.arenas.length ≤ 15 ∧ (∀ u ∈ arena1.terms, ¬termFails gg.ped.levels u) ∧
    ((gg.arena.getD 0 0).toNat < 2 ^ arena1.cbits ∧ arena1.base.toNat + (arenaNum gg.ped.levels arena1.terms * 2 ^ 2 + 0) * 2 ^ 4 + 2 ^ 4 ≤ 2 ^ 57) ∧
    termFails [(15, 0)] (1, 4) ∧ ({ gg with arena := List.replicate 16 4 } : Gang).arena.getD 0 0 = (4 : Word) ∧
    (gg.ped.root = true ∧ gg.turns.getLsbD 63 = false) ∧
    (let g := { gR [0] with turns := 1 }
     Issuing (rS g) cu g ∧ g.turns.getLsbD 0 = true) ∧
    (let g := { gR [0] with ped := { gg.ped with root := false } }
     Issuing (rS g) cu g ∧ g.ped.root = false) :=
  ⟨by intro ws h; exact ⟨⟨rfl, rfl⟩, by revert ws; decide +kernel⟩, by decide, by decide +kernel, rfl, by decide, by unfold termFails; decide +kernel,
   by decide +kernel, by unfold termFails; decide, by decide, ⟨rfl, by decide⟩, ⟨⟨rfl, rfl⟩, by decide⟩, ⟨rfl, rfl⟩, rfl⟩

/-- A view with storage. -/
def view1 (spill : Bool) : View := { spill := spill, core := 0, loc := 0, elems := List.replicate 4 (.w 0), bad := [] }
/-- A gang with that view of reducer 0. -/
def gW (ws : List Word) (spill : Bool) : Gang := { gR ws with views := [some (view1 spill), none, none] }
/-- The machine whose launch has a backing area for views. -/
def rV (g : Gang) : State :=
  { rS g with launches := [{ launchR with r := { launchR.r with viewbase := 0x80000, viewcap := 1 } }] }
/-- The machine whose reducer store and backing area are full. -/
def rFull (g : Gang) : State :=
  { rS g with gangs := [g, { gg with gid := 2, views := [some { view1 false with elems := [] }] }],
              launches := [{ launchR with reds := [{ type := 0, count := 65535, result := 0 }] ++ launchR.reds.tail }] }

theorem witness_Reducers :
    (∀ ws ∈ ([[0], [0, 3], [0, 4], [1], [2], [3], [64], [0, 0, 0x80000, 0]] : List (List Word)), Issuing (rS (gR ws)) cu (gR ws) ∧
      sClean (gR ws) [(0, 1)] = true ∧ sClean (gR ws) [(1, 1)] = true ∧ sClean (gR ws) [(2, 2)] = true) ∧
    ((rS (gR [])).redsOf (gR []).lkey).length = 3 ∧ ((rS (gR [])).redsOf 1)[0]? = some { type := 0, count := 3, result := 0 } ∧
    ((rS (gR [])).redsOf 1)[1]?.map (·.type) = some 1 ∧ ((rS (gR [])).redsOf 1)[2]?.map (·.type) = some 2 ∧
    actGd cu (gR []) 7 ≠ [] ∧ actGd cu (gR []) 15 = [] ∧ (gR []).live &&& cu.memb = (gR []).live ∧ (gR []).live &&& cu0.memb ≠ (gR []).live ∧
    (match (rS (gR [])).giveViews 1 [(0, { type := 0, count := 3, result := 0 })] with
      | some t => (t.gang? 1).any fun h => (h.views.getD 0 none).any fun v => v.bad.isEmpty
      | none => false) = true ∧
    (let g := { gR [] with core := 0 }
     ((rFull g).giveViews 1 [(0, { type := 0, count := 65535, result := 0 })]).isNone = true) ∧
    (∀ i ∈ actGd cu (gR []) 7, readable ((gR []).fibre i) 62 2 = true ∧ bReadable cu ((gR []).fibre i) 63 1 = true ∧
      (bVal cu ((gR []).fibre i) 63).toNat ≤ 3) ∧
    (storesAll (agentOf (rS (gR [])) cu (gR [])) 4 0x80000 (viewOf (rS (gR [])) (gR []) 0 { type := 0, count := 3, result := 0 }) (rS (gR []))).isSome = true ∧
    ((rS (gW [] true)).gang? 1 = some (gW [] true) ∧ (gW [] true).views.getD 0 none = some (view1 true) ∧
      ((rS (gW [] true)).modGang 1 fun h => h.setView 0 (some { view1 true with spill := false, core := (gW [] true).core })).viewUse
        (inStore (gW [] true).core) ≤ 2 ^ 18) ∧
    ((rV (gW [] false)).gang? 1 = some (gW [] false) ∧ (gW [] false).views.getD 0 none = some (view1 false) ∧
      (rV (gW [] false)).backingRoom 1 16 = true) ∧
    (∀ e ∈ (rV (gW [] false)).stored, e.2.2.spill = false) :=
  ⟨by intro ws h; exact ⟨⟨rfl, rfl⟩, by revert ws; decide +kernel⟩, rfl, rfl, rfl, rfl, by decide, by decide, by decide, by decide, by decide +kernel,
   by decide +kernel, by decide, by decide +kernel, ⟨rfl, rfl, by decide +kernel⟩, ⟨rfl, rfl, by decide +kernel⟩, by decide +kernel⟩

/-- A context descriptor for context num with its image at 0x80000 (R409). -/
def desc (num cap : Nat) : List Byte := bytesOf 64 (num + 0x80000 * 2 ^ 64 + cap * 2 ^ 128)
/-- An empty context. -/
def ctx1 (run : Bool) : Context :=
  { num := 1, supervisor := false, ptroot := 0x1000, running := run, ring := 0x240000, lat := 0x10000, lidCtr := 1, shapes := [], patterns := [],
    front := { k := 0, seed := 0, gid := none } }
/-- What the H40 keeps of the save of an empty context. -/
def saved1 : SavedCtx := { num := 1, gangs := [], teams := [], launches := [], deques := [], cmds := [], slots := [], lat := [], pending := false }
/-- The machine with context 1, a descriptor at 0x20000, and an image at 0x80000. -/
def xS (run : Bool) (d : List Byte) (img : List Byte) : State :=
  { base with
    gangs := [gS [0x20000] gg], contexts := base.contexts ++ [ctx1 run], saved := [saved1]
    mem := Memory.writes (Memory.writes base.mem 0x200000 d) 0x400000 img }
/-- The image of an empty context. -/
def image1 : List Byte := (base.content 1).bytes 1 0x1000
/-- What CTXSV and CTXLD read first. -/
def opens (s : State) (p : List Byte → State → Bool) : Bool :=
  let ag := { agentOf s cu (gS [0x20000] gg) with ped := { gg.ped with mode := 2 } }
  okThen (s.loadBlock ag 0x20000 4) fun bs t => okThen (t.storeCheck ag 0x20000 16 fun _ => true) fun _ u => p bs u

theorem witness_ContextSwitch :
    (base.up = true ∧ base.ctx? 1 = none ∧ (base.ctx? 0).isSome = true ∧ State.reset.up = false ∧ areaFits 0x240000 0x10000 ∧ ¬areaFits 1 0) ∧
    (Issuing user cu gg ∧ user.sup gg = false) ∧ (Issuing (with_ (gS [0x20001])) cu (gS [0x20001] gg) ∧ (pair 0x20001 0).toNat % 64 ≠ 0) ∧
    (Issuing (xS true (desc 1 512) []) cu (gS [0x20000] gg) ∧ (xS true (desc 1 512) []).sup (gS [0x20000] gg) = true ∧
      sClean (gS [0x20000] gg) [(0, 2)] = true ∧ (pair 0x20000 0).toNat % 64 = 0) ∧
    opens (xS true (desc 0x10001 512) []) (fun bs _ => bs.length == 64 && numOf ((bs.drop 2).take 2) != 0) = true ∧
    opens (xS true (desc 2 512) []) (fun _ u => (u.ctx? 2).isNone) = true ∧
    (∀ cap ∈ [511, 512], opens (xS true (desc 1 cap) []) (fun bs u =>
      let q := u.quiesce 1
      bs.length == 64 && (u.ctx? 1).any (·.running) && (q.content 1).size == 512 && (cap == 511 ||
        okThen (q.imagePages (agentOf q cu (gS [0x20000] gg)) 0x80000 true (pagesOf 512)) fun ps _ => ps == [0x400000])) = true) ∧
    opens (xS false (desc 1 512) image1) (fun _ u => (u.ctx? 1).any (fun x => !x.running) &&
      okThen (u.imagePages (agentOf u cu (gS [0x20000] gg)) 0x80000 false [0]) fun ps v =>
        ps == [0x400000] && numOf (((v.homeRd 0x400000 256).drop 4).take 2) == 1 && numOf (((v.homeRd 0x400000 256).drop 8).take 8) == 512 &&
          imageOk (v.homeRd 0x400000 512) 512) = true ∧
    opens (xS false (desc 1 512) []) (fun _ u =>
      okThen (u.imagePages (agentOf u cu (gS [0x20000] gg)) 0x80000 false [0]) fun _ v => numOf (((v.homeRd 0x400000 256).drop 4).take 2) != 1) = true ∧
    (let x := { saved1 with num := 0, pending := true, teams := [{ team1 with tkey := 5, tiles := [] }], gangs := [{ gg with gid := 9, team := some 5 }] }
     (({ base with saved := [x] } : State).restoreTeam x none).isSome = true) ∧
    (let x := { saved1 with num := 0, pending := true, gangs := [{ gg with gid := 9, team := none }] }
     let s : State := { base with saved := [x] }
     (s.restoreTeam x none).isNone = true ∧ (s.restoreGang x none).isSome = true) ∧
    (let x := { saved1 with num := 0, pending := true, gangs := [{ gg with gid := 9, team := none, parent := some 77 }] }
     let s : State := { base with saved := [x] }
     (s.restoreTeam x none).isNone = true ∧ (s.restoreGang x none).isNone = true ∧ x.gangs ≠ [] ∧ (s.saved.find? fun x => x.num == 0 && x.pending) = some x) ∧
    (let x := { saved1 with pending := true }
     let s : State := { base with saved := [x] }
     (s.saved.find? fun x => x.num == 1 && x.pending) = some x ∧ x.teams = [] ∧ x.gangs = [] ∧ x.deques = [] ∧ s.pendings.length = 0) ∧
    ((∀ g ∈ base.gangs, g.behind = []) ∧ noneWaits base.gangs ∧ base.restoring 0 = false ∧ (base.gangs.map (·.gid)).Nodup) :=
  ⟨⟨by decide, rfl, by decide, by decide, by unfold areaFits; decide, by unfold areaFits; decide⟩, ⟨⟨rfl, rfl⟩, by decide⟩, ⟨⟨rfl, rfl⟩, by decide⟩,
   ⟨⟨rfl, rfl⟩, by decide +kernel, by decide +kernel, by decide⟩,
   by decide +kernel, by decide +kernel, by decide +kernel, by decide +kernel, by decide +kernel, by decide +kernel, by decide +kernel, by decide +kernel,
   by decide +kernel, by decide, by unfold noneWaits; decide, by decide, by decide⟩

/-- A gang in a race-checked launch, and a filter entry of another strand of it. -/
def raceS (rd : Bool) : State :=
  { base with gangs := [{ gg with ped := { gg.ped with mode := 1, levels := [(1, 0)] } }], filter := [{ root := 1, sect := 0x40000, bmask := 1, sid := 3, rd := rd, spilled := none }],
              strands := [{ root := 1, sid := 3, gid := 2, ped := { gg.ped with levels := [(2, 0)] }, entries := 1, ended := false }] }
/-- Its gang. -/
def gRace : Gang := { gg with ped := { gg.ped with mode := 1, levels := [(1, 0)] } }
/-- A launch with an arena over page 7. -/
def zS : State :=
  { base with launches := [{ placeLaunch with arenas := [{ base := 0x70000, slog2 := 16, cbits := 0, terms := [] }] }] }

/-- An entry in home slice 0, of a launch that is not there. -/
def overS : State :=
  { base with filter := [{ root := 9, sect := 0, bmask := 1, sid := 3, rd := false, spilled := none }] }
/-- An entry of an ended strand at rank 1 of its frame, and a gang after it, at rank r with floor r. -/
def endedS (r : Word) : State :=
  { base with gangs := [{ gg with ped := { gg.ped with levels := [(0, 0), (r, r)] } }]
              filter := [{ root := 1, sect := 0x40000, bmask := 1, sid := 3, rd := false, spilled := none }],
              strands := [{ root := 1, sid := 3, gid := 2, ped := { gg.ped with levels := [(0, 0), (1, 0), (0, 0)] }, entries := 1, ended := true }] }

theorem below_zS : tablesBelow zS zS.freePage 0x70000 4 (zS.rootOf 0) := by
  refine ⟨?_, fun _ => ⟨?_, fun _ => ⟨?_, fun _ => ⟨?_, fun _ => ?_⟩⟩⟩⟩
  all_goals first | decide +kernel | exact Nat.le_of_ble_eq_true (by decide +kernel)

theorem witness_TranslationAndFilterEvents :
    (walk base 0x80000 4 (base.rootOf 0)).isSome = true ∧ base.tlbFind 0 0 0x80000 = none ∧ (walk base 0x70000 4 (base.rootOf 0)) = none ∧
    ((base.tlbFill 0 0 { base := 0x80000, size := 65536, pte := 0x40000F, addr := 0 }).tlbFind 0 0 0x80000).isSome = true ∧
    ((walk base 0x50000 4 (base.rootOf 0)).any fun l => bit l.pte 4) = true ∧ ((walk base 0x80000 4 (base.rootOf 0)).any fun l => !bit l.pte 4) = true ∧
    (Memory.wf base.mem = true ∧ Memory.wf base.remote = true ∧ base.snap = none) ∧
    ((∀ l ∈ base.launches, l.ctx = 0 → base.inArena 0 0x70000 = false) ∧ walk zS 0x70000 4 (zS.rootOf 0) = none ∧
      (∃ l ∈ zS.launches, l.ctx = 0 ∧ zS.inArena 0 0x70000 = true) ∧ (zS.zeroFill 0 0x70000).isSome = true ∧
      isHbm zS.freePage = true ∧ zS.freePage % 65536 = 0 ∧ zS.rootOf 0 % 8 = 0 ∧ Memory.wf zS.mem = true) ∧
    tablesBelow zS zS.freePage 0x70000 4 (zS.rootOf 0) ∧ cu.raced = false ∧ (∀ e ∈ (raceS true).filter, e.spilled = none) ∧
    ((raceS false).gang? 1 = some gRace ∧ isHbm 0x400000 = true ∧ isLat 0x400000 = false ∧ (1 : Half) ≠ 0 ∧ gRace.ped.mode < 2 ∧
      (∃ e ∈ (raceS false).filter, racesWith (raceS false) gRace 0x400000 1 false e) ∧ (∀ e ∈ (raceS true).filter, ¬racesWith (raceS true) gRace 0x400000 1 true e) ∧
      ∃ l, (raceS false).launch? 1 = some l ∧ ({ l with r := { l.r with flogcap := 1 } } : Launch).flogUsed < 1) ∧
    (isHbm (8 * 2 ^ 48) = false ∧ isLat (latPa 7 0) = true ∧ gg.ped.mode ≥ 2) ∧
    (base.inSlice 0 < overS.inSlice 0 ∧ overS.dropEntries.filter = overS.filter) ∧
    ((endedS 2).dropEntries.filter = [] ∧ (endedS 1).dropEntries.filter = (endedS 1).filter) :=
  ⟨by decide +kernel, by decide +kernel, by decide +kernel, by decide +kernel, by decide +kernel, by decide +kernel, by decide +kernel,
   by decide +kernel, below_zS, rfl, by decide, ⟨rfl, by decide, by decide, by decide, by decide, by unfold racesWith; decide +kernel, by unfold racesWith; decide +kernel, placeLaunch, rfl, by decide⟩,
   ⟨by decide, by decide, by decide⟩, ⟨by decide +kernel, by decide +kernel⟩,
   by decide +kernel, by decide +kernel⟩

theorem witness_HostAccess : base.up = true ∧ isHbm 0x300000 = true ∧ ([7] : List Byte) ≠ [] ∧ 0x30FFFF % 65536 + ([7] : List Byte).length ≤ 65536 ∧
    base.latType 0x300000 = none ∧ ((base.pageAt 0x300000).any fun l => bit l.pte 4) = true ∧ (∃ c ∈ base.contexts, c.ring ≤ 0x23FFFF ∧ 0x23FFFF < c.ring + 262144) ∧
    (base.latType 0x400000 = none ∧ ((base.pageAt 0x400000).all fun l => !bit l.pte 4) = true ∧ ∀ c ∈ base.contexts, ¬(c.ring ≤ 0x400000 ∧ 0x400000 < c.ring + 262144)) ∧
    base.latType (latPa 0 8) = some 17 ∧ (latPa 0 8 % 2 ^ 48 - latBase) % joinBytes 17 = 0 ∧ ([1, 0, 0, 0, 0, 0, 0, 0] : List Byte).length = joinBytes 17 ∧
    ([1] : List Byte).length < joinBytes 17 ∧ ((latPa 0 7 % 2 ^ 48 - latBase) % joinBytes 17) + 1 ≤ joinBytes 17 ∧
    Memory.wf base.mem = true ∧ Memory.wf base.remote = true ∧ base.snap = none := by
  decide +kernel

theorem witness_IoDieRegisters : base.up = true ∧ 1 < 2 ∧ 0x20058 < 2 ^ 40 ∧ (base.io.getD 1 IoDie.reset).errIdx < 16 ∧
    0x1000 + 16 * 15 < 0x10000 ∧ 0x10008 + 16 * 63 < 0x20000 ∧ 0xFFFFFFFF8 % 8 = 0 ∧ 0xFFFFFFFF8 ≥ 0x20060 ∧
    (0x111 + ([7] : List Byte).length ≤ 0x1000000000 ∧ ([7] : List Byte).length ≠ 8 ∧
      (mmioReg (base.io.getD 1 IoDie.reset) 1 ((0x111 + 0) / 8 * 8)).isSome = true ∧ (mmioReg (base.io.getD 1 IoDie.reset) 1 ((0x20068 + 0) / 8 * 8)) = none) ∧
    (0xFFFFFFFF + ([7] : List Byte).length ≤ 2 ^ 32 ∧ (∀ l ∈ base.pages, ¬(l.lattice = true ∧ l.phys % 2 ^ 48 ≤ latBase + 0xFFFFFFFF ∧ latBase + 0xFFFFFFFF < l.phys % 2 ^ 48 + l.size)) ∧
      (∃ l ∈ base.pages, l.lattice = true ∧ l.phys % 2 ^ 48 ≤ latBase + 0xFFFF ∧ latBase + 0xFFFF < l.phys % 2 ^ 48 + l.size)) ∧
    Memory.wf base.mem = true ∧ Memory.wf base.remote = true ∧ base.snap = none := by
  decide +kernel

theorem witness_BootAndManagement : base.up = true ∧ State.reset.up = false ∧ (base.ctx? 0).isSome = true ∧
    (base.recovery = false ∧ base.shutdown = false) ∧ (1200 ≤ 2600 ∧ 1199 < 1200 ∧ 95 ≤ 95 ∧ 94 < 95 ∧ 110 ≤ 110 ∧ 109 < 110) ∧
    (base.io.getD 1 IoDie.reset).portUp.getD 11 false = false ∧
    (let d := { IoDie.reset with portUp := IoDie.reset.portUp.set 11 true }
     (({ base with io := [d, d] } : State).io.getD 1 IoDie.reset).portUp.getD 11 false = true) ∧
    isHbm 0x400000 = true ∧ isLat (0x400000 + 8 - 1) = false ∧ isHbm (8 * 2 ^ 48) = false ∧ Memory.wf base.mem = true ∧ Memory.wf base.remote = true := by
  decide +kernel

/-- A machine at a round boundary with a dirty sector of die 0, and another with a send of it to die 7. -/
def dirtyS (cnt preset : Nat) : State :=
  { base with clock := 1024, lxs := preset, preset := preset, dirtyCnt := [{ die := 0, sect := 0, pfmt := 17, cnt := cnt }] }
def sendS : State := { base with latSends := [{ src := 0, sect := 0, pfmt := 17, dst := 7, gang := some 1 }] }

theorem witness_LatticeArrivals :
    base.clock < base.boundary ∧ (dirtyS 3 0).boundary ≤ (dirtyS 3 0).clock ∧ (dirtyS 3 0).preset = (dirtyS 3 0).lxs ∧ partner (dirtyS 3 0) 0 < 8 ∧
    partner (dirtyS 3 0) 0 ≠ 0 ∧ partner (dirtyS 3 2) 0 = 0 ∧ 16 * 0 + 16 ≤ 2 ^ 48 - latBase ∧ (dirtyS 3 0).poisonAt (latPa 0 0 / 16) = none ∧
    Memory.wf base.mem = true ∧ Memory.wf base.remote = true ∧ base.snap = none ∧ base.latSends = [] ∧
    (∃ e ∈ sendS.latSends, e.gang = some 1) ∧ (sendS.gang? 1).isSome = true ∧ sendS.preset ≠ 2 ∧
    ((gJ 9 [0]).batches.find? fun b => b.st == .waiting 9 && b.cap == [0]).isSome = true ∧ (gg.batches.find? fun b => b.st == .waiting 9 && b.cap == [0]) = none := by
  decide +kernel

/-- A gang that waits with a kind and what it captured. -/
def wS (wk : Nat) (cap : List DWord) : State := { base with gangs := [gJ wk cap] }
/-- The machine with a monitor entry of a pending task. -/
def monS (kind : Nat) : State :=
  { base with monitors := [{ core := 0, place := 0, sect := 0x8000, gid := 7, pc := 0, memb := 0, kind := kind }] }
/-- A pending task whose counter at 0x80000 is to reach 0. -/
def pent : DequeEnt := { ent 0 7 true with task := { (ent 0 7 true).task with caddr := 0x80000 } }
/-- Two gangs that wait for each other: gang 1 for the end of its child 2, and 2 for the barrier of the team that 1 has not reached. -/
def g2 : Gang :=
  { gJ 2 [7] with gid := 2, parent := some 1, ped := { gg.ped with levels := [(9, 0)], root := false } }
def loopS : State := { base with gangs := [gJ 3 [0], g2], teams := [team1] }

theorem witness_WaitsAndWalk :
    ((wS 8 [0, 0x80000, 0, 1, 0]).gang? 1 = some (gJ 8 [0, 0x80000, 0, 1, 0]) ∧
      (∃ b, (gJ 8 [0, 0x80000, 0, 1, 0]).batches = [b] ∧ b.st = .waiting 8 ∧ waiterAt (gJ 8 [0, 0x80000, 0, 1, 0]) b) ∧
      ¬hasEntry (wS 8 []) 1 0x10000 0xFF ∧ ¬hasEntry (wS 8 []) 1 0x10000 0 ∧ hasEntry (monS 2) 7 0x10000 0 ∧ (0x80000 : DWord).toNat % 8 = 0) ∧
    okThen ((wS 8 []).checkVa (agentOf (wS 8 []) cu gg) 0x80000 false (fun t => isHbm t.pa || (0 : DWord).toNat == 3)) (fun x t =>
      !x.lattice && (t.locRd 0 (if t.spread gg then 1 else 0) x 8).1 == (0, none)) = true ∧
    ((dS [pent]).gang? 7 = none ∧ pent.task.pend = true ∧ pent.task.key = 7 ∧ pent.task.caddr.toNat % 8 = 0 ∧
      okThen ((dS [pent]).checkVa ((dS [pent]).ownAgent 1 0) 0x80000 false (fun t => isHbm t.pa || pent.task.cscope == 3)) (fun x t =>
        !x.lattice && (t.locRd 0 (if ((dS [pent]).gang? 1).any (dS [pent]).spread then 1 else 0) x 8).1 == (0, none)) = true ∧
      pent.task.cval.toNat ≤ 0) ∧
    condHolds 0 true 0 0 = true ∧ condHolds 1 true 0 0 = false ∧ noHeld (wS 4 [0x80000, 0, 0]) (gJ 4 [0x80000, 0, 0]) ∧
    (match latRefs cu 62 63 0x30000 false (gJ 9 []) (fibresOf 8 0xFF) (wS 9 []) with | ((_, []), _) => true | _ => false) = true ∧
    (let e := { gg with sched := { gg.sched with since := 0 }, prio := 1 }
     e.exited = false ∧ e.inlined = none ∧ (∃ b ∈ e.batches, b.st = .ready) ∧ e.sched.since + 4096 * (e.sched.raised + 1) ≤ 4096 ∧ e.sched.raised < 1) ∧
    (loopS.cycles = [[.gang 1, .gang 2]] ∧ ([.gang 1, .gang 2] : List WNode).Nodup ∧ loopS.gang? 2 = some g2 ∧
      pedBelow (gJ 3 [0]).ped g2.ped = true ∧ (∃ b ∈ g2.batches, nextIn [.gang 1, .gang 2] (.gang 2) ∈ loopS.signallers g2 b ∧ b.st = .waiting 2)) :=
  ⟨⟨rfl, ⟨_, rfl, rfl, rfl, rfl⟩, by unfold hasEntry; decide, by unfold hasEntry; decide, .inl ⟨_, .head _, by decide, .inl rfl⟩, by decide⟩, by decide +kernel,
   ⟨rfl, rfl, rfl, by decide +kernel, by decide +kernel, by decide +kernel⟩, by decide, by decide, rfl, by decide +kernel, by decide +kernel, by decide +kernel⟩

theorem witness_NopAndYield : Issuing base cu gg := ⟨rfl, rfl⟩

theorem witness_PedigreeHash : ([((1 : Word), (0 : Word))]).length < 2 ^ 64 ∧ base.seedOf gg = base.seedOf gRace ∧ gg.ped.levels = (det gg).ped.levels := by
  decide +kernel

theorem witness_StepInvariant : Safety.MemOk State.reset ∧ CachesOk State.reset ∧ next (step State.reset) (fun t => t.up) = true :=
  ⟨⟨by decide, by decide⟩, ⟨by decide, by decide⟩, by decide +kernel⟩

/-! ## Ill-formed terms: one for each check of WellFormed -/

theorem test_wf_guard : (Instr.iadd 15 0 0 0).wf = false ∧ (Instr.hgrd 15).wf = false := by decide +kernel
theorem test_wf_compare_destinations : (Instr.icmp 0 3 3 0 0).wf = false ∧ (Instr.fcmp 0 3 3 0 0).wf = false ∧ (Instr.icmp 0 7 7 0 0).wf = true := by
  decide +kernel
theorem test_wf_compare_pairs : (Instr.icmp 10 1 2 3 4).wf = false ∧ (Instr.scmp 10 1 2 4 5).wf = false ∧ (Instr.scmp 13 1 2 4 4).wf = false := by
  decide +kernel
theorem test_wf_access_registers :
    (Instr.ld 7 3 0 0 5).wf = false ∧ (Instr.st 7 2 0 0 6).wf = false ∧ (Instr.ldv 7 0 0 7).wf = false ∧ (Instr.lds 0 0 6 0).wf = false ∧
      (Instr.sts 2 0 7 0).wf = false := by decide +kernel
theorem test_wf_conversions :
    (Instr.cvt 7 0 0 7 6).wf = false ∧ (Instr.cvt 7 0 0 0 0).wf = false ∧ (Instr.cvt 7 0 1 0x09 0).wf = false ∧ (Instr.cvt 7 0 2 0x1E 0).wf = false := by
  decide +kernel
theorem test_wf_brm : (Instr.brm 1 1 15 0 0).wf = false ∧ (Instr.brm 1 1 2 3 0).wf = false := by decide +kernel
theorem test_wf_csr :
    (Instr.csrr 0 0x00B).wf = false ∧ (Instr.csrr 9 0x002).wf = false ∧ (Instr.csrw 4 0x010).wf = false ∧ (Instr.csrw 9 0x002).wf = false := by
  decide +kernel
theorem test_wf_scopes : (Instr.atomIadd 0 0 0 4).wf = false ∧ (Instr.redFadd 0 0 0 4).wf = false ∧ (Instr.fenceRel 5).wf = false := by decide +kernel
theorem test_wf_ordered : (Instr.atomOrd 15 0 0 0).wf = false ∧ (Instr.redOrd 9 1 0 0).wf = false ∧ (Instr.atomOrd 11 2 0 0).wf = false := by decide +kernel
theorem test_wf_waita :
    (Instr.waita 12 0 0 4 0).wf = false ∧ (Instr.waita 0 0 0 3 0).wf = false ∧ (Instr.waita 0 0 0 4 4).wf = false ∧ (Instr.waita 0 0 1 5 0).wf = false := by
  decide +kernel
theorem test_wf_blocks :
    (Instr.tld 251 0 0).wf = false ∧ (Instr.stream 248 0 0 1).wf = false ∧ (Instr.rview 253 1).wf = false ∧ (Instr.pedrd 223).wf = false ∧
      (Instr.launch 127).wf = false := by decide +kernel
theorem test_wf_tatom_and_spawna : (Instr.tatom 0 0 0 12).wf = false ∧ (Instr.spawna 10 0).wf = false := by decide +kernel
theorem test_wf_hmod : (Instr.hmod 0 0 0 1 0 0 0 0).wf = false ∧ (Instr.hmod 0 0 1 5 0 0 0 0).wf = false ∧ (Instr.hmod 0 0 0 0 0 0 1 6).wf = false := by
  decide +kernel

/-! ## Words that the manual writes out with their encodings -/

/-- Each word decodes to its instruction, which is well formed. -/
abbrev wordsAre (l : List (Nat × Instr)) : Prop := ∀ p ∈ l, decodeWord p.1 = some p.2 ∧ WellFormed p.2

theorem test_decode_control :
    wordsAre [(0x04400000, .exit), (0x04C00007, .waitb 7), (0x05401234, .trap 0x1234), (0x05800001, .tret 1), (0x8DFFFFFB, .bra 7 0x3FFFFB),
      (0x8EC00003, .bra 11 3), (0x90800008, .bru 2 8), (0x951A0000, .brm 1 1 10 0 0), (0x99C00040, .call 7 64), (0x9DC00001, .ret 7),
      (0xA1D10000, .winadd 7 2)] := by decide +kernel
theorem test_decode_integer :
    wordsAre [(0x09C31050, .iadd 7 3 4 5), (0x0A871C9A, .shr 10 7 7 9), (0x0D4D24DF, .sel 5 13 9 13), (0x11C51AA0, .iaddi 7 5 6 0x2A0),
      (0x288A0C40, .icmp 2 1 2 3 4), (0x2CA2CC34, .imad 10 11 12 13), (0x55C20CA0, .iaddS 7 2 3 40), (0x580A6800, .pand 1 2 3 0 1)] := by
  decide +kernel
theorem test_decode_float :
    wordsAre [(0x35C10830, .fadd 7 1 2 3), (0x35C61C83, .fdiv 7 6 7 8), (0x3C824A2C, .ffma 8 9 10 11), (0x3C108311, .ffms 1 2 3 4),
      (0x4000420E, .hfma2F32 0 1 2 3), (0x46931050, .fcmp 10 2 3 4 5), (0x49CA2C05, .fsin 7 10 11), (0x49C2080D, .fldexp 7 2 2 0),
      (0x4DC90874, .cvt 7 9 2 7 4), (0x4DC20530, .cvt 7 2 1 0x13 0), (0x51C51885, .fmulS 7 5 6 33)] := by decide +kernel
theorem test_decode_cross_and_scalar :
    wordsAre [(0x5DC20C11, .shflx 7 2 3 1), (0x5C882407, .rdxFadd 2 8 9), (0x5DCD300B, .scanIaddx 7 13 12), (0x60020403, .voteBal 0 2 1),
      (0x61C21800, .voteAny 7 2 6), (0x64040500, .sadd 4 5 0), (0x66040400, .smul 4 4 0), (0x798F0600, .scmp 6 1 7 6 0), (0x80501678, .smovi 20 0x1678),
      (0x845048D1, .smovh 20 0x48D1), (0x89420080, .mpopc 2 4), (0x8AC94000, .qor 1 1 2)] := by decide +kernel
theorem test_decode_memory :
    wordsAre [(0xA5C1002C, .ld 7 1 0 5 4), (0xAC43102C, .st 1 3 4 5 4), (0xB4280500, .lds 10 0 5 0), (0xB8302C00, .sts 12 5 4 0), (0xBC061C32, .atomIadd 6 7 6 2),
      (0xC4900000, .fenceAr 2), (0xC5000000, .fencePkg), (0xCA4507A2, .waita 9 10 30 4 2), (0xCC040829, .ljoin 4 2 5 1), (0xCC870828, .lld 7 2 5),
      (0xCCCA0C31, .lwait 10 3 6 1), (0xCD000000, .lsync)] := by decide +kernel
theorem test_decode_tiles :
    wordsAre [(0xD0018000, .talloc 6), (0xD0420000, .tfree 8), (0xD0C20000, .twait 8), (0xD1050780, .tld 20 15 0), (0xD2020000, .tfill 8 0 0),
      (0xD24507A0, .tstc 20 15 1), (0xD4146280, .trd 5 6 40 0), (0xD40C2081, .trd 3 2 8 1), (0xD5204141, .twr 8 4 20 1), (0xD7083289, .tatom 2 3 40 9),
      (0xD88207A0, .ofill 8 15 1), (0xD9020780, .ofillG 8 15 0), (0xDC0A0000, .mma 40 0 0), (0xDCCA0780, .spmm 40 15 0)] := by decide +kernel
theorem test_decode_engines :
    wordsAre [(0xE0050780, .pgen 20 15 0 0), (0xE0050782, .pgen 20 15 0 1), (0xE0420003, .pmerge 8 0 0 1 1), (0xE0460002, .pmerge 24 0 0 1 0),
      (0xE0830000, .pload 12), (0xE0C30000, .pfree 12), (0xE44507A1, .hcopy 10 15 1 1), (0xE48A07A0, .snap 20 15 1), (0xE4C60000, .cwait 24),
      (0xE50A0000, .evpop 10 0)] := by decide +kernel
theorem test_decode_tasks :
    wordsAre [(0xE8050000, .spawn 10), (0xE8450000, .spawnn 10), (0xE8850780, .spawna 10 15), (0xE8C00000, .sync), (0xE9060000, .launch 12),
      (0xE9400001, .barf 1), (0xE9850000, .pedrd 20), (0xE9C30000, .pedcmp 6), (0xEA050000, .palloc 10), (0xEA450001, .rview 20 1), (0xEA830000, .oskip 12),
      (0xEAC14000, .prio 5), (0xEDC31052, .rupd 7 3 4 5), (0xEDC40000, .prand 7 4), (0xEDC50001, .prandf 7 5)] := by decide +kernel
theorem test_decode_system :
    wordsAre [(0xF0030021, .csrr 12 0x021), (0xF0020002, .csrr 8 0x002), (0xF0414001, .csrw 5 0x001), (0xF0850000, .clock 10), (0xF0C24000, .locq 9),
      (0xF1020003, .perfrd 8 3), (0xF1450000, .tlbinv 10), (0xF1850000, .ctxsv 10), (0xF1C50000, .ctxld 10)] := by decide +kernel
theorem test_decode_hints :
    wordsAre [(0xFC000061, .himm 0x61), (0xFC400009, .hmod 0 0 0 0 0 0 1 1), (0xFC401000, .hmod 0 1 0 0 0 0 0 0), (0xFC402000, .hmod 1 0 0 0 0 0 0 0),
      (0xFC80000B, .hgrd 11), (0xFCFFFFE0, .htgt 0x3FFFE0), (0xFD000000, .hseq 0)] := by decide +kernel
theorem test_decode_reserved : [0, 0xF4000000, 0xF8000000, 0xF0C24001, 0xC5000001].all (fun w => decodeWord w == none) = true := by decide +kernel

/-! ## Values that the manual works out -/

theorem test_integer_values :
    mulhS 0xFFFFFFFE 3 = 0xFFFFFFFF ∧ mulhN 0xFFFFFFFE 3 = 2 ∧ iabs32 0x80000000 = (0x7FFFFFFF, fSAT) ∧ bfx false 0xF0A0 0x40C = 0xF ∧
      bfx true 0xF0A0 0x40C = 0xFFFFFFFF ∧ bfx true 0xF0A0 0x804 = 0xA ∧ prmt32 0xF140 0x44332211 0x88776655 = 0xFF225511 ∧
      isad32 0x0A00FF10 0x0B050020 = 0x115 ∧ bfi32 0xFFFFFFFF 5 0x408 = 0xFFFFF5FF ∧ dp4S8 0x80FF0102 0x02030405 0xA = 0xFFFFFF15 ∧
      dp4N8 0x80FF0102 0x02030405 0xA = 0x415 := by decide +kernel
theorem test_float_values :
    fadd32 0x3F800000 0x33800000 = (0x3F800000, 0) ∧ (f32.fadd .ru 0 0x3F800000 0x33800000).1 = 0x3F800001 ∧ fdiv32 0x3F800000 0x40400000 = 0x3EAAAAAB ∧
      f32.fdiv .rz 0 0x3F800000 0x40400000 = (0x3EAAAAAA, 0) ∧ f32.fdiv .rn 0 0x3F800000 0x80000000 = (0xFF800000, fDZ) ∧ fmin32 0x80000000 0 = 0x80000000 ∧
      fmax32 0x7FC00001 0x40000000 = 0x40000000 ∧ f16.fadd .rn 0 0x7BFF 0x3C00 = (0x7BFF, 0) ∧ (f16.fadd .ru 0 0x7BFF 0x3C00).1 = 0x7C00 ∧
      fma32 0x3F800800 0x3F800800 0xBF801000 = 0x33800000 := by decide +kernel
theorem test_float_compares :
    [2, 10, 1, 9].map (fun k => cmpFloat k 0x7FC00000 0x3F800000) = [false, true, false, true] ∧
      [0, 14, 15].map (fun k => cmpFloat k 0x80000000 0) = [true, true, false] := by decide +kernel
theorem test_float_functions :
    fsin32 0x3F000000 = (0x3F800000, 0) ∧ fcos32 0x3F000000 = (0, 0) ∧ fsin32 0x3F800000 = (0, 0) ∧ fex232 0x40400000 = (0x41000000, 0) ∧
      flg232 0x41000000 = (0x40400000, 0) ∧ frsq32 0x80000000 = (0xFF800000, fDZ) ∧ ftanh32 0x7F800000 = (0x3F800000, 0) := by decide +kernel
theorem test_conversions :
    cvtElems (cvtSpec 5) .rn (fun _ => 0) 0x47C35000 1 = (0x7BFF, fSAT) ∧ cvtElems (cvtSpec 7) .rn (fun _ => 0) 0x7F800000 1 = (0x7E, fSAT) ∧
      cvtElems (cvtSpec 6) .ru (fun _ => 0) 0x3F808000 1 = (0x3F81, 0) ∧ cvtElems (cvtSpec 0x18) .rz (fun _ => 0) 0xC0600000 1 = (0xFFFFFFFD, 0) ∧
      cvtElems (cvtSpec 0x11) .rn (fun _ => 0) 0x7FC00000 1 = (0, fINV) ∧ cvtElems (cvtSpec 0x1E) .rn (fun _ => 0) 0x0302FF00 16 = (0x5C, fSAT) := by
  decide +kernel
theorem test_rdx_tree : (treeFold fadd32 6 [0x4B800000, 0x3F800000, 0x3F800000, 0x3F800000, 0x3F800000, 0x3F800000, 0x3F800000, 0x3F800000]).1 = 0x4B800003 := by
  decide +kernel
theorem test_reducers_by_total_order :
    (combElem 6 (.w 0xFFC00000) (.w 0xFF800000)).1 = .w 0xFFC00000 ∧ (combElem 7 (.w 0x7F800000) (.w 0x7FC00000)).1 = .w 0x7FC00000 := by decide +kernel
theorem test_dot_sum_opposed_infinities : dotSum false (.nan false) (.inf false) (.inf true) = .nan true := by decide +kernel
theorem test_lattice_joins :
    cellJoin 16 7 9 = 9 ∧ cellJoin 16 7 5 = 7 ∧ cellJoin 26 0xF0 0x30 = 0x30 ∧ cellJoin 26 0xF0 0x0F = 0 ∧ cellJoin 25 0x300000064 0x300000032 = 0x300000064 ∧
      cellJoin 25 0x300000064 0x400000000 = 0x400000000 ∧ cellJoin 22 0x3F800000 0x80000000 = 0x80000000 := by decide +kernel

/-! ## The assembler, on the manual's worked listing, and what it refuses -/

theorem test_asm_listing : (Asm.assemble 0x80000000 0x90000000
    [".device h40", ".entry addk", ".width 32", ".vregs 8", ".args 8", "  LDS.B64 S10:S11, [S0:S1 + 0]  // argument block pair", "  FIDX V0",
     "  SHL V0, V0, 2 // byte offset, via HIMM", "  LD V1, [S10:S11 + V0]", "  IADDI V1, V1, 100000", "  ST [S10:S11 + V0], V1", "  EXIT", ".done"]).map
      (fun r => (r.text.length, (List.range 9).map r.word)) =
    some (36, [0xB4280500, 0x61C00006, 0xFC000002, 0x09C00009, 0xA5C1002C, 0xFC000061, 0x11C106A0, 0xADC1002C, 0x04400000]) := by decide +kernel
theorem test_asm_arena : (Asm.assemble 0x80000000 0x90000000
    [".device h40", ".entry tree8", ".width 8", ".vregs 8", ".arena nodes, 0x6_0000_0000, 64, 2, 3:4", "TOP: SMOVI S20, NODE - TOP", "EXIT", ".done", ".task node",
     "NODE: EXIT", ".done"]).map (fun r => (r.word 0 % 2 ^ 18, r.blocks.flatMap (·.arenas), r.syms.find "node_DESC".toList)) =
    some (8, [0x6_0000_0000 + 0x226 * 2 ^ 64 + 0x83 * 2 ^ 128], some 0) := by decide +kernel
theorem test_asm_refuses : ["WINADD 12", "ICMP.EQ P1, P1, V2, V3", "BRA NOWHERE", "SHL V0, S1, V2", "LD.B64 V3:V4, [S10:S11 + V0]"].all
    (fun l => Asm.assemble 0x80000000 0x90000000 [l] == none) = true := by decide +kernel

end Sys2Proof.Tests
end

section
/-! The pedigree hash (R50, R51), level by level. -/
namespace Sys2Proof.Machine

/-- ph after its first n levels (R51): the start value holds the whole depth, so it is not ph of the first n levels. -/
def phUpTo (ls : List (Word × Word)) (n : Nat) : DWord :=
  (ls.take n).foldl (fun h l => pmix h (l.1.setWidth 64) (l.2.setWidth 64)) (pmix (BitVec.ofNat 64 ls.length) 0 0)

@[simp] theorem phUpTo_zero (ls : List (Word × Word)) : phUpTo ls 0 = pmix (BitVec.ofNat 64 ls.length) 0 0 := by
  rw [phUpTo, List.take_zero, List.foldl_nil]

/-- The loop of R51 has run through every level at the depth. -/
theorem phLevels_eq_phUpTo_length (ls : List (Word × Word)) : phLevels ls = phUpTo ls ls.length := by
  rw [phUpTo, List.take_length, phLevels]

/-- One turn of the loop of R51. -/
theorem phUpTo_succ {ls : List (Word × Word)} {l : Nat} {e : Word × Word} (h : ls[l]? = some e) :
    phUpTo ls (l + 1) = pmix (phUpTo ls l) (e.1.setWidth 64) (e.2.setWidth 64) := by
  have htake : ls.take (l + 1) = ls.take l ++ [e] := by rw [List.take_add_one, h, Option.toList_some]
  rw [phUpTo, htake, List.foldl_append, List.foldl_cons, List.foldl_nil, ← phUpTo]

/-- A draw reads of its gang only the seed and the levels (R51, R53): neither the launch id nor a flag of PED. -/
theorem drawOf_congr {s t : State} {g k : Gang} (hseed : s.seedOf g = t.seedOf k) (hlevels : g.ped.levels = k.ped.levels)
    (i : Nat) (f : Fibre) : drawOf s g i f = drawOf t k i f := by
  rw [drawOf, drawOf, hseed, hlevels]

end Sys2Proof.Machine

namespace Sys2Proof.Claims
open Sys2Proof.Machine

/-- Settles O57: the running value of ph is its fold over the first levels, and a draw depends on seed and levels alone. -/
theorem pedigreeHash : Obligations.PedigreeHash := by
  unfold Obligations.PedigreeHash
  refine ⟨?rounds, ?empty, ?levels, ?draws⟩
  -- The rounds of pmix are `pmixRound`, with R50's operations and constants in R50's order.
  case rounds => intro k a b; rfl
  case empty => rw [phLevels_eq_phUpTo_length, List.length_nil, phUpTo_zero, List.length_nil, BitVec.ofNat_eq_ofNat]
  case levels =>
    intro ls _
    exact ⟨phUpTo ls, phUpTo_zero ls, phLevels_eq_phUpTo_length ls, fun _ _ h => phUpTo_succ h⟩
  case draws =>
    intro s t g k i f hseed hlevels
    exact drawOf_congr hseed hlevels i f

end Sys2Proof.Claims
end

section
/-! Cross-fibre words that execute: the shuffles, XSHF, RBAL and FIDX over their member set (R166, R169, R172, R175, R176). -/
namespace Sys2Proof.Claims
open Sys2Proof.Machine

/-! ## The member set -/

theorem members_eq_kSet (c : Cur) (g : Gang) (k : BitVec 3) : members c g k = kSet c g k := by
  have hseven : (k = 7) = (k.toNat = 7) := propext BitVec.toNat_inj.symm
  simp only [members, kSet, hseven]

theorem mem_kFibres {c : Cur} {g : Gang} {k : BitVec 3} {j : Nat} :
    j ∈ kFibres c g k ↔ j < g.width ∧ bit (kSet c g k) j = true := by
  rw [kFibres, fibresOf, List.mem_filter, List.mem_range]

/-- The fibres that supply a source once every fibre of K passes its own check: all of K. -/
def suppliers (c : Cur) (g : Gang) (k : BitVec 3) (j : Nat) : Bool := decide (j ∈ kFibres c g k)

/-- Once every fibre of K passes its own check, the available fibres of R166 are all of K. -/
theorem avail_eq_suppliers {c : Cur} {g : Gang} {k : BitVec 3} {chk : Fibre → FRes Unit}
    (hchk : ∀ i ∈ kFibres c g k, chk (g.fibre i) = .ok ()) :
    (fun j => bit (kSet c g k) j && decide (j < g.width) && (chk (g.fibre j)).isOk) = suppliers c g k := by
  funext j
  rw [Bool.eq_iff_iff]
  simp only [suppliers, mem_kFibres, Bool.and_eq_true, decide_eq_true_eq]
  constructor
  · rintro ⟨⟨hbit, hlt⟩, -⟩
    exact ⟨hlt, hbit⟩
  · rintro ⟨hlt, hbit⟩
    rw [hchk j (mem_kFibres.2 ⟨hlt, hbit⟩)]
    exact ⟨⟨hbit, hlt⟩, rfl⟩

/-- A cross-fibre word whose member set stands in its batch, and whose fibres all pass, completes over K. -/
theorem xf_eachV {s : State} {c : Cur} {g : Gang} {k : BitVec 3} {chk : Fibre → FRes Unit}
    {body : Cur → (Nat → Bool) → Mask → Body} (upd : Nat → Fibre → Fibre) (h : Issuing s c g) (hK : kHere c g k = true)
    (hchk : ∀ i ∈ kFibres c g k, chk (g.fibre i) = .ok ())
    (hbody : ∀ i ∈ kFibres c g k,
      body c (suppliers c g k) (kSet c g k) g i (g.fibre i) = .ok (upd i (g.fibre i), 0)) :
    xf s k chk body = .next (completes s c (eachV g (kFibres c g k) upd)) := by
  obtain ⟨hcur, hgang⟩ := h
  have hin : ¬ (kSet c g k &&& ~~~c.memb != 0) = true := by
    rw [kHere] at hK; simpa using hK
  rw [xf, withCur_eq _ hcur hgang]
  simp only [members_eq_kSet, if_neg hin, avail_eq_suppliers hchk]
  apply vecOver_eachV upd (fibresOf_nodup _ _)
  intro i hi
  rw [hchk i hi]
  exact hbody i hi

/-- The word a fibre of K supplies, or the default of a fibre outside it. -/
theorem srcOf_suppliers (c : Cur) (g : Gang) (k : BitVec 3) (a : Nat) (dflt : Word) (j : Nat) :
    srcOf g (suppliers c g k) a dflt j = lane c g k a dflt j := by
  simp [srcOf, suppliers, lane]

/-- A number that is no fibre's names no fibre of K (R169). -/
theorem srcOf_inRange_eq_lane (c : Cur) (g : Gang) (k : BitVec 3) (a : Nat) (j : Int) :
    (if 0 ≤ j ∧ j < g.width then srcOf g (suppliers c g k) a 0 j.toNat else 0) = lane c g k a 0 j := by
  by_cases hj : 0 ≤ j ∧ j < g.width
  · rw [if_pos hj, srcOf_suppliers, Int.toNat_of_nonneg hj.1]
  · have hout : ¬ (0 ≤ j ∧ j.toNat ∈ kFibres c g k) := fun ⟨hpos, hmem⟩ => by
      have hlt := (mem_kFibres.1 hmem).1
      omega
    rw [if_neg hj, lane, if_neg hout]

/-! ## The shuffles, XSHF, RBAL and FIDX -/

/-- The word that picks a fibre's source: V[b], or 0 where the instruction has no B. -/
def pick (b : Option (BitVec 6)) (f : Fibre) : Word := b.elim 0 fun b => f.v b.toNat

/-- A shuffle whose operands can be read gives each fibre of K the word of the fibre it names (R169). -/
theorem shuffle_eachV {s : State} {c : Cur} {g : Gang} {k : BitVec 3} {d a : BitVec 6} (b : Option (BitVec 6))
    (from_ : Nat → Word → Int) (h : Issuing s c g) (hK : kHere c g k = true)
    (hda : ((kFibres c g k).all fun i => writable (g.fibre i) d.toNat 1 && readable (g.fibre i) a.toNat 1) = true)
    (hb : ∀ b' ∈ b, ((kFibres c g k).all fun i => readable (g.fibre i) b'.toNat 1) = true) :
    shuffle s k d a b from_ = .next (completes s c (eachV g (kFibres c g k) fun i f =>
      f.setV d.toNat (lane c g k a.toNat 0 (from_ i (pick b f))))) := by
  simp only [List.all_eq_true, Bool.and_eq_true] at hda hb
  unfold shuffle
  apply xf_eachV _ h hK
  · intro i hi
    obtain ⟨hd, ha⟩ := hda i hi
    rw [chkD_writable hd, chk_readable ha]
    cases b with
    | none => rfl
    | some b => exact chk_readable (hb b rfl i hi)
  · intro i _
    simp only [srcOf_inRange_eq_lane]
    cases b <;> rfl

/-- XSHF: a fibre that names no fibre of K has no source, and its own check does not fail. -/
theorem xshfSrc_outside {c : Cur} {g : Gang} {k : BitVec 3} {a b : Nat} {f : Fibre}
    (hreg : a + (f.v b).toNat / 256 % 64 ≤ 63) (hj : (f.v b).toNat % 64 ∉ kFibres c g k) :
    xshfSrc g (suppliers c g k) a b f = .ok none := by
  simp [xshfSrc, suppliers, hj, Nat.not_lt.2 hreg]

/-- XSHF: a fibre that names a fibre of K reads register A + r there. -/
theorem xshfSrc_inside {c : Cur} {g : Gang} {k : BitVec 3} {a b : Nat} {f : Fibre}
    (hreg : a + (f.v b).toNat / 256 % 64 ≤ 63) (hj : (f.v b).toNat % 64 ∈ kFibres c g k)
    (hread : readable (g.fibre ((f.v b).toNat % 64)) (a + (f.v b).toNat / 256 % 64) 1 = true) :
    xshfSrc g (suppliers c g k) a b f = .ok (some ((f.v b).toNat % 64, a + (f.v b).toNat / 256 % 64)) := by
  simp only [xshfSrc, suppliers, hj, (mem_kFibres.1 hj).1, Nat.not_lt.2 hreg, chk_readable hread, decide_true,
    Bool.and_self, if_true, if_false]
  rfl

/-- XSHF over fibres that can all read what they name (R172). -/
theorem execXshf_eachV {s : State} {c : Cur} {g : Gang} {k : BitVec 3} {d a b : BitVec 6} (h : Issuing s c g)
    (hK : kHere c g k = true)
    (hdb : ((kFibres c g k).all fun i => writable (g.fibre i) d.toNat 1 && readable (g.fibre i) b.toNat 1) = true)
    (hsrc : ∀ i ∈ kFibres c g k, a.toNat + ((g.fibre i).v b.toNat).toNat / 256 % 64 ≤ 63 ∧
      (((g.fibre i).v b.toNat).toNat % 64 ∈ kFibres c g k →
        readable (g.fibre (((g.fibre i).v b.toNat).toNat % 64)) (a.toNat + ((g.fibre i).v b.toNat).toNat / 256 % 64) 1 = true)) :
    execXshf k d a b s = .next (completes s c (eachV g (kFibres c g k) fun _ f =>
      f.setV d.toNat (lane c g k (a.toNat + (f.v b.toNat).toNat / 256 % 64) 0 ((f.v b.toNat).toNat % 64 : Nat)))) := by
  simp only [List.all_eq_true, Bool.and_eq_true] at hdb
  -- No fibre of K fails its own check of A + r, so a named fibre is available.
  have hsome : ∀ i ∈ kFibres c g k, (xshfSrc g (suppliers c g k) a.toNat b.toNat (g.fibre i)).isOk = true := by
    intro i hi
    obtain ⟨hreg, hread⟩ := hsrc i hi
    by_cases hj : ((g.fibre i).v b.toNat).toNat % 64 ∈ kFibres c g k
    · rw [xshfSrc_inside hreg hj (hread hj)]; rfl
    · rw [xshfSrc_outside hreg hj]; rfl
  unfold execXshf
  apply xf_eachV _ h hK
  · intro i hi
    obtain ⟨hd, hb⟩ := hdb i hi
    rw [chkD_writable hd, chk_readable hb]; rfl
  · intro i hi
    obtain ⟨hreg, hread⟩ := hsrc i hi
    rw [← srcOf_suppliers, srcOf, suppliers]
    by_cases hj : ((g.fibre i).v b.toNat).toNat % 64 ∈ kFibres c g k
    · rw [xshfSrc_inside hreg hj (hread hj), if_pos (decide_eq_true hj)]
      show Except.ok _ = _
      rw [if_pos (hsome _ hj)]
    · rw [xshfSrc_outside hreg hj, if_neg (by simpa using hj)]; rfl

/-- RBAL over fibres that can read their counts and their work items (R175). -/
theorem execRbal_eachV {s : State} {c : Cur} {g : Gang} {k : BitVec 3} {d : BitVec 5} {a b : BitVec 6}
    (h : Issuing s c g) (hK : kHere c g k = true)
    (hdab : ((kFibres c g k).all fun i => writable (g.fibre i) (2 * d.toNat) 2 && readable (g.fibre i) a.toNat 1 &&
      readable (g.fibre i) b.toNat 1) = true) :
    execRbal k d a b s = .next (completes s c (eachV g (kFibres c g k) fun _ f =>
      let r := rbalOf (f.v b.toNat).toNat 0 ((List.range g.width).map fun (j : Nat) => (lane c g k a.toNat 0 (j : Int)).toNat)
      f.setV2 (2 * d.toNat) (pairOf r.1 r.2))) := by
  simp only [List.all_eq_true, Bool.and_eq_true] at hdab
  unfold execRbal
  apply xf_eachV _ h hK
  · intro i hi
    obtain ⟨⟨hd, ha⟩, hb⟩ := hdab i hi
    rw [pairNo, chkD_writable hd, chk_readable ha, chk_readable hb]; rfl
  · intro i _
    simp only [srcOf_suppliers, pairNo]

/-- FIDX gives every fibre of the batch its own number (R176). -/
theorem execFidx_eachV {s : State} {c : Cur} {g : Gang} {d : BitVec 6} (h : Issuing s c g)
    (hd : ((fibresOf g.width c.memb).all fun i => writable (g.fibre i) d.toNat 1) = true) :
    execFidx d s = .next (completes s c (eachV g (fibresOf g.width c.memb) fun i f =>
      f.setV d.toNat (BitVec.ofNat 32 i))) := by
  rw [List.all_eq_true] at hd
  obtain ⟨hcur, hgang⟩ := h
  rw [execFidx, vecAll, withCur_eq _ hcur hgang]
  apply vecOver_eachV _ (fibresOf_nodup _ _)
  intro i hi
  rw [chkD_writable (hd i hi)]; rfl

theorem shuffleWords : ShuffleWords := by
  intro s c g k d a b n dw h
  refine ⟨fun hK hda => ⟨?_, fun hb => ⟨?_, ?_, ?_⟩⟩, ?_, ?_, ?_⟩
  · rw [exec_shflx, execShflx]
    exact shuffle_eachV none _ h hK hda (by simp)
  · rw [exec_shfl, execShfl]
    exact shuffle_eachV (some b) _ h hK hda (by simpa using hb)
  · rw [exec_shflu, execShflu]
    exact shuffle_eachV (some b) _ h hK hda (by simpa using hb)
  · rw [exec_shfld, execShfld]
    exact shuffle_eachV (some b) _ h hK hda (by simpa using hb)
  · rw [exec_xshf]
    exact execXshf_eachV h
  · rw [exec_rbal]
    exact execRbal_eachV h
  · rw [exec_fidx]
    exact execFidx_eachV h

end Sys2Proof.Claims
end

section
/-! Which words of XF1 FN 6 are FIDX (R176), and what the others do to their batch (R76). -/
namespace Sys2Proof.Claims
open Sys2Proof.Machine

/-! ## The fields of the words -/

/-- The word of XF1 FN 6 with member field m and operands D, A and B. -/
def xf1Fn6 (m d a b : Nat) : Nat := 0x18 * 2 ^ 26 + m * 2 ^ 22 + d * 2 ^ 16 + a * 2 ^ 10 + b * 2 ^ 4 + 6

section
variable {m d a b : Nat} (hm : m < 16) (hd : d < 64) (ha : a < 64) (hb : b < 64)
include hm hd ha hb

theorem xf1Fn6_lt : xf1Fn6 m d a b < 2 ^ 32 := by unfold xf1Fn6; omega

theorem xf1Fn6_major : fld (xf1Fn6 m d a b) 26 6 = 0x18 := by unfold fld xf1Fn6; omega

theorem xf1Fn6_member : fld (xf1Fn6 m d a b) 22 4 = m := by unfold fld xf1Fn6; omega

end

theorem xf1Fn6_low (m d : Nat) {a b : Nat} (ha : a < 64) (hb : b < 64) :
    fld (xf1Fn6 m d a b) 0 16 = a * 2 ^ 10 + b * 2 ^ 4 + 6 := by
  unfold fld xf1Fn6; omega

/-- Only the row of FIDX takes FN 6: the votes and BCAST hold 0 to 4 in their low ten bits, RBAL 5 in its low four. -/
theorem shape18_fn6 {n : Nat} (hfn : fld n 0 16 % 16 = 6) (hfidx : ¬(fld n 22 4 = 7 ∧ fld n 0 16 = 6)) :
    shape18 n = none := by
  have hten : fld n 0 10 % 16 = 6 := by unfold fld at hfn ⊢; omega
  have hfour : fld n 0 4 = 6 := by unfold fld at hfn ⊢; omega
  have hne : ∀ x < 5, fld n 0 10 ≠ x := by omega
  simp [shape18, hfidx, hfour, hne]

theorem decodeWord_xf1Fn6_fidx {d : Nat} (hd : d < 64) :
    decodeWord (xf1Fn6 7 d 0 0) = some (.fidx (BitVec.ofNat 6 d)) := by
  have henc : encode (.fidx (BitVec.ofNat 6 d)) = some (xf1Fn6 7 d 0 0) := by
    rw [encode, BitVec.toNat_ofNat, Nat.mod_eq_of_lt hd, xf1Fn6, Option.some_inj]; omega
  exact (Laws.RoundTrip.fidx _ _ rfl henc).2

theorem decodeWord_xf1Fn6_none {m d a b : Nat} (hm : m < 16) (hd : d < 64) (ha : a < 64) (hb : b < 64)
    (hbad : ¬(m = 7 ∧ a = 0 ∧ b = 0)) : decodeWord (xf1Fn6 m d a b) = none := by
  have hlow := xf1Fn6_low m d ha hb
  have hshape : shape18 (xf1Fn6 m d a b) = none := by
    apply shape18_fn6
    · rw [hlow]; omega
    · rw [xf1Fn6_member hm hd ha hb, hlow]; omega
  rw [decodeWord, Laws.shape_18 (xf1Fn6_major hm hd ha hb), hshape, Option.filter_none]

/-! ## Units of one word -/

theorem major_eq_fld (w : Word) : major w = fld w.toNat 26 6 := rfl

theorem unitBad_of_decode_none {u : UnitWords} (hhints : u.hints = []) (hmain : decodeWord u.main.toNat = none) :
    unitBad u = some u.main := by
  simp [unitBad, hhints, badHint, hmain]

/-- A unit of one word of major 0x18 that decodes breaks no rule. -/
theorem unitBad_of_major_18 {u : UnitWords} {i : Instr} (hhints : u.hints = []) (htgts : u.tgts = [])
    (hmajor : major u.main = 0x18) (hmain : decodeWord u.main.toNat = some i) : unitBad u = none := by
  simp [unitBad, hhints, htgts, badHint, hmain, isTgt, mainFits, hintOf, hmajor]

/-- A word of major 0x18 is no supervisor instruction: illegal, it takes ILLEGAL over its batch, not PROT (R76). -/
theorem exec_illegalWord_of_major_18 {s : State} {c : Cur} {g : Gang} {w : Word} (h : Issuing s c g)
    (hmajor : major w = 0x18) :
    exec (.illegalWord w) s = .next ((s.takeTrap c.gid c.base
      { cause := 0x01, tepc := loWord (c.base - s.textOf g), tmask := c.memb, taddr := 0, tinfo := w, bmask := c.memb,
        good := [], skip := c.next, held := none }).settle c.gid) := by
  obtain ⟨hcur, hgang⟩ := h
  have hsup : supWord w = false := by simp [supWord, hmajor]
  rw [exec_illegalWord, execIllegalWord, withCur_eq _ hcur hgang, hsup, Bool.false_and, if_neg (by decide),
    trapIllegal, trapBatch, mkTrap, BitVec.ofNat_toNat, BitVec.setWidth_eq]
  rfl

theorem fibreIndexWords : FibreIndexWords := by
  intro m d a b hm hd ha hb n u
  have hn : u.main.toNat = n := by
    rw [BitVec.toNat_ofNat]; exact Nat.mod_eq_of_lt (xf1Fn6_lt hm hd ha hb)
  have hmajor : major u.main = 0x18 := by
    rw [major_eq_fld, hn]; exact xf1Fn6_major hm hd ha hb
  split
  next hfidx =>
    obtain ⟨rfl, rfl, rfl⟩ := hfidx
    have hdecode : decodeWord n = some (.fidx (BitVec.ofNat 6 d)) := decodeWord_xf1Fn6_fidx hd
    exact ⟨hdecode, unitBad_of_major_18 rfl rfl hmajor (hn ▸ hdecode)⟩
  next hbad =>
    have hdecode : decodeWord n = none := decodeWord_xf1Fn6_none hm hd ha hb hbad
    exact ⟨hdecode, unitBad_of_decode_none rfl (hn ▸ hdecode), fun _ _ _ h => exec_illegalWord_of_major_18 h hmajor⟩

/-- Settles O13: a cross-fibre word whose fibres all pass acts on the words of K; only the row of FIDX takes FN 6. -/
theorem shuffles : Obligations.Shuffles := ⟨shuffleWords, fibreIndexWords⟩

end Sys2Proof.Claims
end

section
/-! NOP and YIELD (R160). -/
namespace Sys2Proof.Claims
open Sys2Proof.Machine

/-- Settles O58: neither meaning touches a register; YIELD drops its gang from the record of last issuers. -/
theorem nopAndYield : Obligations.NopAndYield := by
  intro s c g ⟨hcur, hgang⟩
  constructor
  · rw [exec_nop, execNop, withCur_eq _ hcur hgang, done]
  · refine ⟨s.lastIn.filter (·.2.2.2 != c.gid), ?_⟩
    rw [exec_yield, execYield, withCur_eq _ hcur hgang, done]

end Sys2Proof.Claims
end
